-- ==== Sys2Proof/Word.lean ====
section
/-!
DEFINITION. Word.lean: the widths the manual names and the one sparse table type the state is built from.
Rule R8 numbers bits from 0 at the least significant bit, which is what BitVec does; rule R9 makes every
multi-byte value little-endian.
-/
namespace Sys2Proof

/-- One byte. -/
abbrev Byte := BitVec 8

/-- One BAR0 register (R11). -/
abbrev Word := BitVec 32

/-- A Lornorix time stamp: DAY in [63:22], CYCLE in [21:0] (R19). -/
abbrev Lts := BitVec 64

/-- An endpoint ID (R251, R260): tiles 0x000 to 0x0FF, edge endpoints 0x100 to 0x13E (R249). -/
abbrev Eid := BitVec 9

/-- A tile number, 0 to 255 (R736). -/
abbrev TileId := BitVec 8

/-- The 512 bits of a 64-byte structure, byte n at bits [8n+7 : 8n] (R9): a command descriptor (R582), a TME
descriptor (R367). -/
abbrev Desc := BitVec 512

/-- The 256 bits of one 32-byte SRAM or LPDDR5X line, byte n at bits [8n+7 : 8n] (R9). -/
abbrev Line := BitVec 256

/-- A sparse table: key and value, keys strictly rising, no entry equal to the table's default value.
The operations that keep the form are in Machine/Ops.lean. -/
abbrev Table (α : Type) := List (Nat × α)

end Sys2Proof
end

