-- ==== Sys2Proof/Syntax/Operand.lean ====
section
/-!
DEFINITION. Syntax/Operand.lean: the kinds of operand that the rows of spec/opcode_table.json carry. Nothing here
says what a row does.
-/
namespace Sys2Proof

/-- The ports that keep a register snapshot of their own (R17) and, in this order, the command ports of R583. -/
inductive Port where
  | pcie | i3c | jtag | umaed
deriving DecidableEq, Repr

/-- Where a command came from, with what its answer needs (R583, R601). A CMD packet carries its source chip, source
EID and tag. -/
inductive Src where
  | pcie
  | i3c
  | jtag
  | umaed (chip : BitVec 16) (eid : Eid) (tag : BitVec 16)
deriving DecidableEq, Repr

/-- The ports of a router (R249, R261): code 0 LOCAL, 1 N, 2 E, 3 S, 4 W. -/
inductive RPort where
  | loc | n | e | s | w
deriving DecidableEq, Repr

/-- The five slots of a bundle (R186). -/
inductive Slot where
  | ctl | ls | mxu | vxu | fab
deriving DecidableEq, Repr

/-- A tick source (R71, ALM_TICK_SRC): a rising edge at the TICK_IN ball, its registration (R72), the slot timing of a
fronthaul port, a peer mark on an Umaed link. The internal source gives no tick. -/
inductive TickFrom where
  | edge
  | pin
  | fronthaul (port : Fin 2)
  | peer (link : Fin 6)
deriving DecidableEq, Repr

/-- A Stitch packet (R251): the header fields of Table 2 and the 32 payload bytes. `debug` is on no wire: it marks a
JTAG DEBUG access on its own chip (R361, R600), and an answer of a channel that holds no tag (R376). -/
structure Packet where
  dchip : BitVec 16
  type : BitVec 4
  vc : BitVec 2
  mc : Bool
  deid : BitVec 9
  schip : BitVec 16
  seq : BitVec 7
  seid : BitVec 9
  flags : BitVec 5
  len : BitVec 3
  addr : BitVec 24
  aux : BitVec 16
  crc : BitVec 16
  payload : Line
  debug : Bool := false
deriving DecidableEq, Repr

/-- The control field of an Umaed frame (R302), with the packets that VALID marks, in slot order. -/
structure Frame where
  fseq : BitVec 8
  mark : Bool
  markOfs : BitVec 7
  markDay : BitVec 16
  skew : BitVec 16
  sentA : BitVec 8
  sentB : BitVec 8
  retA : BitVec 8
  retB : BitVec 8
  width : BitVec 2
  packets : List (Nat × Packet)
deriving DecidableEq, Repr

/-- The symbols of a received codeword, of its 544, that came wrong (R297). -/
structure Fec where
  wrong : List (Fin 544)
deriving DecidableEq, Repr

/-- A received codeword: the frame that was sent in it, and the symbols that came wrong. -/
structure Codeword where
  frame : Frame
  fec : Fec
deriving DecidableEq, Repr

/-- What slot 0 of an IDENT frame holds (R303): CHIP_ID, link number, widths offered, GLB_STEPPING[7:0]. -/
structure Ident where
  chip : BitVec 16
  link : Nat
  widths : BitVec 3
  stepping : Byte
deriving DecidableEq, Repr

/-- A BAR2 or BAR4 TLP (R573). For a read, `count` is the number of bytes asked for; for a write it is the number
of bytes of `data`. Offsets and counts are whole dwords, the byte enables cut the first and last dword. -/
structure Tlp where
  bar4 : Bool
  write : Bool
  off : BitVec 34
  count : Nat
  data : List Byte
  firstBe : BitVec 4
  lastBe : BitVec 4
  id : Nat
deriving DecidableEq, Repr

/-- A block mover of the voice chapter: a host stream or an I2S port (R480). -/
inductive Voice where
  | stream (s : BitVec 12)
  | i2s (p : Fin 8)
deriving DecidableEq, Repr

end Sys2Proof
end

