-- ==== Sys2Proof/Syntax.lean ====
section
/-!
DEFINITION. Syntax.lean: the commands of the block, one constructor per row of spec/opcode_table.json, in its order.
What a row does is Machine/Dispatch.lean's business. Register writes carry the value written; commands carry the port
they came from and their 64-byte descriptor (R582); arrivals carry the packet, frame or bytes that arrived; timed events
carry the unit they are about.
-/
namespace Sys2Proof

/-- The rows of spec/opcode_table.json. -/
inductive Instr where
  -- BAR0 accesses (R11 to R18): the port, the byte offset, the size in bytes (1 to 4, or 8), the value written.
  | rcRead (p : Port) (off : BitVec 25) (size : BitVec 4)
  | loHalfRead (p : Port) (off : BitVec 25) (size : BitVec 4)
  | registerWrite (p : Port) (off : BitVec 25) (size : BitVec 4) (v : BitVec 64)
  -- Register writes with a row of their own.
  | start (mode : BitVec 2) (stop : Bool)
  | stop (mode : BitVec 2)
  | tickSrcWrite (v : Word)
  | spiRetry
  | memTmeSubmit (t : BitVec 4)
  | retrain (n : Fin 6) (enable : Bool)
  | linkEnable (n : Fin 6) (enable : Bool)
  | resync (v : BitVec 3)
  | hifCmdProdWrite (v : BitVec 16)
  | audRun (p : Fin 8) (run : Bool)
  | audArmGo (mask : BitVec 8)
  | cnsRelease (mask : BitVec 4)
  | freeze (c : BitVec 3) (v : Bool)
  -- Commands (R582, R589).
  | nop (src : Src) (d : Desc)
  | reckon (src : Src) (d : Desc)
  | census (src : Src) (d : Desc)
  | harnessLoad (src : Src) (d : Desc)
  | harnessRegion (src : Src) (d : Desc)
  | harnessRegionCancel (src : Src) (d : Desc)
  | harnessSeal (src : Src) (d : Desc)
  | sessionOpen (src : Src) (d : Desc)
  | sessionClose (src : Src) (d : Desc)
  | sessionAdapt (src : Src) (d : Desc)
  | buckleSet (src : Src) (d : Desc)
  | buckleFasten (src : Src) (d : Desc)
  | settingsWrite (src : Src) (d : Desc)
  | streamRingBind (src : Src) (d : Desc)
  | faultAck (src : Src) (d : Desc)
  | epochSet (src : Src) (d : Desc)
  | resetSoft (src : Src) (d : Desc)
  | badOpcode (src : Src) (d : Desc)
  -- The I3C and JTAG ports (R597 to R600).
  | i3cCommandWrite (bytes : List Byte)
  | i3cCompletionRead
  | i3cStatusRead
  | i3cReckoningRead (count : BitVec 13)
  | i3cDynamicAddress (a : BitVec 7)
  | jtagCmd (d : Desc)
  | jtagCpl
  | jtagRecord
  | dbgAddr (v : BitVec 64)
  | dbgData (v : Line)
  | idcode
  | extest
  | samplePreload
  | bypass (code : Byte)
  -- The PCIe port (R573, R596, R672, R676).
  | barTlp (t : Tlp)
  | pcieConfigRequest (off : BitVec 12) (write : Option Word)
  | dlUp (width : BitVec 4) (speed : BitVec 3)
  | dlDownTimeout
  | flr
  -- The tile sequencer and the CTL slot.
  | sectionStart (t : TileId)
  | ctlNop (t : TileId)
  | amovi (t : TileId) (d : BitVec 4) (imm : BitVec 14)
  | aaddi (t : TileId) (d : BitVec 4) (imm : BitVec 14)
  | aadd (t : TileId) (d a b : BitVec 4)
  | amovv (t : TileId) (d va : BitVec 4) (lane : BitVec 5)
  | loopi (t : TileId) (k : BitVec 2) (n : BitVec 10) (len : BitVec 6)
  | loopb (t : TileId) (k : BitVec 2) (a b : BitVec 4) (len : BitVec 6)
  | loopbPlannedEnd (t : TileId)
  | idle (t : TileId) (n : BitVec 14)
  | idleExpiry (t : TileId)
  | wait (t : TileId) (buckle : BitVec 12) (a : BitVec 4)
  | waitResume (t : TileId)
  | halt (t : TileId)
  | haltv (t : TileId)
  -- The LS slot: register, Aa, P, OFF.
  | lnop (t : TileId)
  | ldb (t : TileId) (r a : BitVec 4) (p : Bool) (off : BitVec 15)
  | stb (t : TileId) (r a : BitVec 4) (p : Bool) (off : BitVec 15)
  | ldw (t : TileId) (r a : BitVec 4) (p : Bool) (off : BitVec 15)
  | stw (t : TileId) (r a : BitVec 4) (p : Bool) (off : BitVec 15)
  | lde (t : TileId) (a : BitVec 4) (p : Bool) (off : BitVec 15)
  | lda (t : TileId) (r a : BitVec 4) (p : Bool) (off : BitVec 15)
  | ldt (t : TileId) (k : BitVec 3) (a : BitVec 4) (p : Bool) (off : BitVec 15)
  -- The MXU slot.
  | mnop (t : TileId)
  | mzp (t : TileId) (imm : Byte)
  | mwld (t : TileId) (a : BitVec 4) (p : Bool)
  | mswap (t : TileId)
  | mmac (t : TileId) (a : BitVec 4) (p : Bool)
  | mmacg (t : TileId) (a : BitVec 4) (p f : Bool)
  | mout (t : TileId) (vd : BitVec 4) (f : Bool)
  | mclr (t : TileId)
  -- The VXU slot.
  | vnop (t : TileId)
  | vadd (t : TileId) (d a b : BitVec 4)
  | vsub (t : TileId) (d a b : BitVec 4)
  | vmul (t : TileId) (d a b : BitVec 4)
  | vshl (t : TileId) (d a : BitVec 4) (imm : BitVec 14)
  | vshr (t : TileId) (d a : BitVec 4) (imm : BitVec 14)
  | vmax (t : TileId) (d a b : BitVec 4)
  | vmin (t : TileId) (d a b : BitVec 4)
  | vcmp (t : TileId) (d a b : BitVec 4) (imm : BitVec 14)
  | vclamp (t : TileId) (d a : BitVec 4) (imm : BitVec 14)
  | vmovi (t : TileId) (d : BitVec 4) (imm : BitVec 14)
  | vlut (t : TileId) (d a : BitVec 4) (imm : BitVec 14)
  | vrq (t : TileId) (d a : BitVec 4) (imm : BitVec 14)
  | vstat (t : TileId) (a : BitVec 4) (imm : BitVec 14)
  | vtopk (t : TileId) (d a : BitVec 4) (imm : BitVec 14)
  -- The FAB slot.
  | fnop (t : TileId)
  | send (t : TileId) (k : BitVec 3) (a : BitVec 4) (p : Bool)
  | recv (t : TileId) (a : BitVec 4) (p : Bool)
  | recvResume (t : TileId)
  | reservedOpcode (t : TileId) (slot : Slot)
  -- Unscheduled access to a tile's SRAM.
  | ingressWrite (t : TileId)
  | unscheduledReadServe (t : TileId)
  -- The almanac.
  | day0Start
  | tickIn (src : TickFrom)
  | dayEndNominal
  | dayEndLate
  | holdoverJudgement
  | dayStart
  | feastStart
  | feastEnd
  | vigilStart
  | outputRelease
  | regionApply
  | planLatch
  | settingsStage
  | almanacStopped
  | statWindowClose (t : TileId)
  -- The harness loader and boot.
  | harnessLoadComplete
  | ddrTraining (fail : Byte)
  | regionVerifyDone
  | boot
  -- The fabric: a packet at a router input, at a VC1 source, at its endpoint.
  | packetRoute (r : Eid) (p : RPort) (vc : BitVec 2)
  | vc1Inject (e : Eid)
  | vc1LevelDown (e : Eid)
  | rspTimeout (e : Eid) (slot : BitVec 5)
  | dataWr (e : Eid) (p : Packet) (inPort : RPort)
  | dataWrNotify (e : Eid) (p : Packet) (inPort : RPort)
  | readReq (e : Eid) (p : Packet)
  | readRsp (e : Eid) (p : Packet)
  | cmd (e : Eid) (p : Packet)
  | cmdRsp (e : Eid) (p : Packet)
  | censusTrig (e : Eid) (p : Packet) (link : Option (Fin 6))
  | fault (e : Eid) (p : Packet)
  | memWinWrite (c : BitVec 3) (p : Packet)
  | scoreWrite (w : BitVec 4) (p : Packet)
  | ringNotice (w : BitVec 4) (p : Packet)
  | tmeDescriptorPacket (t : BitVec 4) (p : Packet)
  -- The buckle file: a BUCKLE_OP packet arrives.
  | fasten (p : Packet)
  | fastenN (p : Packet)
  | unfasten (p : Packet)
  | set (p : Packet)
  | reservedBuckleOp (p : Packet)
  -- Umaed link n.
  | frameSend (n : Fin 6)
  | dataFrame (n : Fin 6) (f : Frame) (fec : Fec)
  | idleTrain (n : Fin 6) (r : Codeword)
  | ident (n : Fin 6) (body : Ident) (r : Codeword)
  | echoReq (nr : Fin 6 × Codeword)
  | echoRspSend (n : Fin 6)
  | echoRsp (nr : Fin 6 × Codeword) (roundTrip : BitVec 16)
  | reservedFrame (n : Fin 6)
  | markRegister (n : Fin 6) (markDay skew : BitVec 16)
  | laneSignalDetect (n : Fin 6) (lanes : BitVec 4)
  | adaptDone (n : Fin 6) (lanes : BitVec 4)
  | adaptTimeout (n : Fin 6)
  | identEnd (n : Fin 6)
  | alignDone (n : Fin 6)
  | laneFail (n : Fin 6) (lane : BitVec 2)
  | linkDown (n : Fin 6)
  -- LPDDR5X channel c: planned commands, refresh, the arbiter.
  | act (c : BitVec 3) (bank : BitVec 5) (row : BitVec 18)
  | rd32 (c : BitVec 3) (bank : BitVec 5) (col : BitVec 6) (tile : TileId) (line : BitVec 14)
  | rd64 (c : BitVec 3) (bank : BitVec 5) (col : BitVec 6) (tile : TileId) (line : BitVec 14)
  | wr32 (c : BitVec 3) (bank : BitVec 5) (col : BitVec 6) (slot : BitVec 6)
  | wr64 (c : BitVec 3) (bank : BitVec 5) (col : BitVec 6) (slot : BitVec 6)
  | pre (c : BitVec 3) (bank : BitVec 5)
  | prea (c : BitVec 3) (rank : Bool)
  | refpb (c : BitVec 3) (bank : BitVec 5)
  | refab (c : BitVec 3) (rank : Bool)
  | mrr4 (c : BitVec 3) (rank : Bool) (rate : BitVec 3) (hot : Bool)
  | zqlat (c : BitVec 3) (rank : Bool)
  | gap (c : BitVec 3) (mask : Word) (len : BitVec 16)
  | refreshAccrual (c : BitVec 3)
  | emergencyRefresh (c : BitVec 3) (rank : Bool)
  | stoppedRefresh (c : BitVec 3) (rank : Bool)
  | arbiterGrant (c : BitVec 3)
  | backoffExpiry (c : BitVec 3) (k : BitVec 2)
  | withdraw (c : BitVec 3) (k : BitVec 2)
  | transactionComplete (c : BitVec 3)
  -- Tensor move engines and their Skive engines.
  | tmeDescriptorStart (t : BitVec 4)
  | tmeComplete (t : BitVec 4)
  | skiveEncode (t : BitVec 4)
  | skiveDecode (t : BitVec 4)
  -- KV walker w: a KV_OP packet arrives.
  | resolve (w : BitVec 4) (p : Packet)
  | append (w : BitVec 4) (p : Packet)
  | evict (w : BitVec 4) (p : Packet)
  | truncate (w : BitVec 4) (p : Packet)
  | pin (w : BitVec 4) (p : Packet)
  | spill (w : BitVec 4) (p : Packet)
  | fetch (w : BitVec 4) (p : Packet)
  | badOp (w : BitVec 4) (p : Packet)
  | kvResult (w : BitVec 4)
  | moveStart (w : BitVec 4)
  | moveComplete (w : BitVec 4)
  | moveFail (w : BitVec 4)
  | fetchLate (w : BitVec 4)
  | noticeResend (w : BitVec 4)
  | modeSwitch (w : BitVec 4)
  -- Sessions, streams and I2S ports.
  | sessionBind (i : BitVec 10)
  | sessionCloseDay (i : BitVec 10)
  | heldAdaptStart
  | streamDescriptorFetch (s : BitVec 12)
  | inputBlockDelivery (v : Voice)
  | outputBlockTake (v : Voice)
  | outputBlockWrite (s : BitVec 12)
  | i2sFrame (p : Fin 8) (left right : Word)
  | i2sPortStart (p : Fin 8)
  | i2sArmedStart
  | i2sPortStop (p : Fin 8)
  -- Fronthaul port q and output ring r.
  | fhFrame (q : Fin 2) (bytes : List Byte) (fcsOk : Bool)
  | macControl (q : Fin 2)
  | iqData (q : Fin 2)
  | delayMeasurementRequest (q : Fin 2)
  | delayMeasurementReply (q : Fin 2)
  | groupWrite (q : Fin 2)
  | recordClose (q : Fin 2)
  | fhOutputCopy (r : BitVec 3)
  | fhOutLate (r : BitVec 3)
  | fhLinkDown (q : Fin 2)
  -- Census.
  | censusPinEdge
  | censusArmedTrigger (a : BitVec 2)
  | censusLatch
  | censusRecordComplete (b : BitVec 2)
  | censusSpill (b : BitVec 2)
  -- Resets, start, clocks and temperature.
  | porNAssert
  | porNRelease (bootSel : BitVec 2)
  | sysRstNAssert
  | sysRstNRelease (bootSel : BitVec 2)
  | resetSoftBegin
  | ready
  | testEn (level : Bool)
  | pllUnlock (k : BitVec 2)
  | tempSample (codes : BitVec 128)
  | fullLoadFailed
  | fhLinkUp (q : Fin 2)
  | pllRelock (k : BitVec 2)
  | censusTrigRelease
deriving DecidableEq, Repr

end Sys2Proof
end

