-- ==== Sys2Proof/Decode.lean ====
section
/-!
DEFINITION. Decode.lean: the command that a word of the table's bits spells. The manual gives its commands no encoding of
their own: every row of spec/opcode_table.json has an empty list of fields. What bits the manual does give are decoded
where they arrive: descriptors and bundles in Machine/Clock.lean, packets in Machine/Fabric.lean.
-/
namespace Sys2Proof

/-- No row gives bits, so no word spells a command. -/
def decodeTableWord (_nbits _w : Nat) : Option Instr := none

end Sys2Proof
end

