-- ==== Sys2Proof/Config.lean ====
section
/-!
DEFINITION. Config.lean: the values the manual leaves open. None of them has a body, so nothing can be proved of what
they are: a claim about one holds for every value it may have (log 10). A chip draws the n-th free value with its counter
`Chip.free` (Machine/Ops.lean), so that two draws need not agree.
-/
namespace Sys2Proof.Config

/-- The n-th free value of w bits. -/
opaque freeBits (w n : Nat) : BitVec w

/-- The n-th free choice between two behaviours the manual allows. -/
opaque freeBool (n : Nat) : Bool

/-- Where the PCI Express and the MSI-X capability stand in configuration space, and how many cells the boundary-scan register
has: the manual says what they hold and not where, or how many (R570, R599; log 17, 115). -/
opaque pcieCap : Nat
opaque msixCap : Nat
opaque boundaryBits : Nat

/-- The n-th free number, used modulo what the manual allows. -/
opaque freeNat (n : Nat) : Nat

/-- The SOURCE of a fault that the almanac controller logs: it is no endpoint and the manual gives it no EID (log 20). -/
opaque almanacEid : Eid

/-- The SOURCE of a fault that the clocks or the temperature sensors log (log 20). -/
opaque globalEid : Eid

/-- Coefficient i of FIR filter k of the Stream Front Ends. The manual fixes them and does not print them (R500, R524;
log 13). -/
opaque fir (k i : Nat) : BitVec 16

/-- The audio block's rate converter (R513, R514): output sample number m of channel ch of port p from the samples so
far. The manual gives its delay and limits and not its arithmetic (log 13). -/
opaque asrc (port ch m : Nat) (history : List Int) : Int

end Sys2Proof.Config
end

