-- ==== Sys2Proof/Machine/State.lean ====
section
/-!
DEFINITION. Machine/State.lean: everything the manual gives one Lornorix chip, as plain data, and the state right after
a cold reset. Each field's comment names the rule and the file of spec/ that give it. `own` marks the few fields that are
the model's bookkeeping and no register of the manual.
-/
namespace Sys2Proof.Machine
open Sys2Proof

/-- Why a command stops the run. The manual gives every command of the table an effect or a refusal of its own (a
status, a dropped packet, an ignored write), so the only stop is an operand that names a unit the chip does not have. -/
inductive Fault where
  /-- Raised by a row whose operand EID names no router or endpoint (R249 leaves 0x13F and up without one). Safe: no
  such unit exists, so no such step happens. -/
  | noSuchUnit (eid : Eid)
deriving DecidableEq, Repr

/-- Why a command has no meaning here. -/
inductive Refusal where
  /-- The row has no meaning in the model yet. Raised by Dispatch.lean alone. Safe: nothing is claimed of it. -/
  | notModelled (mnemonic : String)
deriving DecidableEq, Repr

/-! ### What the harness image defines (03_harness) -/

/-- One section entry of a day plan (R60, 02_almanac). -/
structure Section where
  first : Nat
  last : Nat
  entry : BitVec 11
  tile : TileId
  loose : Bool
  region : BitVec 6
deriving DecidableEq, Repr

/-- One day plan (R59, 02_almanac): the DRAM day plan index of each channel, the Feasts as START and END, the sections. -/
structure DayPlan where
  planId : Nat
  dram : List (BitVec 16)
  feasts : List (Nat × Nat)
  sections : List Section
deriving DecidableEq, Repr

/-- One record of a section payload (R117, 03_harness): its section code, TARGET, KIND, the region of its header, its
body. -/
structure Rec where
  sec : Byte
  target : BitVec 16
  kind : Byte
  region : BitVec 6
  body : List Byte
deriving DecidableEq, Repr

/-- One record of AUTHORITY (R125, 03_harness). -/
structure Authority where
  opcodes : BitVec 128
  debug : Bool
deriving DecidableEq, Repr

/-- What a region image brings at its switch (R123, R124, R128, 03_harness): its HARNESS_ID, its records, and per listed
plan the section list. -/
structure RegionImage where
  id : BitVec 64
  records : List Rec
  plans : List (Nat × List Section)
deriving DecidableEq, Repr

/-- One region (R141, HNS_REGION_STATE, HNS_REGION_DAY, 03_harness). -/
structure Region where
  state : BitVec 2               -- [R141 03_harness; 2 bits; reset 0] Table 9: 0 IDLE, 1 VERIFYING, 2 PENDING, 3 APPLYING
  id16 : BitVec 16               -- [R153 03_harness; 16 bits; reset 0] HNS_REGION_STATE[r].ID16
  day : Word                     -- [R143 03_harness; 32 bits; reset 0] HNS_REGION_DAY[r]
  applyDay : BitVec 64           -- [R143 03_harness; 64 bits; reset 0] the whole apply day d
  copy : Bool                    -- [R144 03_harness; 1 bit; reset 0] which copy of its extents is active: 0 the ACT extents of REGION_MAP
  image : Option RegionImage     -- [R142 03_harness; one image; reset none] the verified image that waits for its switch
deriving DecidableEq, Repr

/-- A HARNESS_LOAD or HARNESS_REGION that the loader holds (R585, 13_host; R134, 03_harness). -/
structure LoadJob where
  src : Src
  tag : Word
  opcode : Byte
  region : BitVec 6
  fromFlash : Bool
  place : Nat
  length : Nat
  fromBoot : Bool
deriving DecidableEq, Repr

/-- The harness loader and the structures in force (03_harness). -/
structure Hns where
  loaded : Bool                  -- [R153 03_harness; 1 bit; reset 0] HNS_STATUS.LOADED
  busy : Bool                    -- [R153 03_harness; 1 bit; reset 0] HNS_STATUS.BUSY
  sealed : Bool                  -- [R150 03_harness; 1 bit; reset 0] HNS_STATUS.SEALED and HNS_SEAL.SEALED
  signed : Bool                  -- [R153 03_harness; 1 bit; reset 0] HNS_STATUS.SIGNED
  source : BitVec 2              -- [R153 03_harness; 2 bits; reset 0] HNS_STATUS.SOURCE
  failStep : Byte                -- [R129 03_harness; 8 bits; reset 0] HNS_STATUS.FAIL_STEP
  failStatus : Byte              -- [R129 03_harness; 8 bits; reset 0] HNS_STATUS.FAIL_STATUS
  id : BitVec 64                 -- [R136 03_harness; 64 bits; reset 0] HNS_ID
  digest : BitVec 256            -- [R136, R153 03_harness; 256 bits; reset 0] HNS_DIGEST0 to 7
  regions : Table Region         -- [R141 03_harness; 64 regions; reset all IDLE] by region number
  records : List Rec             -- [R128, R117 03_harness; the records in force; reset empty] router tables, memory plans, Skive tables, classes, plans, configurations, the region map
  plans : List DayPlan           -- [R59 02_almanac; up to 512; reset empty] the day plans in force
  year : List Nat                -- [R61 02_almanac; up to 4,096 entries of 9 bits; reset empty] the year table in force
  authority : List Authority     -- [R125 03_harness; four records; reset empty] empty: the default matrix alone
  jobs : List LoadJob            -- [R585 13_host; a queue; reset empty] images the loader takes in order, the first under way
  waitDdr : Option (BitVec 64 × BitVec 256 × Bool) -- [R136, R680 15_bringup; reset none] HARNESS_ID, DIGEST and SIGNED of a full image that has passed step 10 and whose channels have trained
  left : Nat                     -- [R132 03_harness; a count; reset 0] cycles to the next bytes of the first image, or left of its step 10; 0 once its verdict stands
  read : List Byte               -- [R136, R156 03_harness; up to TOTAL_LENGTH bytes; reset empty] what has been read and hashed of the first image
  skvOld : Option (List Rec)     -- [R144, R398 09_skive; reset none] own: the SKIVE_TABLES records as they stood before a switch of this Vigil, in force until its day ends
  owners : List ((Byte × BitVec 16 × Byte) × BitVec 6) -- [R128 03_harness; reset empty] the region each record identity (section, TARGET, KIND) belongs to
  bootTry : Nat                  -- [R678 15_bringup; 0 to 2; reset 0] flash attempts begun by the boot under way
deriving DecidableEq, Repr

/-! ### The tile (04_tile, 05_code) -/

/-- What a planned access to a tile's SRAM does on its cycle (R161, R165, R187). -/
inductive Access where
  | loadBytes (d : BitVec 4)
  | loadWide (d : BitVec 4) (k : Nat)
  | loadExp
  | loadAddr (d : BitVec 4)
  | loadTemplate (k : BitVec 3)
  | store (line : Line)
  | weightRow (i : Nat)
  | mac (shift : Nat) (za : Byte)
  | sendPayload (header : Packet)
  | arrival (len : Nat) (data : Line) (notify : Option Packet)
deriving DecidableEq, Repr

/-- One planned access: the cycle it takes its bank, its byte address, its place in Table 1 of 04_tile (smaller first;
a VC0 arrival's input port orders it among its like), the cycle from which its result can be read, and `sec`, own: the
number of the section whose operation made it (R739). -/
structure Micro where
  cycle : Nat
  addr : BitVec 19
  prio : Nat
  due : Nat
  what : Access
  sec : Nat
deriving DecidableEq, Repr

/-- A result on its way to the registers (R173, R174). -/
inductive RegWrite where
  | addr (d : BitVec 4) (v : BitVec 19)
  | lanes (d : BitVec 4) (first : Nat) (vs : List (BitVec 40))
  | template (k : BitVec 3) (v : BitVec 128)
  | templateAddr (k : BitVec 3) (v : BitVec 24)
  | macc (ps : List Int)
  | exponents (es : List (BitVec 4))
  | zeroPoint (v : Byte)
  | swap
  | preStats (base : Nat) (vs : List Int)
deriving DecidableEq, Repr

/-- A pending register write: the cycle it becomes readable, the cycle its operation issued, its slot's rank in the
order of R174 (0 wins), and `sec` as in Micro. -/
structure Pend where
  due : Nat
  issued : Nat
  rank : Nat
  write : RegWrite
  sec : Nat
deriving DecidableEq, Repr

/-- An active loop (R180, R181, R184): its register K, its first and last body bundle, iterations still to begin, the
cycles to gate after the last one. -/
structure Loop where
  k : BitVec 2
  first : BitVec 11
  last : BitVec 11
  left : Nat
  pad : Nat
deriving DecidableEq, Repr

/-- Why the sequencer issues nothing (R175 to R188). -/
inductive Hold where
  | none
  | idle (upto : Nat)
  | pad (upto : Nat)
  | wait (buckle : BitVec 12) (thr : BitVec 19) (resume : Option Nat)
deriving DecidableEq, Repr

/-- An unscheduled write that waits in the ingress buffer (R167). `notify` is the packet itself where it is a DATA_WR_NOTIFY,
whose buckle op follows the write (R609). -/
structure Ingress where
  addr : BitVec 19
  len : Nat
  data : Line
  notify : Option Packet
deriving DecidableEq, Repr

/-- One tile. -/
structure Tile where
  sram : List Host.Cell          -- [R160, R674 04_tile; 512 KiB; reset all zero] byte address to byte
  imem : Table (BitVec 128)      -- [R163 04_tile; 2,048 bundles of 128 bits; reset zero] bundle index to bundle
  a : Table (BitVec 19)          -- [R162 04_tile; A0 to A15, 19 bits; reset 0]
  v : Table (BitVec 40)          -- [R162 04_tile; V0 to V15, 32 lanes of 40 bits; reset 0] key 32 x register + lane
  tmpl : Table (BitVec 128)      -- [R162 04_tile; T0 to T7, 16 bytes; reset 0]
  loops : List Loop              -- [R162, R180 04_tile; L0 to L3; reset none active] innermost first
  wAct : Table Byte              -- [R162, R192 04_tile; 32 x 32 codes; reset 0] active weight block, key 32i + j
  wShd : Table Byte              -- [R162, R192 04_tile; 32 x 32 codes; reset 0] shadow weight block
  csAct : Table Int              -- [R162, R192 04_tile; 32 sums; reset 0] column sums of the active block
  csShd : Table Int              -- [R162, R204 04_tile; 32 sums; reset 0] column sums of the shadow block
  acc : Table (BitVec 40)        -- [R162, R192 04_tile; 32 accumulators of 40 bits; reset 0]
  za : Byte                      -- [R211 05_code; 8 bits; reset 128] ZA
  eq : List (BitVec 4)           -- [R162, R190 04_tile; up to 128 exponents; reset empty] EQ, head first
  rxq : List Line                -- [R171 04_tile; up to 8 packets of 32 bytes; reset empty] receive queue, oldest first
  ct : Table (BitVec 64)         -- [R197 04_tile; 1,024 entries of 64 bits; reset 0] Channel Table
  lut : Table Byte               -- [R195 04_tile; 16 LUTs of 256 codes; reset 0] key 256k + code
  livePre : Table (BitVec 40)    -- [R229 05_code; 1,024 of 40 bits; reset 0] live PRE stat
  livePost : Table Byte          -- [R229 05_code; 1,024 of 8 bits; reset 0] live POST stat
  recPre : Table (BitVec 40)     -- [R231 05_code; 1,024 of 40 bits; reset 0] PRE of the stat record
  recPost : Table Byte           -- [R231 05_code; 1,024 of 8 bits; reset 0] POST of the stat record
  check : Bool                   -- [R199 04_tile; 1 bit; reset 0] TILE_CTL.CHECK
  conflict : Bool                -- [R199 04_tile; 1 bit; reset 0] TILE_STATUS.CONFLICT
  illegal : Bool                 -- [R199 04_tile; 1 bit; reset 0] TILE_STATUS.ILLEGAL
  clip : Bool                    -- [R199 04_tile; 1 bit; reset 0] TILE_STATUS.CLIP
  eqOvf : Bool                   -- [R199 04_tile; 1 bit; reset 0] TILE_STATUS.EQ_OVF
  eqEmpty : Bool                 -- [R199 04_tile; 1 bit; reset 0] TILE_STATUS.EQ_EMPTY
  loose : Bool                   -- [R199 04_tile; 1 bit; reset 0] TILE_STATUS.LOOSE
  inSection : Bool               -- [R199 04_tile; 1 bit; reset 0] TILE_STATUS.IN_SECTION
  gated : Bool                   -- [R199 04_tile; 1 bit; reset 0] TILE_STATUS.GATED
  hold : Hold                    -- [R179, R185, R188 04_tile; reset none] what stalls or gates the sequencer; TILE_STATUS.WAITING reads it
  recvWait : Option (BitVec 19 × BitVec 4 × Bool) -- [R171, R179 04_tile; reset none] a RECV stalled on an empty queue: A[a] as read at issue, a, P; TILE_STATUS.WAITING reads it
  secNo : Nat                    -- [R739 04_tile; a count; reset 0] own: sections started
  lsSec : Nat                    -- [R739 04_tile; reset 0] own: the section whose LDW or STW holds the LS port
  took : Nat × List Nat          -- [R161, R201 04_tile; reset none] own: a cycle and the banks that unscheduled accesses have taken on it
  pc : BitVec 11                 -- [R199 04_tile; 11 bits; reset 0] TILE_PC: last bundle issued
  nextPc : BitVec 11             -- [R172 04_tile; 11 bits; reset 0] the bundle that issues next
  region : BitVec 6              -- [R60 02_almanac, R88; 6 bits; reset 0] REGION of the section running
  skipDay : Bool                 -- [R176 04_tile; 1 bit; reset 0] HALTV: no later section of the day starts
  satAcc : BitVec 16             -- [R199 04_tile; 16 bits; reset 0] TILE_SAT.ACC
  satRq : BitVec 16              -- [R199 04_tile; 16 bits; reset 0] TILE_SAT.RQ
  conflictCnt : Word             -- [R166 04_tile; 32 bits; reset 0] TILE_CONFLICT_CNT
  clipCnt : Word                 -- [R182 04_tile; 32 bits; reset 0] TILE_CLIP_CNT
  skipCnt : Word                 -- [R176 04_tile; 32 bits; reset 0] TILE_SKIP_CNT
  statCtl : Byte                 -- [R236 05_code; 8 bits; reset 1] TILE_STAT_CTL.WINDOW
  statLts : Lts                  -- [R232 05_code; 64 bits; reset 0] TILE_STAT_LTS
  statGen : BitVec 16            -- [R232 05_code; 16 bits; reset 0] TILE_STAT_INFO.GEN
  statDays : BitVec 9            -- [R238 05_code; 9 bits; reset 0] TILE_STAT_INFO.DAYS
  statShort : Bool               -- [R238 05_code; 1 bit; reset 0] TILE_STAT_INFO.SHORT
  statOvr : Bool                 -- [R235 05_code; 1 bit; reset 0] TILE_STAT_INFO.OVR
  statMixed : Bool               -- [R233 05_code; 1 bit; reset 0] TILE_STAT_INFO.MIXED
  statValid : Bool               -- [R199, R231 05_code; 1 bit; reset 0] TILE_STAT_INFO.VALID
  statSeq : Word                 -- [R231 05_code; 32 bits; reset 0] TILE_STAT_SEQ
  winOpen : Bool                 -- [R230 05_code; 1 bit; reset 0] a stat window runs
  winLen : Nat                   -- [R230 05_code; 1 to 256; reset 0] WINDOW in force at the window's opening
  winDays : Nat                  -- [R238 05_code; 0 to 256; reset 0] days of the window that have begun
  winMixed : Bool                -- [R233 05_code; 1 bit; reset 0] MIXED gathered so far
  winSwitch : Bool               -- [R233 05_code; 1 bit; reset 0] a region that includes the tile switched copies since the last cycle 0
  winOvr : Bool                  -- [R235 05_code; 1 bit; reset 0] OVR gathered so far
  lsUntil : Nat                  -- [R189 04_tile; a cycle; reset 0] the LS port is held up to this cycle (LDW, STW)
  micro : List Micro             -- [R165 04_tile; reset empty] planned accesses of this and later cycles
  pend : List Pend               -- [R173, R174 04_tile; reset empty] results not yet readable
  ingress : List Ingress         -- [R167 04_tile; up to 8; reset empty] tile ingress buffer, oldest first
  reads : List Packet            -- [R168 04_tile; reset empty] READ_REQ packets that wait for a free bank cycle
deriving DecidableEq, Repr

/-! ### The almanac (02_almanac) -/

/-- A settings write that is not yet in force (R97, R98, R590). -/
structure Setting where
  gen : BitVec 16
  day : BitVec 64
  kind : Byte
  unit : BitVec 16
  index : Nat
  value : BitVec 64
  mask : BitVec 64
deriving DecidableEq, Repr

/-- The almanac controller. -/
structure Alm where
  running : Bool                 -- [R105 02_almanac; 1 bit; reset 0] ALM_STATUS.RUNNING
  armed : Bool                   -- [R65 02_almanac; 1 bit; reset 0] ALM_STATUS.ARMED
  holdover : Bool                -- [R78 02_almanac; 1 bit; reset 0] ALM_STATUS.HOLDOVER
  inVigil : Bool                 -- [R85 02_almanac; 1 bit; reset 0] ALM_STATUS.IN_VIGIL
  inFeast : Bool                 -- [R57 02_almanac; 1 bit; reset 0] ALM_STATUS.IN_FEAST
  cfgErr : Bool                  -- [R55, R67, R84 02_almanac; 1 bit; reset 0] ALM_STATUS.CFG_ERR
  relock : BitVec 4              -- [R80 02_almanac; 4 bits; reset 0] ALM_STATUS.RELOCK
  offRun : BitVec 2              -- [R78 02_almanac; 2 bits; reset 0] ALM_STATUS.OFF_RUN
  startMode : BitVec 2           -- [R65 02_almanac; 2 bits; reset 0] ALM_CTL.START_MODE
  dayLen : BitVec 22             -- [R54 02_almanac; 22 bits; reset 625,000] ALM_DAY_LEN
  vigilLen : BitVec 17           -- [R54 02_almanac; 17 bits; reset 4,096] ALM_VIGIL_LEN
  tickSub : BitVec 3             -- [R71 02_almanac; 3 bits; reset 0] ALM_TICK_SRC.SUBSEL
  tickSrc : BitVec 2             -- [R71 02_almanac; 2 bits; reset 3] ALM_TICK_SRC.SRC
  tickTol : BitVec 17            -- [R54 02_almanac; 17 bits; reset 512] ALM_TICK_TOL
  yearLen : BitVec 13            -- [R54 02_almanac; 13 bits; reset 1] ALM_YEAR_LEN
  yearPos : BitVec 12            -- [R63 02_almanac; 12 bits; reset 0] ALM_YEAR_POS
  dayCount : BitVec 64           -- [R93 02_almanac; 64 bits; reset 0] ALM_DAYCOUNT
  early : Word                   -- [R76 02_almanac; 32 bits; reset 0] ALM_EARLY_CNT
  late : Word                    -- [R75 02_almanac; 32 bits; reset 0] ALM_LATE_CNT
  holdCnt : Word                 -- [R81 02_almanac; 32 bits; reset 0] ALM_HOLDOVER_CNT
  gen : BitVec 16                -- [R100 02_almanac; 16 bits; reset 0] ALM_GEN
  genLast : BitVec 16            -- [R97 02_almanac; 16 bits; reset 0] ALM_GEN_LAST
  tickOffset : Word              -- [R82 02_almanac; 32 bits; reset 0x80000000] ALM_TICK_OFFSET
  overCount : BitVec 16          -- [R88 02_almanac; 16 bits; reset 0] ALM_OVERRUN.COUNT
  overTile : Byte                -- [R88 02_almanac; 8 bits; reset 0] ALM_OVERRUN.LAST_TILE
  planCur : BitVec 9             -- [R105 02_almanac; 9 bits; reset 0] ALM_PLAN_CUR
  cycle : Nat                    -- [R21 00_scope; 0 to 4,194,303; reset 0] CYCLE: the cycle of the running day
  day0At : Option Nat            -- [R65 02_almanac; a cycle of GLB_UPTIME; reset none] where day 0 begins, once known
  stopReq : Bool                 -- [R68 02_almanac; 1 bit; reset 0] STOP written: no further day starts
  stopAtVigil16 : Bool           -- [R237 05_code; 1 bit; reset 0] that STOP came before Vigil cycle 16
  dayEnded : Bool                -- [R74, R75 02_almanac; 1 bit; reset 0] this cycle is the last of its day
  winTicks : Nat                 -- [R74 02_almanac; a count; reset 0] in-window ticks of this day
  earlyTicks : Nat               -- [R76 02_almanac; a count; reset 0] early ticks of this day
  hdWin : Nat                    -- [R79 02_almanac; a count; reset 0] in-window ticks of the Holdover day not yet judged
  hdEarly : Nat                  -- [R79 02_almanac; a count; reset 0] its early ticks
  lastDone : Bool                -- [R456 10_kvcache; 1 bit; reset 0] own: the rows of this day's last cycle have been given
  hdOpen : Bool                  -- [R79 02_almanac; 1 bit; reset 0] a Holdover day waits for its judgement
  nextSrc : Option (BitVec 5)    -- [R83 02_almanac; 5 bits; reset none] ALM_TICK_SRC value that takes effect at the next day
  nextPlan : Option Nat          -- [R85 02_almanac; a PLAN_ID; reset none] plan latched at Vigil cycle 768
  settings : List Setting        -- [R98, R99 02_almanac; reset empty] completed writes not yet in force, in the order given
  staged : List Setting          -- [R85 02_almanac; reset empty] those staged at Vigil cycle 896
  invalid : List (BitVec 6)      -- [R89 02_almanac; regions; reset empty] regions whose output records of this day are invalid
  genToday : Bool                -- [R233, R522 05_code; 1 bit; reset 0] ALM_GEN changed at cycle 0 of this day
deriving DecidableEq, Repr

/-! ### The Stitch fabric (06_stitch) -/

/-- A packet in a router buffer, and the cycle from which it can be sent on (R250). -/
structure Flit where
  pkt : Packet
  ready : Nat
deriving DecidableEq, Repr

/-- One router, with its tables in the harness records (R260). -/
structure Router where
  bufs : Table (List Flit)       -- [R267 06_stitch; FIFOs of 4, 8, 8, 2 packets; reset empty] key 4 x input port + VC
  used : Table Nat               -- [R268 06_stitch; a credit count per output and VC; reset full] credits in use, key 4 x output + VC; 20 + VC for the endpoint's link to its router
  back : List (Nat × Nat)        -- [R268 06_stitch; reset empty] credits on their way back: cycle, key
  turn : Table Nat               -- [R269 06_stitch; round-robin place; reset DESIGN CHOICE 0 (log 18)] key 4 x output + VC
  sent : Table Nat               -- [R269 06_stitch; reset none] own: 1 + the last cycle on which output k sent (keys 0 to 4), the endpoint's link was used (5), input p's buffer of VC v let a packet go (8 + 4p + v)
deriving DecidableEq, Repr

/-- What a response slot was reserved for (R275): a piece of a host read, a TME line, a page-move line, a line of a
fronthaul output, a DEBUG access, anything else. -/
inductive SlotUse where
  | hostRead (id : Nat) (piece : Nat)
  | tmeLine (k : Nat)
  | moveLine (k : Nat)
  | fhLine (ring k : Nat)
  | debug
  | other
deriving DecidableEq, Repr

/-- One response slot (R275, R278). -/
structure RspSlot where
  busy : Bool
  inc : BitVec 11
  day : Option (BitVec 64)
  upto : Nat
  use : SlotUse
deriving DecidableEq, Repr

/-- An endpoint's fabric side: its packet counts and, at the edge, its VC1 source. -/
structure Endp where
  seq : Table (BitVec 7)         -- [R252 06_stitch; 7 bits per VC; reset DESIGN CHOICE 0 (log 18)] next SEQ
  outq : List Flit               -- [R271, R276 06_stitch; reset empty] VC0, VC2 and VC3 packets that wait for the router, with the cycle each was sent
  queue : List Packet            -- [R272 06_stitch; 16 packets; reset empty] VC1 injection queue, and what the block keeps behind it (R273)
  level : BitVec 3               -- [R272 06_stitch; 3 bits; reset 0] FAB_THR_LEVEL[e]
  quiet : Nat                    -- [R272 06_stitch; 0 to 256; reset 0] quiet cycles
  abovePrev : Bool               -- [R272 06_stitch; 1 bit; reset 0]
  fresh : Bool                   -- [R272 06_stitch; 1 bit; reset 0]
  lastInject : Option Nat        -- [R272 06_stitch; a cycle; reset none] the last injection
  halvings : BitVec 16           -- [R288 06_stitch; 16 bits; reset 0] FAB_THR[e].HALVINGS
  slots : Table RspSlot          -- [R275 06_stitch; 32 slots; reset free] response slots
deriving DecidableEq, Repr

/-- The FAB registers. -/
structure Fab where
  check : Bool                   -- [R288 06_stitch; 1 bit; reset 0] FAB_CTL.CHECK
  rspTimeout : Bool              -- [R278 06_stitch; 1 bit; reset 0] FAB_STATUS.RSP_TIMEOUT
  vc0Stall : Bool                -- [R271 06_stitch; 1 bit; reset 0] FAB_STATUS.VC0_STALL
  drop : Bool                    -- [R288 06_stitch; 1 bit; reset 0] FAB_STATUS.DROP
  limit : BitVec 4               -- [R272 06_stitch; 4 bits; reset 8] FAB_VC1_LIMIT
  days : BitVec 4                -- [R278 06_stitch; 4 bits; reset 4] FAB_RSP_TIMEOUT
  dropType : Word                -- [R258 06_stitch; 32 bits; reset 0] FAB_DROP_TYPE
  dropEid : Word                 -- [R262 06_stitch; 32 bits; reset 0] FAB_DROP_EID
  dropField : Word               -- [R258 06_stitch; 32 bits; reset 0] FAB_DROP_FIELD
  dropChip : Word                -- [R263 06_stitch; 32 bits; reset 0] FAB_DROP_CHIP
  stallCnt : Word                -- [R271 06_stitch; 32 bits; reset 0] FAB_VC0_STALL_CNT
  rxqDrop : Word                 -- [R280 06_stitch; 32 bits; reset 0] FAB_RXQ_DROP
  lateRsp : Word                 -- [R279 06_stitch; 32 bits; reset 0] FAB_LATE_RSP
  lastDrop : BitVec 128          -- [R258, R288 06_stitch; 128 bits; reset 0] FAB_LAST_DROP0 to 3
  routers : Table Router         -- [R249, R267 06_stitch; 256 tile and 58 edge routers; reset empty] by EID
  ends : Table Endp              -- [R249, R272 06_stitch; 256 tiles and 58 edge endpoints; reset idle] by EID
  full : Table Nat               -- [R268 06_stitch; a cycle; reset 0] own: the cycle from which a place freed at an endpoint that was full can be used, key 2 x EID + receive queue
deriving DecidableEq, Repr

/-! ### Umaed (07_umaed) -/

/-- A packet queued for a link, the cycle from which it can go, and the input of the switch block it came in on (R304): 0 to
5 the edge router of that link, 6 to 11 that link less 6, 12 the chip itself. -/
structure Queued where
  pkt : Packet
  ready : Nat
  input : Nat
deriving DecidableEq, Repr

/-- The taps c(-1), c(0), c(+1) of a link's transmitters, in hundredths of the peak swing (R729). -/
structure Taps where
  pre : Int
  main : Int
  post : Int
deriving DecidableEq, Repr

/-- One Umaed link. -/
structure Link where
  state : BitVec 3               -- [R309 07_umaed; 3 bits; reset 0] UML_STATUS.STATE
  enable : Bool                  -- [R333 07_umaed; 1 bit; reset 0] UML_CTL.ENABLE
  peer : BitVec 16               -- [R333 07_umaed; 16 bits; reset 0] UML_STATUS.PEER
  cause : BitVec 3               -- [R310 07_umaed; 3 bits; reset 0] UML_STATUS.CAUSE
  degraded : Bool                -- [R313 07_umaed; 1 bit; reset 0] UML_STATUS.DEGRADED
  downed : Bool                  -- [R316 07_umaed; 1 bit; reset 0] it entered DOWN and has not been UP since: its packets are dropped
  width : BitVec 2               -- [R299, R302 07_umaed; 2 bits; reset 0] UML_STATUS.WIDTH
  lanesOk : BitVec 4             -- [R333 07_umaed; 4 bits; reset 0] UML_STATUS.LANES_OK
  peerWidths : BitVec 3          -- [R311 07_umaed; 3 bits; reset 0] widths the peer offered in IDENT
  gotIdent : Bool                -- [R309 07_umaed; 1 bit; reset 0] an IDENT frame arrived in this pass
  markOffset : Word              -- [R327 07_umaed; 32 bits; reset 0] UML_MARK_OFFSET
  delay : Word                   -- [R312 07_umaed; 32 bits; reset 0] UML_DELAY
  fecCorr : Word                 -- [R333 07_umaed; 32 bits; reset 0] UML_FEC_CORR
  fecUncorr : Word               -- [R307 07_umaed; 32 bits; reset 0] UML_FEC_UNCORR
  lost : Word                    -- [R306 07_umaed; 32 bits; reset 0] UML_LOST
  crcDrop : Word                 -- [R308 07_umaed; 32 bits; reset 0] UML_CRC_DROP
  downDrop : Word                -- [R316 07_umaed; 32 bits; reset 0] UML_DOWN_DROP
  badFrame : Word                -- [R303 07_umaed; 32 bits; reset 0] UML_BAD_FRAME
  trainCnt : Word                -- [R310 07_umaed; 32 bits; reset 0] UML_TRAIN_CNT
  taps : Taps                    -- [R729 17_package; reset PRESUMED preset 0 (log 122)] the taps of every lane
  cap : BitVec 2                 -- [R314 07_umaed; 2 bits; reset 0] own: the narrowest WIDTH a lane failure left; no wider is taken until RETRAIN
  scr : BitVec 58                -- [R298 07_umaed; 58 bits; reset DESIGN CHOICE 0 (log 18)] the scrambler: the last 58 bits sent, the oldest lowest
  received : Nat                 -- [R313 07_umaed; reset 0] own: frames received since the link came UP
  badFrames : List (Nat × BitVec 2) -- [R313 07_umaed; reset empty] own: frames with at least 8 uncorrectable symbols on a lane, of the last 1,024
  egress : List Queued           -- [R304 07_umaed; reset empty] packets queued for the link, oldest first
  turn : Table Nat               -- [R304 07_umaed; 0 to 12 per VC; reset DESIGN CHOICE 0 (log 18)] round-robin place among the inputs, key VC
  coming : List Flit             -- [R300 07_umaed; reset empty] VC1 packets that arrived, with the cycle each leaves the receiver
  fseq : Byte                    -- [R302 07_umaed; 8 bits; reset DESIGN CHOICE 0 (log 18)] FSEQ of the next frame
  sentCum : Table Byte           -- [R302 07_umaed; 8 bits per pool; reset DESIGN CHOICE 0 (log 18)] SENT counts, key 2 x VC + dateline
  retSeen : Table Byte           -- [R302 07_umaed; 8 bits per pool; reset DESIGN CHOICE 0 (log 18)] RET counts last received
  rcvd : Table Byte              -- [R306 07_umaed; 8 bits per pool; reset DESIGN CHOICE 0 (log 18)] packets received into each pool
  freed : Table Byte             -- [R306 07_umaed; 8 bits per pool; reset DESIGN CHOICE 0 (log 18)] buffers freed, sent back as RET
  nextFrame : Nat                -- [R299 07_umaed; a cycle; reset 0] start of the next frame
  markDue : Option (Nat × BitVec 16) -- [R324 07_umaed; reset none] a day mark to send: last cycle c, MARK_DAY
  echoes : Nat                   -- [R309 07_umaed; 0 to 16; reset 0] ECHO exchanges done in ALIGN
  echoWait : Bool                -- [R309 07_umaed; 1 bit; reset 0] an ECHO_REQ waits for its ECHO_RSP
  rounds : Nat                   -- [R312 07_umaed; cycles; reset 0] last measured round trip less the turnaround
deriving DecidableEq, Repr

/-- The Umaed switch block and links. -/
structure Uml where
  links : Table Link             -- [R296 07_umaed; six links; reset OFF]
  skew : BitVec 16               -- [R326 07_umaed; 16 bits; reset 0] UML_SKEW.SKEW
  dayEnds : List (BitVec 16 × Nat) -- [R327 07_umaed; reset empty] last cycles of this chip's recent days, by ALM_DAYCOUNT[15:0]
  root : Bool                    -- [R333 07_umaed; 1 bit; reset 0] UML_SKEW.ROOT
  early : List (Fin 6 × BitVec 16 × Nat × Int) -- [R327 07_umaed; reset empty] marks of a day still running: link, MARK_DAY, cycle, E
deriving DecidableEq, Repr

/-! ### LPDDR5X channels (08_memory) -/

/-- What a line's check word says of it (R341, R343): nothing wrong, these bits of the 272 flipped, or a word that every
read finds uncorrectable. -/
inductive Ecc where
  | clean
  | flips (bits : BitVec 272)
  | bad
deriving DecidableEq, Repr

/-- An unscheduled transaction of a channel (R361, R376); `debug` marks one that pre-empts (R359). -/
structure Txn where
  pkt : Packet
  addr : Nat
  cls : BitVec 2
  debug : Bool
deriving DecidableEq, Repr

/-- A bank (R342, R349). -/
structure Bank where
  row : Option (BitVec 18)       -- [R349 08_memory; 18 bits; reset none] the open row
  check : Table Ecc              -- [R342 08_memory; 128 bytes, a check word per line; reset clean] the check buffer, by line of the open row
  dirty : Bool                   -- [R342 08_memory; 1 bit; reset 0] a write changed the check buffer
  gaps : List Nat                -- [R349, R354 08_memory; reset empty] ends of the GAPs open on it, exclusive
  busyUntil : Nat                -- [R361 08_memory; a cycle; reset 0] a granted transaction or DEBUG access holds it up to here
deriving DecidableEq, Repr

/-- The window of a pre-empting DEBUG access (R359): its cycles, from `start` to before `upto`, its bank, the planned issues
it has skipped. -/
structure DbgWin where
  start : Nat
  upto : Nat
  bank : Nat
  skipped : Nat
deriving DecidableEq, Repr

/-- A class of the arbiter (R361, R364, ARB_CLASS). -/
structure ArbClass where
  queue : List Txn               -- [R361 08_memory; reset empty] requests in arrival order
  losses : BitVec 16             -- [R378 08_memory; 16 bits; reset 0] ARB_CLASS[k].LOSSES
  n : BitVec 4                   -- [R364 08_memory; 0 to 10; reset 0] ARB_CLASS[k].N
  age : BitVec 4                 -- [R364 08_memory; 4 bits; reset 0] ARB_CLASS[k].AGE
  backUntil : Nat                -- [R364 08_memory; a cycle; reset 0] not eligible before this cycle
deriving DecidableEq, Repr

/-- One LPDDR5X channel. -/
structure Chan where
  arbMode : BitVec 20            -- [R378 08_memory; 20 bits; reset 0x048C3] ARB_MODE
  freeze : Bool                  -- [R366 08_memory; 1 bit; reset 0] ARB_FREEZE.FREEZE
  dbgPre : Bool                  -- [R359 08_memory; 1 bit; reset 0] ARB_DEBUG_PREEMPT.ENABLE
  derate : BitVec 3              -- [R358 08_memory; 3 bits; reset 1] DERATE that MR4 set
  debt : Table Int               -- [R355 08_memory; -128 to 128 per rank; reset 0] MEM_REF_DEBT
  eccCorr : Word                 -- [R343 08_memory; 32 bits; reset 0] MEM_ECC_CORR
  eccUncorr : Word               -- [R343 08_memory; 32 bits; reset 0] MEM_ECC_UNCORR
  emergCnt : Word                -- [R357 08_memory; 32 bits; reset 0] MEM_EMERG_CNT
  skipCnt : Word                 -- [R357 08_memory; 32 bits; reset 0] MEM_PREEMPT_SKIP
  classes : Table ArbClass       -- [R361 08_memory; four; reset empty] 0 WALK, 1 MOVE, 2 HOST, 3 CENSUS/DEBUG
  win : Table (BitVec 9)         -- [R344 08_memory; 512 entries of 9 bits; reset 0] MEM_WIN[i]
  wbuf : Table Line              -- [R347 08_memory; 64 slots of 32 bytes; reset DESIGN CHOICE 0 (log 5)] write buffer
  wbufOld : List (Nat × Nat × Line) -- [R352 08_memory; reset empty] slot fills of the last 4 cycles: cycle, slot, content before
  cells : List Host.Cell         -- [R340 08_memory; up to 8 GiB; reset DESIGN CHOICE 0 (log 6)] data by linear address
  ecc : Table Ecc                -- [R341 08_memory; one check word per line; reset clean] by line number
  banks : Table Bank             -- [R340 08_memory; 32 banks; reset closed] by BANK
  inFlight : List (Nat × Txn)    -- [R366, R376 08_memory; reset empty] granted transactions and the cycle each ends
  lastGrant : Option Nat         -- [R363 08_memory; a cycle; reset none] the last grant
  dead : Option Nat              -- [R365 08_memory; a cycle; reset none] a cycle a withdrawal left dead
  emergUntil : Table Nat         -- [R356 08_memory; a cycle per rank; reset 0] end of the emergency window
  emergSkip : Table Nat          -- [R357 08_memory; counts; reset 0] issues skipped in the emergency window of each rank
  dbg : List DbgWin              -- [R359 08_memory; reset empty] windows of the pre-empting DEBUG accesses under way, oldest first
  trefiAt : Nat                  -- [R355 08_memory; a cycle; reset 0] the next refresh accrual
  eccDay : Option (BitVec 64)    -- [R343 08_memory; a day; reset none] day on which ECC_CORRECTED was last logged
  ddrKept : Bool                 -- [R674 15_bringup; 1 bit; reset 0] contents kept in self refresh through a reset
deriving DecidableEq, Repr

/-! ### Tensor move engines (08_memory, 09_skive) -/

/-- The descriptor a TME is running (R369, R374, R393, R401): `issued` counts the source lines asked for, of the whole
copy or, skived, of the block under way, which takes `need` lines; `buf` holds source lines that have come; `outl` the
lines to write, each with the cycle from which it can go and its destination address. -/
structure TmeJob where
  slot : BitVec 5
  desc : Desc
  total : Nat
  issued : Nat
  block : Nat
  need : Nat
  stopped : Bool
  status : BitVec 3
  buf : List (Nat × Line)
  outl : List (Nat × Nat × Line)
deriving DecidableEq, Repr

/-- One TME with its Skive engine. -/
structure Tme where
  regs : Table Word              -- [R378 08_memory; 16 words; reset 0] MEM_TME_DESC
  result : BitVec 2              -- [R378 08_memory; 2 bits; reset 0] MEM_TME_STATUS.RESULT
  queue : List (BitVec 5 × Desc) -- [R375 08_memory; up to 32; reset empty] accepted descriptors in order
  half : Option Line             -- [R367 08_memory; 32 bytes; reset none] lower half of a packet submission
  job : Option TmeJob            -- [R369 08_memory; reset none] the descriptor that runs
  errSlot : BitVec 5             -- [R371 08_memory; 5 bits; reset 0] MEM_TME_ERR.SLOT
  errStatus : BitVec 3           -- [R371 08_memory; 3 bits; reset 0] MEM_TME_ERR.STATUS
  done : Word                    -- [R371 08_memory; 32 bits; reset 0] MEM_TME_DONE
  wins : Table (BitVec 9)        -- [R369 08_memory; per channel; reset 0] own: window word this TME last wrote
  blkEnc : Word                  -- [R405 09_skive; 32 bits; reset 0] CMP_BLK_ENC
  blkRaw : Word                  -- [R405 09_skive; 32 bits; reset 0] CMP_BLK_RAW
  bytesOut : Word                -- [R405 09_skive; 32 bits; reset 0] CMP_BYTES_OUT
  blkDec : Word                  -- [R405 09_skive; 32 bits; reset 0] CMP_BLK_DEC
  decErr : Word                  -- [R405 09_skive; 32 bits; reset 0] CMP_DEC_ERR
  errTable : BitVec 4            -- [R403 09_skive; 4 bits; reset 0] CMP_LAST_ERR.TABLE
  errCause : BitVec 3            -- [R403 09_skive; 3 bits; reset 0] CMP_LAST_ERR.CAUSE
deriving DecidableEq, Repr

/-! ### KV walkers (10_kvcache) -/

/-- A page-list entry and its side word (R414), with the whole number of the page's first position / P, of which the side
word's POS_PAGE holds 16 bits. `sink` is own: the first page ever created in its descriptor (R438). -/
structure Page where
  loc : BitVec 2
  pin : Bool
  auto : Bool
  score : Byte
  frame : BitVec 20
  posPage : Nat
  home : BitVec 10
  sink : Bool
deriving DecidableEq, Repr

/-- A session's descriptor (R416) with its page list in logical order (R415). -/
structure KvDesc where
  cls : BitVec 16                -- [R416 10_kvcache; 16 bits; reset 0] CLASS
  isOpen : Bool                  -- [R416 10_kvcache; 1 bit; reset 0] STATE.OPEN
  fallFrom : Option (BitVec 64)  -- [R416, R462 10_kvcache; a day; reset none] STATE.FALLBACK is set, and responses report it from this day on
  staged : BitVec 8              -- [R416 10_kvcache; 0 to 64; reset 0] STAGED
  len : Word                     -- [R416 10_kvcache; 32 bits; reset 0] LEN
  head : BitVec 16               -- [R416 10_kvcache; 16 bits; reset 0] HEAD
  pages : List Page              -- [R415 10_kvcache; up to BUDGET; reset empty] COUNT pages from the oldest
  session : BitVec 16            -- [R416 10_kvcache; 16 bits; reset 0] SESSION
  created : Word                 -- [R416 10_kvcache; 32 bits; reset 0] CREATED
  usedFrames : List Nat          -- [R422 10_kvcache; reset empty] SRAM frames taken; SRAM_FREE is the rest
  usedHomes : List Nat           -- [R423 10_kvcache; reset empty] HOMEs taken
deriving DecidableEq, Repr

/-- A queued page move (R453 to R455): its descriptor, HOME and SRAM frame, its direction, the day of its operation;
lines asked for and written, lines that came and wait to be written, a failure seen. Lines are numbered plane by plane. -/
structure Move where
  desc : BitVec 8
  home : BitVec 10
  frame : Nat
  toSram : Bool
  day : BitVec 64
  started : Bool
  issued : Nat
  wrote : Nat
  buf : List (Nat × Line)
  failed : Bool
deriving DecidableEq, Repr

/-- An event entry that waits for Vigil cycle 16 (R469). -/
structure KvEvent where
  lts : Lts
  desc : BitVec 16
  event : Byte
  entry : Word
deriving DecidableEq, Repr

/-- One KV walker. -/
structure Walker where
  descs : Table KvDesc           -- [R415 10_kvcache; 256 descriptors; reset closed]
  lab : List Nat                 -- [R431 10_kvcache; 32 list lines; reset empty] look-aside lines, latest first
  plannedBusy : List Nat         -- [R427 10_kvcache; engines 0 to 3; reset free] cycle each busy engine frees
  unschedBusy : List Nat         -- [R427 10_kvcache; engines 4 to 7; reset free] cycle each busy engine frees
  results : List (Nat × Packet)  -- [R426 10_kvcache; reset empty] results and the cycle each leaves
  moves : List Move              -- [R453 10_kvcache; up to 16; reset empty] move queue
  events : List KvEvent          -- [R470 10_kvcache; reset empty] events of the day
  notices : List (BitVec 16 × BitVec 48) -- [R460, R461 10_kvcache; reset empty] earliest d0 held per CHIP_RING class
  degraded : List (BitVec 16 × BitVec 48 × BitVec 48) -- [R460 10_kvcache; reset empty] classes whose ring link is degraded: detection day d0, day of the last notice
  ops : Word                     -- [R471 10_kvcache; 32 bits; reset 0] KVW_OPS
  labHits : Word                 -- [R471 10_kvcache; 32 bits; reset 0] KVW_LAB_HITS
  planLate : Word                -- [R429 10_kvcache; 32 bits; reset 0] KVW_PLAN_LATE
  movesDone : Word               -- [R471 10_kvcache; 32 bits; reset 0] KVW_MOVES_DONE
  evtDrop : Word                 -- [R470 10_kvcache; 32 bits; reset 0] KVW_EVT_DROP
  evtBase : BitVec 64            -- [R471 10_kvcache; 64 bits; reset 0] KVW_EVT_BASE
  evtSize : BitVec 5             -- [R471 10_kvcache; 5 bits; reset 0] KVW_EVT_SIZE
  evtProd : BitVec 16            -- [R471 10_kvcache; 16 bits; reset 0] KVW_EVT_PROD
  evtCons : BitVec 16            -- [R471 10_kvcache; 16 bits; reset 0] KVW_EVT_CONS
  dirSpace : BitVec 2            -- [R471 10_kvcache; 2 bits; reset 0] KVW_DIR_SEL.SPACE
  dirIndex : BitVec 11           -- [R471 10_kvcache; 11 bits; reset 0] KVW_DIR_SEL.INDEX
  wins : Table (BitVec 9)        -- [R453 10_kvcache; per channel; reset 0] own: window word this walker last wrote
deriving DecidableEq, Repr

/-! ### Voice (11_voices) -/

/-- A block at an SFE or I2S port (R481): header flags, GEN and PEAK, exponents and codes as C8. -/
structure Block where
  n : Nat
  flags : BitVec 8
  gen : BitVec 16
  exps : List (BitVec 4)
  codes : List Byte
deriving DecidableEq, Repr

/-- A fetched input descriptor (R503): its ring index, its PCM if BYTES was right. -/
structure Fetched where
  index : BitVec 16
  ok : Bool
  pcm : List Int
deriving DecidableEq, Repr

/-- A host stream (R524 Table 8). -/
structure Stream where
  base : BitVec 64               -- [R524 11_voices; 64 bits; reset 0] SFE_RING_BASE
  size : BitVec 5                -- [R524 11_voices; 5 bits; reset 0] SFE_RING_SIZE
  prod : BitVec 16               -- [R524 11_voices; 16 bits; reset 0] SFE_RING_PROD
  cons : BitVec 16               -- [R524 11_voices; 16 bits; reset 0] SFE_RING_CONS
  gain : BitVec 16               -- [R521 11_voices; 16 bits; reset 0x1000] SFE_GAIN
  sat : Word                     -- [R501 11_voices; 32 bits; reset 0] SFE_SAT
  missed : Word                  -- [R504, R506 11_voices; 32 bits; reset 0] SFE_UNDERRUN or SFE_OUT_DROP
  outUnder : Word                -- [R484 11_voices; 32 bits; reset 0] SFE_OUT_UNDERRUN[s]
  startDay : Option (BitVec 64)  -- [R491 11_voices; a day; reset none] S while the stream runs
  ahead : List Fetched           -- [R503 11_voices; up to 2; reset empty] fetched, not delivered
  fetchIx : BitVec 16            -- [R503 11_voices; 16 bits; reset 0] next descriptor to fetch
  backs : List (BitVec 16 × List Byte) -- [R503 11_voices; reset empty] consumed descriptors, with their bytes 12 to 31, to write back at Vigil cycle 16
  gainLog : List (BitVec 64 × BitVec 16) -- [R528 11_voices; reset empty] own: days on which SFE_GAIN changed, with the gain before
  hist : List Int                -- [R500 11_voices; 48 samples; reset zeros] filter state, latest first
  taken : Option Block           -- [R484 11_voices; reset none] output block taken this Vigil
  drops : BitVec 16              -- [R502 11_voices; 16 bits; reset 0] DROPS since the last written descriptor
deriving DecidableEq, Repr

/-- A Session Table entry (R489). -/
structure Session where
  state : BitVec 3               -- [R489 11_voices; 3 bits; reset 0] STATE
  adapt : Bool                   -- [R489 11_voices; 1 bit; reset 0] FLAGS.ADAPT
  ended : Bool                   -- [R489 11_voices; 1 bit; reset 0] FLAGS.ENDED_BY_UPDATE
  cls : BitVec 16                -- [R489 11_voices; 16 bits; reset 0] CLASS
  bindDay : Word                 -- [R489 11_voices; 32 bits; reset 0] BIND_DAY
  closeDay : Word                -- [R489 11_voices; 32 bits; reset 0] CLOSE_DAY
  cookie : Word                  -- [R489 11_voices; 32 bits; reset 0] COOKIE
  adaptDay : BitVec 64           -- [R593 13_host; 64 bits; reset 0] day from which ADAPT is in force
deriving DecidableEq, Repr

/-- The Stream Front Ends and the Session Table. -/
structure Sfe where
  streams : Table Stream         -- [R499 11_voices; 4,096 streams; reset unbound]
  sessions : Table Session       -- [R489 11_voices; 1,024 entries; reset FREE]
  holdq : List (BitVec 10)       -- [R593 13_host; up to 64; reset empty] held adaptations
  gens : List (BitVec 64 × BitVec 16) -- [R522 11_voices; reset empty] own: days at whose cycle 0 ALM_GEN changed, with the generation before
  bad : List (BitVec 64 × List (BitVec 6)) -- [R485 11_voices; reset empty] own: past days with the regions that R89 marked invalid
  egress : List Host.Cell        -- [R483 11_voices; 256 bytes per stream; reset DESIGN CHOICE 0 (log 5)] egress buffers, key 256 x stream + byte
  wrote : Bool                   -- [R580 13_host; 1 bit; reset 0] own: output descriptors were written in this Vigil and vector 5 is still to come
deriving DecidableEq, Repr

/-- An I2S port (R524 Table 9). -/
structure AudPort where
  run : Bool                     -- [R517 11_voices; 1 bit; reset 0] AUD_CTL.RUN
  running : Bool                 -- [R524 11_voices; 1 bit; reset 0] AUD_STATUS.RUNNING
  gapBit : Bool                  -- [R515 11_voices; 1 bit; reset 0] AUD_STATUS.GAP
  underrun : Bool                -- [R484 11_voices; 1 bit; reset 0] AUD_STATUS.UNDERRUN
  range : Bool                   -- [R514 11_voices; 1 bit; reset 0] AUD_STATUS.RANGE
  div : BitVec 12                -- [R524 11_voices; 12 bits; reset 0] AUD_DIV
  frac : BitVec 24               -- [R524 11_voices; 24 bits; reset 0] AUD_FRAC
  ratio : Word                   -- [R513 11_voices; 32 bits; reset 0] AUD_RATIO
  gain : BitVec 16               -- [R697 16_regmap; 16 bits; reset 0x1000] AUD_GAIN
  dropIn : Word                  -- [R515 11_voices; 32 bits; reset 0] AUD_DROP_IN
  fillOut : Word                 -- [R515 11_voices; 32 bits; reset 0] AUD_FILL_OUT
  underCnt : Word                -- [R484 11_voices; 32 bits; reset 0] AUD_UNDERRUN
  levelSeq : BitVec 16           -- [R523 11_voices; 16 bits; reset 0] AUD_LEVEL.SEQ
  levelPeak : BitVec 16          -- [R523 11_voices; 16 bits; reset 0] AUD_LEVEL.PEAK
  fifoIn : List (Int × Int)      -- [R514 11_voices; 32 frames; reset empty] input FIFO, oldest first
  fifoOut : List (Int × Int)     -- [R514 11_voices; 32 frames; reset empty] output FIFO, oldest first
  phase : BitVec 24              -- [R511 11_voices; 24 bits; reset DESIGN CHOICE 0 (log 18)] divider phase accumulator
  lastBit : Bool                 -- [R507 11_voices; 1 bit; reset 0] the last bit of the right slot sent, which the first BCLK of the next frame carries
  frames : Nat                   -- [R513 11_voices; a count; reset 0] port frames counted in this day
  part : Nat                     -- [R513 11_voices; of 2^20; reset 0] the part of the frame under way that the day before counted
  frameAt : Nat                  -- [R513 11_voices; a cycle; reset 0] own: the last frame's cycle
  frameLen : Nat                 -- [R513 11_voices; cycles; reset 0] own: the last frame's length
  startAt : Nat                  -- [R513, R517 11_voices; a cycle; reset 0] own: the cycle on which the port started
  coming : List (Nat × (Int × Int)) -- [R46 01_lornorix, R513 11_voices; reset empty] input frames on the 40 cycles from the pins to the ASRC, with the cycle each reaches it
  gainLog : List (BitVec 64 × BitVec 16) -- [R528 11_voices; reset empty] own: days on which AUD_GAIN changed, with the gain before
  startDay : Option (BitVec 64)  -- [R520 11_voices; a day; reset none] S while the port runs
  tracked : Nat                  -- [R513, R514 11_voices; port frames per day x 2^20; reset 0] the ratio that the ASRC tracks
  histIn : List (Int × Int)      -- [R513 11_voices; 64 frames; reset empty] frames the input converter has taken, latest first
  histOut : List (Int × Int)     -- [R513 11_voices; 64 frames; reset empty] internal frames the output converter has taken, latest first
  cur : List (Int × Int)         -- [R480 11_voices; up to 64 internal frames; reset empty] input block under way, oldest first
  curFlags : Byte                -- [R481 11_voices; 8 bits; reset 0] its GAP and SAT
  whole : Option (List (Int × Int) × Byte) -- [R482 11_voices; reset none] the input block that waits for its delivery day
  taken : Option Block           -- [R484 11_voices; reset none] output block taken
  play : Option Block            -- [R516 11_voices; reset none] output block that plays
deriving DecidableEq, Repr

/-- One BCLK of a port (R507, R508, R511): its source cycles, how many of them BCLK is high, and WS and SD_OUT at its rising
edge. -/
structure I2sBit where
  cycles : Nat
  high : Nat
  ws : Bool
  sd : Bool
deriving DecidableEq, Repr

/-- The audio block. -/
structure Aud where
  ports : Table AudPort          -- [R507 11_voices; eight; reset stopped]
  startAt : BitVec 64            -- [R518 11_voices; 64 bits; reset 0] AUD_START_AT
  mask : Byte                    -- [R518 11_voices; 8 bits; reset 0] AUD_ARM.MASK
  latched : Byte                 -- [R518 11_voices; 8 bits; reset 0] the mask that GO latched
  armed : Bool                   -- [R518 11_voices; 1 bit; reset 0] AUD_ARM.ARMED
  missed : Bool                  -- [R519 11_voices; 1 bit; reset 0] AUD_ARM.MISSED
  instant : Nat                  -- [R479 11_voices; up to 32; reset 0] own: internal instants of this day that have been
  egress : List Host.Cell        -- [R483 11_voices; 256 bytes per port; reset DESIGN CHOICE 0 (log 5)] egress buffers
deriving DecidableEq, Repr

/-! ### Fronthaul (12_fronthaul) -/

/-- A symbol record (R548): the 16 bytes of its antenna entry, target day, symbol; its groups so far with exponent, codes
and saturation. -/
structure SymRec where
  ent : List Byte
  day : BitVec 64
  symbol : Nat
  groups : List (Nat × BitVec 4 × List Byte)
  sat : Bool
  closed : Bool
  incomplete : Bool
  missing : Nat
deriving DecidableEq, Repr

/-- A delay request that waits for its reply (R554, R555). -/
structure DelayReq where
  dest : BitVec 48
  tagged : Bool
  vlan : BitVec 16
  measId : Byte
  lts : Lts
deriving DecidableEq, Repr

/-- A line that waits to be written into a tile (R550, R552): its target day, the cycle from which it can go, and the buckle op
of a record's last line. -/
structure FhLine where
  day : Nat
  due : Nat
  tile : TileId
  line : BitVec 14
  data : Line
  notify : Option (BitVec 16)
deriving DecidableEq, Repr

/-- A fronthaul port. -/
structure FhPort where
  linkUp : Bool                  -- [R563 12_fronthaul; 1 bit; reset 0] FHE_STATUS.LINK_UP
  dayOfs : BitVec 15             -- [R542 12_fronthaul; 15 bits; reset 0] FHE_SLOT_MAP.DAY_OFS
  counters : Table Word          -- [R563 12_fronthaul; 14 of 32 bits; reset 0] FHE_RX_OK to FHE_OUT_DROP in Table 7 order
  fifo : List (List Byte × Lts × Nat) -- [R534 12_fronthaul; 256 KiB; reset empty] accepted frames, oldest first, with the LTS and the cycle of their last byte
  recs : List SymRec             -- [R548 12_fronthaul; reset empty] symbol records of the days in work
  lines : List FhLine            -- [R550, R552 12_fronthaul; reset empty] lines of symbol records that wait to be written
  replies : List DelayReq        -- [R554 12_fronthaul; reset empty] replies due
  ticked : List (BitVec 64)      -- [R546 12_fronthaul; reset empty] target days whose first TICK_SYM message has ticked
deriving DecidableEq, Repr

/-- An output copy under way (R558): its day, its port, what its descriptor says of the day (the generation, the INVALID flag
of its region, the bits of MASK), the payload's lines, how many are asked for, how many have come. -/
structure FhCopy where
  day : BitVec 64
  port : Fin 2
  gen : BitVec 16
  invalid : Bool
  mask : List Nat
  lines : List (TileId × Nat)
  issued : Nat
  came : Nat
deriving DecidableEq, Repr

/-- A fronthaul output ring (R557). -/
structure FhRing where
  base : BitVec 64               -- [R563 12_fronthaul; 64 bits; reset 0] FHE_OUT_BASE
  size : BitVec 5                -- [R563 12_fronthaul; 5 bits; reset 0] FHE_OUT_SIZE
  prod : BitVec 16               -- [R563 12_fronthaul; 16 bits; reset 0] FHE_OUT_PROD
  cons : BitVec 16               -- [R563 12_fronthaul; 16 bits; reset 0] FHE_OUT_CONS
  copying : Option FhCopy        -- [R558, R559 12_fronthaul; reset none] the copy under way
deriving DecidableEq, Repr

/-- The fronthaul block. -/
structure Fhe where
  ports : Table FhPort           -- [R531 12_fronthaul; two; reset off]
  rings : Table FhRing           -- [R557 12_fronthaul; eight; reset off]
  tsNs : Word                    -- [R555 12_fronthaul; 32 bits; reset 0] FHE_TS_BASE_NS
  tsS : BitVec 48                -- [R555 12_fronthaul; 48 bits; reset 0] FHE_TS_BASE_S
  wrote : Bool                   -- [R580 13_host; 1 bit; reset 0] own: output descriptors were written and vector 6 is still to come
deriving DecidableEq, Repr

/-! ### The host interface (13_host) -/

/-- A BAR2 or BAR4 read under way (R573, R576): its TLP, the BAR offset, the BAR2 offset or the system address, the bytes
asked for; pieces not yet requested and bytes that came, by their place in the read; POISON seen. -/
structure HostRead where
  id : Nat
  bar4 : Bool
  off : Nat
  base : Nat
  count : Nat
  pieces : List (Nat × Nat)
  got : List (Nat × List Byte)
  poison : Bool
deriving DecidableEq, Repr

/-- A completion (R583 Table 4), PHASE apart. -/
structure Completion where
  tag : Word
  opcode : Byte
  status : Byte
  port : BitVec 2
  aux : Byte
  result : BitVec 64
deriving DecidableEq, Repr

/-- The I3C target (R597). -/
structure I3c where
  dyn : Option (BitVec 7)        -- [R597 13_host; 7 bits; reset none] dynamic address; the static address is 0x2A
  ptr : Byte                     -- [R597 13_host; 8 bits; reset DESIGN CHOICE 0 (log 18)] the pointer that the last private transfer set
  cpls : List Completion         -- [R587 13_host; up to 4; reset empty] queued completions
  busy : Bool                    -- [R597 13_host; 1 bit; reset 0] CMD_BUSY
  dropped : Bool                 -- [R598 13_host; 1 bit; reset 0] DROPPED
  buf : List Byte                -- [R602 13_host; 4,096 bytes; reset empty] Reckoning buffer
deriving DecidableEq, Repr

/-- The JTAG port (R599). -/
structure Jtag where
  ir : Byte                      -- [R599 13_host; 8 bits; reset PRESUMED 0x02, IDCODE, IEEE 1149.1 (log 7)] instruction register
  cpls : List Completion         -- [R587 13_host; up to 4; reset empty] queued completions
  pendingCmd : Bool              -- [R599 13_host; 1 bit; reset 0] a command is pending
  busy : Bool                    -- [R599 13_host; 1 bit; reset 0] busy flag of CMD
  buf : List Byte                -- [R602 13_host; 4,096 bytes; reset empty] Reckoning buffer
  dbgAddr : BitVec 64            -- [R599 13_host; 64 bits; reset DESIGN CHOICE 0 (log 5)] DBG_ADDR
  dbgData : Line                 -- [R599 13_host; 256 bits; reset DESIGN CHOICE 0 (log 5)] what DBG_DATA captures
deriving DecidableEq, Repr

/-- The host interface with the command processor. -/
structure Hif where
  dayIrq : Bool                  -- [R618 13_host; 1 bit; reset 0] HIF_CTL.DAY_IRQ
  resync : Bool                  -- [R603 13_host; 1 bit; reset 0] HIF_CTL.RESYNC
  cmdEn : Bool                   -- [R581 13_host; 1 bit; reset 0] HIF_CTL.CMD_EN
  prodErr : Bool                 -- [R581 13_host; 1 bit; reset 0] HIF_STATUS.PROD_ERR
  halted : Bool                  -- [R581, R603 13_host; 1 bit; reset 0] an index that ran ahead stopped the reading until RESYNC
  linkUp : Bool                  -- [R618 13_host; 1 bit; reset 0] HIF_STATUS.LINK_UP
  width : BitVec 4               -- [R618 13_host; 4 bits; reset 0] HIF_STATUS.WIDTH
  speed : BitVec 3               -- [R618 13_host; 3 bits; reset 0] HIF_STATUS.SPEED
  cmdBase : BitVec 64            -- [R618 13_host; 64 bits; reset 0] HIF_CMD_BASE
  cmdSize : BitVec 4             -- [R618 13_host; 4 bits; reset 0] HIF_CMD_SIZE
  cmdProd : BitVec 16            -- [R581 13_host; 16 bits; reset 0] HIF_CMD_PROD
  cmdCons : BitVec 16            -- [R581 13_host; 16 bits; reset 0] HIF_CMD_CONS
  cplBase : BitVec 64            -- [R618 13_host; 64 bits; reset 0] HIF_CPL_BASE
  cplSize : BitVec 4             -- [R618 13_host; 4 bits; reset 0] HIF_CPL_SIZE
  cplProd : BitVec 16            -- [R583 13_host; 16 bits; reset 0] HIF_CPL_PROD
  cplCons : BitVec 16            -- [R583 13_host; 16 bits; reset 0] HIF_CPL_CONS
  window : BitVec 2              -- [R574 13_host; 2 bits; reset 0] HIF_LPDDR_WINDOW
  refused : Word                 -- [R618 13_host; 32 bits; reset 0] HIF_REFUSED
  poison : Word                  -- [R576 13_host; 32 bits; reset 0] HIF_POISON
  badTlp : Word                  -- [R573 13_host; 32 bits; reset 0] HIF_BAD_TLP
  msix : Table (BitVec 128)      -- [R579 13_host; 64 entries of 16 bytes; reset every vector masked (R697 16_regmap)] MSI-X table
  pba : BitVec 64                -- [R579 13_host; 64 bits; reset 0] pending-bit array
  cfg : Table Word               -- [R570 13_host; PCIe configuration space; reset as the PCIe Base Specification gives (log 9)] words the host wrote
  reads : List HostRead          -- [R577 13_host; up to 32 requests; reset empty] BAR2 and BAR4 reads under way
  wins : Table (BitVec 9)        -- [R575 13_host; per channel; reset 0] own: window word the host interface last wrote
  waiting : List (Src × Desc)    -- [R584, R587 13_host; reset empty] commands of the I3C, JTAG and Umaed ports that wait to start, and of PCIe read from the ring
  lastPort : BitVec 2            -- [R584 13_host; 2 bits; reset DESIGN CHOICE 3 (log 18)] port served last, for the round robin
  i3c : I3c                      -- [R597 13_host] the I3C target
  jtag : Jtag                    -- [R599 13_host] the JTAG port
  snaps : Table Word             -- [R17 00_scope; 32 bits per 64-bit pair and port; reset 0] key 4 x LO offset + port
deriving DecidableEq, Repr

/-- One buckle (R605). -/
structure Buckle where
  count : BitVec 24              -- [R605 13_host; 24 bits; reset 0] BKL_VALUE[n].COUNT
  under : Bool                   -- [R607 13_host; 1 bit; reset 0] BKL_CTL[n].UNDER
  sat : Bool                     -- [R607 13_host; 1 bit; reset 0] BKL_CTL[n].SAT
  vector : BitVec 6              -- [R613 13_host; 6 bits; reset 0] BKL_CTL[n].VECTOR
  notify : Bool                  -- [R613 13_host; 1 bit; reset 0] BKL_CTL[n].NOTIFY
deriving DecidableEq, Repr

/-- A command that waits for the buckle file's report (R606) or for its packets to be injected (R594, R602), with the
RESULT of the latter. -/
structure BklWait where
  src : Src
  tag : Word
  opcode : Byte
  result : BitVec 64
deriving DecidableEq, Repr

/-- The buckle file. -/
structure Bkl where
  file : Table Buckle            -- [R605 13_host; 4,096 buckles; reset zero]
  badOp : Word                   -- [R608 13_host; 32 bits; reset 0] BKL_BAD_OP
  waits : List BklWait           -- [R606 13_host; reset empty] local buckle commands whose operation is on its way
  remote : List BklWait          -- [R594, R602 13_host; reset empty] commands whose VC1 packets for another place are not yet all injected
deriving DecidableEq, Repr

/-! ### Census and faults (14_census) -/

/-- A trigger whose latch is pending (R627): the latch cycle, the TRIGGER code, TARGET, ORIGIN, fault code. -/
structure Latch where
  at_ : Nat
  code : Byte
  target : BitVec 64
  origin : BitVec 16
  fault : BitVec 16
  answer : Option (Src × Word)
deriving DecidableEq, Repr

/-- A CNS_ARM slot (R633). STATE 0 is free. -/
structure Arm where
  state : BitVec 2
  target : BitVec 64
  origin : BitVec 16
deriving DecidableEq, Repr

/-- A census bank (R631). -/
structure CBank where
  full : Bool                    -- [R631 14_census; 1 bit; reset 0] holds an unreleased record
  valid : Bool                   -- [R630 14_census; 1 bit; reset 0] the record is complete
  words : Table Word             -- [R631 14_census; 64 KiB; reset 0] the record, by word
deriving DecidableEq, Repr

/-- The census unit. -/
structure Cns where
  faultMask : BitVec 5           -- [R657 14_census; 5 bits; reset 0] CNS_CTL.FAULT_MASK
  bcastEn : Bool                 -- [R657 14_census; 1 bit; reset 1] CNS_CTL.BCAST_EN
  spill : Bool                   -- [R657 14_census; 1 bit; reset 0] CNS_CTL.SPILL
  drive : Bool                   -- [R629 14_census; 1 bit; reset 0] CNS_CTL.DRIVE
  pinEn : Bool                   -- [R657 14_census; 1 bit; reset 1] CNS_CTL.PIN_EN
  banks : Table CBank            -- [R631 14_census; four of 64 KiB; reset empty]
  last : BitVec 2                -- [R631 14_census; 2 bits; reset 3] last bank used
  seq : Word                     -- [R657 14_census; 32 bits; reset 0] CNS_SEQ
  missed : Word                  -- [R631 14_census; 32 bits; reset 0] CNS_MISSED
  late : Word                    -- [R637 14_census; 32 bits; reset 0] CNS_LATE
  dup : Word                     -- [R628 14_census; 32 bits; reset 0] CNS_DUP
  spillLo : Word                 -- [R640 14_census; 32 bits; reset 0] CNS_SPILL_BASE_LO
  spillChan : BitVec 3           -- [R640 14_census; 3 bits; reset 0] CNS_SPILL_BASE_HI channel
  spillA32 : Bool                -- [R640 14_census; 1 bit; reset 0] CNS_SPILL_BASE_HI A[32]
  spillSize : BitVec 4           -- [R639 14_census; 4 bits; reset 0] CNS_SPILL_SIZE
  spillProd : BitVec 16          -- [R639 14_census; 16 bits; reset 0] CNS_SPILL_PROD
  spillCons : BitVec 16          -- [R639 14_census; 16 bits; reset 0] CNS_SPILL_CONS
  arms : Table Arm               -- [R633 14_census; four slots; reset free] CNS_ARM
  pending : List Latch           -- [R627 14_census; reset empty] triggers whose latch has not come
  made : List (Nat × Option (BitVec 64 × BitVec 16)) -- [R628, R637 14_census; reset empty] latches made: the cycle and, of a broadcast one, TARGET and ORIGIN
  spilling : Option (BitVec 2)   -- [R639 14_census; 2 bits; reset none] the bank whose record is being copied
  driveUntil : Nat               -- [R629 14_census; a cycle; reset 0] CENSUS_TRIG is pulled low before this cycle
  win : Option (BitVec 9)        -- [R640 14_census; 9 bits; reset none] own: window word the census unit last wrote
deriving DecidableEq, Repr

/-- A fault log entry (R646). -/
structure FltEntry where
  lts : Lts
  code : BitVec 16
  source : Eid
  unit : BitVec 16
  region : Option (BitVec 6)
  remote : Bool
  count : Word
  detail : BitVec 64
  chip : BitVec 16
  seq : BitVec 16
deriving DecidableEq, Repr

/-- The fault unit. -/
structure Flt where
  fwdChip : BitVec 16            -- [R651 14_census; 16 bits; reset 0] FLT_CTL.FWD_CHIP
  fwdMask : BitVec 5             -- [R651 14_census; 5 bits; reset 0] FLT_CTL.FWD_MASK
  pinMask : BitVec 4             -- [R653 14_census; 4 bits; reset 0b1110] FLT_CTL.PIN_MASK
  fatal : Bool                   -- [R645 14_census; 1 bit; reset 0] FLT_STATUS.FATAL
  head : BitVec 16               -- [R650 14_census; 16 bits; reset 0] FLT_HEAD
  tail : BitVec 16               -- [R646 14_census; 16 bits; reset 0] FLT_TAIL
  counts : Table Word            -- [R648 14_census; FLT_COUNT[1..5], 32 bits; reset 0] by class
  overflow : Word                -- [R649 14_census; 32 bits; reset 0] FLT_OVERFLOW
  fwdDrop : Word                 -- [R651 14_census; 32 bits; reset 0] FLT_FWD_DROP
  log : Table FltEntry           -- [R646 14_census; 256 entries of 32 bytes; reset zero] the ring
deriving DecidableEq, Repr

/-! ### Global block (15_bringup, 00_scope) -/

/-- The three steppings (R699, 16_regmap). -/
inductive Stepping where
  | a0 | a1 | b0
deriving DecidableEq, Repr

/-- Where the part stands in reset and start (R671, R675, 15_bringup). -/
inductive Phase where
  | held
  | starting
  | up
deriving DecidableEq, Repr

/-- The GLB registers, fuses, pins and clocks. -/
structure Glb where
  stepping : Stepping            -- [R699 16_regmap; per part; reset DESIGN CHOICE B0 (log 7)] GLB_STEPPING
  phase : Phase                  -- [R675 15_bringup; reset starting] held in reset, in the start sequence, or READY
  readyAt : Nat                  -- [R675 15_bringup; a cycle; reset DESIGN CHOICE 312,500 (log 8)] when READY sets
  bootSel : BitVec 2             -- [R678 15_bringup; 2 bits; reset latched, DESIGN CHOICE 0 (log 7)] GLB_STATUS.BOOT_SEL
  bootSelErr : Bool              -- [R678 15_bringup; 1 bit; reset 0] GLB_STATUS.BOOT_SEL_ERR
  thermWarn : Bool               -- [R687 15_bringup; 1 bit; reset 0] GLB_STATUS.THERM_WARN
  cause : BitVec 2               -- [R690 15_bringup; 2 bits; reset 0 (POR_N)] GLB_STATUS.RESET_CAUSE
  hostAbsent : Bool              -- [R596 13_host; 1 bit; reset 1] GLB_STATUS.HOST_ABSENT
  ddrFail : Byte                 -- [R681 15_bringup; 8 bits; reset 0] GLB_STATUS.DDR_FAIL
  ddrReady : Byte                -- [R681 15_bringup; 8 bits; reset 0] GLB_STATUS.DDR_READY
  holdDdr : Bool                 -- [R690 15_bringup; 1 bit; reset 1] GLB_RESET_CTL.HOLD_DDR
  profile : BitVec 2             -- [R684 15_bringup; 2 bits; reset 0b11] GLB_PROFILE.PROFILE
  satCluster : BitVec 4          -- [R690 15_bringup; 4 bits; reset 0] GLB_PROFILE.SATCHEL_CLUSTER
  satChannel : BitVec 3          -- [R690 15_bringup; 3 bits; reset 0] GLB_PROFILE.SATCHEL_CHANNEL
  cclkMhz : BitVec 12            -- [R690 15_bringup; 12 bits; reset 0] GLB_PROFILE.CCLK_MHZ
  chipId : BitVec 16             -- [R120 03_harness; 16 bits; reset DESIGN CHOICE 0xFFFF, this chip (log 7)] CHIP_ID of GLOBAL
  roles : List (BitVec 2)        -- [R120 03_harness; 2 bits per tile; reset empty] TILE_ROLE of GLOBAL
  secureBoot : Bool              -- [R682 15_bringup; fuse; reset DESIGN CHOICE 0 (log 7)] GLB_FUSE.SECURE_BOOT
  debugLock : Bool               -- [R682 15_bringup; fuse; reset DESIGN CHOICE 0 (log 7)] GLB_FUSE.DEBUG_LOCK
  profileLimit : BitVec 2        -- [R682 15_bringup; fuse; reset DESIGN CHOICE 0b01 (log 7)] GLB_FUSE.PROFILE_LIMIT
  keyDigest : BitVec 256         -- [R682 15_bringup; fuse; reset DESIGN CHOICE 0 (log 7)] GLB_KEY_DIGEST
  epoch : BitVec 64              -- [R26 00_scope; 64 bits; reset 0] GLB_EPOCH_TAG
  temp : Table (BitVec 16)       -- [R686 15_bringup; eight of 16 bits; reset 0] GLB_TEMP
  derateAt : Byte                -- [R687 15_bringup; 8 bits; reset 95] GLB_THERM.DERATE_AT
  tripped : Bool                 -- [R688 15_bringup; 1 bit; reset 0] every tile is held clock-gated until a reset
  unlocked : BitVec 4            -- [R689 15_bringup; one bit per PLL; reset 0] PLLs that have lost lock
  uptime : BitVec 64             -- [R92 02_almanac; 64 bits; reset 0] GLB_UPTIME
  porN : Bool                    -- [R670 15_bringup; pin; reset 1, released] POR_N
  sysRstN : Bool                 -- [R670 15_bringup; pin; reset 1, released] SYS_RST_N
  testEn : Bool                  -- [R717 17_package; pin; reset 0] TEST_EN
  softAt : Option Nat            -- [R591 13_host; a cycle; reset none] when a posted RESET_SOFT begins
  softFlr : Bool                 -- [R672 15_bringup; 1 bit; reset 0] the soft reset to begin is an FLR
deriving DecidableEq, Repr

/-! ### What leaves the chip, and the whole state -/

/-- What the chip puts out at its ports: a BAR0 read's value, a BAR2 or BAR4 completion, an I3C or JTAG read, an I3C
in-band interrupt, a configuration completion, an Umaed frame, an Ethernet frame, an I2S frame, a CENSUS_TRIG level. -/
inductive Out where
  | bar0 (p : Port) (off : BitVec 25) (value : BitVec 64)
  | tlp (id : Nat) (ep : Bool) (data : List Byte)
  | i3c (data : List Byte)
  | jtag (bits : Nat) (value : Nat)
  | ibi (a : BitVec 7) (b : Byte)
  | config (value : Word)
  | umaed (link : Fin 6) (ftype : BitVec 4) (f : Frame) (ident : Option Ident) (lanes : List (BitVec 2 × List (BitVec 10)))
  | ethernet (port : Fin 2) (data : List Byte)
  | i2s (port : Fin 8) (bits : List I2sBit)
  | trigPin (level : Bool)
deriving DecidableEq, Repr

/-- One Lornorix chip and the memory its ports reach: everything but the queue of waiting commands. -/
structure Chip where
  part : Nat                     -- [own; reset 0] own: how far this cycle has come: 0 the day's own rows are to come, 1 the other rows are, 2 the bundles are, 3 the day-end rows are, 4 its end is to come, 5 the VC1 sources have had their turn and it can pass
  agenda : List (Nat × Instr)    -- [R585 and every rule that sets a later event; reset empty] own: rows that are to come, with their GLB_UPTIME cycle
  now : Nat                      -- [R92 02_almanac; reset 0] own: CCLK cycles since POR_N, unbounded; GLB_UPTIME is its low 64 bits
  free : Nat                     -- [own; reset DESIGN CHOICE 0 (log 10)] own: how many free values have been drawn
  glb : Glb                      -- [15_bringup] global block
  alm : Alm                      -- [02_almanac] almanac controller
  hns : Hns                      -- [03_harness] harness loader
  tiles : Table Tile             -- [R736 01_lornorix; 256 tiles] by tile number
  fab : Fab                      -- [06_stitch] fabric
  uml : Uml                      -- [07_umaed] Umaed
  chans : Table Chan             -- [R339 08_memory; eight channels]
  tmes : Table Tme               -- [R367 08_memory; sixteen TMEs]
  kvw : Table Walker             -- [R415 10_kvcache; sixteen walkers]
  sfe : Sfe                      -- [11_voices] Stream Front Ends, Session Table
  aud : Aud                      -- [11_voices] audio block
  fhe : Fhe                      -- [12_fronthaul] fronthaul ports
  hif : Hif                      -- [13_host] host interface, I3C, JTAG
  bkl : Bkl                      -- [13_host] buckle file
  cns : Cns                      -- [14_census] census unit
  flt : Flt                      -- [14_census] fault unit
  hostMem : List Host.Cell       -- [R581 13_host; the host's memory, outside the chip; reset DESIGN CHOICE 0 (log 5)] own: what PCIe reads and writes reach
  flash : List Host.Cell         -- [R679 15_bringup; the SPI flash, outside the chip; reset DESIGN CHOICE 0 (log 5)] own: what the loader reads
  out : List Out                 -- [own; reset empty] own: what the ports have put out, oldest first
deriving DecidableEq, Repr


/-- The block: the queue of the commands that wait, and the chip. -/
structure State where
  pending : List Instr           -- [the row's cut; reset empty] own: commands that wait, first in, first out
  chip : Chip                    -- the chip: every other piece of state
deriving DecidableEq, Repr

/-! ### Reset: the machine right after a cold reset (POR_N, R674 to R677)

Every register at the reset value of its chapter; log 5 to 11, 18 name the values that the manual does not give. -/

/-- A tile after reset (R674: SRAM, instruction memory and registers zero; R211: ZA 128; R236: WINDOW 1). -/
def Tile.init : Tile where
  sram := []
  imem := []
  a := []
  v := []
  tmpl := []
  loops := []
  wAct := []
  wShd := []
  csAct := []
  csShd := []
  acc := []
  za := 128
  eq := []
  rxq := []
  ct := []
  lut := []
  livePre := []
  livePost := []
  recPre := []
  recPost := []
  check := false
  conflict := false
  illegal := false
  clip := false
  eqOvf := false
  eqEmpty := false
  loose := false
  inSection := false
  gated := false
  hold := .none
  recvWait := none
  secNo := 0
  lsSec := 0
  took := (0, [])
  pc := 0
  nextPc := 0
  region := 0
  skipDay := false
  satAcc := 0
  satRq := 0
  conflictCnt := 0
  clipCnt := 0
  skipCnt := 0
  statCtl := 1
  statLts := 0
  statGen := 0
  statDays := 0
  statShort := false
  statOvr := false
  statMixed := false
  statValid := false
  statSeq := 0
  winOpen := false
  winLen := 0
  winDays := 0
  winMixed := false
  winSwitch := false
  winOvr := false
  lsUntil := 0
  micro := []
  pend := []
  ingress := []
  reads := []

def Region.init : Region := ⟨0, 0, 0, 0, false, none⟩

def Hns.init : Hns where
  loaded := false
  busy := false
  sealed := false
  signed := false
  source := 0
  failStep := 0
  failStatus := 0
  id := 0
  digest := 0
  regions := []
  records := []
  plans := []
  year := []
  authority := []
  jobs := []
  waitDdr := none
  left := 0
  read := []
  skvOld := none
  owners := []
  bootTry := 0

/-- The almanac after reset (R54, R71, R82, R105). -/
def Alm.init : Alm where
  running := false
  armed := false
  holdover := false
  inVigil := false
  inFeast := false
  cfgErr := false
  relock := 0
  offRun := 0
  startMode := 0
  dayLen := 625000
  vigilLen := 4096
  tickSub := 0
  tickSrc := 3
  tickTol := 512
  yearLen := 1
  yearPos := 0
  dayCount := 0
  early := 0
  late := 0
  holdCnt := 0
  gen := 0
  genLast := 0
  tickOffset := 0x80000000
  overCount := 0
  overTile := 0
  planCur := 0
  cycle := 0
  day0At := none
  stopReq := false
  stopAtVigil16 := false
  dayEnded := false
  winTicks := 0
  earlyTicks := 0
  hdWin := 0
  hdEarly := 0
  lastDone := false
  hdOpen := false
  nextSrc := none
  nextPlan := none
  settings := []
  staged := []
  invalid := []
  genToday := false

def Router.init : Router := ⟨[], [], [], [], []⟩

def RspSlot.init : RspSlot := ⟨false, 0, none, 0, .other⟩

def Endp.init : Endp := ⟨[], [], [], 0, 0, false, false, none, 0, []⟩

/-- The FAB registers after reset (R288: LIMIT 8, DAYS 4). -/
def Fab.init : Fab where
  check := false
  rspTimeout := false
  vc0Stall := false
  drop := false
  limit := 8
  days := 4
  dropType := 0
  dropEid := 0
  dropField := 0
  dropChip := 0
  stallCnt := 0
  rxqDrop := 0
  lateRsp := 0
  lastDrop := 0
  routers := []
  ends := []
  full := []

def Link.init : Link where
  state := 0
  enable := false
  peer := 0
  cause := 0
  degraded := false
  downed := false
  width := 0
  lanesOk := 0
  peerWidths := 0
  gotIdent := false
  markOffset := 0
  delay := 0
  fecCorr := 0
  fecUncorr := 0
  lost := 0
  crcDrop := 0
  downDrop := 0
  badFrame := 0
  trainCnt := 0
  taps := ⟨0, 100, 0⟩
  cap := 0
  scr := 0
  received := 0
  badFrames := []
  egress := []
  turn := []
  coming := []
  fseq := 0
  sentCum := []
  retSeen := []
  rcvd := []
  freed := []
  nextFrame := 0
  markDue := none
  echoes := 0
  echoWait := false
  rounds := 0

def Bank.init : Bank := ⟨none, [], false, [], 0⟩

def ArbClass.init : ArbClass := ⟨[], 0, 0, 0, 0⟩

/-- A channel after reset (R358: DERATE 1; R378: ARB_MODE 0x048C3). -/
def Chan.init : Chan where
  arbMode := 0x048C3
  freeze := false
  dbgPre := false
  derate := 1
  debt := []
  eccCorr := 0
  eccUncorr := 0
  emergCnt := 0
  skipCnt := 0
  classes := []
  win := []
  wbuf := []
  wbufOld := []
  cells := []
  ecc := []
  banks := []
  inFlight := []
  lastGrant := none
  dead := none
  emergUntil := []
  emergSkip := []
  dbg := []
  trefiAt := 0
  eccDay := none
  ddrKept := false

def Tme.init : Tme where
  regs := []
  result := 0
  queue := []
  half := none
  job := none
  errSlot := 0
  errStatus := 0
  done := 0
  wins := []
  blkEnc := 0
  blkRaw := 0
  bytesOut := 0
  blkDec := 0
  decErr := 0
  errTable := 0
  errCause := 0

def KvDesc.init : KvDesc := ⟨0, false, none, 0, 0, 0, [], 0, 0, [], []⟩

def Walker.init : Walker where
  descs := []
  lab := []
  plannedBusy := []
  unschedBusy := []
  results := []
  moves := []
  events := []
  notices := []
  degraded := []
  ops := 0
  labHits := 0
  planLate := 0
  movesDone := 0
  evtDrop := 0
  evtBase := 0
  evtSize := 0
  evtProd := 0
  evtCons := 0
  dirSpace := 0
  dirIndex := 0
  wins := []

/-- A host stream after reset (R521: SFE_GAIN 0x1000). -/
def Stream.init : Stream where
  base := 0
  size := 0
  prod := 0
  cons := 0
  gain := 0x1000
  sat := 0
  missed := 0
  outUnder := 0
  startDay := none
  ahead := []
  fetchIx := 0
  backs := []
  gainLog := []
  hist := []
  taken := none
  drops := 0

def Session.init : Session := ⟨0, false, false, 0, 0, 0, 0, 0⟩

/-- An I2S port after reset (R697: AUD_GAIN 0x1000). -/
def AudPort.init : AudPort where
  run := false
  running := false
  gapBit := false
  underrun := false
  range := false
  div := 0
  frac := 0
  ratio := 0
  gain := 0x1000
  dropIn := 0
  fillOut := 0
  underCnt := 0
  levelSeq := 0
  levelPeak := 0
  fifoIn := []
  fifoOut := []
  phase := 0
  lastBit := false
  frames := 0
  part := 0
  frameAt := 0
  frameLen := 0
  startAt := 0
  coming := []
  gainLog := []
  startDay := none
  tracked := 0
  histIn := []
  histOut := []
  cur := []
  curFlags := 0
  whole := none
  taken := none
  play := none

def FhPort.init : FhPort := ⟨false, 0, [], [], [], [], [], []⟩

def FhRing.init : FhRing := ⟨0, 0, 0, 0, none⟩

def I3c.init : I3c := ⟨none, 0, [], false, false, []⟩

def Jtag.init : Jtag := ⟨0x02, [], false, false, [], 0, 0⟩

/-- The host interface after reset (R618, R697). -/
def Hif.init : Hif where
  dayIrq := false
  resync := false
  cmdEn := false
  prodErr := false
  halted := false
  linkUp := false
  width := 0
  speed := 0
  cmdBase := 0
  cmdSize := 0
  cmdProd := 0
  cmdCons := 0
  cplBase := 0
  cplSize := 0
  cplProd := 0
  cplCons := 0
  window := 0
  refused := 0
  poison := 0
  badTlp := 0
  msix := []
  pba := 0
  cfg := []
  reads := []
  wins := []
  waiting := []
  lastPort := 3
  i3c := I3c.init
  jtag := Jtag.init
  snaps := []

def Buckle.init : Buckle := ⟨0, false, false, 0, false⟩

def Arm.init : Arm := ⟨0, 0, 0⟩

def CBank.init : CBank := ⟨false, false, []⟩

/-- The census unit after reset (R631: bank 3 was last; R657: BCAST_EN and PIN_EN set). -/
def Cns.init : Cns where
  faultMask := 0
  bcastEn := true
  spill := false
  drive := false
  pinEn := true
  banks := []
  last := 3
  seq := 0
  missed := 0
  late := 0
  dup := 0
  spillLo := 0
  spillChan := 0
  spillA32 := false
  spillSize := 0
  spillProd := 0
  spillCons := 0
  arms := []
  pending := []
  made := []
  spilling := none
  driveUntil := 0
  win := none

def FltEntry.init : FltEntry := ⟨0, 0, 0, 0, none, false, 0, 0, 0, 0⟩

/-- The fault unit after reset (R653: PIN_MASK 0b1110). -/
def Flt.init : Flt where
  fwdChip := 0
  fwdMask := 0
  pinMask := 0b1110
  fatal := false
  head := 0
  tail := 0
  counts := []
  overflow := 0
  fwdDrop := 0
  log := []

/-- The global block after reset, its fuses and latched pins as log 7 names them (R675: READY is 0). -/
def Glb.init : Glb where
  stepping := .b0
  phase := .starting
  readyAt := 312500
  bootSel := 0
  bootSelErr := false
  thermWarn := false
  cause := 0
  hostAbsent := true
  ddrFail := 0
  ddrReady := 0
  holdDdr := true
  profile := 0b11
  satCluster := 0
  satChannel := 0
  cclkMhz := 0
  chipId := 0xFFFF
  roles := []
  secureBoot := false
  debugLock := false
  profileLimit := 0b01
  keyDigest := 0
  epoch := 0
  temp := []
  derateAt := 95
  tripped := false
  unlocked := 0
  uptime := 0
  porN := true
  sysRstN := true
  testEn := false
  softAt := none
  softFlr := false

/-- The chip right after a cold reset. -/
def Chip.reset : Chip where
  part := 0
  agenda := []
  now := 0
  free := 0
  glb := Glb.init
  alm := Alm.init
  hns := Hns.init
  tiles := []
  fab := Fab.init
  uml := ⟨[], 0, [], false, []⟩
  chans := []
  tmes := []
  kvw := []
  sfe := ⟨[], [], [], [], [], [], false⟩
  aud := ⟨[], 0, 0, 0, false, false, 0, []⟩
  fhe := ⟨[], [], 0, 0, false⟩
  hif := Hif.init
  bkl := ⟨[], 0, [], []⟩
  cns := Cns.init
  flt := Flt.init
  hostMem := []
  flash := []
  out := []

/-- The block right after a cold reset: no command waits. -/
def State.reset : State := ⟨[], Chip.reset⟩

end Sys2Proof.Machine
end

