-- ==== Sys2Proof/Machine/Operands.lean ====
section
/-!
DEFINITION. Machine/Operands.lean: the operand forms of the manual and the bit-field, sign-extension and byte-order
helpers they use: fields of registers and structures, bytes and lines (R9), command descriptors (R582), packets (R251,
R253, R257), EIDs and tile places (R249, R736).
-/
namespace Sys2Proof.Machine
open Sys2Proof

/-! ### Bits and bytes -/

/-- The field of len bits whose least significant bit is lo (R8). -/
def fld {n : Nat} (w : BitVec n) (lo len : Nat) : BitVec len := w.extractLsb' lo len

/-- The number in a field. -/
def fldNat {n : Nat} (w : BitVec n) (lo len : Nat) : Nat := (w.extractLsb' lo len).toNat

/-- Bit i. -/
def flag {n : Nat} (w : BitVec n) (i : Nat) : Bool := w.getLsbD i

/-- A word from fields, each its lowest bit and its value. -/
def word (fs : List (Nat × Nat)) : Word := BitVec.ofNat 32 (fs.foldl (fun a f => a + f.2 * 2 ^ f.1) 0)

/-- 1 for true. -/
def b1 (b : Bool) : Nat := if b then 1 else 0

/-- A wrapped number of w bits from an integer. -/
def ofInt (w : Nat) (i : Int) : BitVec w := BitVec.ofInt w i

/-- The number whose little-endian bytes are given (R9). -/
def leNat : List Byte → Nat
  | [] => 0
  | b :: bs => b.toNat + 256 * leNat bs

/-- The n little-endian bytes of a number. -/
def leBytes : Nat → Nat → List Byte
  | 0, _ => []
  | n + 1, v => BitVec.ofNat 8 v :: leBytes n (v / 256)

/-- n bytes from place k of a list, zero where the list ends. -/
def bytesAt (bs : List Byte) (k n : Nat) : List Byte :=
  let got := (bs.drop k).take n
  got ++ List.replicate (n - got.length) 0

/-- The little-endian number of n bytes at place k. -/
def numAt (bs : List Byte) (k n : Nat) : Nat := leNat (bytesAt bs k n)

/-- A line from at most 32 bytes, zero beyond them. -/
def lineOf (bs : List Byte) : Line := BitVec.ofNat 256 (leNat (bs.take 32))

/-- The first n bytes of a line. -/
def lineBytes (l : Line) (n : Nat := 32) : List Byte := leBytes n l.toNat

/-- Byte k of a line. -/
def lineByte (l : Line) (k : Nat) : Byte := l.extractLsb' (8 * k) 8

/-- A list with the element at place i replaced; unchanged beyond its end. -/
def setAt {α : Type} : List α → Nat → α → List α
  | [], _, _ => []
  | _ :: xs, 0, y => y :: xs
  | x :: xs, i + 1, y => x :: setAt xs i y

/-! ### Command descriptors (R582) -/

/-- Byte k of a descriptor. -/
def dByte (d : Desc) (k : Nat) : Byte := d.extractLsb' (8 * k) 8

/-- The number in n bytes from byte k of a descriptor. -/
def dNum (d : Desc) (k n : Nat) : Nat := (d.toNat / 256 ^ k) % 256 ^ n

/-- OPCODE, byte 0. -/
def dOpcode (d : Desc) : Byte := dByte d 0

/-- FLAGS, byte 1. -/
def dFlags (d : Desc) : Byte := dByte d 1

/-- TAG, bytes 4 to 7. -/
def dTag (d : Desc) : Word := d.extractLsb' 32 32

/-- No byte but OPCODE, TAG and the operands listed (first byte, count) holds a bit; FLAGS is listed when an opcode
names it (R582). -/
def dClean (d : Desc) (ops : List (Nat × Nat)) : Bool :=
  (List.range 64).all fun k =>
    dByte d k = 0 || k = 0 || (4 ≤ k && k < 8) || ops.any fun o => o.1 ≤ k && k < o.1 + o.2

/-- The descriptor whose first bytes are given, the others zero (R601). -/
def descOf (bs : List Byte) : Desc := BitVec.ofNat 512 (leNat (bs.take 64))

/-! ### Places (R249, R736) -/

/-- The EID is a tile's. -/
def isTileEid (e : Eid) : Bool := e.toNat < 256

/-- The EID of an edge endpoint that Table 1 of R249 assigns. -/
def isEdgeEid (e : Eid) : Bool :=
  let n := e.toNat
  (0x100 ≤ n && n < 0x12E) || (0x130 ≤ n && n < 0x135) || (0x138 ≤ n && n < 0x13F)

/-- Some router and endpoint have this EID. -/
def isEid (e : Eid) : Bool := isTileEid e || isEdgeEid e

/-- The EID of tile t. -/
def tileEid (t : TileId) : Eid := BitVec.ofNat 9 t.toNat

def eidChannel (c : BitVec 3) : Eid := BitVec.ofNat 9 (0x100 + c.toNat)
def eidTme (t : BitVec 4) : Eid := BitVec.ofNat 9 (0x108 + t.toNat)
def eidWalker (w : BitVec 4) : Eid := BitVec.ofNat 9 (0x118 + w.toNat)
def eidUmaed (n : Fin 6) : Eid := BitVec.ofNat 9 (0x128 + n.val)
def eidHost : Eid := 0x130
def eidCmd : Eid := 0x131
def eidBuckle : Eid := 0x132
def eidCensus : Eid := 0x133
def eidFault : Eid := 0x134
def eidSfe (n : Nat) : Eid := BitVec.ofNat 9 (0x138 + n)
def eidAudio : Eid := 0x13C
def eidFronthaul (q : Fin 2) : Eid := BitVec.ofNat 9 (0x13D + q.val)

/-- The cluster of a tile (R736). -/
def clusterOf (t : TileId) : Nat := (t.toNat / 16 / 4) * 4 + (t.toNat % 16) / 4

/-- The boundary tile router an edge router hangs on, and the port of that tile router it hangs on (R249 Table 1). -/
def edgeAt (e : Eid) : Option (TileId × RPort) :=
  let n := e.toNat
  let tile (r c : Nat) : TileId := BitVec.ofNat 8 (16 * r + c)
  if 0x100 ≤ n ∧ n < 0x108 then some (tile 0 (n - 0x100), .n)
  else if 0x128 ≤ n ∧ n < 0x12E then some (tile 0 (8 + (n - 0x128)), .n)
  else if n = 0x130 then some (tile 0 14, .n)
  else if n = 0x131 then some (tile 0 15, .n)
  else if 0x108 ≤ n ∧ n < 0x118 then some (tile (n - 0x108) 0, .w)
  else if 0x118 ≤ n ∧ n < 0x128 then some (tile (n - 0x118) 15, .e)
  else if n = 0x132 then some (tile 15 0, .s)
  else if n = 0x133 then some (tile 15 1, .s)
  else if n = 0x134 then some (tile 15 2, .s)
  else if 0x138 ≤ n ∧ n < 0x13C then some (tile 15 (3 + (n - 0x138)), .s)
  else if n = 0x13C then some (tile 15 7, .s)
  else if 0x13D ≤ n ∧ n < 0x13F then some (tile 15 (8 + (n - 0x13D)), .s)
  else none

/-- The edge router beyond a side of a boundary tile router (R249 Table 1), none where the port is unconnected. -/
def edgeBeyond (t : TileId) (p : RPort) : Option Eid :=
  let r := t.toNat / 16
  let c := t.toNat % 16
  match p with
  | .loc => none
  | .n =>
    if r ≠ 0 then none
    else if c < 8 then some (BitVec.ofNat 9 (0x100 + c))
    else if c < 14 then some (BitVec.ofNat 9 (0x128 + (c - 8)))
    else if c = 14 then some 0x130 else some 0x131
  | .w => if c ≠ 0 then none else some (BitVec.ofNat 9 (0x108 + r))
  | .e => if c ≠ 15 then none else some (BitVec.ofNat 9 (0x118 + r))
  | .s =>
    if r ≠ 15 then none
    else if c < 3 then some (BitVec.ofNat 9 (0x132 + c))
    else if c < 7 then some (BitVec.ofNat 9 (0x138 + (c - 3)))
    else if c = 7 then some 0x13C
    else if c < 10 then some (BitVec.ofNat 9 (0x13D + (c - 8))) else none

/-- The code of a router port (R261 Table 5, R641). -/
def portNo : RPort → Nat
  | .loc => 0 | .n => 1 | .e => 2 | .s => 3 | .w => 4

/-- The router port of a code, none for the codes that R261 marks. -/
def portOf : Nat → Option RPort
  | 0 => some .loc | 1 => some .n | 2 => some .e | 3 => some .s | 4 => some .w | _ => none

/-- The port at the far end of a link. -/
def opposite : RPort → RPort
  | .loc => .loc | .n => .s | .s => .n | .e => .w | .w => .e

/-- The router at the far end of output p of router r, with the input port it arrives on. An edge router's one mesh
port is modelled as the port opposite the boundary router's port. -/
def neighbour (r : Eid) (p : RPort) : Option (Eid × RPort) :=
  if isTileEid r then
    let t : TileId := BitVec.ofNat 8 r.toNat
    match edgeBeyond t p with
    | some e => some (e, opposite p)
    | none =>
      let row := t.toNat / 16
      let col := t.toNat % 16
      let at_ (x y : Nat) : Option (Eid × RPort) := some (BitVec.ofNat 9 (16 * x + y), opposite p)
      match p with
      | .loc => none
      | .n => if row = 0 then none else at_ (row - 1) col
      | .s => if row = 15 then none else at_ (row + 1) col
      | .w => if col = 0 then none else at_ row (col - 1)
      | .e => if col = 15 then none else at_ row (col + 1)
  else
    match edgeAt r with
    | some (t, side) => if p = opposite side then some (tileEid t, side) else none
    | none => none

/-! ### Packets (R251 to R257) -/

/-- TYPE codes (R256 Table 3). -/
def tDataWr : BitVec 4 := 0
def tDataWrNotify : BitVec 4 := 1
def tReadReq : BitVec 4 := 2
def tReadRsp : BitVec 4 := 3
def tBuckleOp : BitVec 4 := 4
def tKvOp : BitVec 4 := 5
def tCmd : BitVec 4 := 6
def tCmdRsp : BitVec 4 := 7
def tCensusTrig : BitVec 4 := 8
def tFault : BitVec 4 := 9

/-- The VCs a TYPE may travel on (R256 Table 3). -/
def vcAllowed (type : BitVec 4) (vc : BitVec 2) : Bool :=
  match type.toNat with
  | 0 | 1 => vc.toNat ≤ 2
  | 2 => vc = 1
  | 3 => vc = 2
  | 4 => vc = 0 || vc = 1 || vc = 3
  | 5 => vc = 0 || vc = 1
  | 6 => vc = 1
  | 7 => vc = 2
  | 8 | 9 => vc = 3
  | _ => false

/-- The bytes a LEN code means (R257 Table 4), none for a reserved code. -/
def lenBytes (l : BitVec 3) : Option Nat :=
  match l.toNat with
  | 0 => some 4 | 1 => some 8 | 2 => some 16 | 3 => some 32 | _ => none

/-- The bytes of a packet whose LEN is not reserved; a packet with a reserved LEN is dropped before it is asked (R258). -/
def pktLen (p : Packet) : Nat := (lenBytes p.len).getD 4

/-- LEN code of a byte count. -/
def lenCode (n : Nat) : BitVec 3 := if n ≤ 4 then 0 else if n ≤ 8 then 1 else if n ≤ 16 then 2 else 3

/-- FLAGS bits (R257 Table 4). -/
def pktDateline (p : Packet) : Bool := flag p.flags 0
def pktPoison (p : Packet) : Bool := flag p.flags 1
def pktSkived (p : Packet) : Bool := flag p.flags 2

/-- The packet is a request, which has one response (R274). -/
def isRequest (p : Packet) : Bool := p.vc = 1 && (p.type = tReadReq || p.type = tCmd || p.type = tKvOp)

/-- The TYPE of the response to a request (R274). -/
def responseType (p : Packet) : BitVec 4 := if p.type = tCmd then tCmdRsp else tReadRsp

/-- The first n payload bytes. -/
def pktBytes (p : Packet) (n : Nat) : List Byte := lineBytes p.payload n

/-- The payload cut to the packet's LEN: bytes at and beyond LEN are zero (R253). -/
def cutLine (l : Line) (n : Nat) : Line := lineOf (lineBytes l n)

/-- The 14 header bytes that the CRC covers first, then bytes 14 and 15 (R251 Table 2). -/
def headerBytes (p : Packet) : List Byte :=
  leBytes 2 p.dchip.toNat ++
  leBytes 2 (p.type.toNat * 4096 + p.vc.toNat * 1024 + b1 p.mc * 512 + p.deid.toNat) ++
  leBytes 2 p.schip.toNat ++
  leBytes 2 (p.seq.toNat * 512 + p.seid.toNat) ++
  leBytes 4 (p.flags.toNat * 2 ^ 27 + p.len.toNat * 2 ^ 24 + p.addr.toNat) ++
  leBytes 2 p.aux.toNat ++ leBytes 2 p.crc.toNat

/-- One bit of the CRC-16 of R253. -/
def crcBit (c : BitVec 16) : BitVec 16 := if c.msb then (c <<< 1) ^^^ 0x1021 else c <<< 1

/-- One byte of the CRC-16 of R253. -/
def crcByte (c : BitVec 16) (b : Byte) : BitVec 16 :=
  let c := c ^^^ (b.setWidth 16 <<< 8)
  crcBit (crcBit (crcBit (crcBit (crcBit (crcBit (crcBit (crcBit c)))))))

/-- CRC-16, polynomial 0x1021, initial value 0xFFFF, no reflection, no final XOR (R253). -/
def crc16 (bs : List Byte) : BitVec 16 := bs.foldl crcByte 0xFFFF

/-- The CRC of a packet: header bytes 0 to 13, then the 32 payload bytes (R253). -/
def packetCrc (p : Packet) : BitVec 16 := crc16 ((headerBytes p).take 14 ++ lineBytes p.payload)

/-- The DETAIL of a fault that shows header bytes 0 to 7 (R644 Table 6). -/
def headerDetail (p : Packet) : BitVec 64 := BitVec.ofNat 64 (leNat ((headerBytes p).take 8))

/-- A packet with every header field that the sender chooses; SCHIP, SEID, SEQ and CRC are the endpoint's (R252). -/
def packet (dchip : BitVec 16) (type : BitVec 4) (vc : BitVec 2) (deid : Eid) (bytes : Nat) (addr : BitVec 24)
    (aux : BitVec 16) (payload : Line) (flags : BitVec 5 := 0) : Packet where
  dchip := dchip
  type := type
  vc := vc
  mc := false
  deid := deid
  schip := 0
  seq := 0
  seid := 0
  flags := flags
  len := lenCode bytes
  addr := addr
  aux := aux
  crc := 0
  payload := payload

/-- The response to a request (R276, R277): to SCHIP and SEID with the request's tag. -/
def response (req : Packet) (bytes : Nat) (payload : Line) (flags : BitVec 5 := 0) : Packet :=
  packet req.schip (responseType req) 2 req.seid bytes 0 req.aux payload flags

/-- The POISON response of R277, R738: LEN 4, zero payload. -/
def poisonResponse (req : Packet) : Packet := response req 4 0 0b00010

/-- The buckle op of AUX: code [15:12], buckle [11:0] (R608). -/
def auxOp (aux : BitVec 16) : BitVec 4 := fld aux 12 4
def auxBuckle (aux : BitVec 16) : BitVec 12 := fld aux 0 12

/-- The response slot and the incarnation of a tag (R256). -/
def tagSlot (tag : BitVec 16) : BitVec 5 := fld tag 0 5
def tagInc (tag : BitVec 16) : BitVec 11 := fld tag 5 11

/-- The tag of a slot. -/
def tagOf (slot : Nat) (inc : BitVec 11) : BitVec 16 := BitVec.ofNat 16 (inc.toNat * 32 + slot)

end Sys2Proof.Machine
end

