-- ==== Sys2Proof/Machine/Flags.lean ====
section
/-!
DEFINITION. Machine/Flags.lean: the flag and counter computations of the manual: counters that saturate (R288, R333,
R378, R618, R657), W1C fields (R16), C8 and accumulator saturation counts.
-/
namespace Sys2Proof.Machine
open Sys2Proof

/-- A counter of w bits that saturates at its maximum, after n more events. -/
def satAdd {w : Nat} (c : BitVec w) (n : Nat) : BitVec w :=
  if c.toNat + n < 2 ^ w then BitVec.ofNat w (c.toNat + n) else BitVec.allOnes w

/-- The same after one more event. -/
def satInc {w : Nat} (c : BitVec w) : BitVec w := satAdd c 1

/-- A W1C bit after a write of v: a 1 clears it (R16). -/
def w1c (old : Bool) (v : Word) (bit : Nat) : Bool := old && !(flag v bit)

/-- An integer held between two bounds, with whether it was outside them. -/
def clampInt (x lo hi : Int) : Int × Bool :=
  if x < lo then (lo, true) else if hi < x then (hi, true) else (x, false)

/-- An integer as a 40-bit two's complement value that saturates, with whether it did. -/
def sat40 (x : Int) : BitVec 40 × Bool :=
  let (y, s) := clampInt x (-(2 ^ 39)) (2 ^ 39 - 1)
  (BitVec.ofInt 40 y, s)

/-- An integer as 16 bits that saturates. -/
def sat16 (x : Int) : BitVec 16 := BitVec.ofInt 16 (clampInt x (-32768) 32767).1

/-- An unsigned sum of 16-bit indices modulo 2^16: how far `a` is ahead of `b` (R581, R639). -/
def ahead16 (a b : BitVec 16) : Nat := (a - b).toNat

end Sys2Proof.Machine
end

