-- ==== Sys2Proof/Machine/Ops.lean ====
section
/-!
DEFINITION. Machine/Ops.lean: the named operations every family of commands is written over: sparse tables and byte
memories in their canonical form, the units of the chip by number, events to come, free values, time stamps, packets
sent, MSI-X vectors, faults logged and census triggers.
-/
namespace Sys2Proof.Machine
open Sys2Proof

/-! ### Sparse tables and byte memories -/

/-- The value at key k; what no entry names is the default. -/
def tget {α : Type} (d : α) : Table α → Nat → α
  | [], _ => d
  | (i, x) :: t, k => if i = k then x else tget d t k

/-- An entry put before the first one of a higher key. -/
def tins {α : Type} : Table α → Nat → α → Table α
  | [], k, v => [(k, v)]
  | (i, x) :: t, k, v => if i < k then (i, x) :: tins t k v else (k, v) :: (i, x) :: t

/-- The table without key k. -/
def terase {α : Type} : Table α → Nat → Table α
  | [], _ => []
  | (i, x) :: t, k => if i = k then terase t k else (i, x) :: terase t k

/-- The table with value v at key k, still in canonical form: a value equal to the default takes no entry. -/
def tput {α : Type} [DecidableEq α] (d : α) (t : Table α) (k : Nat) (v : α) : Table α :=
  if v = d then terase t k else tins (terase t k) k v

/-- Keys strictly rising from a bound, no entry equal to the default. -/
def tableFrom {α : Type} [DecidableEq α] (d : α) : Nat → Table α → Bool
  | _, [] => true
  | b, (i, x) :: t => decide (b ≤ i) && decide (x ≠ d) && tableFrom d (i + 1) t

/-- The canonical form of a sparse table. -/
def tableWf {α : Type} [DecidableEq α] (d : α) (t : Table α) : Bool := tableFrom d 0 t

/-- The canonical form of a byte memory: addresses strictly rising, no byte equal to what an unlisted address reads
as, which is 0 (R674 for SRAM; log 5 and 6 for the others). -/
def Memory.wf (m : List Host.Cell) : Bool := tableWf (0 : Byte) m

/-- One byte of a memory. -/
def mget (m : List Host.Cell) (a : Nat) : Byte := tget 0 m a

/-- One byte written. -/
def mput (m : List Host.Cell) (a : Nat) (b : Byte) : List Host.Cell := tput 0 m a b

/-- n bytes from address a. -/
def mread (m : List Host.Cell) (a : Nat) : Nat → List Byte
  | 0 => []
  | n + 1 => mget m a :: mread m (a + 1) n

/-- Bytes written from address a. -/
def mwrite (m : List Host.Cell) (a : Nat) : List Byte → List Host.Cell
  | [] => m
  | b :: bs => mwrite (mput m a b) (a + 1) bs

/-- The line at byte address a. -/
def mline (m : List Host.Cell) (a : Nat) : Line := lineOf (mread m a 32)

/-- A row's effect on the chip: a next state, with the queue as it is. -/
def State.run (s : State) (f : Chip → Chip) : Host.Outcome State Fault Refusal := .next { s with chip := f s.chip }

/-! ### The units of a chip -/

namespace Chip

def tile (c : Chip) (t : TileId) : Tile := tget Tile.init c.tiles t.toNat
def onTile (c : Chip) (t : TileId) (f : Tile → Tile) : Chip :=
  { c with tiles := tput Tile.init c.tiles t.toNat (f (c.tile t)) }

/-- The tiles that are not as after reset. -/
def tileKeys (c : Chip) : List TileId :=
  ((c.tiles.map fun kt => kt.1).filter fun k => decide (k < 256)).dedup.map fun k => BitVec.ofNat 8 k

/-- Every tile that is not as after reset, changed the same way. -/
def everyTile (c : Chip) (f : Tile → Tile) : Chip := c.tileKeys.foldl (fun c t => c.onTile t f) c

def chan (c : Chip) (k : BitVec 3) : Chan := tget Chan.init c.chans k.toNat
def onChan (c : Chip) (k : BitVec 3) (f : Chan → Chan) : Chip :=
  { c with chans := tput Chan.init c.chans k.toNat (f (c.chan k)) }

def tme (c : Chip) (k : BitVec 4) : Tme := tget Tme.init c.tmes k.toNat
def onTme (c : Chip) (k : BitVec 4) (f : Tme → Tme) : Chip :=
  { c with tmes := tput Tme.init c.tmes k.toNat (f (c.tme k)) }

def walker (c : Chip) (k : BitVec 4) : Walker := tget Walker.init c.kvw k.toNat
def onWalker (c : Chip) (k : BitVec 4) (f : Walker → Walker) : Chip :=
  { c with kvw := tput Walker.init c.kvw k.toNat (f (c.walker k)) }

def router (c : Chip) (r : Eid) : Router := tget Router.init c.fab.routers r.toNat
def onRouter (c : Chip) (r : Eid) (f : Router → Router) : Chip :=
  { c with fab := { c.fab with routers := tput Router.init c.fab.routers r.toNat (f (c.router r)) } }

def endp (c : Chip) (e : Eid) : Endp := tget Endp.init c.fab.ends e.toNat
def onEndp (c : Chip) (e : Eid) (f : Endp → Endp) : Chip :=
  { c with fab := { c.fab with ends := tput Endp.init c.fab.ends e.toNat (f (c.endp e)) } }

def link (c : Chip) (n : Fin 6) : Link := tget Link.init c.uml.links n.val
def onLink (c : Chip) (n : Fin 6) (f : Link → Link) : Chip :=
  { c with uml := { c.uml with links := tput Link.init c.uml.links n.val (f (c.link n)) } }

def stream (c : Chip) (s : BitVec 12) : Stream := tget Stream.init c.sfe.streams s.toNat
def onStream (c : Chip) (s : BitVec 12) (f : Stream → Stream) : Chip :=
  { c with sfe := { c.sfe with streams := tput Stream.init c.sfe.streams s.toNat (f (c.stream s)) } }

def session (c : Chip) (i : BitVec 10) : Session := tget Session.init c.sfe.sessions i.toNat
def onSession (c : Chip) (i : BitVec 10) (f : Session → Session) : Chip :=
  { c with sfe := { c.sfe with sessions := tput Session.init c.sfe.sessions i.toNat (f (c.session i)) } }

def audPort (c : Chip) (p : Fin 8) : AudPort := tget AudPort.init c.aud.ports p.val
def onAud (c : Chip) (p : Fin 8) (f : AudPort → AudPort) : Chip :=
  { c with aud := { c.aud with ports := tput AudPort.init c.aud.ports p.val (f (c.audPort p)) } }

def fhPort (c : Chip) (q : Fin 2) : FhPort := tget FhPort.init c.fhe.ports q.val
def onFh (c : Chip) (q : Fin 2) (f : FhPort → FhPort) : Chip :=
  { c with fhe := { c.fhe with ports := tput FhPort.init c.fhe.ports q.val (f (c.fhPort q)) } }

def fhRing (c : Chip) (r : BitVec 3) : FhRing := tget FhRing.init c.fhe.rings r.toNat
def onRing (c : Chip) (r : BitVec 3) (f : FhRing → FhRing) : Chip :=
  { c with fhe := { c.fhe with rings := tput FhRing.init c.fhe.rings r.toNat (f (c.fhRing r)) } }

def onBkl (c : Chip) (f : Bkl → Bkl) : Chip := { c with bkl := f c.bkl }

def buckle (c : Chip) (n : BitVec 12) : Buckle := tget Buckle.init c.bkl.file n.toNat
def onBuckle (c : Chip) (n : BitVec 12) (f : Buckle → Buckle) : Chip :=
  c.onBkl fun k => { k with file := tput Buckle.init k.file n.toNat (f (c.buckle n)) }

def region (c : Chip) (r : BitVec 6) : Region := tget Region.init c.hns.regions r.toNat
def onRegion (c : Chip) (r : BitVec 6) (f : Region → Region) : Chip :=
  { c with hns := { c.hns with regions := tput Region.init c.hns.regions r.toNat (f (c.region r)) } }

def onGlb (c : Chip) (f : Glb → Glb) : Chip := { c with glb := f c.glb }
def onAlm (c : Chip) (f : Alm → Alm) : Chip := { c with alm := f c.alm }
def onHns (c : Chip) (f : Hns → Hns) : Chip := { c with hns := f c.hns }
def onFab (c : Chip) (f : Fab → Fab) : Chip := { c with fab := f c.fab }
def onHif (c : Chip) (f : Hif → Hif) : Chip := { c with hif := f c.hif }

def onI3c (c : Chip) (f : I3c → I3c) : Chip := { c with hif := { c.hif with i3c := f c.hif.i3c } }
def onJtag (c : Chip) (f : Jtag → Jtag) : Chip := { c with hif := { c.hif with jtag := f c.hif.jtag } }
def onCns (c : Chip) (f : Cns → Cns) : Chip := { c with cns := f c.cns }
def onFlt (c : Chip) (f : Flt → Flt) : Chip := { c with flt := f c.flt }

/-! ### Events to come, what the ports put out, free values -/

/-- Row i comes n cycles from now (log 4). -/
def post (c : Chip) (n : Nat) (i : Instr) : Chip := { c with agenda := c.agenda ++ [(c.now + n, i)] }

/-- Row i comes at cycle t of GLB_UPTIME (log 4). -/
def postAt (c : Chip) (t : Nat) (i : Instr) : Chip := { c with agenda := c.agenda ++ [(t, i)] }

/-- Rows to come that are taken back. -/
def unpost (c : Chip) (p : Instr → Bool) : Chip := { c with agenda := c.agenda.filter fun a => !(p a.2) }

/-- A port puts something out. -/
def emit (c : Chip) (o : Out) : Chip := { c with out := c.out ++ [o] }

/-- The next free value of w bits (log 10). -/
def drawBits (c : Chip) (w : Nat) : BitVec w × Chip := (Config.freeBits w c.free, { c with free := c.free + 1 })

/-- The next free choice. -/
def drawBool (c : Chip) : Bool × Chip := (Config.freeBool c.free, { c with free := c.free + 1 })

/-- The next free number. -/
def drawNat (c : Chip) : Nat × Chip := (Config.freeNat c.free, { c with free := c.free + 1 })

/-! ### Identity, profile, time -/

/-- The DCHIP or SCHIP names this chip (R251, R255). -/
def isHere (c : Chip) (chip : BitVec 16) : Bool := chip = 0xFFFF || chip = c.glb.chipId

/-- The Satchel profile is in force (R684). -/
def satchel (c : Chip) : Bool := c.glb.profile = 2

/-- No harness image is in force: GLB_PROFILE.PROFILE is 0b11 (R690). -/
def noHarness (c : Chip) : Bool := c.glb.profile = 3

/-- GLB_STATUS.READY (R675). -/
def ready (c : Chip) : Bool := match c.glb.phase with | .up => true | _ => false

/-- The tile's role is off (R120, R121). -/
def roleOff (c : Chip) (t : TileId) : Bool := c.glb.roles.getD t.toNat 1 = 0

/-- The tile lies outside the Satchel cluster in the Satchel profile (R52). -/
def outsideSatchel (c : Chip) (t : TileId) : Bool := c.satchel && clusterOf t ≠ c.glb.satCluster.toNat

/-- TILE_STATUS.OFF: the harness or the profile switches the tile off (R199). -/
def tileOff (c : Chip) (t : TileId) : Bool := c.roleOff t || c.outsideSatchel t

/-- The channel is one the profile enables (R684). -/
def chanOn (c : Chip) (k : BitVec 3) : Bool := !c.satchel || k = c.glb.satChannel

/-- The unit of one cluster is one the profile enables (R701). -/
def clusterOn (c : Chip) (k : BitVec 4) : Bool := !c.satchel || k = c.glb.satCluster

/-- The EID is one that R52, R573 or Table 1 of R249 leave without a reachable endpoint. -/
def unassigned (c : Chip) (e : Eid) : Bool :=
  if isTileEid e then c.tileOff (BitVec.ofNat 8 e.toNat)
  else if isEdgeEid e then
    c.satchel &&
      ((0x100 ≤ e.toNat && e.toNat < 0x108 && e.toNat - 0x100 ≠ c.glb.satChannel.toNat) ||
       (0x128 ≤ e.toNat && e.toNat < 0x12E) || e = 0x13D || e = 0x13E)
  else true

/-- The LTS of this cycle (R19, R21, R70). -/
def lts (c : Chip) : Lts :=
  (c.alm.dayCount.setWidth 42).append
    (if c.alm.running then BitVec.ofNat 22 c.alm.cycle else (0x3FFFFF : BitVec 22))

/-- Cycles from this one to the one of an LTS, days taken at ALM_DAY_LEN (R519, R633). DAY of both is ALM_DAYCOUNT[41:0]
(R19, R23). -/
def cyclesTo (c : Chip) (t : Lts) : Int :=
  ((fldNat t 22 42 : Int) - fldNat c.lts 22 42) * c.alm.dayLen.toNat + fldNat t 0 22 - fldNat c.lts 0 22

/-- DAY of an LTS. -/
def ltsDay (l : Lts) : BitVec 42 := fld l 22 42

/-- The Vigil's first cycle, L - V (02_almanac). -/
def vigilStart (c : Chip) : Nat := c.alm.dayLen.toNat - c.alm.vigilLen.toNat

/-- N = L - 1. -/
def nominalEnd (c : Chip) : Nat := c.alm.dayLen.toNat - 1

/-- The cycle of the Vigil, once it has begun. -/
def vigilCycle (c : Chip) : Nat := c.alm.cycle - c.vigilStart

/-- The day plan in force (R63): of the PLAN_ID that ALM_PLAN_CUR shows. -/
def plan (c : Chip) : Option DayPlan := c.hns.plans.find? fun p => p.planId = c.alm.planCur.toNat

/-- The records in force of one section and KIND (R117). -/
def recs (c : Chip) (sec : Byte) (kind : Byte) : List Rec :=
  c.hns.records.filter fun r => r.sec = sec && r.kind = kind

/-- The record in force of one section, KIND and TARGET. -/
def findRec (c : Chip) (sec kind : Byte) (target : Nat) : Option Rec :=
  c.hns.records.find? fun r => r.sec = sec && r.kind = kind && r.target.toNat = target

/-! ### Packets -/

/-- The source's header fields: SCHIP, SEID, the next SEQ of the VC, the CRC (R252, R253). The payload is cut to LEN. -/
def stamp (c : Chip) (e : Eid) (p : Packet) : Packet × Chip :=
  let ep := c.endp e
  let q : Packet :=
    { p with
      schip := c.glb.chipId
      seid := e
      seq := tget 0 ep.seq p.vc.toNat
      payload := if p.type = tReadReq then 0 else cutLine p.payload (pktLen p) }
  ({ q with crc := packetCrc q },
   c.onEndp e fun x => { x with seq := tput 0 x.seq p.vc.toNat (tget 0 x.seq p.vc.toNat + 1) })

/-- Endpoint e sends a packet. A VC1 packet goes to the injection queue and takes its header fields when it is injected
(R272); any other takes them now and waits for its place at the router, from `delay`
cycles on (R271, R276). -/
def send (c : Chip) (e : Eid) (p : Packet) (delay : Nat := 0) : Chip :=
  if p.vc = 1 then c.onEndp e fun x => { x with queue := x.queue ++ [p] }
  else
    let (q, c) := c.stamp e p
    c.onEndp e fun x => { x with outq := x.outq ++ [⟨q, c.now + delay⟩] }

/-- Whether endpoint e has a free response slot (R275). -/
def freeSlot (c : Chip) (e : Eid) : Option Nat :=
  (List.range 32).find? fun k => !(tget RspSlot.init (c.endp e).slots k).busy

/-- A request of endpoint e with a response slot of its own (R275): the slot is reserved and its tag put in AUX. With no
free slot nothing is queued. -/
def sendRequest (c : Chip) (e : Eid) (p : Packet) (use : SlotUse) : Chip :=
  match c.freeSlot e with
  | none => c
  | some k =>
    let s := tget RspSlot.init (c.endp e).slots k
    let c := c.onEndp e fun x =>
      { x with slots := tput RspSlot.init x.slots k { s with busy := true, day := none, upto := 0, use := use } }
    c.send e { p with aux := tagOf k s.inc }

/-! ### MSI-X (R579; the table works as the PCIe Base Specification gives, log 9) -/

/-- An entry nothing has written: its vector is masked (R697). -/
def msixMasked : BitVec 128 := 1 <<< 96

/-- A write of bytes into host memory. -/
def hostWrite (c : Chip) (a : Nat) (bs : List Byte) : Chip := { c with hostMem := mwrite c.hostMem a bs }

/-- A vector is raised: an unmasked one writes its data to its address, a masked one pends. -/
def vector (c : Chip) (v : Nat) : Chip :=
  let e := tget msixMasked c.hif.msix v
  if flag e 96 then c.onHif fun h => { h with pba := h.pba ||| (1 <<< v) }
  else c.hostWrite (fldNat e 0 64) (leBytes 4 (fldNat e 64 32))

/-! ### Census triggers (R627 to R629) -/

/-- The trigger drives CENSUS_TRIG low for 64 cycles while CNS_CTL.DRIVE is 1 (R629). -/
def drivePin (c : Chip) : Chip :=
  if c.cns.drive then
    ((c.onCns fun k => { k with driveUntil := c.now + 64 }).emit (.trigPin false)).post 64 .censusTrigRelease
  else c

/-- A trigger whose latch comes `lead` cycles on, 16 after its edge (R627). A trigger whose latch falls within 64 cycles
after one made or pending is ignored and counted; triggers of one latch cycle share it (R628). -/
def trigger (c : Chip) (l : Latch) (lead : Nat := 16) : Chip :=
  let t := c.now + lead
  let shared := c.cns.pending.any fun x => x.at_ = t
  let tooSoon := (c.cns.pending.any fun x => x.at_ < t && t ≤ x.at_ + 64) ||
    (c.cns.made.any fun x => x.1 < t && t ≤ x.1 + 64)
  if tooSoon && !shared then c.onCns fun k => { k with dup := satInc k.dup }
  else
    let c := if 2 ≤ l.code.toNat && l.code.toNat ≤ 5 then c.drivePin else c
    let c := c.onCns fun k => { k with pending := k.pending ++ [{ l with at_ := t }] }
    if shared then c else c.post lead .censusLatch

/-! ### Faults (R643 to R653) -/

/-- Entries not yet acknowledged (R649). -/
def unacked (c : Chip) : Nat := ahead16 c.flt.tail c.flt.head

/-- The class of a fault code (R643). -/
def faultClass (code : BitVec 16) : Nat := fldNat code 12 4

/-- The place of the unacknowledged entry that an occurrence merges into (R647): same day, CODE, SOURCE, UNIT, CHIP. -/
def mergePlace (c : Chip) (e : FltEntry) : Option Nat :=
  ((List.range c.unacked).map fun k => (c.flt.head.toNat + k) % 256).find? fun i =>
    let x := tget FltEntry.init c.flt.log i
    ltsDay x.lts = ltsDay e.lts && x.code = e.code && x.source = e.source && x.unit = e.unit && x.chip = e.chip

/-- The 32 bytes of a log entry (R646 Table 7). -/
def entryBytes (e : FltEntry) : List Byte :=
  leBytes 8 e.lts.toNat ++ leBytes 2 e.code.toNat ++ leBytes 2 e.source.toNat ++ leBytes 2 e.unit.toNat ++
  [match e.region with | some r => r.setWidth 8 ||| 0x80 | none => 0] ++ [BitVec.ofNat 8 (b1 e.remote)] ++
  leBytes 4 e.count.toNat ++ leBytes 8 e.detail.toNat ++ leBytes 2 e.chip.toNat ++ leBytes 2 e.seq.toNat

/-- The address under which the I3C target answers and interrupts: its dynamic one once it has one, else the static one (R597). -/
def i3cAddress (c : Chip) : BitVec 7 := c.hif.i3c.dyn.getD 0x2A

/-- What a new entry sets off: vector 1 and an in-band interrupt (R652), the forward (R651), the census (R627). -/
def newEntry (c : Chip) (e : FltEntry) : Chip :=
  let k := faultClass e.code
  let c := (c.vector 1).emit (.ibi c.i3cAddress 0x02)
  let c := if !e.remote && flag c.flt.fwdMask (k - 1) then
      c.send eidFault (packet c.flt.fwdChip tFault 3 eidFault 32 0 e.code (lineOf (entryBytes e)))
    else c
  if flag c.cns.faultMask (k - 1) then c.trigger ⟨0, 0x05, 0, 0, e.code, none⟩ else c

/-- The fault unit takes one occurrence (R645 to R649): counts it; merges it, or writes a new entry, or, with 256
unacknowledged entries, discards it, but a FATAL one overwrites the newest. -/
def takeFault (c : Chip) (e : FltEntry) : Chip :=
  let k := faultClass e.code
  let c := c.onFlt fun f => { f with
    counts := tput 0 f.counts k (satInc (tget 0 f.counts k))
    fatal := f.fatal || (k = 5 && !e.remote) }
  match c.mergePlace e with
  | some i => c.onFlt fun f =>
      let x := tget FltEntry.init f.log i
      { f with log := tput FltEntry.init f.log i { x with count := satInc x.count } }
  | none =>
    let e : FltEntry := { e with seq := c.flt.tail }
    if c.unacked < 256 then
      (c.onFlt fun f => { f with
        log := tput FltEntry.init f.log (f.tail.toNat % 256) e
        tail := f.tail + 1 }).newEntry e
    else if k = 5 then
      (c.onFlt fun f => { f with
        log := tput FltEntry.init f.log ((f.tail - 1).toNat % 256) e }).newEntry e
    else c.onFlt fun f => { f with overflow := satInc f.overflow }

/-- A block of this chip logs a fault on this cycle (R644 Table 6, R646 Table 7). -/
def logFault (c : Chip) (code : BitVec 16) (source : Eid) (unit : Nat) (detail : Nat)
    (region : Option (BitVec 6) := none) : Chip :=
  c.takeFault
    { lts := c.lts, code := code, source := source, unit := BitVec.ofNat 16 unit, region := region, remote := false,
      count := 1, detail := BitVec.ofNat 64 detail, chip := c.glb.chipId, seq := 0 }

/-- FAULT_N is driven low: an unacknowledged entry of a class in PIN_MASK or of class FATAL (R653). -/
def faultN (c : Chip) : Bool :=
  (List.range c.unacked).any fun k =>
    let cls := faultClass (tget FltEntry.init c.flt.log ((c.flt.head.toNat + k) % 256)).code
    cls = 5 || (1 ≤ cls && cls ≤ 4 && flag c.flt.pinMask (cls - 1))

/-! ### Completions (R583, R587) -/

/-- PORT of a completion (R583 Table 4). -/
def portCode : Src → BitVec 2
  | .pcie => 0 | .i3c => 1 | .jtag => 2 | .umaed .. => 3

/-- The 16 bytes of a completion, PHASE given (R583 Table 4). -/
def completionBytes (k : Completion) (phase : Bool) : List Byte :=
  leBytes 4 k.tag.toNat ++ [k.opcode, k.status, BitVec.ofNat 8 (k.port.toNat + 128 * b1 phase), k.aux] ++
  leBytes 8 k.result.toNat

/-- Whether a ring size code is in the range that R618 gives. -/
def ringLog (size lo hi : Nat) : Bool := lo ≤ size && size ≤ hi

/-- Completions the PCIe ring still owes: images the loader holds, buckle commands under way, a MODE 0 census (R585). -/
def owed (c : Chip) (src : Src) : Nat :=
  (c.hns.jobs.filter fun j => !j.fromBoot && portCode j.src = portCode src).length +
  ((c.bkl.waits ++ c.bkl.remote).filter fun w => portCode w.src = portCode src).length +
  (c.cns.pending.filter fun l => match l.answer with | some (s, _) => portCode s = portCode src | none => false).length

/-- The port has room for one more completion (R583, R586, R587). -/
def cplRoom (c : Chip) (src : Src) : Bool :=
  match src with
  | .pcie => ringLog c.hif.cplSize.toNat 4 12 &&
      ahead16 c.hif.cplProd c.hif.cplCons + c.owed src < 2 ^ c.hif.cplSize.toNat
  | .i3c => c.hif.i3c.cpls.length + c.owed src < 4
  | .jtag => c.hif.jtag.cpls.length + c.owed src < 4
  | .umaed .. =>
      ((c.endp eidCmd).outq.filter fun f => f.pkt.type = tCmdRsp).length + c.owed src < 8

/-- A command completes: its completion goes to its own port (R583, R587, R598, R601). A REFUSED_PORT counts in
HIF_REFUSED (R618). -/
def complete (c : Chip) (src : Src) (tag : Word) (opcode status : Byte) (aux : Byte := 0) (result : BitVec 64 := 0) :
    Chip :=
  let k : Completion := ⟨tag, opcode, status, portCode src, aux, result⟩
  let c := if status = 0x03 then c.onHif fun h => { h with refused := satInc h.refused } else c
  match src with
  | .pcie =>
    let size := 2 ^ c.hif.cplSize.toNat
    let phase := (c.hif.cplProd.toNat / size) % 2 = 0
    let c := c.hostWrite (c.hif.cplBase.toNat + 16 * (c.hif.cplProd.toNat % size)) (completionBytes k phase)
    (c.onHif fun h => { h with cplProd := h.cplProd + 1 }).vector 0
  | .i3c => (c.onI3c fun x => { x with cpls := x.cpls ++ [k] }).emit (.ibi c.i3cAddress 0x01)
  | .jtag => c.onJtag fun x => { x with cpls := x.cpls ++ [k] }
  | .umaed chip eid rtag =>
    c.send eidCmd (packet chip tCmdRsp 2 eid 16 0 rtag (lineOf (completionBytes k false)))

end Chip

end Sys2Proof.Machine
end

