-- ==== Sys2Proof/Machine/Tile.lean ====
section
/-!
DEFINITION. Machine/Tile.lean: what the rows of one tile share (04_tile, 05_code): SRAM places, pending register writes
and the order in which they land (R173, R174), planned bank accesses and their priorities (R165), C8 arithmetic (R192,
R222, R226, R228), stats, the sequencer's loops (R180, R181) and an overrun's halt (R739).
-/
namespace Sys2Proof.Machine
open Sys2Proof

/-! ### C8 arithmetic -/

/-- n / 2^k to the nearest, ties away from zero (R222). -/
def roundHaz (n : Int) (k : Int) : Int :=
  if k ≤ 0 then n * 2 ^ (-k).toNat
  else
    let m := (n.natAbs + 2 ^ (k.toNat - 1)) / 2 ^ k.toNat
    if 0 ≤ n then m else -(m : Int)

/-- A group's exponent: the least from -8 for which the largest magnitude rounds to at most 127, at most 7 (R226). -/
def groupExp (m : Nat) (b : Int) : Nat → Int → Int
  | 0, e => e
  | fuel + 1, e => if e < 7 ∧ 127 < roundHaz m (b + e) then groupExp m b fuel (e + 1) else e

/-- A group of samples as C8 codes with its exponent, and whether a code was clamped (R226, R227). -/
def encodeGroup (vs : List Int) (b : Int) : List Byte × Int × Bool :=
  let m := vs.foldl (fun a v => max a v.natAbs) 0
  let e := groupExp m b 15 (-8)
  let q := vs.map fun v => clampInt (roundHaz v (b + e)) (-127) 127
  (q.map fun x => BitVec.ofInt 8 (128 + x.1), e, q.any fun x => x.2)

/-- A code back as a sample, before the output width's saturation (R228). -/
def decodeCode (q : Byte) (b e : Int) : Int :=
  let v : Int := (q.toNat : Int) - 128
  if 0 ≤ b + e then v * 2 ^ (b + e).toNat else roundHaz v (-(b + e))

/-- The exponent of a nibble (R216 Table 2). -/
def expOf (n : BitVec 4) : Int := n.toInt

/-! ### Registers of a tile -/

namespace Tile

/-- The bank of an SRAM byte address (R160). -/
def bankOf (a : BitVec 19) : Nat := fldNat a 5 4

/-- A register A. -/
def areg (t : Tile) (i : BitVec 4) : BitVec 19 := tget 0 t.a i.toNat

/-- Lane j of a register V. -/
def lane (t : Tile) (i : BitVec 4) (j : Nat) : BitVec 40 := tget 0 t.v (32 * i.toNat + j)

/-- The 32 lanes of a register V. -/
def lanes (t : Tile) (i : BitVec 4) : List (BitVec 40) := (List.range 32).map (t.lane i)

/-- Accumulator j. -/
def accum (t : Tile) (j : Nat) : BitVec 40 := tget 0 t.acc j

/-- The line that holds an SRAM address: its low bits are ignored (R160). -/
def sramLine (t : Tile) (a : BitVec 19) : Line := mline t.sram (a.toNat / 32 * 32)

/-! #### Pending writes (R173, R174) -/

/-- What a pending write writes: one key per register. -/
def target : RegWrite → Nat
  | .addr d _ => 100 + d.toNat
  | .lanes d _ _ => 200 + d.toNat
  | .template k _ => 300 + k.toNat
  | .templateAddr k _ => 300 + k.toNat
  | .macc _ => 1
  | .exponents _ => 2
  | .zeroPoint _ => 3
  | .swap => 4
  | .preStats .. => 5

/-- Another write of the same cycle and register is kept in place of w: its slot stands earlier in the order of R174,
or it is the same slot and issued later. -/
def beaten (w : Pend) (ws : List Pend) : Bool :=
  100 ≤ target w.write &&
    ws.any fun x => target x.write = target w.write && (x.rank < w.rank || (x.rank = w.rank && w.issued < x.issued))

/-- Adds the sums of an MMAC, each accumulator saturating and each saturation counted (R192, R193, R221). -/
def addSums (t : Tile) (ps : List Int) : Tile :=
  (ps.zipIdx).foldl
    (fun t p =>
      let (v, s) := sat40 ((t.accum p.2).toInt + p.1)
      { t with acc := tput 0 t.acc p.2 v, satAcc := if s then satInc t.satAcc else t.satAcc })
    t

/-- Writes lanes from `first` on, of the 32 that a register has. -/
def setLanes (t : Tile) (d : BitVec 4) (first : Nat) (vs : List (BitVec 40)) : Tile :=
  { t with v := ((vs.take (32 - first)).zipIdx).foldl (fun v x => tput 0 v (32 * d.toNat + first + x.2) x.1) t.v }

/-- |x| of a 40-bit value, as 40 unsigned bits. -/
def mag40 (x : Int) : BitVec 40 := BitVec.ofNat 40 x.natAbs

/-- Live PRE of channel k raised (R229). -/
def raisePre (t : Tile) (k : Nat) (x : Int) : Tile :=
  let old := tget 0 t.livePre k
  { t with livePre := tput 0 t.livePre k (if old.toNat < x.natAbs then mag40 x else old) }

/-- Live PRE of the channels from `base` on, modulo 1,024, raised (R187 Table 6, VSTAT). -/
def raisePres (t : Tile) (base : Nat) (vs : List Int) : Tile :=
  vs.zipIdx.foldl (fun t x => t.raisePre ((base + x.2) % 1024) x.1) t

/-- One write becomes readable. An LDE with fewer than 64 free entries pushes nothing (R190). -/
def landOne (t : Tile) : RegWrite → Tile
  | .addr d v => { t with a := tput 0 t.a d.toNat v }
  | .lanes d first vs => t.setLanes d first vs
  | .template k v => { t with tmpl := tput 0 t.tmpl k.toNat v }
  | .templateAddr k v =>
    let old := tget 0 t.tmpl k.toNat
    let cleared := old &&& ~~~((0xFFFFFF : BitVec 128) <<< 64)
    { t with tmpl := tput 0 t.tmpl k.toNat (cleared ||| (v.setWidth 128 <<< 64)) }
  | .macc ps => t.addSums ps
  | .exponents es => if 64 ≤ 128 - t.eq.length then { t with eq := t.eq ++ es } else { t with eqOvf := true }
  | .zeroPoint v => { t with za := v }
  | .swap => { t with wAct := t.wShd, wShd := t.wAct, csAct := t.csShd, csShd := t.csAct }
  | .preStats base vs => t.raisePres base vs

/-- The writes due by cycle `now` land, at the start of that cycle. -/
def land (t : Tile) (now : Nat) : Tile :=
  let ds := t.pend.filter fun w => w.due ≤ now
  let t := { t with pend := t.pend.filter fun w => now < w.due }
  (ds.filter fun w => !(beaten w ds)).foldl (fun t w => t.landOne w.write) t

/-- A result that becomes readable `lat` cycles after issue. -/
def later (t : Tile) (now lat rank : Nat) (w : RegWrite) : Tile :=
  { t with pend := t.pend ++ [⟨now + lat, now, rank, w, t.secNo⟩] }

/-- A planned access on cycle `cycle`, its result readable from `due`. -/
def plan (t : Tile) (cycle : Nat) (addr : BitVec 19) (prio due : Nat) (what : Access) : Tile :=
  { t with micro := t.micro ++ [⟨cycle, addr, prio, due, what, t.secNo⟩] }

/-- Bank b has a planned access on this cycle (R167, R168). -/
def bankBusy (t : Tile) (now : Nat) (b : Nat) : Bool :=
  t.micro.any fun m => m.cycle = now && bankOf m.addr = b

/-- The banks that unscheduled accesses have taken on this cycle (R161). -/
def taken (t : Tile) (now : Nat) : List Nat := if t.took.1 = now then t.took.2 else []

/-- An unscheduled access takes bank b on this cycle. -/
def take (t : Tile) (now : Nat) (b : Nat) : Tile := { t with took := (now, b :: t.taken now) }

/-- Bank b is free for an unscheduled access on this cycle. -/
def bankFree (t : Tile) (now : Nat) (b : Nat) : Bool := !(t.bankBusy now b) && !((t.taken now).contains b)

/-! #### Places in the order of Table 1 and of R174 -/

/-- Priority of a VC0 arrival by its input port: N, E, S, W (R165); a tile's packet to itself, which the manual does not rank,
comes after them (log 109). -/
def arrivalPrio : RPort → Nat
  | .n => 10 | .e => 11 | .s => 12 | .w => 13 | .loc => 14
def prioLs : Nat := 20
def prioWeights : Nat := 30
def prioMac : Nat := 40
def prioSend : Nat := 50
def prioRecv : Nat := 60

/-- Ranks of R174 for address registers: CTL, LS, MXU, FAB. -/
def rankCtl : Nat := 0
def rankLsA : Nat := 1
def rankMxuA : Nat := 2
def rankFabA : Nat := 3
/-- Ranks of R174 for vector registers: VXU, LS, MXU. -/
def rankVxu : Nat := 0
def rankLsV : Nat := 1
def rankMxuV : Nat := 2
/-- Ranks of R174 for a send template: LS, FAB. -/
def rankLsT : Nat := 0
def rankFabT : Nat := 1

/-! #### MXU -/

/-- The column sums of a block, over all 32 rows (R192, R204). -/
def columnSums (w : Table Byte) : Table Int :=
  let raw := w.foldl
    (fun (acc : List Int) x => setAt acc (x.1 % 32) (acc.getD (x.1 % 32) 0 + x.2.toNat)) (List.replicate 32 0)
  (raw.zipIdx).foldl (fun t x => tput 0 t x.2 (x.1 - 4096)) []

/-- MWLD reads row i into the shadow block, whose column sums follow (R192, R204). -/
def weightRow (t : Tile) (i : Nat) (l : Line) : Tile :=
  let w := (List.range 32).foldl (fun w j => tput 0 w (32 * i + j) (lineByte l j)) t.wShd
  { t with wShd := w, csShd := columnSums w }

/-- The sums p[j] of R192 for activation line l, with the active block and zero point za. -/
def products (t : Tile) (l : Line) (za : Byte) : List Int :=
  let a : List Int := (List.range 32).map fun i => (lineByte l i).toNat
  (List.range 32).map fun j =>
    (a.zipIdx).foldl (fun s x => s + ((tget 0 t.wAct (32 * x.2 + j)).toNat - 128 : Int) * x.1) 0
      - za.toNat * tget 0 t.csAct j

/-! #### What a served access does (R161, R187) -/

/-- A winning access takes place, or a losing read returns 32 zero bytes; a losing write is discarded (R165). A SEND's
packet and a DATA_WR_NOTIFY's buckle op go out beside this (Machine/TileRows.lean). -/
def serve (t : Tile) (m : Micro) (win : Bool) : Tile :=
  let l : Line := if win then t.sramLine m.addr else 0
  let putFrom (issued rank : Nat) (w : RegWrite) : Tile := { t with pend := t.pend ++ [⟨m.due, issued, rank, w, m.sec⟩] }
  let put := putFrom m.cycle
  match m.what with
  | .loadBytes d => put rankLsV (.lanes d 0 ((List.range 32).map fun j => (lineByte l j).setWidth 40))
  | .loadWide d k =>
    putFrom (m.cycle - k) rankLsV (.lanes d (4 * k) ((List.range 4).map fun j => l.extractLsb' (64 * j) 40))
  | .loadExp => put rankLsV (.exponents ((List.range 64).map fun j => l.extractLsb' (4 * j) 4))
  | .loadAddr d => put rankLsA (.addr d (l.extractLsb' (8 * (m.addr.toNat % 32 / 4 * 4)) 19))
  | .loadTemplate k => put rankLsT (.template k (l.extractLsb' (8 * (m.addr.toNat % 32 / 16 * 16)) 128))
  | .store line =>
    if win then { t with sram := mwrite t.sram (m.addr.toNat / 32 * 32) (lineBytes line) } else t
  | .weightRow i => t.weightRow i l
  | .mac shift za => put 0 (.macc ((t.products l za).map fun p => p * 2 ^ shift))
  | .sendPayload _ => t
  | .arrival n data _ => if win then { t with sram := mwrite t.sram m.addr.toNat (lineBytes data n) } else t

/-- Access i of the list, m, loses its bank to another of its cycle (R165). One requester of Table 1 with two accesses on one
cycle is served in both banks (log 110). Two of one rank of Table 1 in one bank have
no order in the manual: which one wins is free (log 19). -/
def loses (m : Micro) (i : Nat) (ms : List Micro) : Bool :=
  ms.zipIdx.any fun x =>
    x.2 ≠ i && bankOf x.1.addr = bankOf m.addr &&
      (x.1.prio < m.prio ||
       (x.1.prio = m.prio && (if Config.freeBool m.cycle then decide (x.2 < i) else decide (i < x.2))))

/-! #### Stats (R229, R231) -/

/-- Live POST of channel k raised. -/
def raisePost (t : Tile) (k : Nat) (x : Int) : Tile :=
  let old := tget 0 t.livePost k
  { t with livePost := tput 0 t.livePost k (if old.toNat < x.natAbs then BitVec.ofNat 8 x.natAbs else old) }

/-- WINDOW as it acts: 0 means 256 (R236). -/
def window (t : Tile) : Nat := if t.statCtl = 0 then 256 else t.statCtl.toNat

/-! #### The sequencer -/

/-- After bundle b: the loops still active, the bundle that follows, and the cycles to gate before it (R180, R181). -/
def after : List Loop → BitVec 11 → List Loop × BitVec 11 × Nat
  | [], b => ([], b + 1, 0)
  | l :: ls, b =>
    if b = l.last then
      if 0 < l.left then ({ l with left := l.left - 1 } :: ls, l.first, 0)
      else
        let (ls', n, pad) := after ls b
        (ls', n, l.pad + pad)
    else (l :: ls, b + 1, 0)

/-- The bundle at nextPc issues on cycle `now`: TILE_PC, the loops and the bundle after it. -/
def issue (t : Tile) (now : Nat) : Tile :=
  let b := t.nextPc
  let (ls, n, pad) := after t.loops b
  { t with pc := b, nextPc := n, loops := ls, gated := 0 < pad,
           hold := if 0 < pad then .pad (now + pad) else .none }

/-- An overrun's halt (R88, R177, R739): the section ends; what it issued and has not completed by the end of this cycle is
abandoned. What an earlier section issued before its HALT completes (R175, R739). -/
def overrun (t : Tile) (now : Nat) : Tile :=
  { t with
    inSection := false, gated := true, loose := false, hold := .none, recvWait := none, loops := [],
    pend := t.pend.filter fun w => w.sec ≠ t.secNo,
    lsUntil := if t.lsSec = t.secNo then 0 else t.lsUntil,
    winOvr := t.winOvr || t.winOpen,
    micro := t.micro.filter fun m =>
      m.prio < prioLs || m.sec ≠ t.secNo ||
      (m.cycle ≤ now && match m.what with
        | .store _ => true
        | .weightRow _ => true
        | .sendPayload _ => true
        | _ => false) }

end Tile

end Sys2Proof.Machine
end

