-- ==== Sys2Proof/Machine/Settings.lean ====
section
/-!
DEFINITION. Machine/Settings.lean: the settings of R590 Table 7 and what a write in force does to them (R97 to R102, R109,
R157), and the stat windows of a tile (R230 to R238).
-/
namespace Sys2Proof.Machine
open Sys2Proof

namespace Chip

/-! ### Settings -/

/-- The bits of new that mask selects, the others of old (R590). -/
def maskBits (old value mask : BitVec 64) : BitVec 64 := (old &&& ~~~mask) ||| (value &&& mask)

/-- A value that changes on a day goes into its log as it was before that day: the days of the longest block, 160, are kept
(R480, R522, R528). -/
def logDay (l : List (BitVec 64 × BitVec 16)) (day : BitVec 64) (before : BitVec 16) : List (BitVec 64 × BitVec 16) :=
  let l := l.filter fun g => day.toNat < g.1.toNat + 161
  if l.any fun g => g.1 = day then l else l ++ [(day, before)]

/-- The value on day d of what such a log is about, now being `value`. -/
def onDay (l : List (BitVec 64 × BitVec 16)) (value : BitVec 16) (d : Nat) : BitVec 16 :=
  match l.find? fun g => d < g.1.toNat with
  | some g => g.2
  | none => value

/-- The day from which settings applied now are in force. -/
def dayInForce (c : Chip) : BitVec 64 := if c.alm.running then c.alm.dayCount + 1 else c.alm.dayCount

/-- One settings write comes into force. -/
def applySetting (c : Chip) (w : Setting) : Chip :=
  let n := w.unit.toNat
  match w.kind.toNat with
  | 0 => c.onTile (BitVec.ofNat 8 n) fun t =>
      { t with ct := tput 0 t.ct w.index (maskBits (tget 0 t.ct w.index) w.value w.mask) }
  | 1 => c.onTile (BitVec.ofNat 8 n) fun t =>
      let byte (old : Byte) (b : Nat) : Byte :=
        (old &&& ~~~(w.mask.extractLsb' (8 * b) 8)) ||| (w.value.extractLsb' (8 * b) 8 &&& w.mask.extractLsb' (8 * b) 8)
      let put (l : Table Byte) (b : Nat) : Table Byte :=
        tput 0 l (4 * w.index + b) (byte (tget 0 l (4 * w.index + b)) b)
      { t with lut := (List.range 4).foldl put t.lut }
  | 2 => c.onTile (BitVec.ofNat 8 n) fun t =>
      { t with statCtl := (maskBits (t.statCtl.setWidth 64) w.value w.mask).setWidth 8 }
  | 3 => c.onStream (BitVec.ofNat 12 n) fun s =>
      { s with
        gain := (maskBits (s.gain.setWidth 64) w.value w.mask).setWidth 16
        gainLog := logDay s.gainLog c.dayInForce s.gain }
  | 4 => if h : n < 8 then c.onAud ⟨n, h⟩ fun p =>
      { p with
        gain := (maskBits (p.gain.setWidth 64) w.value w.mask).setWidth 16
        gainLog := logDay p.gainLog c.dayInForce p.gain } else c
  | 5 => if h : n < 2 then c.onFh ⟨n, h⟩ fun p =>
      { p with dayOfs := (maskBits (p.dayOfs.setWidth 64) w.value w.mask).setWidth 15 } else c
  | _ => c

/-- Settings writes come into force in the order their generations were given; ALM_GEN takes the last (R99, R100, R102). -/
def applySettings (c : Chip) (ws : List Setting) : Chip :=
  let c := ws.foldl applySetting c
  match ws.getLast? with
  | some w =>
    let c := { c with sfe := { c.sfe with gens := logDay c.sfe.gens c.dayInForce c.alm.gen } }
    c.onAlm fun a => { a with gen := w.gen }
  | none => c

/-! ### Stat windows (R230 to R238) -/

/-- Every tile that is not off. -/
def liveTiles (c : Chip) : List TileId :=
  ((List.range 256).map fun t => BitVec.ofNat 8 t).filter fun t => !(c.tileOff t)

/-- A window opens on tile t with this day. -/
def openWindow (t : Tile) : Tile :=
  { t with winOpen := true, winLen := t.window, winDays := 1, winMixed := false, winOvr := false }

/-- Cycle 0 of a day on one tile (R230, R233): a window that runs takes the day, any other opens. HALTV's hold of the day
before ends (R176). -/
def dayOnTile (gen : Bool) (t : Tile) : Tile :=
  let switched := t.winSwitch
  let t := { t with skipDay := false, winSwitch := false }
  if t.winOpen then { t with winDays := t.winDays + 1, winMixed := t.winMixed || gen || switched } else openWindow t

/-- A settings write that changes tile t's WINDOW comes into force at the next day (R236). -/
def windowChanges (c : Chip) (t : TileId) : Bool :=
  let x := c.tile t
  let due := c.alm.settings.filter fun w =>
    w.kind = 2 && w.unit.toNat = t.toNat && w.day.toNat ≤ c.alm.dayCount.toNat + 1
  let new := due.foldl (fun v w => (maskBits (v.setWidth 64) w.value w.mask).setWidth 8) x.statCtl
  new ≠ x.statCtl

/-- The running window closes at Vigil cycle 16: its last day, or short of it by R236, or by a STOP written before that
cycle (R237). -/
def windowEnds (c : Chip) (t : TileId) : Bool :=
  let x := c.tile t
  x.winLen ≤ x.winDays || c.windowChanges t || (c.alm.stopReq && c.alm.stopAtVigil16)

/-- The running window of tile t closes on this cycle: Vigil cycle 16, or the last cycle of a day whose STOP came on that
cycle or after it (R231, R237). -/
def closesNow (c : Chip) (t : TileId) : Bool :=
  c.alm.running && c.alm.inVigil && (c.tile t).winOpen &&
    ((c.alm.cycle = c.vigilStart + 16 && c.windowEnds t) ||
     (c.alm.dayEnded && c.alm.stopReq && decide (16 ≤ c.vigilCycle)))

/-- The close (R231, R232, R235, R238): the live values become the record, with TILE_STAT_LTS and TILE_STAT_INFO. -/
def closeWindow (c : Chip) (t : TileId) : Chip :=
  c.onTile t fun x =>
    { x with
      recPre := x.livePre
      recPost := x.livePost
      livePre := []
      livePost := []
      statLts := (c.alm.dayCount.setWidth 42).append (BitVec.ofNat 22 (c.vigilStart + 16))
      statGen := c.alm.gen
      statDays := BitVec.ofNat 9 x.winDays
      statShort := x.winDays < x.winLen
      statOvr := x.winOvr
      statMixed := x.winMixed
      statValid := true
      statSeq := x.statSeq + 1
      winOpen := false }

end Chip

/-- STAT_WINDOW_CLOSE (R231, R232, R235, R236, R237, R238): at Vigil cycle 16, or at the last cycle of a day whose STOP
came after it. -/
def execStatWindowClose (t : TileId) (s : State) : Host.Outcome State Fault Refusal :=
  s.run fun c => if c.closesNow t then c.closeWindow t else c

end Sys2Proof.Machine
end

