-- ==== Sys2Proof/Machine/Dram.lean ====
section
/-!
DEFINITION. Machine/Dram.lean: one LPDDR5X channel (08_memory): its configuration, the address map, inline ECC, the write
buffer, GAPs, refresh debt and the pre-emption windows, and the arbiter.
-/
namespace Sys2Proof.Machine
open Sys2Proof

/-- The two outcomes of a read of one line (R343): the line, or an uncorrectable error. -/
abbrev LineRead := Option Line

namespace Chip

/-! ### Configuration (R346, R377) -/

/-- The body of channel k's KIND 1 MEMORY_PLAN record in force. -/
def chanCfg (c : Chip) (k : BitVec 3) : Option (List Byte) :=
  (c.findRec 0x08 1 k.toNat).map fun r => r.body

/-- The channel has passed training (R681). -/
def trained (c : Chip) (k : BitVec 3) : Bool := flag c.glb.ddrReady k.toNat

/-- A number of n bytes of the record; 0 without one. -/
def cfgNum (c : Chip) (k : BitVec 3) (at_ n : Nat) : Nat :=
  match c.chanCfg k with
  | some b => numAt b at_ n
  | none => 0

/-- The channel's capacity in bytes (R346). -/
def capacity (c : Chip) (k : BitVec 3) : Nat :=
  if (c.chanCfg k).isSome && c.trained k then 2 ^ (30 + c.cfgNum k 1 1) else 0

def txnLen (c : Chip) (k : BitVec 3) : Nat := c.cfgNum k 12 1
def trefi (c : Chip) (k : BitVec 3) : Nat := c.cfgNum k 8 2
def emergLen (c : Chip) (k : BitVec 3) : Nat := c.cfgNum k 10 2

/-- Two ranks: A[15] is the rank (R340). -/
def twoRanks (c : Chip) (k : BitVec 3) : Bool := c.cfgNum k 2 1 = 2

/-- RD_LAT (R351 Table 5). -/
def rdLat (c : Chip) (k : BitVec 3) : Nat :=
  match c.cfgNum k 0 1 with
  | 0 => 64 | 1 => 70 | _ => 80

/-- What Table 5 adds to TXN_LEN for an unscheduled read. -/
def rspExtra (c : Chip) (k : BitVec 3) : Nat :=
  match c.cfgNum k 0 1 with
  | 0 => 16 | 1 => 20 | _ => 26

/-- The DRAM day plan of channel k in the day plan in force (R60, R348): its record body. -/
def dramPlan (c : Chip) (k : BitVec 3) : Option (List Byte) :=
  match c.plan with
  | none => none
  | some p =>
    ((c.recs 0x08 0).find? fun r =>
      r.target.toNat = k.toNat && numAt r.body 0 2 = (p.dram.getD k.toNat 0xFFFF).toNat).map fun r => r.body

/-- Tags that the planned traffic reserves: none while the almanac is stopped (R375, R740). -/
def resvTags (c : Chip) (k : BitVec 3) : Nat :=
  if c.alm.running then
    match c.dramPlan k with
    | some b => numAt b 4 1
    | none => 0
  else 0

/-! ### The address map (R340) -/

/-- The bank of a linear address, as BANK of Table 3: bank group, bank, rank. -/
def bankOfAddr (c : Chip) (k : BitVec 3) (a : Nat) : Nat := (a / 2048) % (if c.twoRanks k then 32 else 16)

/-- The rank of a bank. -/
def rankOf (b : Nat) : Nat := b / 16

/-- The linear address of a line of a row of a bank. -/
def lineAddr (c : Chip) (k : BitVec 3) (bank row col : Nat) : Nat :=
  if c.twoRanks k then row * 65536 + bank * 2048 + col * 32 else row * 32768 + (bank % 16) * 2048 + col * 32

/-! ### Inline ECC (R341, R343) -/

/-- How many bits of an error are set. -/
def weight (b : BitVec 272) : Nat := (List.range 272).foldl (fun n i => n + b1 (flag b i)) 0

/-- A single-bit error is counted, and logged once per channel and day (R343). -/
def eccCorrected (c : Chip) (k : BitVec 3) (a : Nat) : Chip :=
  let first := (c.chan k).eccDay ≠ some c.alm.dayCount
  let c := c.onChan k fun x => { x with eccCorr := satInc x.eccCorr, eccDay := some c.alm.dayCount }
  if first then c.logFault 0x1001 (eidChannel k) k.toNat a else c

/-- An uncorrectable error is counted and logged (R343). -/
def eccFailed (c : Chip) (k : BitVec 3) (a : Nat) : Chip :=
  (c.onChan k fun x => { x with eccUncorr := satInc x.eccUncorr }).logFault 0x2005 (eidChannel k) k.toNat a

/-- A read of the line at linear address a whose check word says e (R343). With three or more flipped bits the outcome is
free among the three that R343 allows (log 12). -/
def readChecked (c : Chip) (k : BitVec 3) (a : Nat) (e : Ecc) : LineRead × Chip :=
  let a := a / 32 * 32
  let l := mline (c.chan k).cells a
  match e with
  | .clean => (some l, c)
  | .bad => (none, c.eccFailed k a)
  | .flips e =>
    let n := weight e
    if n = 0 then (some l, c)
    else if n = 1 then (some l, c.eccCorrected k a)
    else if n = 2 then (none, c.eccFailed k a)
    else
      let (m, c) := c.drawNat
      let (j, c) := c.drawNat
      let raw := l ^^^ e.setWidth 256
      if m % 3 = 0 then (none, c.eccFailed k a)
      else if m % 3 = 1 then (some (raw ^^^ (1 <<< (j % 272))), c.eccCorrected k a)
      else (some raw, c)

/-- A read with the check word as the check area holds it. -/
def readLine (c : Chip) (k : BitVec 3) (a : Nat) : LineRead × Chip :=
  c.readChecked k a (tget Ecc.clean (c.chan k).ecc (a / 32))

/-- A whole line is written with its check word (R343). -/
def writeLine (c : Chip) (k : BitVec 3) (a : Nat) (l : Line) : Chip :=
  c.onChan k fun x =>
    { x with cells := mwrite x.cells (a / 32 * 32) (lineBytes l), ecc := tput Ecc.clean x.ecc (a / 32) .clean }

/-- A write of n bytes: a whole line, or a line read, merged and written; over an uncorrectable line the check word is
written so that every later read fails (R343). -/
def writeBytes (c : Chip) (k : BitVec 3) (a n : Nat) (l : Line) : Chip :=
  if n = 32 then c.writeLine k a l
  else
    let (old, c) := c.readLine k a
    let merged (o : Line) : Line := lineOf (((List.range 32).map fun j =>
      if a % 32 ≤ j ∧ j < a % 32 + n then lineByte l (j - a % 32) else lineByte o j))
    match old with
    | some o => c.writeLine k a (merged o)
    | none =>
      (c.writeLine k a (merged (mline (c.chan k).cells (a / 32 * 32)))).onChan k fun x =>
        { x with ecc := tput Ecc.clean x.ecc (a / 32) .bad }

/-! ### The write buffer (R347, R352) -/

/-- Slot s is filled; what it held is kept for the WRs of the next four cycles. -/
def fillSlot (c : Chip) (k : BitVec 3) (s : Nat) (l : Line) : Chip :=
  c.onChan k fun x =>
    { x with
      wbuf := tput 0 x.wbuf s l
      wbufOld := (x.wbufOld.filter fun o => c.now ≤ o.1 + 4) ++ [(c.now, s, tget 0 x.wbuf s)] }

/-- Slot s as it stood 4 cycles before this one (R352): fills since then are undone. -/
def slotBefore (c : Chip) (k : BitVec 3) (s : Nat) : Line :=
  let x := c.chan k
  match x.wbufOld.find? fun o => o.2.1 = s && c.now < o.1 + 4 with
  | some o => o.2.2
  | none => tget 0 x.wbuf s

/-! ### Banks, GAPs (R349, R354, R362) -/

def bank (c : Chip) (k : BitVec 3) (b : Nat) : Bank := tget Bank.init (c.chan k).banks b
def onBank (c : Chip) (k : BitVec 3) (b : Nat) (f : Bank → Bank) : Chip :=
  c.onChan k fun x => { x with banks := tput Bank.init x.banks b (f (tget Bank.init x.banks b)) }

/-- The check buffer of bank b takes the check area of its open row (R342); no row, no buffer. -/
def loadCheck (c : Chip) (k : BitVec 3) (b : Nat) : Chip :=
  match (c.bank k b).row with
  | none => c.onBank k b fun x => { x with check := [], dirty := false }
  | some r =>
    let words := (List.range 60).map fun n => (n, tget Ecc.clean (c.chan k).ecc (c.lineAddr k b r.toNat n / 32))
    c.onBank k b fun x => { x with check := words.filter fun w => w.2 ≠ .clean, dirty := false }

/-- The check buffer of bank b goes back to its row's check area if a write changed it (R342). -/
def storeCheck (c : Chip) (k : BitVec 3) (b : Nat) : Chip :=
  let x := c.bank k b
  match x.row with
  | none => c
  | some r =>
    if x.dirty then
      let put (t : Table Ecc) (n : Nat) : Table Ecc :=
        tput Ecc.clean t (c.lineAddr k b r.toNat n / 32) (tget Ecc.clean x.check n)
      (c.onChan k fun y => { y with ecc := (List.range 60).foldl put y.ecc }).onBank k b fun y => { y with dirty := false }
    else c

/-- ACT (R342, R349): the row opens and its check area is read. -/
def activate (c : Chip) (k : BitVec 3) (b : Nat) (row : BitVec 18) : Chip :=
  (c.onBank k b fun x => { x with row := some row }).loadCheck k b

/-- A precharge (R342): the check buffer goes back, and the row closes. -/
def precharge (c : Chip) (k : BitVec 3) (b : Nat) : Chip :=
  (c.storeCheck k b).onBank k b fun x => { x with row := none, check := [], dirty := false }

/-- The banks of a rank. -/
def rankBanks (rank : Nat) : List Nat := (List.range 16).map fun b => 16 * rank + b

/-- This cycle lies in the closing GAP (R354). -/
def closingGap (c : Chip) : Bool :=
  c.alm.dayLen.toNat < c.alm.cycle + c.alm.tickTol.toNat + 128

/-- The earliest last cycle that the tick rules allow for this day, as a cycle of GLB_UPTIME (R354). -/
def earliestEnd (c : Chip) : Nat :=
  c.now - c.alm.cycle +
    (if c.alm.tickSrc = 3 || c.alm.holdover then c.nominalEnd else c.nominalEnd - c.alm.tickTol.toNat)

/-- A transaction of TXN_LEN cycles granted on this cycle lies in a GAP open on bank b and does not pass the GAP's end, its
last cycle (R354, R362; log 22). While the almanac is stopped every bank lies in a GAP without end (R740). -/
def inGap (c : Chip) (k : BitVec 3) (b : Nat) : Bool :=
  if !c.alm.running then true
  else
    let fits (last : Nat) : Bool := c.now + c.txnLen k ≤ min last c.earliestEnd
    ((c.bank k b).gaps.any fun g => c.now < g && fits (g - 1)) || (c.closingGap && fits c.earliestEnd)

/-- The day's end cuts short every GAP that covers it (R354). -/
def cutGaps (c : Chip) : Chip :=
  c.chans.foldl
    (fun c kx => kx.2.banks.foldl
      (fun c b => c.onBank (BitVec.ofNat 3 kx.1) b.1 fun y => { y with gaps := [] }) c) c

/-! ### Refresh debt (R355) -/

def debtOf (c : Chip) (k : BitVec 3) (rank : Nat) : Int := tget 0 (c.chan k).debt rank

/-- Debt changes, held between -128 and +128 (R355). -/
def addDebt (c : Chip) (k : BitVec 3) (rank : Nat) (d : Int) : Chip :=
  c.onChan k fun x => { x with debt := tput 0 x.debt rank (clampInt (tget 0 x.debt rank + d) (-128) 128).1 }

/-- DERATE as an accrual uses it (R358, R687). -/
def derateNow (c : Chip) (k : BitVec 3) : Nat :=
  if c.glb.thermWarn then max 2 (c.chan k).derate.toNat else (c.chan k).derate.toNat

/-! ### Pre-emption windows (R357, R359) -/

/-- The emergency window of a rank covers this cycle. -/
def inEmergency (c : Chip) (k : BitVec 3) (rank : Nat) : Bool := c.now < tget 0 (c.chan k).emergUntil rank

/-- The window covers this cycle on bank b. -/
def dbgCovers (c : Chip) (b : Nat) (w : DbgWin) : Bool := w.bank = b && w.start ≤ c.now && c.now < w.upto

/-- A DEBUG window covers this cycle on bank b. -/
def inDebug (c : Chip) (k : BitVec 3) (b : Nat) : Bool := (c.chan k).dbg.any (c.dbgCovers b)

/-- What skips a planned issue: the emergency window of a rank, or the DEBUG window of a bank. -/
inductive SkipBy where
  | rank (r : Nat)
  | bank (b : Nat)
deriving DecidableEq, Repr

/-- A planned issue to these banks is skipped on this cycle, and by which window (R357, R359). -/
def skippedBy (c : Chip) (k : BitVec 3) (bs : List Nat) : Option SkipBy :=
  if bs.any fun b => rankOf b = 0 && c.inEmergency k 0 then some (.rank 0)
  else if bs.any fun b => rankOf b = 1 && c.inEmergency k 1 then some (.rank 1)
  else (bs.find? fun b => c.inDebug k b).map .bank

/-- One more issue skipped in the first DEBUG window that covers bank b. -/
def skipIn (c : Chip) (b : Nat) : List DbgWin → List DbgWin
  | [] => []
  | w :: ws => if c.dbgCovers b w then { w with skipped := w.skipped + 1 } :: ws else w :: c.skipIn b ws

/-- One skipped issue is counted (R357, R359). -/
def countSkip (c : Chip) (k : BitVec 3) (w : SkipBy) : Chip :=
  let c := c.onChan k fun x => { x with skipCnt := satInc x.skipCnt }
  match w with
  | .rank r => c.onChan k fun x => { x with emergSkip := tput 0 x.emergSkip r (tget 0 x.emergSkip r + 1) }
  | .bank b => c.onChan k fun x => { x with dbg := c.skipIn b x.dbg }

/-- Unscheduled transactions under way on banks that p holds go back to the heads of their class queues, the earliest
granted first (R357, R740), a DEBUG access that was granted among them (R360); one that pre-empts (R359) is none of the
arbiter's and stays (log 116). -/
def abortTxns (c : Chip) (k : BitVec 3) (p : Nat → Bool) : Chip :=
  let x := c.chan k
  let hit := x.inFlight.filter fun t => p (c.bankOfAddr k t.2.addr) && !t.2.debug
  let back (cl : Nat) : List Txn := (hit.filter fun t => t.2.cls.toNat = cl).map fun t => t.2
  let put (cs : Table ArbClass) (cl : Nat) : Table ArbClass :=
    let a := tget ArbClass.init cs cl
    tput ArbClass.init cs cl { a with queue := back cl ++ a.queue }
  let c := c.onChan k fun x => { x with
    inFlight := x.inFlight.filter fun t => !(p (c.bankOfAddr k t.2.addr) && !t.2.debug)
    classes := (List.range 4).foldl put x.classes }
  hit.foldl (fun c t => c.onBank k (c.bankOfAddr k t.2.addr) fun b => { b with busyUntil := 0 }) c

/-- At cycle 0 of day 0 every unscheduled transaction still under way goes back to its queue (R740). -/
def abortAll (c : Chip) : Chip := (List.range 8).foldl (fun c k => c.abortTxns (BitVec.ofNat 3 k) fun _ => true) c

/-! ### The arbiter (R361 to R366) -/

def arbClass (c : Chip) (k : BitVec 3) (cl : Nat) : ArbClass := tget ArbClass.init (c.chan k).classes cl
def onClass (c : Chip) (k : BitVec 3) (cl : Nat) (f : ArbClass → ArbClass) : Chip :=
  c.onChan k fun x => { x with
    classes := tput ArbClass.init x.classes cl (f (tget ArbClass.init x.classes cl)) }

/-- Unscheduled tags taken (R376): requests queued or under way, and responses to READ_REQs that have not left. -/
def tagsUsed (c : Chip) (k : BitVec 3) : Nat :=
  (List.range 4).foldl (fun n cl => n + (c.arbClass k cl).queue.length) 0 + (c.chan k).inFlight.length +
    ((c.endp (eidChannel k)).outq.filter fun f => f.pkt.vc = 2 && !f.pkt.debug).length

/-- Free unscheduled tags (R375, R378): none until the channel has trained. -/
def tagsFree (c : Chip) (k : BitVec 3) : Nat :=
  if c.trained k then 64 - c.resvTags k - c.tagsUsed k else 0

/-- The class of a request (R361 Table 6). -/
def classOf (c : Chip) (p : Packet) : BitVec 2 :=
  let n := p.seid.toNat
  if !(c.isHere p.schip) then 1
  else if p.debug then 3
  else if 0x118 ≤ n ∧ n < 0x128 then 0
  else if 0x108 ≤ n ∧ n < 0x118 then 1
  else if n = 0x133 then 3
  else 2

/-- The class's mode is AGE, else BACKOFF (R364). -/
def ageMode (c : Chip) (k : BitVec 3) (cl : Nat) : Bool := flag (c.chan k).arbMode cl

/-- Effective priority (R364 Table 7). -/
def arbPrio (c : Chip) (k : BitVec 3) (cl : Nat) : Nat :=
  let base := fldNat (c.chan k).arbMode (4 + 4 * cl) 4
  if c.ageMode k cl then min (base + (c.arbClass k cl).age.toNat) 15 else base

/-- The head of a class is eligible on this cycle (R362, R740). -/
def eligible (c : Chip) (k : BitVec 3) (cl : Nat) : Bool :=
  match (c.arbClass k cl).queue with
  | [] => false
  | t :: _ =>
    let b := c.bankOfAddr k t.addr
    c.trained k && !(c.chan k).freeze && (c.arbClass k cl).backUntil ≤ c.now && (c.bank k b).busyUntil ≤ c.now &&
      !(c.inEmergency k (rankOf b)) && !(c.inDebug k b) && c.inGap k b &&
      (c.alm.running || (!c.alm.armed && c.debtOf k (rankOf b) < 16))

/-- A round may fall on this cycle (R363, R365). -/
def mayGrant (c : Chip) (k : BitVec 3) : Bool :=
  let x := c.chan k
  (match x.lastGrant with | none => true | some t => t + 4 ≤ c.now) && x.dead ≠ some c.now

/-- The class that this cycle's round goes to (R363). -/
def arbWinner (c : Chip) (k : BitVec 3) : Option Nat :=
  if c.mayGrant k then
    ((List.range 4).filter (c.eligible k)).foldl
      (fun best cl =>
        match best with
        | none => some cl
        | some b => if c.arbPrio k b < c.arbPrio k cl then some cl else some b)
      none
  else none

/-- A losing head's counts (R364). -/
def loseRound (c : Chip) (k : BitVec 3) (cl : Nat) : Chip :=
  let aged := c.ageMode k cl
  c.onClass k cl fun a =>
    let a := { a with losses := satInc a.losses }
    if aged then { a with age := if a.age = 15 then 15 else a.age + 1 }
    else
      let n := min 10 (a.n.toNat + 1)
      { a with n := BitVec.ofNat 4 n, backUntil := c.now + 2 ^ n }

/-- The winner's grant: its bank is held for TXN_LEN cycles (R362, R364). -/
def grantHead (c : Chip) (k : BitVec 3) (cl : Nat) : Chip :=
  match (c.arbClass k cl).queue with
  | [] => c
  | t :: rest =>
    let len := c.txnLen k
    let aged := c.ageMode k cl
    let c := c.onClass k cl fun a =>
      if aged then { a with queue := rest, age := 0 } else { a with queue := rest, n := 0, backUntil := 0 }
    let c := c.onBank k (c.bankOfAddr k t.addr) fun b => { b with busyUntil := c.now + len }
    (c.onChan k fun x => { x with
      inFlight := x.inFlight ++ [(c.now + len, t)]
      lastGrant := some c.now }).post len (.transactionComplete k)

/-- A round (R363, R364). -/
def arbRound (c : Chip) (k : BitVec 3) : Chip :=
  match c.arbWinner k with
  | none => c
  | some w =>
    let losers := (List.range 4).filter fun cl => cl ≠ w && c.eligible k cl
    let c := losers.foldl (fun c cl => c.loseRound k cl) c
    c.grantHead k w

/-- An unscheduled request joins its class (R361). -/
def enqueueTxn (c : Chip) (k : BitVec 3) (t : Txn) : Chip :=
  c.onClass k t.cls.toNat fun a => { a with queue := a.queue ++ [t] }

/-- A DEBUG access with pre-emption (R359): from the next cycle it holds its bank for 2 x TXN_LEN cycles, also within the
window of another; a transaction under way on that bank goes back to its queue. The bank's planned row is precharged, and
activated again at the window's end. -/
def debugPreempt (c : Chip) (k : BitVec 3) (t : Txn) : Chip :=
  let upto := c.now + 1 + 2 * c.txnLen k
  let b := c.bankOfAddr k t.addr
  let c := (c.abortTxns k fun x => x = b).storeCheck k b
  let c := c.onBank k b fun x => { x with busyUntil := max x.busyUntil upto }
  (c.onChan k fun x => { x with
    inFlight := x.inFlight ++ [(upto, t)]
    dbg := x.dbg ++ [⟨c.now + 1, upto, b, 0⟩] }).postAt upto (.transactionComplete k)

/-- Linear address of a packet (R344). -/
def windowAddr (c : Chip) (k : BitVec 3) (p : Packet) : Nat :=
  let i := if c.isHere p.schip then p.seid.toNat else 0x1FF
  (tget 0 (c.chan k).win i).toNat * 2 ^ 24 + p.addr.toNat

end Chip

end Sys2Proof.Machine
end

