-- ==== Sys2Proof/Machine/Fabric.lean ====
section
/-!
DEFINITION. Machine/Fabric.lean: the Stitch fabric (06_stitch): routing, credits, output arbitration, multicast, the way
onto an Umaed link, the VC1 throttle, response slots and their time-out.
-/
namespace Sys2Proof.Machine
open Sys2Proof

/-- The row that a packet's arrival at endpoint e is. A TYPE that no block of Table 3 of R256 could take there still
gets the row of its TYPE, whose meaning drops it under R738; none for a BUCKLE_OP or KV_OP away from its block. -/
def arrivalRow (e : Eid) (p : Packet) (inPort : RPort) (link : Option (Fin 6)) : Option Instr :=
  let n := e.toNat
  match p.type.toNat with
  | 0 =>
    if 0x100 ≤ n ∧ n < 0x108 ∧ p.vc = 1 ∧ p.len = 0 ∧ p.addr = 0xFFFFF0 then
      some (.memWinWrite (BitVec.ofNat 3 (n - 0x100)) p)
    else if 0x108 ≤ n ∧ n < 0x118 then some (.tmeDescriptorPacket (BitVec.ofNat 4 (n - 0x108)) p)
    else if 0x118 ≤ n ∧ n < 0x128 then
      if p.addr = 0x200000 then some (.ringNotice (BitVec.ofNat 4 (n - 0x118)) p)
      else some (.scoreWrite (BitVec.ofNat 4 (n - 0x118)) p)
    else some (.dataWr e p inPort)
  | 1 => some (.dataWrNotify e p inPort)
  | 2 => some (.readReq e p)
  | 3 => some (.readRsp e p)
  | 4 =>
    if e = eidBuckle then
      match (auxOp p.aux).toNat with
      | 0 => some (.fasten p)
      | 1 => if p.len = 0 then some (.fastenN p) else some (.reservedBuckleOp p)
      | 2 => some (.unfasten p)
      | 3 => if p.len = 0 then some (.set p) else some (.reservedBuckleOp p)
      | _ => some (.reservedBuckleOp p)
    else none
  | 5 =>
    if 0x118 ≤ n ∧ n < 0x128 then
      let w : BitVec 4 := BitVec.ofNat 4 (n - 0x118)
      if p.addr ≠ 0 ∨ p.len ≠ 2 then some (.badOp w p)
      else
        match (lineByte p.payload 0).toNat with
        | 1 => some (.resolve w p)
        | 2 => some (.append w p)
        | 3 => some (.evict w p)
        | 4 => some (.truncate w p)
        | 5 => some (.pin w p)
        | 6 => some (.spill w p)
        | 7 => some (.fetch w p)
        | _ => some (.badOp w p)
    else none
  | 6 => some (.cmd e p)
  | 7 => some (.cmdRsp e p)
  | 8 => some (.censusTrig e p link)
  | 9 => some (.fault e p)
  | _ => none

namespace Chip

/-- The link of an Umaed edge router. -/
def umaedOf (e : Eid) : Option (Fin 6) :=
  if h : 0x128 ≤ e.toNat ∧ e.toNat < 0x12E then some ⟨e.toNat - 0x128, by omega⟩ else none

/-- ADDR is a multiple of the packet's length (R259). An endpoint whose chapter gives it no address space has all 24 bits of
ADDR (log 117). -/
def addrAligned (p : Packet) : Bool := p.addr.toNat % pktLen p = 0

/-- An endpoint does not accept a packet (R259, R738): fault BAD_ADDR, and a request gets its POISON response. -/
def reject (c : Chip) (e : Eid) (p : Packet) : Chip :=
  let c := c.logFault 0x2004 e e.toNat (headerDetail p).toNat
  if isRequest p then
    c.send e { poisonResponse p with debug := 0x100 ≤ e.toNat && e.toNat < 0x108 && p.type ≠ tReadReq }
  else c

/-! ### The tables in force (R260, R261) -/

/-- Entry i of router r's local (KIND 0) or multicast (KIND 1) table; 0, not valid, where no record gives it. -/
def tableEntry (c : Chip) (kind : Byte) (r : Eid) (i : Nat) : Byte :=
  match c.findRec 0x07 kind r.toNat with
  | some x => x.body.getD i 0
  | none => 0

/-- Entry i of the far table. -/
def farEntry (c : Chip) (i : Nat) : Byte :=
  match c.findRec 0x07 2 0 with
  | some x => x.body.getD i 0
  | none => 0

/-- The Umaed link a far entry names, none when it is not valid. -/
def farLink (c : Chip) (chip : BitVec 16) : Option (Fin 6) :=
  let b := c.farEntry chip.toNat
  let k := fldNat b 0 3
  if h : flag b 7 = true ∧ k < 6 then some ⟨k, h.2⟩ else none

/-! ### Buffers and credits (R267, R268) -/

/-- The depth of a buffer (R267 Table 6). -/
def depthOf (vc : BitVec 2) : Nat :=
  match vc.toNat with
  | 0 => 4 | 1 => 8 | 2 => 8 | _ => 2

/-- The output priority of a VC, 1 first (R267 Table 6). -/
def vcRank (vc : BitVec 2) : Nat :=
  match vc.toNat with
  | 0 => 1 | 3 => 2 | 2 => 3 | _ => 4

/-- The credits of one key that are back by now. -/
def backBy (x : Router) (now key : Nat) : Nat := (x.back.filter fun b => b.2 = key && b.1 ≤ now).length

/-- A sender holds a credit for this output and VC. -/
def hasCredit (c : Chip) (r : Eid) (key : Nat) (vc : BitVec 2) : Bool :=
  let x := c.router r
  tget 0 x.used key < depthOf vc + backBy x c.now key

/-- A send uses a credit; those that are back are credited first. -/
def useCredit (c : Chip) (r : Eid) (key : Nat) : Chip :=
  c.onRouter r fun x =>
    { x with
      used := tput 0 x.used key (tget 0 x.used key - backBy x c.now key + 1)
      back := x.back.filter fun b => !(b.2 = key && b.1 ≤ c.now) }

/-- A packet leaves the buffer of input p at router r: the sender of that buffer can use the credit from the second
cycle after (R268). -/
def returnCredit (c : Chip) (r : Eid) (p : RPort) (vc : BitVec 2) : Chip :=
  match p with
  | .loc => c.onRouter r fun x => { x with back := x.back ++ [(c.now + 2, 20 + vc.toNat)] }
  | _ =>
    match neighbour r p with
    | some (u, up) => c.onRouter u fun x => { x with back := x.back ++ [(c.now + 2, 4 * portNo up + vc.toNat)] }
    | none => c

/-- The key of an input buffer. -/
def bufKey (p : RPort) (vc : BitVec 2) : Nat := 4 * portNo p + vc.toNat

/-- The head of an input buffer that can be sent on this cycle: ready, and no packet of this buffer went on it. -/
def headOf (c : Chip) (r : Eid) (p : RPort) (vc : BitVec 2) : Option Packet :=
  let x := c.router r
  if tget 0 x.sent (8 + bufKey p vc) = c.now + 1 then none
  else
    match tget [] x.bufs (bufKey p vc) with
    | [] => none
    | f :: _ => if f.ready ≤ c.now then some f.pkt else none

/-- Commands of peers that wait to start (R587). -/
def peersWaiting (c : Chip) : Nat :=
  (c.hif.waiting.filter fun w => match w.1 with | .umaed .. => true | _ => false).length

/-- Whether endpoint e has a place free for one more packet of an unscheduled VC: a tile in its receive queue (`queue`) or
else its ingress buffer, a channel a tag, a TME a descriptor, a walker an operation, the command processor a command (R167,
R171, R375, R430, R587). Any other endpoint always has (R275, R289). -/
def placeFree (c : Chip) (e : Eid) (queue : Bool) : Bool :=
  let n := e.toNat
  if isTileEid e then
    let t := c.tile (BitVec.ofNat 8 n)
    if queue then t.rxq.length < 8 else t.ingress.length < 8
  else if 0x100 ≤ n ∧ n < 0x108 then
    let k : BitVec 3 := BitVec.ofNat 3 (n - 0x100)
    c.tagsUsed k + c.resvTags k < 64
  else if 0x108 ≤ n ∧ n < 0x118 then
    let x := c.tme (BitVec.ofNat 4 (n - 0x108))
    x.half.isSome || x.queue.length + b1 x.job.isSome < 32
  else if 0x118 ≤ n ∧ n < 0x128 then
    ((c.walker (BitVec.ofNat 4 (n - 0x118))).unschedBusy.filter fun u => c.now < u).length < 4
  else if e = eidCmd then c.peersWaiting < 8
  else true

/-- The key of an endpoint's place in Fab.full. -/
def fullKey (e : Eid) (queue : Bool) : Nat := 2 * e.toNat + b1 queue

/-- The endpoints that can withhold a credit, with their places. -/
def sinks (c : Chip) : List (Eid × Bool) :=
  ((c.tiles.map fun kt => (BitVec.ofNat 9 kt.1 : Eid)).flatMap fun e => [(e, true), (e, false)]) ++
    (((List.range 40).map fun k => (BitVec.ofNat 9 (0x100 + k) : Eid)) ++ [eidCmd]).map fun e => (e, false)

/-- The endpoints that are full on this cycle: a place freed on it is for use from the second cycle after (R268). -/
def noteFull (c : Chip) : Chip :=
  c.onFab fun f =>
    { f with
      full := (c.sinks.filter fun k => !(c.placeFree k.1 k.2)).foldl (fun t k => tput 0 t (fullKey k.1 k.2) (c.now + 2))
        f.full }

/-- Whether the endpoint takes this packet on this cycle: a router's LOCAL output has a credit for it (R268). VC0 and VC3
always sink (R267, R289), an edge endpoint has reserved its responses (R275), and a tile's reads and a TME's other packets
wait in no buffer of these. -/
def sinkRoom (c : Chip) (e : Eid) (p : Packet) : Bool :=
  if p.vc = 0 || p.vc = 3 then true
  else if isTileEid e && p.type = tReadReq then true
  else if !(isTileEid e) && p.vc = 2 then true
  else if 0x108 ≤ e.toNat && e.toNat < 0x118 && p.addr ≠ 0 then true
  else
    let queue := isTileEid e && p.addr = 0x080000
    c.placeFree e queue && tget 0 c.fab.full (fullKey e queue) ≤ c.now

/-! ### Where a packet goes (R258, R262, R263, R281) -/

/-- A place a packet is sent to: a router output, or the switch block's multicast output. -/
inductive Way where
  | port (p : RPort)
  | far
deriving DecidableEq, Repr

/-- What a router does with a packet: sends it on these ways, or drops it. -/
inductive Route where
  | ways (ws : List Way)
  | badType
  | badField
  | noEid
  | noChip
deriving DecidableEq, Repr

/-- The outputs of a multicast mask (R281). -/
def maskWays (m : Byte) : List Way :=
  (if flag m 0 then [.port .loc] else []) ++ (if flag m 1 then [.port .n] else []) ++
  (if flag m 2 then [.port .e] else []) ++ (if flag m 3 then [.port .s] else []) ++
  (if flag m 4 then [.port .w] else []) ++ (if flag m 5 then [.far] else [])

/-- Routing of a packet at router r that came in on port p. The first router a packet meets, the one it enters from its
endpoint, makes the checks of R258. -/
def routeOf (c : Chip) (r : Eid) (p : RPort) (k : Packet) : Route :=
  if p = .loc && 0xA ≤ k.type.toNat then .badType
  else if p = .loc && ((lenBytes k.len).isNone || !(vcAllowed k.type k.vc) || (k.mc && (k.vc = 1 || k.vc = 2))) then
    .badField
  else if k.mc then
    let m := c.tableEntry 1 r k.deid.toNat
    if flag m 7 then .ways (maskWays m) else .noEid
  else if c.isHere k.dchip then
    let b := c.tableEntry 0 r k.deid.toNat
    match portOf (fldNat b 0 3) with
    | some o => if flag b 7 && !(c.unassigned k.deid) then .ways [.port o] else .noEid
    | none => .noEid
  else
    let b := c.tableEntry 0 r 0x1FF
    match portOf (fldNat b 0 3) with
    | some o =>
      if !(flag b 7) then .noChip
      else if o = .loc && (c.farLink k.dchip).isNone then .noChip
      else .ways [.port o]
    | none => .noChip

/-! ### Pools at the far end of a link (R305) -/

/-- The pool of a packet: key 2 x VC + DATELINE. -/
def poolKey (p : Packet) : Nat := 2 * p.vc.toNat + b1 (pktDateline p)

/-- The packets a pool holds (R305). -/
def poolSize (k : Nat) : Nat := if 6 ≤ k then 16 else 224

/-- Credits left for pool k of a link (R302, R305). -/
def poolFree (l : Link) (k : Nat) : Nat := poolSize k - (tget 0 l.sentCum k - tget 0 l.retSeen k).toNat

/-- A packet with another DATELINE or DEID, and the CRC that fits it (R253, R318, R320; log 43). -/
def remark (p : Packet) : Packet := { p with crc := packetCrc p }

/-- DATELINE of a packet that leaves on link n, having come from link m or from the mesh (R318): WRAP sets it, a change
of DIM clears it. -/
def dateline (c : Chip) (n : Fin 6) (from_ : Option (Fin 6)) (p : Packet) : Packet :=
  let role (l : Fin 6) : Byte := match c.findRec 0x0F 0 l.val with | some x => x.body.getD 1 0 | none => 0
  let was := match from_ with
    | some m => if fldNat (role m) 0 2 = fldNat (role n) 0 2 then pktDateline p else false
    | none => pktDateline p
  let on := was || flag (role n) 3
  if on = pktDateline p then p else remark { p with flags := (p.flags &&& 0b11110) ||| (if on then 1 else 0) }

/-- The links that a tree leaves on (R319, R322 Table 6). -/
def treeLinks (c : Chip) (tree : BitVec 9) : List (Fin 6) :=
  (List.finRange 6).filter fun n =>
    match c.findRec 0x0F 0 n.val with
    | some x => flag (x.body.getD (16 + tree.toNat / 8) 0) (tree.toNat % 8)
    | none => false

/-- Link n takes one more copy of a multicast packet (R315, R316, R319). -/
def copyCredit (c : Chip) (n : Fin 6) (p : Packet) : Bool :=
  let l := c.link n
  let k := poolKey (c.dateline n none p)
  l.downed || (l.state = 5 && (l.egress.filter fun f => poolKey f.pkt = k).length < poolFree l k)

/-! ### Output arbitration (R269, R281) -/

/-- The output a way leaves through: FAR leaves through the LOCAL side of an Umaed edge router. -/
def wayOut : Way → RPort
  | .port p => p
  | .far => .loc

/-- The way has a credit for the packet. The egress queues of the Umaed links are given no depth (log 118). -/
def wayCredit (c : Chip) (r : Eid) (k : Packet) (w : Way) : Bool :=
  match w with
  | .far => (c.treeLinks k.deid).all fun n => c.copyCredit n k
  | .port .loc => (umaedOf r).isSome || c.sinkRoom r k
  | .port o => c.hasCredit r (4 * portNo o + k.vc.toNat) k.vc

/-- A delivery that no other packet can displace: VC0 from a mesh input to the tile (R269). -/
def freeDelivery (r : Eid) (p : RPort) (k : Packet) (o : RPort) : Bool :=
  isTileEid r && o = .loc && k.vc = 0 && p ≠ .loc

/-- The inputs and VCs of a router. -/
def inputs : List (RPort × BitVec 2) :=
  [RPort.loc, .n, .e, .s, .w].flatMap fun p => [(p, (0 : BitVec 2)), (p, 1), (p, 2), (p, 3)]

/-- The head of (p, vc) wants output o and has every credit it needs. -/
def contends (c : Chip) (r : Eid) (o : RPort) (i : RPort × BitVec 2) : Bool :=
  match c.headOf r i.1 i.2 with
  | none => false
  | some k =>
    match c.routeOf r i.1 k with
    | .ways ws => (ws.any fun w => wayOut w = o && !(freeDelivery r i.1 k o)) && ws.all (c.wayCredit r k)
    | _ => false

/-- How far input p is from the round-robin place of output o and the VC. -/
def turnDist (c : Chip) (r : Eid) (o : RPort) (i : RPort × BitVec 2) : Nat :=
  (portNo i.1 + 5 - tget 0 (c.router r).turn (4 * portNo o + i.2.toNat)) % 5

/-- The first of some inputs at output o: the best VC, then the next in turn (R269). -/
def firstOf (c : Chip) (r : Eid) (o : RPort) (is : List (RPort × BitVec 2)) : Option (RPort × BitVec 2) :=
  is.foldl
    (fun best i =>
      match best with
      | none => some i
      | some b =>
        if vcRank i.2 < vcRank b.2 ∨ (vcRank i.2 = vcRank b.2 ∧ c.turnDist r o i < c.turnDist r o b) then some i
        else some b)
    none

/-- The outputs of a router, in the order in which they are arbitrated (log 119). -/
def outputs : List RPort := [.loc, .n, .e, .s, .w]

/-- The arbitration of one output, after others that left these winners and these losers: a head that lost an output it
needs contends for no further one (R281, R289; log 119), and an output used on this cycle is lost to all. -/
def arbitrate (c : Chip) (r : Eid) (x : List (RPort × Option (RPort × BitVec 2)) × List (RPort × BitVec 2)) (o : RPort) :
    List (RPort × Option (RPort × BitVec 2)) × List (RPort × BitVec 2) :=
  let is := inputs.filter fun i => c.contends r o i && !(x.2.contains i)
  let w := if tget 0 (c.router r).sent (portNo o) = c.now + 1 then none else c.firstOf r o is
  ((o, w) :: x.1, is.filter (fun i => some i ≠ w) ++ x.2)

/-- The input that wins output o on this cycle (R269, R281). -/
def winner (c : Chip) (r : Eid) (o : RPort) : Option (RPort × BitVec 2) :=
  match ((outputs.foldl (c.arbitrate r) ([], [])).1).find? fun x => x.1 = o with
  | some x => x.2
  | none => none

/-- The packet at the head of (p, vc) goes on this cycle: it wins every output it needs. -/
def mayGo (c : Chip) (r : Eid) (p : RPort) (vc : BitVec 2) (k : Packet) (ws : List Way) : Bool :=
  ws.all fun w => c.wayCredit r k w && (freeDelivery r p k (wayOut w) || c.winner r (wayOut w) = some (p, vc))

/-! ### The way out -/

/-- A VC0 packet is late at router or source endpoint e (R271). -/
def vc0Late (c : Chip) (e : Eid) (p : Packet) : Chip :=
  let c := c.onFab fun f => { f with vc0Stall := true, stallCnt := satInc f.stallCnt }
  if c.fab.check then c.logFault 0x3002 e e.toNat (headerDetail p).toNat else c

/-- A packet is queued for link n, having come from the mesh or over link `from_`, on an input of the switch block. From the link's entry into DOWN until it is UP again the packet is
dropped (R316). A VC0 packet that waits outside UP is late (R315). -/
def egress (c : Chip) (n : Fin 6) (from_ : Option (Fin 6)) (input : Nat) (p : Packet) (delay : Nat := 0) : Chip :=
  if (c.link n).downed then
    let c := c.onLink n fun l => { l with downDrop := satInc l.downDrop }
    if isRequest p then c.send (eidUmaed n) (poisonResponse p) else c
  else
    let late := p.vc = 0 && (c.link n).state ≠ 5
    let c := c.onLink n fun l => { l with egress := l.egress ++ [⟨c.dateline n from_ p, c.now + delay, input⟩] }
    if late then c.vc0Late (eidUmaed n) p else c

/-- The input of the switch block that an Umaed edge router leads to. -/
def linkInput (r : Eid) : Nat := match umaedOf r with | some n => n.val | none => 12

/-- A packet leaves router r on one way. -/
def goWay (c : Chip) (r : Eid) (inPort : RPort) (k : Packet) (w : Way) : Chip :=
  match w with
  | .far =>
    (c.treeLinks k.deid).foldl (fun c n => c.egress n none (linkInput r) k) c
  | .port .loc =>
    match umaedOf r with
    | some n =>
      if k.mc || c.isHere k.dchip then
        match arrivalRow r k inPort none with
        | some i => c.post 1 i
        | none => c.reject r k
      else
        match c.farLink k.dchip with
        | some m => c.egress m none (linkInput r) k
        | none => c.egress n none (linkInput r) k
    | none =>
      match arrivalRow r k inPort none with
      | some i => c.post 1 i
      | none => c.reject r k
  | .port o =>
    let c := c.useCredit r (4 * portNo o + k.vc.toNat)
    match neighbour r o with
    | some (u, up) =>
      c.onRouter u fun x =>
        { x with bufs := tput [] x.bufs (bufKey up k.vc) (tget [] x.bufs (bufKey up k.vc) ++ [⟨k, c.now + 2⟩]) }
    | none => c

/-- The packet leaves its buffer. -/
def popHead (c : Chip) (r : Eid) (p : RPort) (vc : BitVec 2) : Chip :=
  (c.onRouter r fun x =>
    { x with
      bufs := tput [] x.bufs (bufKey p vc) (tget [] x.bufs (bufKey p vc)).tail
      sent := tput 0 x.sent (8 + bufKey p vc) (c.now + 1) }).returnCredit r p vc

/-- The output is used on this cycle, and the turn passes on (R269). -/
def markOut (c : Chip) (r : Eid) (p : RPort) (vc : BitVec 2) (o : RPort) : Chip :=
  c.onRouter r fun x =>
    { x with
      sent := tput 0 x.sent (portNo o) (c.now + 1)
      turn := tput 0 x.turn (4 * portNo o + vc.toNat) ((portNo p + 1) % 5) }

/-- A router drops a packet: DROP, FAB_LAST_DROP, the counter, the fault (R258, R262, R263, R282), and a POISON response
in a request's place (R277). -/
def dropAt (c : Chip) (r : Eid) (k : Packet) (why : Route) : Chip :=
  let c := c.onFab fun f => { f with
    drop := true
    lastDrop := BitVec.ofNat 128 (leNat (headerBytes k)) }
  let detail := (headerDetail k).toNat
  match why with
  | .badType => c.onFab fun f => { f with dropType := satInc f.dropType }
  | .badField => (c.onFab fun f => { f with dropField := satInc f.dropField }).logFault 0x2003 r r.toNat detail
  | .noEid =>
    let c := (c.onFab fun f => { f with dropEid := satInc f.dropEid }).logFault 0x2001 r r.toNat detail
    if isRequest k then c.send r (poisonResponse k) else c
  | .noChip =>
    let c := (c.onFab fun f => { f with dropChip := satInc f.dropChip }).logFault 0x2002 r r.toNat detail
    if isRequest k then c.send r (poisonResponse k) else c
  | .ways _ => c

/-- The head of input p's buffer of a VC at router r, on this cycle: dropped, sent on, or kept (R258 to R263, R268, R269,
R281). -/
def routeHead (c : Chip) (r : Eid) (p : RPort) (vc : BitVec 2) : Chip :=
  match c.headOf r p vc with
  | none => c
  | some k =>
    match c.routeOf r p k with
    | .ways ws =>
      if c.mayGo r p vc k ws then
        let c := ws.foldl (fun c w => if freeDelivery r p k (wayOut w) then c else c.markOut r p vc (wayOut w)) c
        let c := c.popHead r p vc
        ws.foldl (fun c w => c.goWay r p k w) c
      else c
    | why => (c.popHead r p vc).dropAt r k why

/-! ### Endpoint to router (R271) -/

/-- A packet enters the LOCAL buffer of its router; it can be sent on from the next cycle (R250). -/
def enterLocal (c : Chip) (e : Eid) (p : Packet) : Chip :=
  let c := c.useCredit e (20 + p.vc.toNat)
  c.onRouter e fun x =>
    { x with
      bufs := tput [] x.bufs (bufKey .loc p.vc) (tget [] x.bufs (bufKey .loc p.vc) ++ [⟨p, c.now + 1⟩])
      sent := tput 0 x.sent 5 (c.now + 1) }

/-- The endpoint's link to its router is free on this cycle. -/
def localFree (c : Chip) (e : Eid) : Bool := tget 0 (c.router e).sent 5 ≠ c.now + 1

/-- The pool of link n that a packet came in, for its credit (R305, R306). -/
def freePool (c : Chip) (n : Fin 6) (p : Packet) : Chip :=
  let k := poolKey p
  c.onLink n fun l => { l with freed := tput 0 l.freed k (tget 0 l.freed k + 1) }

/-- A packet that came over a link leaves its pool for the mesh, with DATELINE cleared (R318); any other goes as it is. -/
def fromPool (c : Chip) (e : Eid) (p : Packet) : Packet × Chip :=
  match umaedOf e with
  | some n =>
    if c.isHere p.schip then (p, c)
    else (if pktDateline p then remark { p with flags := p.flags &&& 0b11110 } else p, c.freePool n p)
  | none => (p, c)

/-- The packet of the endpoint's queue that goes to the router next: the best VC that has a credit, oldest first. -/
def nextOut (c : Chip) (e : Eid) : Option Packet :=
  (((c.endp e).outq.filter fun f => f.ready ≤ c.now).map fun f => f.pkt).foldl
    (fun best p =>
      if c.hasCredit e (20 + p.vc.toNat) p.vc then
        match best with
        | none => some p
        | some b => if vcRank p.vc < vcRank b.vc then some p else some b
      else best)
    none

/-- One VC0, VC2 or VC3 packet of endpoint e goes to its router on this cycle, if the link is free and a credit is
there. -/
def pushOut (c : Chip) (e : Eid) : Chip :=
  if c.localFree e then
    match c.nextOut e with
    | none => c
    | some p =>
      let i := (c.endp e).outq.findIdx fun f => f.pkt = p
      let c := c.onEndp e fun x => { x with outq := x.outq.eraseIdx i }
      let (p, c) := c.fromPool e p
      c.enterLocal e p
  else c

/-! ### The VC1 throttle (R272) -/

/-- FAB_VC1_LIMIT as it acts: 0 acts as 1. -/
def vc1Limit (c : Chip) : Nat := max 1 c.fab.limit.toNat

/-- FAB_RSP_TIMEOUT as it acts: 0 and 1 act as 2 (R278). -/
def rspDays (c : Chip) : Nat := max 2 c.fab.days.toNat

/-- The queue depth, 0 to 16 (R272). -/
def vc1Depth (x : Endp) : Nat := min 16 x.queue.length

/-- A source injects the head of its queue (R48, R252, R272): not in a Feast, not before 2^level cycles have gone since
the last, and with the link, which its other packets take first (R269, R271), and a credit. -/
def mayInject (c : Chip) (e : Eid) : Bool :=
  let x := c.endp e
  !c.alm.inFeast && (match x.lastInject with | none => true | some t => t + 2 ^ x.level.toNat ≤ c.now) &&
    c.localFree e && c.hasCredit e 21 1

/-- The injected request's slot takes its day of injection (R278). -/
def noteInjection (c : Chip) (e : Eid) (p : Packet) : Chip :=
  if isRequest p then
    let k := (tagSlot p.aux).toNat
    c.onEndp e fun x =>
      let s := tget RspSlot.init x.slots k
      let s : RspSlot :=
        { s with
          day := if c.alm.running then some c.alm.dayCount else none
          upto := c.now + c.rspDays * c.alm.dayLen.toNat }
      { x with slots := tput RspSlot.init x.slots k s }
  else c

/-- A command whose packets are injected completes DONE: a buckle command for another chip, with RESULT zero and REMOTE in
AUX (R594); a peer's RECKON when the last of its DATA_WR packets has gone (R602, R617). -/
def injectDone (c : Chip) (e : Eid) (p : Packet) : Chip :=
  match c.bkl.remote with
  | w :: rest =>
    let last := !((c.endp e).queue.any fun q => q.type = tDataWr && !q.debug)
    let done := e = eidCmd &&
      if w.opcode = 0x02 then p.type = tDataWr && !p.debug && last else p.type = tBuckleOp
    if done then
      (c.onBkl fun k => { k with remote := rest }).complete w.src w.tag w.opcode 0x00
        (if w.opcode = 0x02 then 0 else 2) w.result
    else c
  | [] => c

/-- A line of a walker's page move is written once its DATA_WR has left the walker (R453, R454). -/
def moveWrote (c : Chip) (e : Eid) (p : Packet) : Chip :=
  if 0x118 ≤ e.toNat && e.toNat < 0x128 && p.type = tDataWr && p.len = 3 then
    c.onWalker (BitVec.ofNat 4 (e.toNat - 0x118)) fun x =>
      { x with moves := match x.moves with | m :: ms => { m with wrote := m.wrote + 1 } :: ms | [] => [] }
  else c

/-- The head of a VC1 queue is injected. -/
def inject (c : Chip) (e : Eid) : Chip :=
  match (c.endp e).queue with
  | [] => c
  | p :: rest =>
    if c.mayInject e then
      let c := c.onEndp e fun x => { x with queue := rest, lastInject := some c.now }
      match umaedOf e with
      | some _ =>
        let (p, c) := c.fromPool e p
        c.enterLocal e p
      | none =>
        let (p, c) := c.stamp e p
        (((c.noteInjection e p).enterLocal e p).moveWrote e p).injectDone e p
    else c

/-- The throttle's cycle at source e, and whether 256 quiet cycles have gone (R272). -/
def throttle (c : Chip) (e : Eid) : Chip :=
  let x := c.endp e
  let depth := vc1Depth x
  if c.alm.inFeast then c.onEndp e fun x => { x with quiet := 0, fresh := true }
  else
    let above := decide (c.vc1Limit < depth)
    let rise := above && !x.abovePrev && !x.fresh
    c.onEndp e fun x =>
      { x with
        level := if rise && x.level.toNat < 7 then x.level + 1 else x.level
        halvings := if rise then satInc x.halvings else x.halvings
        quiet := if above || x.level = 0 then 0 else x.quiet + 1
        abovePrev := above
        fresh := false }

/-- A response slot becomes free; a time-out also takes its incarnation on (R278, R279). -/
def freeRsp (c : Chip) (e : Eid) (k : Nat) (timeout : Bool) : Chip :=
  c.onEndp e fun x =>
    let s := tget RspSlot.init x.slots k
    let s : RspSlot := ⟨false, if timeout then s.inc + 1 else s.inc, none, 0, .other⟩
    { x with slots := tput RspSlot.init x.slots k s }

/-- The slot has waited long enough (R278). -/
def slotExpired (c : Chip) (s : RspSlot) : Bool :=
  s.busy &&
    (match s.day with
     | some d => c.alm.running && c.alm.inVigil && d.toNat + c.rspDays ≤ c.alm.dayCount.toNat
     | none => s.upto ≠ 0 && s.upto ≤ c.now)

end Chip

/-! ### The rows -/

/-- PACKET_ROUTE (R250, R255, R258, R262, R263, R268, R269, R277, R281, R282): the head of one input buffer of a router.
A router that is not on the chip is no router (log 1). -/
def execPacketRoute (r : Eid) (p : RPort) (vc : BitVec 2) (s : State) : Host.Outcome State Fault Refusal :=
  if isEid r then s.run fun c => c.routeHead r p vc else .fault (.noSuchUnit r)

/-- VC1_INJECT (R48, R252, R253, R272, R273). -/
def execVc1Inject (e : Eid) (s : State) : Host.Outcome State Fault Refusal :=
  if isEdgeEid e then s.run fun c => c.inject e else .fault (.noSuchUnit e)

/-- VC1_LEVEL_DOWN (R272): after 256 quiet cycles the level falls by one, not below 0. -/
def execVc1LevelDown (e : Eid) (s : State) : Host.Outcome State Fault Refusal :=
  if isEdgeEid e then
    s.run fun c =>
      if 256 ≤ (c.endp e).quiet then
        c.onEndp e fun x => { x with level := if x.level = 0 then 0 else x.level - 1, quiet := 0 }
      else c
  else .fault (.noSuchUnit e)

end Sys2Proof.Machine
end

