-- ==== Sys2Proof/Machine/TileRows.lean ====
section
/-!
DEFINITION. Machine/TileRows.lean: the rows of a tile's five slots and of its sequencer (04_tile, 05_code). An operation
reads the registers as they stand on its cycle and leaves its results pending (R173); planned SRAM accesses take their
bank at the end of their cycle (Machine/Tick.lean, R165). `onTileNow` gives a row its tile and the cycle.
-/
namespace Sys2Proof.Machine
open Sys2Proof

namespace Chip

/-- A tile logs a fault with its PC in DETAIL (R644). -/
def tileFault (c : Chip) (t : TileId) (code : BitVec 16) : Chip :=
  c.logFault code (tileEid t) t.toNat (c.tile t).pc.toNat

/-- R187: ILLEGAL sets and ILLEGAL_OP is logged. -/
def illegalOp (c : Chip) (t : TileId) : Chip :=
  (c.onTile t fun x => { x with illegal := true }).tileFault t 0x200C

/-- One tile's part of a row. -/
def onTileNow (c : Chip) (t : TileId) (f : Nat → Tile → Tile) : Chip := c.onTile t (f c.now)

/-- The section of the plan in force that starts on tile t on this cycle; none starts in the Vigil (R56), also where a
write of ALM_DAY_LEN or ALM_VIGIL_LEN has moved it since the load. -/
def sectionAt (c : Chip) (t : TileId) : Option Section :=
  match c.plan with
  | none => none
  | some p => p.sections.find? fun x => x.tile = t && x.first = c.alm.cycle && x.first < c.vigilStart

/-- An overrunning tile: DAY_OVERRUN with its region, ALM_OVERRUN, the region's records invalid, the halt (R88, R89,
R177, R739). -/
def haltOverrun (c : Chip) (t : TileId) : Chip :=
  let x := c.tile t
  let c := c.logFault 0x3001 (tileEid t) t.toNat x.pc.toNat (some x.region)
  let c := c.onAlm fun a => { a with
    overCount := satInc a.overCount
    overTile := t
    invalid := if x.region ∈ a.invalid then a.invalid else a.invalid ++ [x.region] }
  c.onTileNow t fun now x => x.overrun now

/-- The start of section x on tile t: L0 to L3 cleared and the bundle at ENTRY issued (R172). -/
def startSection (c : Chip) (t : TileId) (x : Section) : Chip :=
  c.onTile t fun y => { y with
    inSection := true, gated := false, loose := x.loose, region := x.region, hold := .none, recvWait := none,
    loops := [], secNo := y.secNo + 1, pc := x.entry, nextPc := x.entry + 1 }

/-- Whether the tile can run at all: not off, not tripped (R121, R688). -/
def tileLive (c : Chip) (t : TileId) : Bool := !(c.tileOff t) && !c.glb.tripped

/-- SECTION_START (R172, R176, R177). -/
def sectionStartAt (c : Chip) (t : TileId) : Chip :=
  match c.sectionAt t with
  | none => c
  | some x =>
    if !(c.tileLive t) then c
    else if (c.tile t).skipDay then c.onTile t fun y => { y with skipCnt := satInc y.skipCnt }
    else
      let c := if (c.tile t).inSection then c.haltOverrun t else c
      c.startSection t x

/-- A WAIT or RECV outside a loose section: NOP and LOOSE_VIOLATION (R178). -/
def looseViolation (c : Chip) (t : TileId) : Chip := c.tileFault t 0x200D

/-- The oldest packet of the receive queue is taken: written to the line at +2 (R187 Table 7), A[a] advanced one cycle on
(R174): from A[a] as read at issue, also where the RECV has stalled meanwhile (log 111). -/
def takeRecv (c : Chip) (t : TileId) (addr : BitVec 19) (a : BitVec 4) (p : Bool) : Chip :=
  c.onTileNow t fun now x =>
    match x.rxq with
    | [] => x
    | l :: rest =>
      let x := { x with rxq := rest, recvWait := none }
      let x := x.plan (now + 2) addr Tile.prioRecv (now + 2) (.store l)
      if p then x.later now 1 Tile.rankFabA (.addr a (addr + 32)) else x

/-- Buckles of this chip that a WAIT may watch: the count of buckle n has just changed (R188, R610). -/
def wakeTiles (c : Chip) (n : BitVec 12) : Chip :=
  let count := (c.buckle n).count.toNat
  { c with tiles := c.tiles.map fun kt =>
      match kt.2.hold with
      | .wait b thr .none => if b = n ∧ thr.toNat ≤ count then (kt.1, { kt.2 with hold := .wait b thr (some (c.now + 6)) })
                             else kt
      | _ => kt }

end Chip

/-! ### The sequencer and the CTL slot -/

/-- SECTION_START (R90, R162, R172, R176, R177, R739). -/
def execSectionStart (t : TileId) (s : State) : Host.Outcome State Fault Refusal :=
  s.run fun c => c.sectionStartAt t

/-- NOP (R187 Table 3). -/
def execCtlNop (_t : TileId) (s : State) : Host.Outcome State Fault Refusal := .next s

/-- AMOVI: A[d] = IMM x 32. -/
def execAmovi (t : TileId) (d : BitVec 4) (imm : BitVec 14) (s : State) : Host.Outcome State Fault Refusal :=
  s.run fun c => c.onTileNow t fun now x =>
    x.later now 1 Tile.rankCtl (.addr d (imm.setWidth 19 <<< 5))

/-- AADDI: A[d] = A[d] + IMM x 32, IMM signed, modulo 2^19. -/
def execAaddi (t : TileId) (d : BitVec 4) (imm : BitVec 14) (s : State) : Host.Outcome State Fault Refusal :=
  s.run fun c => c.onTileNow t fun now x =>
    x.later now 1 Tile.rankCtl (.addr d (x.areg d + (imm.signExtend 19 <<< 5)))

/-- AADD: A[d] = A[a] + A[b], modulo 2^19. -/
def execAadd (t : TileId) (d a b : BitVec 4) (s : State) : Host.Outcome State Fault Refusal :=
  s.run fun c => c.onTileNow t fun now x =>
    x.later now 1 Tile.rankCtl (.addr d (x.areg a + x.areg b))

/-- AMOVV: A[d] = bits [18:0] of lane LANE of V[a]. -/
def execAmovv (t : TileId) (d va : BitVec 4) (lane : BitVec 5) (s : State) : Host.Outcome State Fault Refusal :=
  s.run fun c => c.onTileNow t fun now x =>
    x.later now 1 Tile.rankCtl (.addr d ((x.lane va lane.toNat).setWidth 19))

/-- A body length field: 0 means 64 (R187 Table 3). -/
def bodyLen (len : BitVec 6) : Nat := if len = 0 then 64 else len.toNat

namespace Chip

/-- A loop register already active: the body runs once, LOOP_DEPTH (R184). -/
def loopActive (c : Chip) (t : TileId) (k : BitVec 2) : Bool := (c.tile t).loops.any fun l => l.k = k

/-- LOOPI (R180, R184). -/
def loopFixed (c : Chip) (t : TileId) (k : BitVec 2) (n : BitVec 10) (len : BitVec 6) : Chip :=
  if c.loopActive t k then c.tileFault t 0x200E
  else c.onTile t fun x => { x with
    loops := ⟨k, x.pc + 1, x.pc + BitVec.ofNat 11 (bodyLen len), (if n = 0 then 1024 else n.toNat) - 1, 0⟩ :: x.loops }

/-- LOOPB (R181, R182, R184, R205): t = min(c, b) iterations; then gated for the rest of b iterations. -/
def loopBounded (c : Chip) (t : TileId) (k : BitVec 2) (a b : BitVec 4) (len : BitVec 6) : Chip :=
  if c.loopActive t k then c.tileFault t 0x200E
  else c.onTileNow t fun now x =>
    let cnt := (x.areg a).toNat
    let bound := (x.areg b).toNat
    let n := bodyLen len
    let x := if bound < cnt then { x with clip := true, clipCnt := satInc x.clipCnt } else x
    let runs := min cnt bound
    let pad := (bound - runs) * n
    let last := x.pc + BitVec.ofNat 11 n
    if 0 < runs then { x with loops := ⟨k, x.pc + 1, last, runs - 1, pad⟩ :: x.loops }
    else
      let (ls, next, more) := Tile.after x.loops last
      { x with
        loops := ls
        nextPc := next
        gated := 0 < pad + more
        hold := if 0 < pad + more then .pad (now + pad + more) else .none }

end Chip

/-- LOOPI K, N, LEN. -/
def execLoopi (t : TileId) (k : BitVec 2) (n : BitVec 10) (len : BitVec 6) (s : State) :
    Host.Outcome State Fault Refusal := s.run fun c => c.loopFixed t k n len

/-- LOOPB K, Aa, Ab, LEN. -/
def execLoopb (t : TileId) (k : BitVec 2) (a b : BitVec 4) (len : BitVec 6) (s : State) :
    Host.Outcome State Fault Refusal := s.run fun c => c.loopBounded t k a b len

/-- LOOPB_PLANNED_END (R38, R181): the gating that follows a LOOPB ends on its planned cycle. -/
def execLoopbPlannedEnd (t : TileId) (s : State) : Host.Outcome State Fault Refusal :=
  s.run fun c => c.onTileNow t fun now x =>
    match x.hold with
    | .pad upto => if upto < now then { x with hold := .none, gated := false } else x
    | _ => x

/-- IDLE N (R185): gated for N cycles; N = 0 means 16,384. -/
def execIdle (t : TileId) (n : BitVec 14) (s : State) : Host.Outcome State Fault Refusal :=
  s.run fun c => c.onTileNow t fun now x =>
    { x with hold := .idle (now + (if n = 0 then 16384 else n.toNat)), gated := true }

/-- IDLE_EXPIRY (R185): the next bundle issues N + 1 cycles after the IDLE. -/
def execIdleExpiry (t : TileId) (s : State) : Host.Outcome State Fault Refusal :=
  s.run fun c => c.onTileNow t fun now x =>
    match x.hold with
    | .idle upto => if upto < now then { x with hold := .none, gated := false } else x
    | _ => x

/-- WAIT BUCKLE, Aa (R178, R179, R188, R611): stalls until the buckle's count has reached A[a], and 6 cycles more. -/
def execWait (t : TileId) (buckle : BitVec 12) (a : BitVec 4) (s : State) : Host.Outcome State Fault Refusal :=
  s.run fun c =>
    let thr := (c.tile t).areg a
    if (c.tile t).loose then
      c.onTile t fun x => { x with
        hold := .wait buckle thr (if thr.toNat ≤ (c.buckle buckle).count.toNat then some (c.now + 6) else none) }
    else c.looseViolation t

/-- WAIT_RESUME (R188, R610). -/
def execWaitResume (t : TileId) (s : State) : Host.Outcome State Fault Refusal :=
  s.run fun c => c.onTileNow t fun now x =>
    match x.hold with
    | .wait _ _ (some r) => if r ≤ now then { x with hold := .none } else x
    | _ => x

/-- HALT (R49, R175): the section ends; what was issued completes at its own latency. -/
def execHalt (t : TileId) (s : State) : Host.Outcome State Fault Refusal :=
  s.run fun c => c.onTile t fun x =>
    { x with inSection := false, gated := true, loose := false, hold := .none, recvWait := none, loops := [] }

/-- HALTV (R49, R176): as HALT, and no later section of this day starts. -/
def execHaltv (t : TileId) (s : State) : Host.Outcome State Fault Refusal :=
  s.run fun c => c.onTile t fun x =>
    { x with
      inSection := false, gated := true, loose := false, hold := .none, recvWait := none, loops := []
      skipDay := true }

/-! ### The LS slot (R187 Table 4, R189) -/

namespace Tile

/-- The access address: A[a] + OFF x U, or A[a] with P = 1 (R187 Table 4, R160). -/
def lsAddr (x : Tile) (a : BitVec 4) (p : Bool) (off : BitVec 15) (unit : Nat) : BitVec 19 :=
  if p then x.areg a else x.areg a + BitVec.ofInt 19 (off.toInt * unit)

/-- P = 1 advances A[a] by OFF x U, readable one cycle on (R174). -/
def lsAdvance (x : Tile) (now : Nat) (a : BitVec 4) (p : Bool) (off : BitVec 15) (unit : Nat) : Tile :=
  if p then x.later now 1 rankLsA (.addr a (x.areg a + BitVec.ofInt 19 (off.toInt * unit))) else x

/-- An LS operation, discarded with ILLEGAL while LDW or STW holds the port (R189). -/
def lsOp (x : Tile) (now : Nat) (a : BitVec 4) (p : Bool) (off : BitVec 15) (unit : Nat)
    (f : Tile → BitVec 19 → Tile) : Tile :=
  if now < x.lsUntil then { x with illegal := true }
  else (f x (x.lsAddr a p off unit)).lsAdvance now a p off unit

/-- The four lanes from 4k as a line: 40 bits each, bytes 5 to 7 the sign (R187, STW). -/
def wideLine (x : Tile) (d : BitVec 4) (k : Nat) : Line :=
  lineOf ((List.range 4).flatMap fun j => leBytes 8 ((x.lane d (4 * k + j)).signExtend 64).toNat)

end Tile

/-- LNOP. -/
def execLnop (_t : TileId) (s : State) : Host.Outcome State Fault Refusal := .next s

/-- LDB: lane j of V[d] = byte j, latency 2. -/
def execLdb (t : TileId) (r a : BitVec 4) (p : Bool) (off : BitVec 15) (s : State) : Host.Outcome State Fault Refusal :=
  s.run fun c => c.onTileNow t fun now x =>
    x.lsOp now a p off 32 fun x ad => x.plan now ad Tile.prioLs (now + 2) (.loadBytes r)

/-- STB: byte j = lane j of V[d], bits [7:0], written at +1. -/
def execStb (t : TileId) (r a : BitVec 4) (p : Bool) (off : BitVec 15) (s : State) : Host.Outcome State Fault Refusal :=
  s.run fun c => c.onTileNow t fun now x =>
    x.lsOp now a p off 32 fun x ad =>
      x.plan (now + 1) ad Tile.prioLs (now + 1)
        (.store (lineOf ((x.lanes r).map fun v => v.setWidth 8)))

/-- LDW: 8 lines, latency 9, the LS port held for 8 cycles. -/
def execLdw (t : TileId) (r a : BitVec 4) (p : Bool) (off : BitVec 15) (s : State) : Host.Outcome State Fault Refusal :=
  s.run fun c => c.onTileNow t fun now x =>
    x.lsOp now a p off 32 fun x ad =>
      let x := { x with lsUntil := now + 8, lsSec := x.secNo }
      (List.range 8).foldl
        (fun x k => x.plan (now + k) (ad + BitVec.ofNat 19 (32 * k)) Tile.prioLs (now + 9) (.loadWide r k)) x

/-- STW: the inverse of LDW, V[d] as read at issue (R173; log 112), the last line written at +8. -/
def execStw (t : TileId) (r a : BitVec 4) (p : Bool) (off : BitVec 15) (s : State) : Host.Outcome State Fault Refusal :=
  s.run fun c => c.onTileNow t fun now x =>
    x.lsOp now a p off 32 fun x ad =>
      let y := { x with lsUntil := now + 8, lsSec := x.secNo }
      (List.range 8).foldl
        (fun y k => y.plan (now + 1 + k) (ad + BitVec.ofNat 19 (32 * k)) Tile.prioLs (now + 1 + k)
          (.store (x.wideLine r k))) y

/-- LDE: 64 exponents for EQ, checked and pushed on the second cycle after issue (R190, R215). -/
def execLde (t : TileId) (a : BitVec 4) (p : Bool) (off : BitVec 15) (s : State) : Host.Outcome State Fault Refusal :=
  s.run fun c => c.onTileNow t fun now x =>
    x.lsOp now a p off 32 fun x ad => x.plan now ad Tile.prioLs (now + 2) .loadExp

/-- LDA: A[d] = bits [18:0] of the 32-bit word, U = 4, latency 2. -/
def execLda (t : TileId) (r a : BitVec 4) (p : Bool) (off : BitVec 15) (s : State) : Host.Outcome State Fault Refusal :=
  s.run fun c => c.onTileNow t fun now x =>
    x.lsOp now a p off 4 fun x ad => x.plan now ad Tile.prioLs (now + 2) (.loadAddr r)

/-- LDT: template k = 16 bytes, U = 16, latency 2. -/
def execLdt (t : TileId) (k : BitVec 3) (a : BitVec 4) (p : Bool) (off : BitVec 15) (s : State) :
    Host.Outcome State Fault Refusal :=
  s.run fun c => c.onTileNow t fun now x =>
    x.lsOp now a p off 16 fun x ad => x.plan now ad Tile.prioLs (now + 2) (.loadTemplate k)

/-! ### The MXU slot (R187 Table 5, R192, R193) -/

namespace Tile

/-- P = 1 of the MXU slot advances A[a] (R174, R187 Table 5). -/
def mxuAdvance (x : Tile) (now : Nat) (a : BitVec 4) (p : Bool) (n : Nat) : Tile :=
  if p then x.later now 1 rankMxuA (.addr a (x.areg a + BitVec.ofNat 19 n)) else x

/-- The accumulators zeroed at issue: the base onto which the MMACs under way land (R193). -/
def clearAcc (x : Tile) : Tile := { x with acc := [] }

end Tile

/-- MNOP. -/
def execMnop (_t : TileId) (s : State) : Host.Outcome State Fault Refusal := .next s

/-- MZP: ZA = IMM8 for MMAC and MMACG issued from the next cycle (R211). -/
def execMzp (t : TileId) (imm : Byte) (s : State) : Host.Outcome State Fault Refusal :=
  s.run fun c => c.onTileNow t fun now x => x.later now 1 0 (.zeroPoint imm)

/-- MWLD: row i from line A[a] + 32i at issue + i, i = 0 to 31, into the shadow block. -/
def execMwld (t : TileId) (a : BitVec 4) (p : Bool) (s : State) : Host.Outcome State Fault Refusal :=
  s.run fun c => c.onTileNow t fun now x =>
    let base := x.areg a
    let x := (List.range 32).foldl
      (fun x i => x.plan (now + i) (base + BitVec.ofNat 19 (32 * i)) Tile.prioWeights (now + i + 1) (.weightRow i)) x
    x.mxuAdvance now a p 1024

/-- MSWAP (R204). -/
def execMswap (t : TileId) (s : State) : Host.Outcome State Fault Refusal :=
  s.run fun c => c.onTileNow t fun now x => x.later now 1 0 .swap

/-- MMAC: tensor-mode accumulate, readable from issue + 4 (R192, R219). -/
def execMmac (t : TileId) (a : BitVec 4) (p : Bool) (s : State) : Host.Outcome State Fault Refusal :=
  s.run fun c => c.onTileNow t fun now x =>
    (x.plan now (x.areg a) Tile.prioMac (now + 4) (.mac 0 x.za)).mxuAdvance now a p 32

/-- MMACG: group-mode accumulate with the exponent at the head of EQ, which F = 1 pops; with EQ empty e = 0, EQ_EMPTY
(R192, R193, R216). -/
def execMmacg (t : TileId) (a : BitVec 4) (p f : Bool) (s : State) : Host.Outcome State Fault Refusal :=
  s.run fun c => c.onTileNow t fun now x =>
    let e : Int := match x.eq with | [] => 0 | h :: _ => expOf h
    let ad := x.areg a
    let x := if x.eq = [] then { x with eqEmpty := true } else x
    let x := if f then { x with eq := x.eq.tail } else x
    (x.plan now ad Tile.prioMac (now + 4) (.mac (e + 8).toNat x.za)).mxuAdvance now a p 32

/-- MOUT: V[d] lane j = accumulator j as read at issue, latency 2; F = 1 also zeroes the accumulators. -/
def execMout (t : TileId) (vd : BitVec 4) (f : Bool) (s : State) : Host.Outcome State Fault Refusal :=
  s.run fun c => c.onTileNow t fun now x =>
    let x := x.later now 2 Tile.rankMxuV (.lanes vd 0 ((List.range 32).map x.accum))
    if f then x.clearAcc else x

/-- MCLR. -/
def execMclr (t : TileId) (s : State) : Host.Outcome State Fault Refusal :=
  s.run fun c => c.onTile t fun x => x.clearAcc

/-! ### The VXU slot (R187 Table 6) -/

namespace Tile

/-- A lane-by-lane result for V[d]. -/
def vxu (x : Tile) (now lat : Nat) (d : BitVec 4) (f : Nat → BitVec 40) : Tile :=
  x.later now lat rankVxu (.lanes d 0 ((List.range 32).map f))

/-- Lane j of V[a] as a signed number. -/
def laneInt (x : Tile) (a : BitVec 4) (j : Nat) : Int := (x.lane a j).toInt

/-- VSHL of one value: saturating; a shift above 39 gives zero or saturation. -/
def shl40 (v : Int) (k : Nat) : BitVec 40 := (sat40 (v * 2 ^ k)).1

/-- VCMP of one pair: 0 >, 1 >=, 2 =, 3 illegal and 0. -/
def cmp40 (mode : BitVec 2) (a b : Int) : BitVec 40 :=
  let r : Bool := match mode.toNat with
    | 0 => decide (b < a)
    | 1 => decide (b ≤ a)
    | 2 => decide (a = b)
    | _ => false
  if r then 1 else 0

/-- VCLAMP of one value to n signed bits; an illegal n passes it. -/
def clamp40 (n : Nat) (v : Int) : BitVec 40 :=
  if 1 ≤ n ∧ n ≤ 40 then BitVec.ofInt 40 (clampInt v (-(2 ^ (n - 1))) (2 ^ (n - 1) - 1)).1 else BitVec.ofInt 40 v

/-- LUT k at a code. -/
def lutAt (x : Tile) (k : Nat) (q : Byte) : Byte := tget 0 x.lut (256 * k + q.toNat)

/-- VRQ of one lane: the result, t before the clamp, q before the LUT, and the entry (R195, R222). -/
def requantise (x : Tile) (acc : Int) (e : BitVec 64) : Byte × Bool × Int :=
  let zp : Int := fldNat e 8 8
  let t := roundHaz acc (fldNat e 0 5) + zp
  let lo : Int := fldNat e 24 8
  let hi : Int := fldNat e 32 8
  let q := min (max t lo) hi
  let code : Byte := BitVec.ofInt 8 q
  (if flag e 20 then x.lutAt (fldNat e 16 4) code else code, q ≠ t, q - zp)

/-- VRQ (R195, R196, R222 to R224): every lane with its channel's entry as it stands at issue, where it also raises the stats
and counts TILE_SAT.RQ (log 113). -/
def vrqOp (x : Tile) (now : Nat) (d a : BitVec 4) (imm : BitVec 14) : Tile :=
  let base := fldNat imm 0 10
  let row (j : Nat) : Nat × Int × BitVec 64 :=
    ((base + j) % 1024, x.laneInt a j, tget 0 x.ct ((base + j) % 1024))
  let out := (List.range 32).map fun j => let (_, v, e) := row j; x.requantise v e
  let x' := (List.range 32).foldl
    (fun y j =>
      let (k, v, e) := row j
      let (_, clamped, post) := x.requantise v e
      let y := if clamped then { y with satRq := satInc y.satRq } else y
      if flag e 21 then (y.raisePre k v).raisePost k post else y)
    x
  x'.later now 3 rankVxu (.lanes d 0 (out.map fun o => o.1.setWidth 40))

/-- A candidate of VTOPK: its value and its index. -/
abbrev Cand := Int × Nat

/-- Descending by value, ties to the lower index (R194). -/
def before (a b : Cand) : Bool := b.1 < a.1 || (a.1 = b.1 && a.2 < b.2)

/-- A candidate put into its place. -/
def insertCand (c : Cand) : List Cand → List Cand
  | [] => [c]
  | x :: xs => if before c x then c :: x :: xs else x :: insertCand c xs

/-- VTOPK (R194). -/
def topK (x : Tile) (d a : BitVec 4) (imm : BitVec 14) : List (BitVec 40) :=
  let k := if fldNat imm 0 4 = 0 then 16 else fldNat imm 0 4
  let fresh : List Cand := (List.range 32).map fun j => (x.laneInt a j, fldNat imm 5 9 * 32 + j)
  let held : List Cand :=
    if flag imm 4 then (List.range k).map fun j => (x.laneInt d j, (x.lane d (16 + j)).toNat) else []
  let best := ((fresh ++ held).foldl (fun l c => insertCand c l) []).take k
  let value (j : Nat) : BitVec 40 := match best[j]? with | some c => BitVec.ofInt 40 c.1 | none => BitVec.ofInt 40 (-(2 ^ 39))
  let index (j : Nat) : BitVec 40 := match best[j]? with | some c => BitVec.ofNat 40 c.2 | none => 0
  (List.range 16).map value ++ (List.range 16).map index

end Tile

/-- VNOP. -/
def execVnop (_t : TileId) (s : State) : Host.Outcome State Fault Refusal := .next s

/-- VADD: Va + Vb, saturating (R223). -/
def execVadd (t : TileId) (d a b : BitVec 4) (s : State) : Host.Outcome State Fault Refusal :=
  s.run fun c => c.onTileNow t fun now x => x.vxu now 1 d fun j => (sat40 (x.laneInt a j + x.laneInt b j)).1

/-- VSUB: Va - Vb, saturating. -/
def execVsub (t : TileId) (d a b : BitVec 4) (s : State) : Host.Outcome State Fault Refusal :=
  s.run fun c => c.onTileNow t fun now x => x.vxu now 1 d fun j => (sat40 (x.laneInt a j - x.laneInt b j)).1

/-- VMUL: Va[15:0], signed, x Vb, saturating, latency 3. -/
def execVmul (t : TileId) (d a b : BitVec 4) (s : State) : Host.Outcome State Fault Refusal :=
  s.run fun c => c.onTileNow t fun now x =>
    x.vxu now 3 d fun j => (sat40 (((x.lane a j).setWidth 16).toInt * x.laneInt b j)).1

/-- VSHL: Va << IMM[5:0], saturating. -/
def execVshl (t : TileId) (d a : BitVec 4) (imm : BitVec 14) (s : State) : Host.Outcome State Fault Refusal :=
  s.run fun c => c.onTileNow t fun now x =>
    x.vxu now 1 d fun j => Tile.shl40 (x.laneInt a j) (fldNat imm 0 6)

/-- VSHR: Va >> IMM[5:0], arithmetic; a shift above 39 acts as 39. -/
def execVshr (t : TileId) (d a : BitVec 4) (imm : BitVec 14) (s : State) : Host.Outcome State Fault Refusal :=
  s.run fun c => c.onTileNow t fun now x =>
    x.vxu now 1 d fun j => (x.lane a j).sshiftRight (min 39 (fldNat imm 0 6))

/-- VMAX. -/
def execVmax (t : TileId) (d a b : BitVec 4) (s : State) : Host.Outcome State Fault Refusal :=
  s.run fun c => c.onTileNow t fun now x =>
    x.vxu now 1 d fun j => if x.laneInt a j < x.laneInt b j then x.lane b j else x.lane a j

/-- VMIN. -/
def execVmin (t : TileId) (d a b : BitVec 4) (s : State) : Host.Outcome State Fault Refusal :=
  s.run fun c => c.onTileNow t fun now x =>
    x.vxu now 1 d fun j => if x.laneInt b j < x.laneInt a j then x.lane b j else x.lane a j

/-- VCMP: 1 or 0 in each lane; IMM[1:0] = 3 is illegal and gives 0 (R187). -/
def execVcmp (t : TileId) (d a b : BitVec 4) (imm : BitVec 14) (s : State) : Host.Outcome State Fault Refusal :=
  s.run fun c =>
    let c := c.onTileNow t fun now x => x.vxu now 1 d fun j => Tile.cmp40 (fld imm 0 2) (x.laneInt a j) (x.laneInt b j)
    if fldNat imm 0 2 = 3 then c.illegalOp t else c

/-- VCLAMP: Va held to IMM[5:0] signed bits; 0 or above 40 is illegal and passes Va (R187). -/
def execVclamp (t : TileId) (d a : BitVec 4) (imm : BitVec 14) (s : State) : Host.Outcome State Fault Refusal :=
  s.run fun c =>
    let n := fldNat imm 0 6
    let c := c.onTileNow t fun now x => x.vxu now 1 d fun j => Tile.clamp40 n (x.laneInt a j)
    if n = 0 ∨ 40 < n then c.illegalOp t else c

/-- VMOVI: every lane = IMM, sign-extended. -/
def execVmovi (t : TileId) (d : BitVec 4) (imm : BitVec 14) (s : State) : Host.Outcome State Fault Refusal :=
  s.run fun c => c.onTileNow t fun now x => x.vxu now 1 d fun _ => imm.signExtend 40

/-- VLUT: LUT IMM[3:0] indexed by Va[7:0], zero-extended, latency 2. -/
def execVlut (t : TileId) (d a : BitVec 4) (imm : BitVec 14) (s : State) : Host.Outcome State Fault Refusal :=
  s.run fun c => c.onTileNow t fun now x =>
    x.vxu now 2 d fun j => (x.lutAt (fldNat imm 0 4) ((x.lane a j).setWidth 8)).setWidth 40

/-- VRQ. -/
def execVrq (t : TileId) (d a : BitVec 4) (imm : BitVec 14) (s : State) : Host.Outcome State Fault Refusal :=
  s.run fun c => c.onTileNow t fun now x => x.vrqOp now d a imm

/-- VSTAT: live PRE of channel (IMM[9:0] + j) mod 1,024 raised to |Va lane j|, latency 2 (R187 Table 6, R229). -/
def execVstat (t : TileId) (a : BitVec 4) (imm : BitVec 14) (s : State) : Host.Outcome State Fault Refusal :=
  s.run fun c => c.onTileNow t fun now x =>
    x.later now 2 Tile.rankVxu (.preStats (fldNat imm 0 10) ((List.range 32).map fun j => x.laneInt a j))

/-- VTOPK, latency 4. -/
def execVtopk (t : TileId) (d a : BitVec 4) (imm : BitVec 14) (s : State) : Host.Outcome State Fault Refusal :=
  s.run fun c => c.onTileNow t fun now x => x.later now 4 Tile.rankVxu (.lanes d 0 (x.topK d a imm))

/-! ### The FAB slot (R187 Table 7, R191) -/

/-- The packet header that a template's bytes 0 to 13 give (R191, R251 Table 2). -/
def headerOf (k : BitVec 128) : Packet where
  dchip := fld k 0 16
  type := fld k 28 4
  vc := fld k 26 2
  mc := flag k 25
  deid := fld k 16 9
  schip := 0
  seq := 0
  seid := 0
  flags := fld k 91 5
  len := fld k 88 3
  addr := fld k 64 24
  aux := fld k 96 16
  crc := 0
  payload := 0

namespace Chip

/-- SEND (R174, R191): header from Tk, payload from line A[a]; a template of another VC than VC0 sends nothing and logs
ILLEGAL_OP. -/
def sendFrom (c : Chip) (t : TileId) (k : BitVec 3) (a : BitVec 4) (p : Bool) : Chip :=
  let x := c.tile t
  let h := headerOf (tget 0 x.tmpl k.toNat)
  if h.vc ≠ 0 then c.tileFault t 0x200C
  else c.onTileNow t fun now x =>
    let ad := x.areg a
    let x := x.plan now ad Tile.prioSend now (.sendPayload h)
    if p then (x.later now 1 Tile.rankFabA (.addr a (ad + 32))).later now 1 Tile.rankFabT (.templateAddr k (h.addr + 32))
    else x

end Chip

/-- FNOP. -/
def execFnop (_t : TileId) (s : State) : Host.Outcome State Fault Refusal := .next s

/-- SEND. -/
def execSend (t : TileId) (k : BitVec 3) (a : BitVec 4) (p : Bool) (s : State) : Host.Outcome State Fault Refusal :=
  s.run fun c => c.sendFrom t k a p

/-- RECV (R171, R178, R179): takes the oldest payload at once, or stalls until there is one. -/
def execRecv (t : TileId) (a : BitVec 4) (p : Bool) (s : State) : Host.Outcome State Fault Refusal :=
  s.run fun c =>
    let x := c.tile t
    if !x.loose then c.looseViolation t
    else if x.rxq = [] then c.onTile t fun x => { x with recvWait := some (x.areg a, a, p) }
    else c.takeRecv t (x.areg a) a p

/-- RECV_RESUME (R171, R187 Table 7): the receive queue is no longer empty. -/
def execRecvResume (t : TileId) (s : State) : Host.Outcome State Fault Refusal :=
  s.run fun c =>
    match (c.tile t).recvWait with
    | some (ad, a, p) => c.takeRecv t ad a p
    | none => c

/-- RESERVED_OPCODE (R187): the slot's NOP, ILLEGAL and ILLEGAL_OP. -/
def execReservedOpcode (t : TileId) (_slot : Slot) (s : State) : Host.Outcome State Fault Refusal :=
  s.run fun c => c.illegalOp t

/-! ### Arrivals and unscheduled access (R165 to R171) -/

namespace Chip

/-- The buckle op of a DATA_WR_NOTIFY whose data can be read from the next cycle (R609): its endpoint sends a BUCKLE_OP
on that cycle. FASTEN_N and SET are reserved on a DATA_WR_NOTIFY, so they count as such here, with the packet's own header
bytes (R608, R644; log 21). -/
def notifyNext (c : Chip) (e : Eid) (notify : Option Packet) : Chip :=
  match notify with
  | none => c
  | some p =>
    if auxOp p.aux = 1 || auxOp p.aux = 3 then
      (c.onBkl fun k => { k with badOp := satInc k.badOp }).logFault 0x2003 e e.toNat (headerDetail p).toNat
    else c.send e (packet 0xFFFF tBuckleOp 3 eidBuckle 4 0 p.aux 0) 1

/-- A DATA_WR or DATA_WR_NOTIFY reaches a tile (R165, R167, R170, R171, R259). The ingress buffer holds 8 entries, the receive
queue 8 packets; the fabric withholds the credits of what would not fit, so only a row given beside it meets a full one, and its
packet is lost (log 65). -/
def tileWrite (c : Chip) (t : TileId) (e : Eid) (p : Packet) (inPort : RPort) (notify : Option Packet) : Chip :=
  let n := pktLen p
  if p.addr = 0x080000 then
    if (p.vc = 1 || p.vc = 2) && notify.isNone then
      if (c.tile t).rxq.length < 8 then c.onTile t fun x => { x with rxq := x.rxq ++ [p.payload] } else c
    else c.reject e p
  else if 0x080000 ≤ p.addr.toNat || p.addr.toNat % n ≠ 0 then c.reject e p
  else
    let ad : BitVec 19 := p.addr.setWidth 19
    if p.vc = 0 then c.onTileNow t fun now x => x.plan now ad (Tile.arrivalPrio inPort) now (.arrival n p.payload notify)
    else if (c.tile t).ingress.length < 8 then
      c.onTile t fun x => { x with ingress := x.ingress ++ [⟨ad, n, p.payload, notify⟩] }
    else c

/-- A READ_REQ reaches a tile: it waits for a free bank cycle, in no place that the manual bounds (R168, R170, R259; log 66). -/
def tileRead (c : Chip) (t : TileId) (e : Eid) (p : Packet) : Chip :=
  if 0x080000 ≤ p.addr.toNat || p.addr.toNat % pktLen p ≠ 0 then c.reject e p
  else c.onTile t fun x => { x with reads := x.reads ++ [p] }

/-- INGRESS_WRITE (R161, R167): the oldest entry is written when its bank is free. -/
def ingressWriteAt (c : Chip) (t : TileId) : Chip :=
  let x := c.tile t
  match x.ingress with
  | [] => c
  | g :: rest =>
    if !(x.bankFree c.now (Tile.bankOf g.addr)) then c
    else
      let c := c.onTile t fun x => { x.take c.now (Tile.bankOf g.addr) with
        ingress := rest
        sram := mwrite x.sram g.addr.toNat (lineBytes g.data g.len) }
      c.notifyNext (tileEid t) g.notify

/-- The bank that a READ_REQ of a tile's SRAM reads. -/
def readBank (p : Packet) : Nat := Tile.bankOf (p.addr.setWidth 19)

/-- UNSCHEDULED_READ_SERVE (R161, R168, R201): of the reads whose bank is free the oldest is answered, so none waits for
another's bank. FLAGS.SKIVED is as in the request (R386; log 25). -/
def readServeAt (c : Chip) (t : TileId) : Chip :=
  let x := c.tile t
  match x.reads.find? fun p => x.bankFree c.now (readBank p) with
  | none => c
  | some p =>
    let n := pktLen p
    let c := c.onTile t fun x => { x.take c.now (readBank p) with reads := x.reads.erase p }
    c.send (tileEid t) (response p n (lineOf (mread x.sram (p.addr.setWidth 19).toNat n)) (p.flags &&& 0b00100))

end Chip

/-- INGRESS_WRITE. -/
def execIngressWrite (t : TileId) (s : State) : Host.Outcome State Fault Refusal :=
  s.run fun c => c.ingressWriteAt t

/-- UNSCHEDULED_READ_SERVE. -/
def execUnscheduledReadServe (t : TileId) (s : State) : Host.Outcome State Fault Refusal :=
  s.run fun c => c.readServeAt t

end Sys2Proof.Machine
end

