-- ==== Sys2Proof/Machine/Almanac.lean ====
section
/-!
DEFINITION. Machine/Almanac.lean: the almanac (02_almanac): starting and stopping, the tick, the end of a day, Holdover,
the day's start, Feasts and the Vigil's own steps. A row whose cycle has not come leaves the chip as it is (log 3).
-/
namespace Sys2Proof.Machine
open Sys2Proof

namespace Chip

/-! ### Starting and stopping (R54, R55, R65 to R69, R737) -/

/-- The settings of a START lie in the ranges of R54 and R55. -/
def startRanges (c : Chip) : Bool :=
  let l := c.alm.dayLen.toNat
  let v := c.alm.vigilLen.toNat
  50000 ≤ l && l ≤ 2500000 && 1024 ≤ v && v ≤ 65536 && c.alm.tickTol.toNat + 1024 ≤ v &&
    1 ≤ c.alm.yearLen.toNat && c.alm.yearLen.toNat ≤ 4096 && v + 1024 ≤ l &&
    c.alm.yearLen.toNat ≤ c.hns.year.length

/-- A START is refused (R55, R65 Table 3, R67, R328, R681). -/
def startRefused (c : Chip) (mode : BitVec 2) : Bool :=
  !c.hns.loaded || !c.startRanges || mode = 3 || c.glb.ddrFail ≠ 0 ||
    (mode = 2 && c.uml.root && c.alm.tickSrc = 2)

/-- The start modes whose day 0 needs no tick (R65 Table 3, R328). -/
def startsAlone (c : Chip) (mode : BitVec 2) : Bool :=
  mode = 0 || (c.alm.tickSrc = 3 && (mode = 1 || (mode = 2 && c.uml.root)))

/-- Day 0 begins n cycles from now. -/
def day0In (c : Chip) (n : Nat) : Chip :=
  (c.onAlm fun a => { a with day0At := some (c.now + n) }).post n .day0Start

/-- The PLAN_ID of year entry k (R61, R63). -/
def yearPlan (c : Chip) (k : Nat) : Nat := c.hns.year.getD k 0

/-- A write of 1 to ALM_CTL.START (R65 to R67). -/
def startWritten (c : Chip) (mode : BitVec 2) : Chip :=
  if c.alm.running || c.alm.armed then c
  else if c.startRefused mode then c.onAlm fun a => { a with cfgErr := true }
  else
    let c := c.onAlm fun a => { a with
      armed := true
      nextPlan := some (c.yearPlan 0)
      dayCount := 0
      yearPos := 0
      early := 0
      late := 0
      holdCnt := 0
      overCount := 0
      tickOffset := 0x80000000
      holdover := false
      offRun := 0
      relock := 0
      day0At := none
      stopReq := false }
    let c := c.everyTile fun t => { t with statValid := false }
    if c.startsAlone mode then c.day0In 64 else c

/-- A write of 1 to ALM_CTL.STOP (R68, R69, R237). -/
def stopWritten (c : Chip) : Chip :=
  if c.alm.running then
    c.onAlm fun a => { a with
      stopReq := true
      stopAtVigil16 := if a.stopReq then a.stopAtVigil16 else !(a.inVigil && 16 ≤ c.vigilCycle) }
  else if c.alm.armed then
    (c.onAlm fun a => { a with armed := false, day0At := none }).unpost fun i => match i with | .day0Start => true | _ => false
  else c

/-- START_MODE takes the written value (R105). -/
def setStartMode (c : Chip) (mode : BitVec 2) : Chip := c.onAlm fun a => { a with startMode := mode }

/-- ALM_TICK_SRC names a fronthaul port or an Umaed link that does not exist or that the profile disables (R84). -/
def badTickSrc (c : Chip) (v : Word) : Bool :=
  let sub := fldNat v 2 3
  match fldNat v 0 2 with
  | 1 => 1 < sub || c.satchel
  | 2 => 5 < sub || c.satchel
  | _ => false

/-- A write to ALM_TICK_SRC (R83, R84). On an almanac that does not run it acts at once, and no start that is pending
begins its 64 cycles for it (log 106). -/
def tickSrcWritten (c : Chip) (v : Word) : Chip :=
  if c.badTickSrc v then c.onAlm fun a => { a with cfgErr := true }
  else if c.alm.running then c.onAlm fun a => { a with nextSrc := some (fld v 0 5) }
  else c.onAlm fun a => { a with tickSub := fld v 2 3, tickSrc := fld v 0 2 }

/-! ### The end of a day -/

/-- A mark on link n that should have registered E cycles after last cycle k, and registered at `at_` (R327). -/
def judgeMark (c : Chip) (n : Fin 6) (d : BitVec 16) (at_ : Nat) (e : Int) (k : Nat) : Chip :=
  let off : Int := (at_ : Int) - k - e
  let c := c.onLink n fun l => { l with markOffset := BitVec.ofInt 32 off }
  if c.alm.tickTol.toNat < off.natAbs then
    c.logFault 0x3006 (eidUmaed n) n.val ((BitVec.ofInt 32 off).toNat + d.toNat * 2 ^ 32)
  else c

/-- A mark is due on every UP link for a last cycle k of day d (R324); the marks of that day that came before its end
are judged (R327). -/
def dueMarks (c : Chip) (k : Nat) (d : BitVec 16) : Chip :=
  let c := (List.finRange 6).foldl
    (fun c n => if (c.link n).state = 5 then c.onLink n fun l => { l with markDue := some (k, d) } else c) c
  let due := c.uml.early.filter fun m => m.2.1 = d
  let c : Chip := { c with
    uml := { c.uml with
      dayEnds := (c.uml.dayEnds ++ [(d, k)]).drop (c.uml.dayEnds.length - 7)
      early := c.uml.early.filter fun m => m.2.1 ≠ d } }
  due.foldl (fun c m => c.judgeMark m.1 d m.2.2.1 m.2.2.2 k) c

/-- This cycle is the last of its day. -/
def endDay (c : Chip) : Chip :=
  (c.onAlm fun a => { a with dayEnded := true }).dueMarks c.now (c.alm.dayCount.setWidth 16)

/-- A locked day is judged at its last cycle: the third off day in a row logs TICK_LOST and enters Holdover (R78). -/
def judgeLocked (c : Chip) : Chip :=
  let ok := 1 ≤ c.alm.winTicks && c.alm.earlyTicks = 0
  if ok then c.onAlm fun a => { a with offRun := 0 }
  else if c.alm.offRun.toNat + 1 < 3 then c.onAlm fun a => { a with offRun := a.offRun + 1 }
  else
    (c.onAlm fun a => { a with holdover := true, relock := 0, offRun := 0 }).logFault 0x3005 Config.almanacEid
      (c.alm.tickSub.toNat * 4 + c.alm.tickSrc.toNat) 0

/-- N - T, the window's first cycle. -/
def windowFrom (c : Chip) : Nat := c.nominalEnd - c.alm.tickTol.toNat

/-- The tick comes from the source that ALM_TICK_SRC selects (R71). -/
def tickSelected (c : Chip) (src : TickFrom) : Bool :=
  match src with
  | .pin | .edge => c.alm.tickSrc = 0
  | .fronthaul p => c.alm.tickSrc = 1 && c.alm.tickSub.toNat = p.val
  | .peer n => c.alm.tickSrc = 2 && c.alm.tickSub.toNat = n.val

/-- ALM_TICK_OFFSET takes a signed offset (R82). -/
def setOffset (c : Chip) (o : Int) : Chip := c.onAlm fun a => { a with tickOffset := BitVec.ofInt 32 o }

/-- A tick registered while the almanac runs (R72 to R82, R107, R108). -/
def tickRunning (c : Chip) : Chip :=
  let k := c.alm.cycle
  let n := c.nominalEnd
  let t := c.alm.tickTol.toNat
  if c.alm.hdOpen && k < t then
    (c.setOffset (k + 1)).onAlm fun a => { a with hdWin := a.hdWin + 1 }
  else
    let c := c.setOffset ((k : Int) - n)
    if k < c.windowFrom then c.onAlm fun a => { a with early := satInc a.early, earlyTicks := a.earlyTicks + 1 }
    else if c.alm.holdover then c.onAlm fun a => { a with winTicks := a.winTicks + 1 }
    else
      let c := c.onAlm fun a => { a with winTicks := a.winTicks + 1 }
      if c.alm.dayEnded then c else c.endDay.judgeLocked

/-- A tick registered while a start is pending (R65 Table 3, R328). START_MODE is read as it stands on that cycle, also
where a later write of ALM_CTL changed it (log 105). -/
def tickArmed (c : Chip) : Chip :=
  if c.alm.day0At.isNone && (c.alm.startMode = 1 || (c.alm.startMode = 2 && c.uml.root)) then c.day0In 1 else c

/-- A tick is registered on this cycle (R71, R72). -/
def tick (c : Chip) (src : TickFrom) : Chip :=
  if !(c.tickSelected src) then c
  else if c.alm.running then c.tickRunning
  else if c.alm.armed then c.tickArmed else c

/-- What TICK_IN stands for (R72): a rising edge at the ball is registered on the third cycle after it; the other sources
name the cycle on which their own chapter registers them. -/
def tickArrives (c : Chip) (src : TickFrom) : Chip :=
  match src with
  | .edge => if c.ready then c.post 3 (.tickIn .pin) else c
  | src => c.tick src

/-- The day ends at N with the internal source or in Holdover (R73, R79, R81). -/
def nominalDayEnd (c : Chip) : Chip :=
  if c.alm.running && !c.alm.dayEnded && c.alm.cycle = c.nominalEnd && (c.alm.tickSrc = 3 || c.alm.holdover) then
    let c := c.endDay
    if c.alm.tickSrc ≠ 3 then
      c.onAlm fun a => { a with
        holdCnt := satInc a.holdCnt
        hdWin := a.winTicks
        hdEarly := a.earlyTicks
        hdOpen := true }
    else c
  else c

/-- A locked day without a tick ends at N + T (R75, R78). -/
def lateDayEnd (c : Chip) : Chip :=
  if c.alm.running && !c.alm.dayEnded && c.alm.cycle = c.nominalEnd + c.alm.tickTol.toNat && c.alm.tickSrc ≠ 3 &&
      !c.alm.holdover then
    (c.endDay.onAlm fun a => { a with late := satInc a.late }).judgeLocked
  else c

/-- The window of the Holdover day that waits for its judgement closes on this cycle (R79). -/
def judgementDue (c : Chip) : Bool :=
  c.alm.running && c.alm.hdOpen &&
    (if c.alm.tickTol = 0 then c.alm.dayEnded else c.alm.cycle + 1 = c.alm.tickTol.toNat)

/-- The judgement (R79, R80). -/
def judgeHoldover (c : Chip) : Chip :=
  if c.judgementDue then
    c.onAlm fun a =>
      let ok := a.hdWin = 1 && a.hdEarly = 0
      if ok && a.relock.toNat + 1 = 8 then { a with hdOpen := false, holdover := false, relock := 0, offRun := 0 }
      else { a with hdOpen := false, relock := if ok then a.relock + 1 else 0 }
  else c

/-! ### The start of a day -/

/-- Day 0, cycle 0 (R65, R230, R324, R740). -/
def beginDay0 (c : Chip) : Chip :=
  if c.alm.armed && c.alm.day0At = some c.now then
    let c := c.onAlm fun a => { a with
      armed := false
      running := true
      cycle := 0
      planCur := BitVec.ofNat 9 (a.nextPlan.getD 0)
      nextPlan := none
      day0At := none
      dayEnded := false
      lastDone := false
      winTicks := 0
      earlyTicks := 0
      hdOpen := false
      inVigil := false
      inFeast := false
      invalid := []
      genToday := false }
    let c := c.abortAll.cutGaps
    let c := (List.range 8).foldl (fun c k => c.onChan (BitVec.ofNat 3 k) fun x => { x with eccDay := none }) c
    let c := c.onHns fun h => { h with skvOld := none }
    let ws : Table Walker := c.kvw.map fun (kw : Nat × Walker) => (kw.1, { kw.2 with notices := [], degraded := [] })
    let c : Chip := { c with kvw := ws.filter fun kw => kw.2 ≠ Walker.init }
    let ports : Table AudPort := c.aud.ports.map fun (kx : Nat × AudPort) => (kx.1, { kx.2 with gainLog := [] })
    let c : Chip := { c with aud := { c.aud with ports := ports.filter fun kx => kx.2 ≠ AudPort.init } }
    let plain : Table Stream := c.sfe.streams.map fun (kx : Nat × Stream) => (kx.1, { kx.2 with gainLog := [] })
    let c : Chip := { c with
      uml := { c.uml with dayEnds := [], early := [] }
      sfe := { c.sfe with
        gens := []
        bad := []
        streams := plain.filter fun kx => kx.2 ≠ Stream.init } }
    let c := c.liveTiles.foldl (fun c t => c.onTile t fun x => openWindow { x with skipDay := false, winSwitch := false }) c
    c.dueMarks (c.now - 1) 0xFFFF
  else c

/-- The tick source written in the day before comes into force (R83). -/
def switchSrc (c : Chip) : Chip :=
  match c.alm.nextSrc with
  | none => c
  | some v => c.onAlm fun a => { a with
      nextSrc := none
      tickSrc := fld v 0 2
      tickSub := fld v 2 3
      offRun := 0
      relock := 0
      hdOpen := false
      holdover := if fldNat v 0 2 = 3 then false else a.holdover }

/-- Cycle 0 of the next day (R63, R83, R85, R93, R98, R100, R354). -/
def beginDay (c : Chip) : Chip :=
  if c.alm.running && c.alm.dayEnded && !c.alm.stopReq then
    let gen := decide (c.alm.staged ≠ [])
    let c := c.applySettings c.alm.staged
    let c := if c.alm.invalid = [] then c else
      { c with sfe := { c.sfe with bad := (c.sfe.bad ++ [(c.alm.dayCount, c.alm.invalid)]).drop (c.sfe.bad.length - 159) } }
    let c := c.onAlm fun a => { a with
      cycle := 0
      dayEnded := false
      lastDone := false
      dayCount := a.dayCount + 1
      yearPos := if a.yearPos.toNat + 1 < a.yearLen.toNat then a.yearPos + 1 else 0
      planCur := match a.nextPlan with | some p => BitVec.ofNat 9 p | none => a.planCur
      nextPlan := none
      staged := []
      winTicks := 0
      earlyTicks := 0
      inVigil := false
      inFeast := false
      invalid := []
      genToday := gen }
    let c := (c.switchSrc.cutGaps).onHns fun h => { h with skvOld := none }
    c.liveTiles.foldl (fun c t => c.onTile t (dayOnTile gen)) c
  else c

/-! ### Feasts and the Vigil -/

/-- A Feast of the plan in force covers cycle k (R57). -/
def feastAt (c : Chip) (k : Nat) : Bool :=
  match c.plan with
  | some p => p.feasts.any fun f => f.1 ≤ k && k ≤ f.2
  | none => false

/-- The Vigil opens (R85, R88, R89, R280). -/
def openVigil (c : Chip) : Chip :=
  if c.alm.running && !c.alm.inVigil && c.alm.cycle = c.vigilStart then
    let c := c.onAlm fun a => { a with inVigil := true }
    let c := (c.tileKeys.filter fun t => (c.tile t).inSection).foldl haltOverrun c
    let left := (c.tileKeys.map fun t => (c.tile t).rxq.length).sum
    let c := c.everyTile fun t => { t with rxq := [] }
    c.onFab fun f => { f with rxqDrop := satAdd f.rxqDrop left }
  else c

/-- The Vigil's first cycle lies n cycles back. -/
def vigilAt (c : Chip) (n : Nat) : Bool := c.alm.running && c.alm.inVigil && c.alm.cycle = c.vigilStart + n

/-- The next day's plan is latched (R63, R85). -/
def latchPlan (c : Chip) : Chip :=
  if c.vigilAt 768 then
    c.onAlm fun a => { a with
      nextPlan := some (c.yearPlan (if a.yearPos.toNat + 1 < a.yearLen.toNat then a.yearPos.toNat + 1 else 0)) }
  else c

/-- The settings due at the next day are staged (R85, R98). -/
def stageSettings (c : Chip) : Chip :=
  if c.vigilAt 896 then
    c.onAlm fun a => { a with
      staged := a.settings.filter fun w => w.day.toNat ≤ a.dayCount.toNat + 1
      settings := a.settings.filter fun w => a.dayCount.toNat + 1 < w.day.toNat }
  else c

end Chip

/-! ### The rows -/

/-- START (R54, R55, R65, R66, R67, R328, R681, R737). -/
def execStart (mode : BitVec 2) (stop : Bool) (s : State) : Host.Outcome State Fault Refusal :=
  s.run fun c =>
    if c.ready then
      let c := c.setStartMode mode
      (if stop then c.stopWritten else c).startWritten mode
    else c

/-- STOP (R68, R69, R237). -/
def execStop (mode : BitVec 2) (s : State) : Host.Outcome State Fault Refusal :=
  s.run fun c => if c.ready then (c.setStartMode mode).stopWritten else c

/-- TICK_SRC_WRITE (R83, R84, R104). -/
def execTickSrcWrite (v : Word) (s : State) : Host.Outcome State Fault Refusal :=
  s.run fun c => if c.ready then c.tickSrcWritten v else c

/-- DAY0_START (R20, R65, R82, R230, R324). -/
def execDay0Start (s : State) : Host.Outcome State Fault Refusal := s.run Chip.beginDay0

/-- TICK_IN (R65, R71, R72, R74, R76, R77, R78, R79, R82, R328). -/
def execTickIn (src : TickFrom) (s : State) : Host.Outcome State Fault Refusal := s.run fun c => c.tickArrives src

/-- DAY_END_NOMINAL (R73, R79, R81). -/
def execDayEndNominal (s : State) : Host.Outcome State Fault Refusal := s.run Chip.nominalDayEnd

/-- DAY_END_LATE (R75, R78). -/
def execDayEndLate (s : State) : Host.Outcome State Fault Refusal := s.run Chip.lateDayEnd

/-- HOLDOVER_JUDGEMENT (R79, R80). -/
def execHoldoverJudgement (s : State) : Host.Outcome State Fault Refusal := s.run Chip.judgeHoldover

/-- DAY_START (R23, R24, R63, R83, R85, R93, R98, R99, R100, R233). -/
def execDayStart (s : State) : Host.Outcome State Fault Refusal := s.run Chip.beginDay

/-- FEAST_START (R48, R57, R272). -/
def execFeastStart (s : State) : Host.Outcome State Fault Refusal :=
  s.run fun c => if c.alm.running && c.feastAt c.alm.cycle then c.onAlm fun a => { a with inFeast := true } else c

/-- FEAST_END (R48, R57): the first cycle after a Feast. -/
def execFeastEnd (s : State) : Host.Outcome State Fault Refusal :=
  s.run fun c => if c.alm.running && c.feastAt c.alm.cycle then c else c.onAlm fun a => { a with inFeast := false }

/-- VIGIL_START (R85, R88, R89, R91, R280, R739). -/
def execVigilStart (s : State) : Host.Outcome State Fault Refusal := s.run Chip.openVigil

/-- PLAN_LATCH (R63, R85). -/
def execPlanLatch (s : State) : Host.Outcome State Fault Refusal := s.run Chip.latchPlan

/-- SETTINGS_STAGE (R85, R98, R109). -/
def execSettingsStage (s : State) : Host.Outcome State Fault Refusal := s.run Chip.stageSettings

end Sys2Proof.Machine
end

