-- ==== Sys2Proof/Machine/DramRows.lean ====
section
/-!
DEFINITION. Machine/DramRows.lean: the rows of an LPDDR5X channel (08_memory): packets that reach it, the commands of its
DRAM day plan, refresh, the arbiter's rounds, the transactions' ends, and the write of ARB_FREEZE. A planned command issues
only while the almanac runs (R740).
-/
namespace Sys2Proof.Machine
open Sys2Proof

namespace Chip

/-! ### Packets to a channel (R344 to R347, R738) -/

/-- The address is one of a check area or beyond the channel (R346). -/
def badLinear (c : Chip) (k : BitVec 3) (a : Nat) : Bool := 0x780 ≤ a % 2048 || c.capacity k ≤ a

/-- A VC1 packet takes its place with the arbiter, or is dropped (R344, R345, R346, R359, R360, R376). -/
def chanRequest (c : Chip) (k : BitVec 3) (p : Packet) : Chip :=
  let e := eidChannel k
  let n := pktLen p
  if p.addr.toNat % n ≠ 0 then c.reject e p
  else if p.type = tReadReq && p.len = 0 && p.addr = 0xFFFFF0 then
    let i := if c.isHere p.schip then p.seid.toNat else 0x1FF
    c.send e (response p 4 ((tget 0 (c.chan k).win i).setWidth 256))
  else
    let a := c.windowAddr k p
    if c.badLinear k a then c.reject e p
    else
      let t : Txn := ⟨p, a, c.classOf p, p.debug && (c.chan k).dbgPre⟩
      if t.debug then c.debugPreempt k t else c.enqueueTxn k t

/-- A packet reaches channel k. -/
def chanPacket (c : Chip) (k : BitVec 3) (p : Packet) : Chip :=
  let e := eidChannel k
  if p.vc = 1 then c.chanRequest k p
  else if p.vc = 0 && p.type = tDataWr && p.len = 3 && p.addr.toNat % 32 = 0 && p.addr.toNat < 64 * 32 then
    c.fillSlot k (p.addr.toNat / 32) p.payload
  else c.reject e p

/-- The window word of a source is written (R345). -/
def setWindow (c : Chip) (k : BitVec 3) (p : Packet) : Chip :=
  if c.isHere p.schip then c.onChan k fun x => { x with win := tput 0 x.win p.seid.toNat (p.payload.extractLsb' 0 9) }
  else c.reject (eidChannel k) p

/-! ### Planned issues (R349 to R352, R357) -/

/-- A plan may issue on channel k now: the almanac runs and the channel has trained. -/
def planLive (c : Chip) (k : BitVec 3) : Bool := c.alm.running && c.trained k

/-- A planned issue that touches banks bs: skipped and counted, or done. -/
def planned (c : Chip) (k : BitVec 3) (bs : List Nat) (skip : Chip → Chip) (f : Chip → Chip) : Chip :=
  if c.planLive k then
    match c.skippedBy k bs with
    | some w => skip (c.countSkip k w)
    | none => f c
  else c

/-- A planned RD's VC0 packet to a tile line, `late` cycles beyond RD_LAT (R351); none is a POISON one (R343, R357). -/
def planPacket (c : Chip) (k : BitVec 3) (tile : TileId) (line : Nat) (l : LineRead) (late : Nat) : Chip :=
  let p := packet 0xFFFF tDataWr 0 (tileEid tile) 32 (BitVec.ofNat 24 (line * 32)) 0 (l.getD 0)
    (if l.isSome then 0 else 0b00010)
  c.send (eidChannel k) p (c.rdLat k + late)

/-- The line that a planned RD reads, with its check word from the bank's check buffer (R342). With no row open in the bank the manual states no data: it is free (log 23). -/
def planRead (c : Chip) (k : BitVec 3) (b col : Nat) : LineRead × Chip :=
  match (c.bank k b).row with
  | some r => c.readChecked k (c.lineAddr k b r.toNat col) (tget Ecc.clean (c.bank k b).check col)
  | none =>
    let (v, c) := c.drawBits 256
    (some v, c)

/-- One line of a planned RD. -/
def planReadTo (c : Chip) (k : BitVec 3) (b col : Nat) (tile : TileId) (line late : Nat) : Chip :=
  let (l, c) := c.planRead k b col
  c.planPacket k tile line l late

/-- One line of a planned WR (R352): its check word goes to the bank's check buffer (R342). With no row open nothing is written (log 23). -/
def planWrite (c : Chip) (k : BitVec 3) (b col slot : Nat) : Chip :=
  match (c.bank k b).row with
  | some r =>
    let l := c.slotBefore k slot
    (c.onChan k fun x => { x with cells := mwrite x.cells (c.lineAddr k b r.toNat col) (lineBytes l) }).onBank k b fun x =>
      { x with check := tput Ecc.clean x.check col .clean, dirty := true }
  | none => c

/-- MR4 of a rank is read (R358). -/
def readMr4 (c : Chip) (k : BitVec 3) (rank : Bool) (rate : BitVec 3) (hot : Bool) : Chip :=
  let d : BitVec 3 := if hot then 4 else if rate.toNat ≤ 1 then 1 else if rate.toNat < 4 then 2 else 4
  let c := c.onChan k fun x => { x with derate := d }
  if hot then c.logFault 0x1002 (eidChannel k) k.toNat (b1 rank) else c

/-! ### Refresh (R355 to R357, R740) -/

/-- A TREFI has gone (R355, R687). -/
def accrue (c : Chip) (k : BitVec 3) : Chip :=
  if c.trained k && 0 < c.trefi k && (c.chan k).trefiAt ≤ c.now then
    let d : Int := 16 * c.derateNow k
    let c := c.addDebt k 0 d
    let c := if c.twoRanks k then c.addDebt k 1 d else c
    c.onChan k fun x => { x with trefiAt := c.now + c.trefi k }
  else c

/-- The end of an emergency window: its fault, with the issues skipped in it (R357; log 24). -/
def endEmergency (c : Chip) (k : BitVec 3) (rank : Nat) : Chip :=
  let n := tget 0 (c.chan k).emergSkip rank
  (c.onChan k fun x => { x with
    emergUntil := tput 0 x.emergUntil rank 0
    emergSkip := tput 0 x.emergSkip rank 0 }).logFault 0x2006 (eidChannel k) k.toNat (rank + n * 2 ^ 32)

/-- An emergency refresh begins (R356, R357): its PREA writes the rank's check buffers back. The rows that the plan had open
stand open again, their check areas read anew, which hold what was written back. -/
def beginEmergency (c : Chip) (k : BitVec 3) (rank : Nat) : Chip :=
  let c := (rankBanks rank).foldl (fun c b => c.storeCheck k b) (c.addDebt k rank (-16))
  let c := c.abortTxns k fun b => rankOf b = rank
  let upto := c.now + c.emergLen k
  (c.onChan k fun x => { x with
    emergCnt := satInc x.emergCnt
    emergUntil := tput 0 x.emergUntil rank upto
    emergSkip := tput 0 x.emergSkip rank 0 }).postAt upto (.emergencyRefresh k (rank = 1))

/-- EMERGENCY_REFRESH on this cycle: the end of a window, or the begin of one. -/
def emergency (c : Chip) (k : BitVec 3) (rank : Nat) : Chip :=
  let u := tget 0 (c.chan k).emergUntil rank
  if u ≠ 0 && c.now < u then c
  else
    let c := if u ≠ 0 then c.endEmergency k rank else c
    if c.planLive k && 128 ≤ c.debtOf k rank then c.beginEmergency k rank else c

/-- A transaction is under way on a rank. -/
def rankBusy (c : Chip) (k : BitVec 3) (rank : Nat) : Bool :=
  (c.chan k).inFlight.any fun t => rankOf (c.bankOfAddr k t.2.addr) = rank

/-- The controller refreshes a rank of a stopped almanac itself (R740). -/
def refreshStopped (c : Chip) (k : BitVec 3) (rank : Nat) : Chip :=
  if !c.alm.running && c.trained k && 16 ≤ c.debtOf k rank && !(c.rankBusy k rank) then
    (rankBanks rank).foldl (fun c b => c.precharge k b) (c.addDebt k rank (-16))
  else c

/-! ### Ends of transactions (R343, R359, R365, R376) -/

/-- The answer to a request, poisoned when the line was uncorrectable; FLAGS.SKIVED as in the request (R386; log 25). -/
def chanAnswer (c : Chip) (k : BitVec 3) (t : Txn) (late : Nat) : Chip :=
  let n := pktLen t.pkt
  let (l, c) := c.readLine k t.addr
  match l with
  | some l => c.send (eidChannel k)
      (response t.pkt n (lineOf ((lineBytes l).drop (t.addr % 32) |>.take n)) (t.pkt.flags &&& 0b00100)) late
  | none => c.send (eidChannel k) (response t.pkt n 0 0b00010) late

/-- The oldest DEBUG window ends: DEBUG_PREEMPT with the issues it skipped (R359; log 24). -/
def endDebug (c : Chip) (k : BitVec 3) : Chip :=
  match (c.chan k).dbg with
  | [] => c
  | w :: ws =>
    (c.onChan k fun x => { x with dbg := ws }).logFault 0x2007 (eidChannel k) k.toNat (w.skipped * 2 ^ 32)

/-- What a transaction does to the array: a read's response is on its way, a write is done and its buckle op goes out
(R609). -/
def doTxn (c : Chip) (k : BitVec 3) (t : Txn) : Chip :=
  if t.pkt.type = tReadReq then c.chanAnswer k t (c.rspExtra k)
  else
    let c := c.writeBytes k t.addr (pktLen t.pkt) t.pkt.payload
    if t.pkt.type = tDataWrNotify then c.notifyNext (eidChannel k) (some t.pkt) else c

/-- One transaction ends; a pre-empting one ends its window and opens the planned row again (R359). -/
def endTxn (c : Chip) (k : BitVec 3) (t : Txn) : Chip :=
  if t.debug then ((c.endDebug k).doTxn k t).loadCheck k (c.bankOfAddr k t.addr) else c.doTxn k t

/-- The transactions whose bank time has ended (R376). -/
def endTxns (c : Chip) (k : BitVec 3) : Chip :=
  let ended := (c.chan k).inFlight.filter fun t => t.1 ≤ c.now
  let c := c.onChan k fun x => { x with inFlight := x.inFlight.filter fun t => c.now < t.1 }
  ended.foldl (fun c t => c.endTxn k t.2) c

/-- The head of a class withdraws (R365): a request still gets its one response, POISON; in the cycle of its grant the
cycle is dead. -/
def withdrawHead (c : Chip) (k : BitVec 3) (cl : Nat) : Chip :=
  match (c.arbClass k cl).queue with
  | [] => c
  | t :: rest =>
    let dead := c.arbWinner k = some cl
    let c := c.onClass k cl fun a => { a with queue := rest }
    let c := if dead then c.onChan k fun x => { x with dead := some c.now } else c
    if t.pkt.type = tReadReq then c.send (eidChannel k) (poisonResponse t.pkt) else c

/-- A planned GAP of n cycles on the banks of a mask. -/
def openGap (c : Chip) (k : BitVec 3) (mask : Word) (n : Nat) : Chip :=
  if c.planLive k then
    let bs := (List.range 32).filter fun b => flag mask b
    let open_ := bs.filter fun b => (c.skippedBy k [b]).isNone
    let c := match c.skippedBy k bs with | some w => c.countSkip k w | none => c
    open_.foldl (fun c b => c.onBank k b fun x => { x with gaps := (x.gaps.filter fun g => c.now < g) ++ [c.now + n] }) c
  else c

/-- A write of ARB_FREEZE (R366). A channel that the profile disables ignores it (R378). -/
def setFreeze (c : Chip) (k : BitVec 3) (v : Bool) : Chip :=
  if c.ready && c.chanOn k then c.onChan k fun x => { x with freeze := v } else c

end Chip

/-! ### The rows -/

/-- MEM_WIN_WRITE (R344, R345). -/
def execMemWinWrite (k : BitVec 3) (p : Packet) (s : State) : Host.Outcome State Fault Refusal :=
  s.run fun c => c.setWindow k p

/-- ACT (R342, R349, R357). -/
def execAct (k : BitVec 3) (bank : BitVec 5) (row : BitVec 18) (s : State) : Host.Outcome State Fault Refusal :=
  s.run fun c => c.planned k [bank.toNat] id fun c => c.activate k bank.toNat row

/-- RD32 (R343, R349, R351, R357). -/
def execRd32 (k : BitVec 3) (bank : BitVec 5) (col : BitVec 6) (tile : TileId) (line : BitVec 14) (s : State) :
    Host.Outcome State Fault Refusal :=
  s.run fun c => c.planned k [bank.toNat]
    (fun c => c.planPacket k tile line.toNat none 0)
    (fun c => c.planReadTo k bank.toNat col.toNat tile line.toNat 0)

/-- RD64 (R349, R351, R357): two lines, two packets on consecutive cycles. -/
def execRd64 (k : BitVec 3) (bank : BitVec 5) (col : BitVec 6) (tile : TileId) (line : BitVec 14) (s : State) :
    Host.Outcome State Fault Refusal :=
  s.run fun c => c.planned k [bank.toNat]
    (fun c => (c.planPacket k tile line.toNat none 0).planPacket k tile (line.toNat + 1) none 1)
    (fun c => (c.planReadTo k bank.toNat col.toNat tile line.toNat 0).planReadTo k bank.toNat (col.toNat + 1) tile
      (line.toNat + 1) 1)

/-- WR32 (R343, R349, R352, R357). -/
def execWr32 (k : BitVec 3) (bank : BitVec 5) (col : BitVec 6) (slot : BitVec 6) (s : State) :
    Host.Outcome State Fault Refusal :=
  s.run fun c => c.planned k [bank.toNat] id fun c => c.planWrite k bank.toNat col.toNat slot.toNat

/-- WR64 (R349, R352, R357): two slots to two lines. -/
def execWr64 (k : BitVec 3) (bank : BitVec 5) (col : BitVec 6) (slot : BitVec 6) (s : State) :
    Host.Outcome State Fault Refusal :=
  s.run fun c => c.planned k [bank.toNat] id fun c =>
    (c.planWrite k bank.toNat col.toNat slot.toNat).planWrite k bank.toNat (col.toNat + 1) (slot.toNat + 1)

/-- PRE (R342, R349, R357). -/
def execPre (k : BitVec 3) (bank : BitVec 5) (s : State) : Host.Outcome State Fault Refusal :=
  s.run fun c => c.planned k [bank.toNat] id fun c => c.precharge k bank.toNat

/-- PREA (R342, R349, R353, R357). -/
def execPrea (k : BitVec 3) (rank : Bool) (s : State) : Host.Outcome State Fault Refusal :=
  s.run fun c => c.planned k (Chip.rankBanks (b1 rank)) id fun c =>
    (Chip.rankBanks (b1 rank)).foldl (fun c b => c.precharge k b) c

/-- REFPB (R349, R355, R357): debt falls by 1. -/
def execRefpb (k : BitVec 3) (bank : BitVec 5) (s : State) : Host.Outcome State Fault Refusal :=
  s.run fun c => c.planned k [bank.toNat] id fun c => c.addDebt k (Chip.rankOf bank.toNat) (-1)

/-- REFAB (R349, R355, R357): debt falls by 16. -/
def execRefab (k : BitVec 3) (rank : Bool) (s : State) : Host.Outcome State Fault Refusal :=
  s.run fun c => c.planned k (Chip.rankBanks (b1 rank)) id fun c => c.addDebt k (b1 rank) (-16)

/-- MRR4 (R349, R357, R358): the operands are MR4's refresh rate as a multiple, and whether it reports a temperature
above the limit. -/
def execMrr4 (k : BitVec 3) (rank : Bool) (rate : BitVec 3) (hot : Bool) (s : State) :
    Host.Outcome State Fault Refusal :=
  s.run fun c => c.planned k (Chip.rankBanks (b1 rank)) id fun c => c.readMr4 k rank rate hot

/-- ZQLAT (R349, R357): the latch is the device's own; a skipped one counts. -/
def execZqlat (k : BitVec 3) (rank : Bool) (s : State) : Host.Outcome State Fault Refusal :=
  s.run fun c => c.planned k (Chip.rankBanks (b1 rank)) id id

/-- GAP (R349, R354, R357, R359): the banks of MASK are open to unscheduled traffic for LEN cycles, beside any GAP that is
open on them already. The banks that a window covers are skipped, and the issue counted once (log 26). -/
def execGap (k : BitVec 3) (mask : Word) (len : BitVec 16) (s : State) : Host.Outcome State Fault Refusal :=
  s.run fun c => c.openGap k mask len.toNat

/-- REFRESH_ACCRUAL (R355, R687). -/
def execRefreshAccrual (k : BitVec 3) (s : State) : Host.Outcome State Fault Refusal := s.run fun c => c.accrue k

/-- EMERGENCY_REFRESH (R356, R357, R382). -/
def execEmergencyRefresh (k : BitVec 3) (rank : Bool) (s : State) : Host.Outcome State Fault Refusal :=
  s.run fun c => c.emergency k (b1 rank)

/-- STOPPED_REFRESH (R740). -/
def execStoppedRefresh (k : BitVec 3) (rank : Bool) (s : State) : Host.Outcome State Fault Refusal :=
  s.run fun c => c.refreshStopped k (b1 rank)

/-- ARBITER_GRANT (R361 to R364, R366, R740). -/
def execArbiterGrant (k : BitVec 3) (s : State) : Host.Outcome State Fault Refusal := s.run fun c => c.arbRound k

/-- BACKOFF_EXPIRY (R364): the wait of class k's head has run out. -/
def execBackoffExpiry (k : BitVec 3) (cl : BitVec 2) (s : State) : Host.Outcome State Fault Refusal :=
  s.run fun c =>
    if (c.arbClass k cl.toNat).backUntil ≤ c.now then c.onClass k cl.toNat fun a => { a with backUntil := 0 } else c

/-- WITHDRAW (R365, R376, R383). -/
def execWithdraw (k : BitVec 3) (cl : BitVec 2) (s : State) : Host.Outcome State Fault Refusal :=
  s.run fun c => c.withdrawHead k cl.toNat

/-- TRANSACTION_COMPLETE (R343, R351 Table 5, R359, R376, R609). -/
def execTransactionComplete (k : BitVec 3) (s : State) : Host.Outcome State Fault Refusal := s.run fun c => c.endTxns k

/-- FREEZE (R366). -/
def execFreeze (k : BitVec 3) (v : Bool) (s : State) : Host.Outcome State Fault Refusal := s.run fun c => c.setFreeze k v

end Sys2Proof.Machine
end

