-- ==== Sys2Proof/Machine/Kv.lean ====
section
/-!
DEFINITION. Machine/Kv.lean: conversation memory (10_kvcache): the class record, pages and descriptors, the operations on
them as functions of the class and the descriptor, victims, pressure, placement.
-/
namespace Sys2Proof.Machine
open Sys2Proof

namespace Kv

/-! ### The class record (R419 Table 3) -/

def mode (b : List Byte) : Nat := numAt b 0 1 % 4
def dropClass (b : List Byte) : Bool := flag (b.getD 0 0) 2
def direct (b : List Byte) : Bool := flag (b.getD 0 0) 3
def pageLen (b : List Byte) : Nat := if numAt b 1 1 = 0 then 64 else 32
def planes (b : List Byte) : Nat := numAt b 2 1
def split (b : List Byte) : Nat := numAt b 3 1
def walkerNo (b : List Byte) : Nat := numAt b 4 1
def low (b : List Byte) : Nat := numAt b 7 1
def descFirst (b : List Byte) : Nat := numAt b 8 2
def descCount (b : List Byte) : Nat := numAt b 10 2
def listFirst (b : List Byte) : Nat := numAt b 12 2
def budget (b : List Byte) : Nat := numAt b 14 2
def frames (b : List Byte) : Nat := numAt b 16 2
def lpChannel (b : List Byte) : Nat := numAt b 18 1
def ringLinks (b : List Byte) : Byte := b.getD 19 0
def lpBase (b : List Byte) : Nat := numAt b 20 8
def ringSize (b : List Byte) : Nat := numAt b 28 1
def ringPos (b : List Byte) : Nat := numAt b 29 1
def prevChip (b : List Byte) : BitVec 16 := BitVec.ofNat 16 (numAt b 32 2)
def nextChip (b : List Byte) : BitVec 16 := BitVec.ofNat 16 (numAt b 34 2)
/-- MAP: the tile and BASE_LINE of an entry. -/
def mapTile (b : List Byte) (i : Nat) : Nat := numAt b (40 + 8 * i) 1
def mapBase (b : List Byte) (i : Nat) : Nat := numAt b (42 + 8 * i) 2

/-- Bp of R434. -/
def bp (b : List Byte) : Nat := (budget b + 7) / 8

/-! ### Pages and descriptors (R414, R416) -/

def locAbsent : BitVec 2 := 0
def locSram : BitVec 2 := 1
def locLpddr : BitVec 2 := 2
def locMoving : BitVec 2 := 3

/-- A page entry as 32 bits (R414 Table 1). -/
def entry (p : Page) : Word :=
  BitVec.ofNat 32 (p.loc.toNat * 2 ^ 30 + b1 p.pin * 2 ^ 29 + b1 p.auto * 2 ^ 28 + p.score.toNat * 2 ^ 20 + p.frame.toNat)

/-- A side word (R414). -/
def side (p : Page) : Word := BitVec.ofNat 32 (p.home.toNat * 2 ^ 16 + p.posPage % 2 ^ 16)

/-- What an index at or beyond COUNT returns (R435). -/
def noEntry : Word := 0x000FFFFF
def noSide : Word := 0xFFFFFFFF

/-- Free SRAM frames of an open descriptor. -/
def sramFree (b : List Byte) (d : KvDesc) : Nat := frames b - d.usedFrames.length

/-- Entries with PIN set, and with LOC MOVING. -/
def pins (d : KvDesc) : Nat := (d.pages.filter fun p => p.pin).length
def moving (d : KvDesc) : Nat := (d.pages.filter fun p => p.loc = locMoving).length

/-- The lowest number below n that is not in use. -/
def lowestFree (used : List Nat) (n : Nat) : Option Nat := (List.range n).find? fun k => !(used.contains k)

/-- The 32 bytes of a descriptor (R416 Table 2). -/
def descBytes (b : List Byte) (d : KvDesc) : List Byte :=
  leBytes 2 d.cls.toNat ++ [BitVec.ofNat 8 (b1 d.isOpen + 2 * b1 d.fallFrom.isSome), d.staged] ++ leBytes 4 d.len.toNat ++
  leBytes 2 d.head.toNat ++ leBytes 2 d.pages.length ++ leBytes 2 (if d.isOpen then sramFree b d else 0) ++
  leBytes 2 (pins d) ++ leBytes 2 d.session.toNat ++ leBytes 2 (moving d) ++ leBytes 4 d.created.toNat ++ leBytes 8 0

/-- The mode in force: retrieval under the chip-ring fallback (R462). -/
def modeNow (b : List Byte) (d : KvDesc) : Nat := if d.fallFrom.isSome then 2 else mode b

/-! ### Victims (R436 Table 7) -/

/-- An entry that can be a victim. -/
def mayGo (p : Page) : Bool := !p.pin && !p.auto && p.loc ≠ locMoving

/-- The first of the candidates, or the one of lowest SCORE, ties to the lower index. -/
def pick (byScore : Bool) (ok : Page → Bool) (ps : List Page) : Option Nat :=
  let c := (ps.zipIdx).filter fun x => ok x.1
  (c.foldl
    (fun (best : Option (Page × Nat)) x =>
      match best with
      | none => some x
      | some y => if byScore ∧ x.1.score.toNat < y.1.score.toNat then some x else some y)
    none).map fun x => x.2

/-- The victim removed from the list. -/
def listVictim (b : List Byte) (d : KvDesc) : Option Nat := pick (modeNow b d = 1) mayGo d.pages

/-- The victim of pressure. -/
def pressureVictim (b : List Byte) (d : KvDesc) : Option Nat :=
  pick (modeNow b d ≠ 0) (fun p => mayGo p && p.loc = locSram) d.pages

/-! ### The list -/

/-- Entry k leaves the list; its frame and HOME are free (R443). Entries above it take the next lower index; HEAD moves
only when the oldest leaves (log 28). -/
def removeAt (b : List Byte) (d : KvDesc) (k : Nat) : KvDesc :=
  match d.pages[k]? with
  | none => d
  | some p =>
    { d with
      pages := d.pages.eraseIdx k
      head := if k = 0 then BitVec.ofNat 16 ((d.head.toNat + 1) % budget b) else d.head
      usedFrames := if p.loc = locSram then d.usedFrames.erase p.frame.toNat else d.usedFrames
      usedHomes := d.usedHomes.erase p.home.toNat }

/-- Entry k changed. -/
def setPage (d : KvDesc) (k : Nat) (f : Page → Page) : KvDesc :=
  match d.pages[k]? with
  | none => d
  | some p => { d with pages := setAt d.pages k (f p) }

/-- AUTO after an APPEND: the sink page and the two newest (R438). -/
def setAuto (d : KvDesc) : KvDesc :=
  let n := d.pages.length
  { d with pages := (d.pages.zipIdx).map fun x => { x.1 with auto := x.1.sink || n ≤ x.2 + 2 } }

/-- What an operation leaves: STATUS, the descriptor, the two entries, OFFSET, events with their entries, a move to
queue. -/
structure KvOut where
  status : Byte
  d : KvDesc
  entA : Word := 0
  sideA : Word := 0
  entB : Word := 0
  sideB : Word := 0
  offset : Nat := 0
  events : List (Byte × Word) := []
  moves : List Move := []

/-- An operation that fails changes nothing (R436). -/
def fail (d : KvDesc) (status : Byte) : KvOut := { status := status, d := d }

def flagFlush : Byte := 1
def flagRemoved : Byte := 2
def flagPressure : Byte := 4
def flagOther : Byte := 8
def flagRecompute : Byte := 16
def stBadOp : Byte := 0x81
def stBadDesc : Byte := 0x82
def stBadArg : Byte := 0x83
def stNoVictim : Byte := 0x84
def stPinLimit : Byte := 0x85
def stBusy : Byte := 0x86
def stMoveFull : Byte := 0x87
def stNoFrame : Byte := 0x88
def stWrongLoc : Byte := 0x89

/-- A page is created for list position q, after a removal at BUDGET (R438, R443, R444, R447, R459); AUTO moves on once it
exists, so that the next page finds its victim (R443's reason). `made` takes the page, or none where it belongs to another
chip of the ring. No result: no entry qualifies as the victim. -/
def addPage (b : List Byte) (o : KvOut × List (Option Page)) (q : Nat) : Option (KvOut × List (Option Page)) :=
  let (o, made) := o
  if mode b = 3 && q % ringSize b ≠ ringPos b then some ({ o with status := o.status ||| flagOther }, made ++ [none])
  else
    let room : Option KvOut :=
      if o.d.pages.length < budget b then some o
      else
        match listVictim b o.d with
        | none => none
        | some k =>
          some { o with
            status := o.status ||| flagRemoved
            d := removeAt b o.d k
            events := o.events ++ [(1, match o.d.pages[k]? with | some p => entry p | none => noEntry)] }
    room.map fun o =>
      let d := o.d
      let home := (lowestFree d.usedHomes (budget b)).getD 0
      let f := lowestFree d.usedFrames (frames b)
      let p : Page :=
        { loc := if f.isSome then locSram else locAbsent
          pin := false
          auto := true
          score := 0x80
          frame := match f with | some x => BitVec.ofNat 20 x | none => 0xFFFFF
          posPage := q
          home := BitVec.ofNat 10 home
          sink := decide (d.created.toNat = 0) }
      let d : KvDesc := { d with
        pages := d.pages ++ [p]
        created := d.created + 1
        usedFrames := match f with | some x => d.usedFrames ++ [x] | none => d.usedFrames
        usedHomes := d.usedHomes ++ [home] }
      ({ o with d := setAuto d, events := if f.isSome then o.events else o.events ++ [(7, entry p)] }, made ++ [some p])

/-- The entry and side word of a page that an APPEND names; a page that is not there reads as R435 gives for no entry. -/
def shown (p : Option Page) : Word × Word :=
  match p with
  | some p => (entry p, side p)
  | none => (noEntry, noSide)

/-- An APPEND that finds no victim (R444). -/
def blocked (d : KvDesc) : KvOut := { status := stNoVictim, d := d, events := [(0x0A, noEntry)] }

/-- APPEND in direct mode (R438, R439, R459). -/
def appendDirect (b : List Byte) (d : KvDesc) (n : Nat) : KvOut :=
  let len := d.len.toNat
  let ps := pageLen b
  let first := len / ps
  let last := (len + n - 1) / ps
  let at_ (d : KvDesc) (q : Nat) : Option Page := d.pages.find? fun p => p.posPage = q
  let news := (if last = first then [first] else [first, last]).filter fun q => (at_ d q).isNone
  match news.foldl (fun o q => o.bind fun o => addPage b o q) (some ({ status := 0, d := d }, [])) with
  | none => blocked d
  | some (o, _) =>
    let d' := setAuto { o.d with len := BitVec.ofNat 32 (len + n) }
    let a := shown (at_ d' first)
    let bb : Word × Word := if last = first then (0, 0) else shown (at_ d' last)
    let other := mode b = 3 && (first % ringSize b ≠ ringPos b || last % ringSize b ≠ ringPos b)
    { o with
      status := if other then o.status ||| flagOther else o.status
      d := d', entA := a.1, sideA := a.2, entB := bb.1, sideB := bb.2, offset := len % ps }

/-- APPEND in staging mode (R440, R441, R442, R459). -/
def appendStaged (b : List Byte) (d : KvDesc) (n : Nat) : KvOut :=
  let ps := pageLen b
  let st := d.staged.toNat
  let len := d.len.toNat + n
  if 64 < st + n then fail d stBadArg
  else if st + n < 64 then
    { status := 0
      d := setAuto { d with len := BitVec.ofNat 32 len, staged := BitVec.ofNat 8 (st + n) }
      entA := noEntry, sideA := noSide, offset := st }
  else
    let q0 := (len - 64) / ps
    let news := (List.range (64 / ps)).map fun i => q0 + i
    match news.foldl (fun o q => o.bind fun o => addPage b o q) (some ({ status := flagFlush, d := d }, [])) with
    | none => blocked d
    | some (o, made) =>
      let a := shown ((made[0]?).bind id)
      let bb : Word × Word := if 1 < made.length then shown ((made[1]?).bind id) else (0, 0)
      { o with
        d := setAuto { o.d with len := BitVec.ofNat 32 len, staged := 0 }
        entA := a.1, sideA := a.2, entB := bb.1, sideB := bb.2, offset := st }

/-- APPEND (R438 to R444, R447). -/
def append (b : List Byte) (d : KvDesc) (n : Nat) : KvOut :=
  if n = 0 ∨ 8 < n then fail d stBadArg
  else if direct b then appendDirect b d n else appendStaged b d n

/-- EVICT (R434, Table 7). -/
def evict (b : List Byte) (d : KvDesc) : KvOut :=
  match listVictim b d with
  | none => fail d stNoVictim
  | some k =>
    let e := shown d.pages[k]?
    { status := flagRemoved, d := removeAt b d k, entA := e.1, sideA := e.2, events := [(1, e.1)] }

/-- TRUNCATE (R448, R449). -/
def truncate (b : List Byte) (d : KvDesc) (len : Nat) : KvOut :=
  let old := d.len.toNat
  let st := d.staged.toNat
  if old < len ∨ 64 < old - len ∨ (!(direct b) ∧ len < old - st) then fail d stBadArg
  else if !(direct b) then
    { status := 0, d := { d with len := BitVec.ofNat 32 len, staged := BitVec.ofNat 8 (len - (old - st)) } }
  else
    let gone (p : Page) : Bool := len ≤ p.posPage * pageLen b && p.auto && p.loc ≠ locMoving
    let ks := ((d.pages.zipIdx).filter fun x => gone x.1).map fun x => x.2
    let d' := ks.reverse.foldl (removeAt b) d
    { status := if ks.isEmpty then 0 else flagRemoved, d := { d' with len := BitVec.ofNat 32 len } }

/-- PIN (R434, R452). -/
def pin (b : List Byte) (d : KvDesc) (k : Nat) (set_ : Bool) : KvOut :=
  match d.pages[k]? with
  | none => fail d stBadArg
  | some p =>
    if set_ && !p.pin && budget b - 4 < pins d + 1 then fail d stPinLimit
    else { status := 0, d := setPage d k fun p => { p with pin := set_ } }

/-- A page's move to its HOME begins (R454). -/
def startSpill (d : KvDesc) (k : Nat) (p : Page) (desc : BitVec 8) (day : BitVec 64) : KvDesc × Move :=
  (setPage d k fun p => { p with loc := locMoving, frame := p.home.setWidth 20 },
   ⟨desc, p.home, p.frame.toNat, false, day, false, 0, 0, [], false⟩)

/-- SPILL, with free places in the move queue (R454). A drop class has no LPDDR copy to move to (R423), so there the argument is refused (log 29). -/
def spill (b : List Byte) (d : KvDesc) (k : Nat) (places : Nat) (desc : BitVec 8) (day : BitVec 64) : KvOut :=
  match d.pages[k]? with
  | none => fail d stBadArg
  | some p =>
    if dropClass b then fail d stBadArg
    else if p.loc = locMoving then fail d stBusy
    else if p.loc ≠ locSram || p.auto then fail d stWrongLoc
    else if places = 0 then fail d stMoveFull
    else
      let (d', m) := startSpill d k p desc day
      let e := shown d'.pages[k]?
      { status := 0, d := d', entA := e.1, sideA := e.2, moves := [m] }

/-- FETCH (R454, R475). -/
def fetch (b : List Byte) (d : KvDesc) (home : Nat) (places : Nat) (desc : BitVec 8) (day : BitVec 64) : KvOut :=
  match d.pages.findIdx? fun p => p.home.toNat = home with
  | none => fail d stBadArg
  | some k =>
    match d.pages[k]? with
    | none => fail d stBadArg
    | some p =>
      if p.loc = locMoving then fail d stBusy
      else if p.loc ≠ (if dropClass b then locAbsent else locLpddr) then fail d stWrongLoc
      else if places = 0 && !(dropClass b) then fail d stMoveFull
      else
        match lowestFree d.usedFrames (frames b) with
        | none => fail d stNoFrame
        | some f =>
          let d' := setPage { d with usedFrames := d.usedFrames ++ [f] } k fun p =>
            { p with loc := if dropClass b then locSram else locMoving, frame := BitVec.ofNat 20 f }
          let e := shown d'.pages[k]?
          { status := if dropClass b then flagRecompute else 0
            d := d', entA := e.1, sideA := e.2
            moves := if dropClass b then [] else [⟨desc, p.home, f, true, day, false, 0, 0, [], false⟩] }

/-- A page loses its copy: ABSENT, its frame free (R445). -/
def dropPage (d : KvDesc) (k : Nat) (p : Page) : KvDesc :=
  setPage { d with usedFrames := d.usedFrames.erase p.frame.toNat } k fun p =>
    { p with loc := locAbsent, frame := 0xFFFFF }

/-- Pressure after an operation (R445, R446): one victim each time (log 30). -/
def pressure (b : List Byte) (o : KvOut) (places : Nat) (desc : BitVec 8) (day : BitVec 64) : KvOut :=
  if sramFree b o.d < low b && frames b < budget b then
    match pressureVictim b o.d with
    | none => o
    | some k =>
      match o.d.pages[k]? with
      | none => o
      | some p =>
        let o := { o with status := o.status ||| flagPressure }
        if !(dropClass b) && o.moves.length < places then
          let (d, m) := startSpill o.d k p desc day
          { o with d := d, moves := o.moves ++ [m], events := o.events ++ [(2, (shown d.pages[k]?).1)] }
        else
          let d := dropPage o.d k p
          { o with d := d, events := o.events ++ [(if dropClass b then 3 else 4, (shown d.pages[k]?).1)] }
  else o

/-! ### Placement (R422, R423) -/

/-- The tile and the byte of line i of plane p's page in frame f, descriptor slot j. -/
def framePlace (b : List Byte) (j p f i : Nat) : TileId × Nat :=
  let m := p * split b + f % split b
  (BitVec.ofNat 8 (mapTile b m),
   mapBase b m * 32 + (j * (frames b / split b) + f / split b) * 8192 + 32 * i)

/-- The linear address of line i of plane p's page with HOME h. -/
def homeAddr (b : List Byte) (j p h i : Nat) : Nat :=
  lpBase b + ((j * planes b + p) * budget b + h) * 16384 + 2048 * (i / 32) + 32 * (i % 32)

/-- The 32 bytes of a response (R435 Table 6). -/
def responseBytes (op : Byte) (desc : Nat) (o : KvOut) (mode : Nat) : List Byte :=
  [o.status, op] ++ leBytes 2 desc ++ leBytes 4 o.d.len.toNat ++
  leBytes 4 o.entA.toNat ++ leBytes 4 o.sideA.toNat ++ leBytes 4 o.entB.toNat ++ leBytes 4 o.sideB.toNat ++
  leBytes 2 o.offset ++ [o.d.staged, BitVec.ofNat 8 mode] ++ leBytes 2 o.d.pages.length ++ leBytes 2 0

end Kv

end Sys2Proof.Machine
end

