-- ==== Sys2Proof/Machine/KvRows.lean ====
section
/-!
DEFINITION. Machine/KvRows.lean: the rows of a KV walker (10_kvcache): operations that reach it, their results, page
moves, score writes, chip-ring notices and the mode switch, the event ring, descriptors opened and closed.
-/
namespace Sys2Proof.Machine
open Sys2Proof

namespace Chip

/-! ### Descriptors (R415 to R418, R436) -/

def kvDesc (c : Chip) (w : BitVec 4) (d : Nat) : KvDesc := tget KvDesc.init (c.walker w).descs d
def onDesc (c : Chip) (w : BitVec 4) (d : Nat) (f : KvDesc → KvDesc) : Chip :=
  c.onWalker w fun x => { x with descs := tput KvDesc.init x.descs d (f (tget KvDesc.init x.descs d)) }

/-- The class records in force on walker w (R419). -/
def kvClasses (c : Chip) (w : BitVec 4) : List Rec := (c.recs 0x0A 0).filter fun r => Kv.walkerNo r.body = w.toNat

/-- The class that descriptor d of walker w belongs to. -/
def kvClassOf (c : Chip) (w : BitVec 4) (d : Nat) : Option Rec :=
  (c.kvClasses w).find? fun r =>
    Kv.descFirst r.body ≤ d && d < Kv.descFirst r.body + Kv.descCount r.body

/-- An event of this cycle (R469). -/
def kvEvent (c : Chip) (w : BitVec 4) (desc : BitVec 16) (event : Byte) (entry : Word) : Chip :=
  let l := c.lts
  c.onWalker w fun x => { x with events := x.events ++ [⟨l, desc, event, entry⟩] }

/-- The running move is given up: responses on their way find nobody (R418, R455). -/
def forgetMove (c : Chip) (w : BitVec 4) : Chip :=
  c.onEndp (eidWalker w) fun x =>
    { x with slots := x.slots.map fun s => (s.1, { s.2 with use := match s.2.use with | .moveLine _ => .other | u => u }) }

/-- The moves of descriptor d are abandoned, with the lines that have not left the walker (R418). -/
def dropMoves (c : Chip) (w : BitVec 4) (d : Nat) : Chip :=
  let x := c.walker w
  let mine := match x.moves with | m :: _ => m.started && m.desc.toNat = d | [] => false
  let c := c.onWalker w fun x => { x with moves := x.moves.filter fun m => m.desc.toNat ≠ d }
  if mine then
    (c.forgetMove w).onEndp (eidWalker w) fun x =>
      { x with queue := x.queue.filter fun p => p.type ≠ tDataWr || p.len ≠ 3 }
  else c

/-- A descriptor opens empty for a session and direction (R417). FALLBACK stays with the class (R463). -/
def kvOpen (c : Chip) (w : BitVec 4) (d : Nat) (cls session : BitVec 16) : Chip :=
  c.onDesc w d fun x => { KvDesc.init with cls := cls, isOpen := true, session := session, fallFrom := x.fallFrom }

/-- A descriptor closes: its moves are abandoned, its frames and HOMEs free (R417, R418). -/
def kvClose (c : Chip) (w : BitVec 4) (d : Nat) : Chip :=
  (c.dropMoves w d).onDesc w d fun x => { KvDesc.init with fallFrom := x.fallFrom }

/-! ### The look-aside buffer (R431) -/

/-- The list lines of entries k of a descriptor, in slot j of its class (R415). -/
def kvLines (b : List Byte) (j : Nat) (d : KvDesc) (ks : List Nat) : List Nat :=
  (ks.map fun k => (Kv.listFirst b + j * Kv.budget b + (d.head.toNat + k) % Kv.budget b) / 8).dedup

/-- Lines are used: hits are counted, and they become the latest (R431; log 31). -/
def kvLook (c : Chip) (w : BitVec 4) (ls : List Nat) : Chip :=
  c.onWalker w fun x =>
    let hits := (ls.filter fun l => x.lab.contains l).length
    { x with
      labHits := satAdd x.labHits hits
      lab := (ls ++ x.lab.filter fun l => !(ls.contains l)).take 32 }

/-! ### Operations (R426 to R437) -/

/-- The fields of a request's payload (R432 Table 4). -/
def kvDescNo (p : Packet) : Nat := fldNat p.payload 16 16
def kvArg0 (p : Packet) : Nat := fldNat p.payload 32 32
def kvArg1 (p : Packet) : Nat := fldNat p.payload 64 32

/-- The packet that carries a result (R433). -/
def kvReply (p : Packet) (bs : List Byte) : Packet :=
  if p.vc = 0 then packet p.schip tDataWr 0 p.seid 32 (BitVec.ofNat 24 (fldNat p.aux 0 14 * 32)) 0 (lineOf bs)
  else response p 32 (lineOf bs)

/-- The cycle on which a result leaves, with the engine it takes (R426, R427, R429). A VC0 operation that finds engines 0
to 3 busy waits for the first to free, and is late. -/
def kvEngine (c : Chip) (w : BitVec 4) (p : Packet) (cost : Nat) : Nat × Chip :=
  let x := c.walker w
  let busy := (if p.vc = 0 then x.plannedBusy else x.unschedBusy).filter fun u => c.now < u
  let late := 4 ≤ busy.length
  let first := busy.foldl min (busy.headD c.now)
  let from_ := if late then first else c.now
  let leave := from_ + cost
  let engines := (if late then busy.erase first else busy) ++ [leave]
  let c := c.onWalker w fun x =>
    if p.vc = 0 then { x with plannedBusy := engines, planLate := if late then satInc x.planLate else x.planLate }
    else { x with unschedBusy := engines }
  if p.vc = 0 && late then
    (leave, c.logFault 0x3003 (eidWalker w) w.toNat ((lineByte p.payload 0).toNat + kvDescNo p * 2 ^ 16))
  else (leave, c)

/-- A result is on its way (R426, R433). -/
def kvAnswer (c : Chip) (w : BitVec 4) (p : Packet) (cost : Nat) (bs : List Byte) : Chip :=
  let (leave, c) := c.kvEngine w p cost
  (c.onWalker w fun x => { x with ops := satInc x.ops, results := x.results ++ [(leave, kvReply p bs)] }).postAt leave
    (.kvResult w)

/-- MODE of a response (R435, R462): retrieval from the day after the switch on. -/
def kvMode (c : Chip) (b : List Byte) (d : KvDesc) : Nat :=
  match d.fallFrom with
  | some day => if day.toNat ≤ c.alm.dayCount.toNat then 2 else Kv.mode b
  | none => Kv.mode b

/-- Places left in the move queue (R453). -/
def kvPlaces (c : Chip) (w : BitVec 4) : Nat := 16 - (c.walker w).moves.length

/-- An operation that fails before it acts on a descriptor (R433, R435, R436). Its response shows the descriptor as it is; one
of no class of this walker has none, and its fields are 0 (log 123). -/
def kvRefuse (c : Chip) (w : BitVec 4) (p : Packet) (cost : Nat) (status : Byte) : Chip :=
  let d := kvDescNo p
  let x := c.kvDesc w d
  let shown : KvDesc × Nat := match c.kvClassOf w d with
    | some r => (x, c.kvMode r.body x)
    | none => (KvDesc.init, 0)
  c.kvAnswer w p cost (Kv.responseBytes (lineByte p.payload 0) d { status := status, d := shown.1 } shown.2)

/-- What an operation leaves takes effect on its arrival cycle (R426, R445). -/
def kvApply (c : Chip) (w : BitVec 4) (b : List Byte) (d : Nat) (o : Kv.KvOut) : Kv.KvOut × Chip :=
  let o := if flag o.status 7 then o else Kv.pressure b o (c.kvPlaces w) (BitVec.ofNat 8 d) c.alm.dayCount
  let c := c.onDesc w d fun _ => o.d
  let c := c.onWalker w fun x => { x with moves := x.moves ++ o.moves }
  (o, o.events.foldl (fun c e => c.kvEvent w (BitVec.ofNat 16 d) e.1 e.2) c)

/-- One operation with a Table 6 response: its cost beyond the class's Bp or with it, the entries it uses, what it does. -/
def kvOp (c : Chip) (w : BitVec 4) (p : Packet) (cost : Nat) (withBp : Bool)
    (uses : KvDesc → List Nat) (f : List Byte → KvDesc → Kv.KvOut) : Chip :=
  let d := kvDescNo p
  match c.kvClassOf w d with
  | none => c.kvRefuse w p cost Kv.stBadDesc
  | some r =>
    let b := r.body
    let cost := cost + if withBp then Kv.bp b else 0
    let x := c.kvDesc w d
    if !x.isOpen || 256 ≤ d then c.kvRefuse w p cost Kv.stBadDesc
    else
      let c := c.kvLook w (kvLines b (d - Kv.descFirst b) x (uses x))
      let (o, c) := c.kvApply w b d (f b x)
      c.kvAnswer w p cost (Kv.responseBytes (lineByte p.payload 0) d o (c.kvMode b x))

/-- RESOLVE (R434, R435). -/
def kvResolve (c : Chip) (w : BitVec 4) (p : Packet) : Chip :=
  let d := kvDescNo p
  match c.kvClassOf w d with
  | none => c.kvRefuse w p 24 Kv.stBadDesc
  | some r =>
    let b := r.body
    let x := c.kvDesc w d
    if !x.isOpen || 256 ≤ d then c.kvRefuse w p 24 Kv.stBadDesc
    else
      let k := kvArg0 p
      let ks := (List.range 4).map fun i => k + i
      let c := c.kvLook w (kvLines b (d - Kv.descFirst b) x (ks.filter fun i => i < x.pages.length))
      let shown := ks.map fun i => Kv.shown x.pages[i]?
      let bs := if kvArg1 p % 2 = 1 then Kv.descBytes b x
        else shown.flatMap (fun e => leBytes 4 e.1.toNat) ++ shown.flatMap fun e => leBytes 4 e.2.toNat
      let (_, c) := c.kvApply w b d { status := 0, d := x }
      c.kvAnswer w p 24 bs

/-- Every index of a list. -/
def allPages (d : KvDesc) : List Nat := List.range d.pages.length

/-- The results whose cycle has come leave (R426, R433). -/
def kvResults (c : Chip) (w : BitVec 4) : Chip :=
  let due := (c.walker w).results.filter fun r => r.1 ≤ c.now
  let c := c.onWalker w fun x => { x with results := x.results.filter fun r => c.now < r.1 }
  due.foldl (fun c r => c.send (eidWalker w) r.2) c

/-! ### Score writes (R451) -/

/-- A DATA_WR to a walker that is no descriptor operation (R451, R259, R738). -/
def kvScore (c : Chip) (w : BitVec 4) (p : Packet) : Chip :=
  let a := p.addr.toNat
  let n := pktLen p
  if p.vc = 2 || p.type ≠ tDataWr || a < 0x100000 || 0x140000 ≤ a || a % n ≠ 0 then c.reject (eidWalker w) p
  else
    let d := (a - 0x100000) / 0x400
    let k := (a - 0x100000) % 0x400
    if (c.kvDesc w d).isOpen then
      c.onDesc w d fun x =>
        (List.range n).foldl (fun x i => Kv.setPage x (k + i) fun q => { q with score := lineByte p.payload i }) x
    else c

/-! ### Page moves (R453 to R456) -/

/-- The move at the head of the queue, if it runs. -/
def kvRunning (c : Chip) (w : BitVec 4) : Option Move :=
  match (c.walker w).moves with
  | m :: _ => if m.started then some m else none
  | [] => none

/-- The head move changed. -/
def onMove (c : Chip) (w : BitVec 4) (f : Move → Move) : Chip :=
  c.onWalker w fun x => { x with moves := match x.moves with | m :: ms => f m :: ms | [] => [] }

/-- The next queued move starts (R453). -/
def kvMoveStart (c : Chip) (w : BitVec 4) : Chip := c.onMove w fun m => { m with started := true }

/-- The lines of a move. -/
def moveLines (b : List Byte) : Nat := Kv.planes b * 256

/-- One VC1 packet about a linear address of channel k: the walker's window word when the address lies outside its
window, else the packet (R345, R453). The second component says that it was the packet. -/
def kvSend (c : Chip) (w : BitVec 4) (k a : Nat) (f : Chip → Chip) : Chip × Bool :=
  let win : BitVec 9 := BitVec.ofNat 9 (a / 2 ^ 24)
  if tget 0 (c.walker w).wins k = win then (f c, true)
  else
    ((c.onWalker w fun x => { x with wins := tput 0 x.wins k win }).send (eidWalker w)
      (packet 0xFFFF tDataWr 1 (eidChannel (BitVec.ofNat 3 k)) 4 0xFFFFF0 0 (win.setWidth 256)), false)

/-- A packet for the SRAM or the LPDDR5X side of a move's line i. -/
def kvLinePacket (c : Chip) (w : BitVec 4) (b : List Byte) (m : Move) (i : Nat) (sram : Bool) (f : Chip → Eid → Nat → Chip) :
    Chip × Bool :=
  let j := m.desc.toNat - Kv.descFirst b
  let p := i / 256
  if sram then
    let (t, a) := Kv.framePlace b j p m.frame (i % 256)
    (f c (tileEid t) a, true)
  else
    let a := Kv.homeAddr b j p m.home.toNat (i % 256)
    let k := Kv.lpChannel b
    c.kvSend w k a fun c => f c (eidChannel (BitVec.ofNat 3 k)) a

/-- A cycle of walker w's move: at most one packet, a write before a read (R453). -/
def kvMoveCycle (c : Chip) (w : BitVec 4) : Chip :=
  match c.kvRunning w with
  | none => c
  | some m =>
    match c.kvClassOf w m.desc.toNat with
    | none => c
    | some r =>
      let b := r.body
      let e := eidWalker w
      if m.failed || 16 ≤ (c.endp e).queue.length then c
      else
        match m.buf with
        | (i, l) :: rest =>
          let (c, sent) := c.kvLinePacket w b m i m.toSram fun c d a =>
            c.send e (packet 0xFFFF tDataWr 1 d 32 (BitVec.ofNat 24 a) 0 l)
          if sent then c.onMove w fun m => { m with buf := rest } else c
        | [] =>
          if m.issued < moveLines b && (c.freeSlot e).isSome then
            let (c, sent) := c.kvLinePacket w b m m.issued (!m.toSram) fun c d a =>
              c.sendRequest e (packet 0xFFFF tReadReq 1 d 32 (BitVec.ofNat 24 a) 0 0) (.moveLine m.issued)
            if sent then c.onMove w fun m => { m with issued := m.issued + 1 } else c
          else c

/-- A line of the running move comes, or fails (R453, R455). -/
def kvMoveLine (c : Chip) (w : BitVec 4) (k : Nat) (l : Option Line) : Chip :=
  c.onMove w fun m =>
    if !m.started then m
    else match l with
      | some l => { m with buf := m.buf ++ [(k, l)] }
      | none => { m with failed := true }

/-- The index of the entry that a move moves. -/
def moveEntry (d : KvDesc) (m : Move) : Option Nat :=
  d.pages.findIdx? fun p => p.home = m.home && p.loc = Kv.locMoving

/-- The head move has written its last line. -/
def kvMoveWritten (c : Chip) (w : BitVec 4) : Bool :=
  match c.kvRunning w with
  | some m => (match c.kvClassOf w m.desc.toNat with
      | some r => !m.failed && moveLines r.body ≤ m.wrote
      | none => false)
  | none => false

/-- The head move failed. -/
def kvMoveBad (c : Chip) (w : BitVec 4) : Bool := match c.kvRunning w with | some m => m.failed | none => false

/-- The head move leaves the queue. -/
def kvMovePop (c : Chip) (w : BitVec 4) : Chip := (c.onWalker w fun x => { x with moves := x.moves.tail }).forgetMove w

/-- The last line of a move has been written (R454): the first thing of its cycle (R467). -/
def kvMoveEnd (c : Chip) (w : BitVec 4) : Chip :=
  if c.kvMoveWritten w then
    match c.kvRunning w with
    | none => c
    | some m =>
      let d := c.kvDesc w m.desc.toNat
      let c := c.kvMovePop w
      let c := c.onWalker w fun x => { x with movesDone := satInc x.movesDone }
      match moveEntry d m with
      | none => c
      | some k =>
        c.onDesc w m.desc.toNat fun d =>
          if m.toSram then Kv.setPage d k fun p => { p with loc := Kv.locSram, frame := BitVec.ofNat 20 m.frame }
          else
            Kv.setPage { d with usedFrames := d.usedFrames.erase m.frame } k fun p =>
              { p with loc := Kv.locLpddr, frame := p.home.setWidth 20 }
  else c

/-- A move fails: the entry is ABSENT and its SRAM frame free, and event MOVE_FAIL is written (R455; log 32). -/
def kvMoveFail (c : Chip) (w : BitVec 4) : Chip :=
  if c.kvMoveBad w then
    match c.kvRunning w with
    | none => c
    | some m =>
      let d := c.kvDesc w m.desc.toNat
      let c := c.kvMovePop w
      match moveEntry d m with
      | none => c
      | some k =>
        let c := c.onDesc w m.desc.toNat fun d =>
          Kv.setPage { d with usedFrames := d.usedFrames.erase m.frame } k fun p =>
            { p with loc := Kv.locAbsent, frame := 0xFFFFF }
        c.kvEvent w (m.desc.setWidth 16) 6 (Kv.shown (c.kvDesc w m.desc.toNat).pages[k]?).1
  else c

/-- FETCHes of the day before that have not completed at the day's last cycle (R456). -/
def lateFetches (c : Chip) (w : BitVec 4) : List Move :=
  (c.walker w).moves.filter fun m => m.toSram && m.day.toNat + 1 = c.alm.dayCount.toNat

/-- FETCH_LATE is written for each (R456). -/
def kvFetchLate (c : Chip) (w : BitVec 4) : Chip :=
  if c.alm.running && c.alm.dayEnded then
    (c.lateFetches w).foldl
      (fun c m =>
        let d := c.kvDesc w m.desc.toNat
        let e := match moveEntry d m with | some k => (Kv.shown d.pages[k]?).1 | none => Kv.noEntry
        c.kvEvent w (m.desc.setWidth 16) 5 e) c
  else c

/-! ### The chip ring (R460 to R463) -/

/-- A link of RING_LINKS has left UP or runs below width 4 (R460). -/
def ringDegraded (c : Chip) (b : List Byte) : Bool :=
  (List.finRange 6).any fun n =>
    flag (Kv.ringLinks b) n.val && ((c.link n).state ≠ 5 || (c.link n).width ≠ 0)

/-- The CHIP_RING classes of walker w. -/
def ringClasses (c : Chip) (w : BitVec 4) : List Rec := (c.kvClasses w).filter fun r => Kv.mode r.body = 3

/-- The notice of a class to a neighbour chip (R460). -/
def sendNotice (c : Chip) (w : BitVec 4) (cls : BitVec 16) (d0 : BitVec 48) (to_ : BitVec 16) : Chip :=
  c.send (eidWalker w)
    (packet to_ tDataWr 1 (eidWalker w) 8 0x200000 0 (lineOf (leBytes 2 cls.toNat ++ leBytes 6 d0.toNat)))

/-- The earliest detection day held for a class. -/
def heldNotice (c : Chip) (w : BitVec 4) (cls : BitVec 16) : Option (BitVec 48) :=
  ((c.walker w).notices.find? fun n => n.1 = cls).map fun n => n.2

/-- A detection day is kept if it is earlier than any held. -/
def keepNotice (c : Chip) (w : BitVec 4) (cls : BitVec 16) (d0 : BitVec 48) : Chip :=
  c.onWalker w fun x => { x with notices := (x.notices.filter fun n => n.1 ≠ cls) ++ [(cls, d0)] }

/-- A notice arrives (R461). Its other neighbour is the one it did not come from. -/
def kvNotice (c : Chip) (w : BitVec 4) (p : Packet) : Chip :=
  if p.vc ≠ 1 || p.len ≠ 1 then c.reject (eidWalker w) p
  else
    let cls : BitVec 16 := fld p.payload 0 16
    let d0 : BitVec 48 := fld p.payload 16 48
    match (c.ringClasses w).find? fun r => r.target = cls with
    | none => c
    | some r =>
      let earlier := match c.heldNotice w cls with | some h => decide (d0.toNat < h.toNat) | none => true
      if earlier then
        let other := if p.schip = Kv.prevChip r.body then Kv.nextChip r.body else Kv.prevChip r.body
        (c.keepNotice w cls d0).sendNotice w cls d0 other
      else c

/-- Both ring neighbours are told of a class's degraded link. -/
def tellRing (c : Chip) (w : BitVec 4) (r : Rec) (d0 : BitVec 48) : Chip :=
  (c.sendNotice w r.target d0 (Kv.prevChip r.body)).sendNotice w r.target d0 (Kv.nextChip r.body)

/-- The CHIP_RING classes of a walker with a degraded link. -/
def badRings (c : Chip) (w : BitVec 4) : List Rec := (c.ringClasses w).filter fun r => c.ringDegraded r.body

/-- ALM_DAYCOUNT[47:0]. -/
def today48 (c : Chip) : BitVec 48 := c.alm.dayCount.setWidth 48

/-- The walker records the detection day of a link that degrades and tells both ring neighbours, on that day and once on
each day after (R460). What it holds of a class stays the earliest day it knows (R461). -/
def kvResend (c : Chip) (w : BitVec 4) : Chip :=
  let today := c.today48
  let c := c.onWalker w fun x => { x with
    degraded := x.degraded.filter fun k => (c.badRings w).any fun r => r.target = k.1 }
  (c.badRings w).foldl
    (fun c r =>
      let put (d0 : BitVec 48) : Chip := c.onWalker w fun x => { x with
        degraded := (x.degraded.filter fun k => k.1 ≠ r.target) ++ [(r.target, d0, today)] }
      match (c.walker w).degraded.find? fun k => k.1 = r.target with
      | some k => if k.2.2 = today then c else (put k.2.1).tellRing w r k.2.1
      | none =>
        let c := put today
        let earlier := match c.heldNotice w r.target with | some h => decide (today.toNat < h.toNat) | none => true
        (if earlier then c.keepNotice w r.target today else c).tellRing w r today)
    c

/-- The class falls back in this Vigil (R462). -/
def switchesNow (c : Chip) (w : BitVec 4) (r : Rec) : Bool :=
  c.alm.running && c.alm.inVigil && c.alm.yearPos.toNat + 1 = c.alm.yearLen.toNat &&
    (c.kvDesc w (Kv.descFirst r.body)).fallFrom.isNone &&
    (match c.heldNotice w r.target with
     | some d0 => decide (d0.toNat + 2 ≤ c.alm.dayCount.toNat)
     | none => false)

/-- The classes whose boundary this is switch to retrieval (R462). The event names no descriptor and no entry in the
manual, so those fields are free (log 33). -/
def kvSwitch (c : Chip) (w : BitVec 4) : Chip :=
  ((c.ringClasses w).filter (c.switchesNow w)).foldl
    (fun c r =>
      let c := (List.range (Kv.descCount r.body)).foldl
        (fun c j => c.onDesc w (Kv.descFirst r.body + j) fun x => { x with fallFrom := some (c.alm.dayCount + 1) }) c
      let (d, c) := c.drawBits 16
      let (e, c) := c.drawBits 32
      c.kvEvent w d 8 e)
    c

/-! ### The event ring (R469, R470) -/

/-- The 16 bytes of an event entry (R469). -/
def eventBytes (w : BitVec 4) (e : KvEvent) : List Byte :=
  leBytes 8 e.lts.toNat ++ leBytes 2 e.desc.toNat ++ [e.event, w.setWidth 8] ++ leBytes 4 e.entry.toNat

/-- One event goes to the host ring, or is dropped (R470, R471). -/
def writeEvent (c : Chip) (w : BitVec 4) (e : KvEvent) : Chip :=
  let x := c.walker w
  let size := 2 ^ x.evtSize.toNat
  let full := (x.evtProd.toNat + 1) % size = x.evtCons.toNat % size
  if !(ringLog x.evtSize.toNat 4 16) || full then c.onWalker w fun x => { x with evtDrop := satInc x.evtDrop }
  else
    (c.hostWrite (x.evtBase.toNat + 16 * (x.evtProd.toNat % size)) (eventBytes w e)).onWalker w fun x =>
      { x with evtProd := BitVec.ofNat 16 ((x.evtProd.toNat + 1) % size) }

/-- The day's events go out at Vigil cycle 16 (R470). -/
def releaseEvents (c : Chip) (w : BitVec 4) : Chip :=
  let es := (c.walker w).events
  es.foldl (fun c e => c.writeEvent w e) (c.onWalker w fun x => { x with events := [] })

/-! ### A region update rewrites a class (R463, R474) -/

/-- Two class records keep what R474 asks for. -/
def classKept (a b : List Byte) : Bool :=
  Kv.mode a = Kv.mode b && Kv.pageLen a = Kv.pageLen b && Kv.planes a = Kv.planes b && Kv.split a = Kv.split b &&
    Kv.walkerNo a = Kv.walkerNo b && Kv.budget a = Kv.budget b && Kv.frames a = Kv.frames b &&
    Kv.descFirst a = Kv.descFirst b && Kv.descCount a = Kv.descCount b && Kv.listFirst a = Kv.listFirst b &&
    Kv.lpBase a = Kv.lpBase b && a.drop 40 = b.drop 40

/-- What a walker holds of a class's ring is forgotten (R462, R463; log 124). -/
def forgetNotices (c : Chip) (w : BitVec 4) (cls : BitVec 16) : Chip :=
  c.onWalker w fun x => { x with
    notices := x.notices.filter fun n => n.1 ≠ cls
    degraded := x.degraded.filter fun k => k.1 ≠ cls }

/-- The descriptors of class `cls`, whose record changes from a to b at the copy switch (R463, R474). -/
def classRewritten (c : Chip) (cls : BitVec 16) (a b : List Byte) : Chip :=
  let w : BitVec 4 := BitVec.ofNat 4 (Kv.walkerNo a)
  let ds := (List.range (Kv.descCount a)).map fun j => Kv.descFirst a + j
  let c := ds.foldl (fun c d => c.onDesc w d fun x => { x with fallFrom := none }) (c.forgetNotices w cls)
  if classKept a b then c
  else
    ds.foldl
      (fun c d =>
        let x := c.kvDesc w d
        if x.isOpen then
          let c := (c.dropMoves w d).kvOpen w d x.cls x.session
          let (e, c) := c.drawBits 32
          c.kvEvent w (BitVec.ofNat 16 d) 9 e
        else c)
      c

end Chip

/-! ### The rows -/

/-- RESOLVE (R434, R435). -/
def execResolve (w : BitVec 4) (p : Packet) (s : State) : Host.Outcome State Fault Refusal := s.run fun c => c.kvResolve w p

/-- APPEND (R426, R429, R438 to R447, R459). -/
def execAppend (w : BitVec 4) (p : Packet) (s : State) : Host.Outcome State Fault Refusal :=
  s.run fun c => c.kvOp w p 32 true Chip.allPages fun b d => Kv.append b d (Chip.kvArg0 p)

/-- EVICT (R434, R436). -/
def execEvict (w : BitVec 4) (p : Packet) (s : State) : Host.Outcome State Fault Refusal :=
  s.run fun c => c.kvOp w p 24 true Chip.allPages fun b d => Kv.evict b d

/-- TRUNCATE (R448, R449). -/
def execTruncate (w : BitVec 4) (p : Packet) (s : State) : Host.Outcome State Fault Refusal :=
  s.run fun c => c.kvOp w p 32 false (fun d => (Chip.allPages d).drop (d.pages.length - 2)) fun b d =>
    Kv.truncate b d (Chip.kvArg0 p)

/-- PIN (R452). -/
def execPin (w : BitVec 4) (p : Packet) (s : State) : Host.Outcome State Fault Refusal :=
  s.run fun c => c.kvOp w p 24 false (fun _ => [Chip.kvArg0 p]) fun b d =>
    Kv.pin b d (Chip.kvArg0 p) (Chip.kvArg1 p % 2 = 1)

/-- SPILL (R423, R454). -/
def execSpill (w : BitVec 4) (p : Packet) (s : State) : Host.Outcome State Fault Refusal :=
  s.run fun c => c.kvOp w p 24 false (fun _ => [Chip.kvArg0 p]) fun b d =>
    Kv.spill b d (Chip.kvArg0 p) (c.kvPlaces w) (BitVec.ofNat 8 (Chip.kvDescNo p)) c.alm.dayCount

/-- FETCH (R454, R475). -/
def execFetch (w : BitVec 4) (p : Packet) (s : State) : Host.Outcome State Fault Refusal :=
  s.run fun c => c.kvOp w p 24 true Chip.allPages fun b d =>
    Kv.fetch b d (Chip.kvArg0 p) (c.kvPlaces w) (BitVec.ofNat 8 (Chip.kvDescNo p)) c.alm.dayCount

/-- BAD_OP (R421, R433, R434): a walker that the profile leaves without classes answers BAD_DESC. -/
def execBadOp (w : BitVec 4) (p : Packet) (s : State) : Host.Outcome State Fault Refusal :=
  s.run fun c => c.kvRefuse w p 24 (if c.clusterOn w then Kv.stBadOp else Kv.stBadDesc)

/-- KV_RESULT (R426, R433). -/
def execKvResult (w : BitVec 4) (s : State) : Host.Outcome State Fault Refusal := s.run fun c => c.kvResults w

/-- SCORE_WRITE (R451, R738). -/
def execScoreWrite (w : BitVec 4) (p : Packet) (s : State) : Host.Outcome State Fault Refusal := s.run fun c => c.kvScore w p

/-- RING_NOTICE (R461). -/
def execRingNotice (w : BitVec 4) (p : Packet) (s : State) : Host.Outcome State Fault Refusal :=
  s.run fun c => c.kvNotice w p

/-- MOVE_START (R453). -/
def execMoveStart (w : BitVec 4) (s : State) : Host.Outcome State Fault Refusal := s.run fun c => c.kvMoveStart w

/-- MOVE_COMPLETE (R454, R467). -/
def execMoveComplete (w : BitVec 4) (s : State) : Host.Outcome State Fault Refusal := s.run fun c => c.kvMoveEnd w

/-- MOVE_FAIL (R455). -/
def execMoveFail (w : BitVec 4) (s : State) : Host.Outcome State Fault Refusal := s.run fun c => c.kvMoveFail w

/-- FETCH_LATE (R456). -/
def execFetchLate (w : BitVec 4) (s : State) : Host.Outcome State Fault Refusal := s.run fun c => c.kvFetchLate w

/-- NOTICE_RESEND (R460). -/
def execNoticeResend (w : BitVec 4) (s : State) : Host.Outcome State Fault Refusal := s.run fun c => c.kvResend w

/-- MODE_SWITCH (R462). -/
def execModeSwitch (w : BitVec 4) (s : State) : Host.Outcome State Fault Refusal := s.run fun c => c.kvSwitch w

end Sys2Proof.Machine
end

