-- ==== Sys2Proof/Machine/Voice.lean ====
section
/-!
DEFINITION. Machine/Voice.lean: voice (11_voices): the audio timeline, block slots, sessions, host streams with their
conversion, and the I2S ports. A fetch of a descriptor with its PCM, or a write of one, is one step (log 34).
-/
namespace Sys2Proof.Machine
open Sys2Proof

/-! ### Filters (R500, R501) -/

namespace Pcm

/-- A sample that saturates to 16 bits, with whether it did. -/
def sat (x : Int) : Int × Bool := clampInt x (-32768) 32767

/-- gain(x) = sat16(round_haz(x GAIN, 12)) (R501). -/
def gain (g : BitVec 16) (x : Int) : Int × Bool := sat (roundHaz (x * g.toNat) 12)

/-- One output of filter k over the latest samples, latest first (R500). -/
def tap (k : Nat) (xs : List Int) : Int × Bool :=
  sat (roundHaz (((List.range 49).map fun i => (Config.fir k i).toInt * xs.getD i 0).sum) 15)

/-- Samples through filter k from a history of 48, latest first: the outputs, the saturations, the history after. -/
def run (k : Nat) : List Int → List Int → List (Int × Bool) × List Int
  | hist, [] => ([], hist)
  | hist, x :: xs =>
    let now := x :: hist
    let (ys, h) := run k (now.take 48) xs
    (tap k now :: ys, h)

/-- A zero, or n - 1 of them, after each sample (R500). -/
def stuff (n : Nat) (xs : List Int) : List Int := xs.flatMap fun x => x :: List.replicate (n - 1) 0

/-- Every n-th sample, from the first on (R500; log 35). -/
def keep {α : Type} (n : Nat) (xs : List α) : List α := ((xs.zipIdx).filter fun x => x.2 % n = 0).map fun x => x.1

/-- Host PCM to the internal rate (R500 Table 5). -/
def toInternal (rate : Nat) (hist xs : List Int) : List (Int × Bool) × List Int :=
  match rate with
  | 0 => run 0 hist (stuff 2 xs)
  | 2 => let (y, h) := run 1 hist xs; (keep 2 y, h)
  | 3 => let (y, h) := run 2 hist xs; (keep 3 y, h)
  | _ => (xs.map fun x => (x, false), hist)

/-- Internal samples to the host's rate. -/
def toHost (rate : Nat) (hist xs : List Int) : List (Int × Bool) × List Int :=
  match rate with
  | 0 => let (y, h) := run 0 hist xs; (keep 2 y, h)
  | 2 => run 1 hist (stuff 2 xs)
  | 3 => run 2 hist (stuff 3 xs)
  | _ => (xs.map fun x => (x, false), hist)

/-- BYTES of a rate (R500 Table 5). -/
def bytes (rate : Nat) : Nat :=
  match rate with
  | 0 => 160 | 1 => 320 | 2 => 640 | _ => 960

/-- 16-bit little-endian PCM. -/
def ofBytes (bs : List Byte) : List Int :=
  (List.range (bs.length / 2)).map fun i => (BitVec.ofNat 16 (numAt bs (2 * i) 2)).toInt
def toBytes (xs : List Int) : List Byte := xs.flatMap fun x => leBytes 2 (BitVec.ofInt 16 x).toNat

/-- The largest magnitude, saturated to 0x7FFF (R481). -/
def peak (xs : List Int) : Nat := min 0x7FFF (xs.foldl (fun m x => max m x.natAbs) 0)

/-- Saturations in a list of results. -/
def count (xs : List (Int × Bool)) : Nat := (xs.filter fun x => x.2).length

/-- C8 groups of 32 of some samples: codes, exponents, groups that clamped (R226, R227). -/
def encode (b : Int) (xs : List Int) : List Byte × List (BitVec 4) × Nat :=
  let groups := (List.range ((xs.length + 31) / 32)).map fun k => encodeGroup ((xs.drop (32 * k)).take 32) b
  (groups.flatMap fun g => g.1, groups.map fun g => BitVec.ofInt 4 g.2.1, (groups.filter fun g => g.2.2).length)

/-- Samples of codes, with their groups' exponents, saturated to w bits (R228). -/
def decode (b : Int) (w : Nat) (codes : List Byte) (exps : List (BitVec 4)) : List (Int × Bool) :=
  (codes.zipIdx).map fun q =>
    clampInt (decodeCode q.1 b (expOf (exps.getD (q.2 / 32) 0))) (-(2 ^ (w - 1))) (2 ^ (w - 1) - 1)

end Pcm

/-! ### Blocks (R481) -/

def flagSub : Byte := 1
def flagInvalid : Byte := 2
def flagMixed : Byte := 4
def flagSat : Byte := 8
def flagGap : Byte := 16

/-- A silence block of n groups of codes (R484, R504). -/
def silence (seq groups : Nat) : Block :=
  ⟨seq, flagSub, 0, List.replicate groups 8, List.replicate (32 * groups) 128⟩

/-- The header line of a block. -/
def headerLine (lts : Nat) (seq : Nat) (gen : BitVec 16) (flags : Byte) (b peak : Nat) : Line :=
  lineOf (leBytes 8 lts ++ leBytes 4 seq ++ leBytes 2 gen.toNat ++ [flags, BitVec.ofNat 8 b] ++ leBytes 2 peak)

/-- The exponent line: nibble k is group k's (R215). -/
def expLine (es : List (BitVec 4)) : Line := BitVec.ofNat 256 ((es.zipIdx).foldl (fun a e => a + e.1.toNat * 16 ^ e.2) 0)

/-- A block's lines beyond the header. -/
def bodyLines (es : List (BitVec 4)) (codes : List Byte) : List Line :=
  expLine es :: (List.range ((codes.length + 31) / 32)).map fun k => lineOf (codes.drop (32 * k))

/-- The block that an egress buffer holds: SEQ, the exponents of its groups, its codes. -/
def egressBlock (bs : List Byte) (groups : Nat) : Block :=
  ⟨numAt bs 8 4, 0, 0,
   (List.range groups).map fun k => BitVec.ofNat 4 (numAt bs (32 + k / 2) 1 / 16 ^ (k % 2)),
   bytesAt bs 64 (32 * groups)⟩

namespace Chip

/-! ### The timeline (R478 to R480) -/

/-- CCLK in Hz (R684 Table 6). -/
def cclkHz (c : Chip) : Nat := if c.satchel then 800000000 else 1250000000

/-- SPD (R478); at least 1, so that a division by it is one. -/
def spd (c : Chip) : Nat := max 1 (16000 * c.alm.dayLen.toNat / c.cclkHz)

/-- Days of a block of `len` samples (R480). -/
def blockDays (c : Chip) (len : Nat) : Nat := max 1 (len / c.spd)

/-- Days since S, none before it. -/
def sinceStart (c : Chip) (start : Option (BitVec 64)) : Option Nat :=
  match start with
  | some s => if s.toNat ≤ c.alm.dayCount.toNat then some (c.alm.dayCount.toNat - s.toNat) else none
  | none => none

/-- ALM_GEN as it was on day d (R522). -/
def genOn (c : Chip) (d : Nat) : BitVec 16 := onDay c.sfe.gens c.alm.gen d

/-- ALM_GEN changed at cycle 0 of a later day of a block of n days from d, so far (R522). -/
def genMixed (c : Chip) (d n : Nat) : Bool :=
  c.sfe.gens.any fun g => d < g.1.toNat && g.1.toNat < d + n && g.1.toNat ≤ c.alm.dayCount.toNat

/-- ALM_GEN is to change at cycle 0 of a later day of a block of n days from today, so far as writes posted by now say (R98,
R522; log 97). -/
def genComing (c : Chip) (n : Nat) : Bool :=
  c.alm.settings.any fun w => c.alm.dayCount.toNat < w.day.toNat && w.day.toNat < c.alm.dayCount.toNat + n

/-- SFE_GAIN of stream s as it is to be on day d, so far as writes posted by now say (R98, R528; log 97). -/
def gainComing (c : Chip) (s : BitVec 12) (d : Nat) : BitVec 16 :=
  (c.alm.settings.filter fun w => w.kind = 3 && w.unit.toNat = s.toNat && w.day.toNat ≤ d).foldl
    (fun g w => (maskBits (g.setWidth 64) w.value w.mask).setWidth 16) (c.stream s).gain

/-- A region was marked invalid on a day from d on, today included (R485). -/
def regionBad (c : Chip) (region : BitVec 6) (d : Nat) : Bool :=
  c.alm.invalid.contains region || c.sfe.bad.any fun b => d ≤ b.1.toNat && b.2.contains region

/-! ### Plan records (R486, R499, R510) -/

/-- The 24-byte STREAM_PLAN entry of a stream, and its region (R499). -/
def streamPlan (c : Chip) (s : BitVec 12) : Option (List Byte × BitVec 6) :=
  match c.findRec 0x0C 0 (s.toNat / 1024) with
  | none => none
  | some r =>
    (((List.range (numAt r.body 0 4)).map fun i => bytesAt r.body (8 + 24 * i) 24).find? fun e =>
      numAt e 0 2 = s.toNat).map fun e => (e, r.region)

/-- The stream's DIR is output. -/
def isOutput (e : List Byte) : Bool := numAt e 2 1 = 1

/-- The AUDIO_CONFIG body of a port, and its region (R510). -/
def audCfg (c : Chip) (p : Fin 8) : Option (List Byte × BitVec 6) :=
  (c.findRec 0x0E 0 p.val).map fun r => (r.body, r.region)

def inEn (b : List Byte) : Bool := flag (b.getD 0 0) 0
def outEn (b : List Byte) : Bool := flag (b.getD 0 0) 1
/-- Sample width in bits (R510). -/
def i2sWidth (b : List Byte) : Nat := match numAt b 1 1 with | 0 => 16 | 1 => 24 | _ => 32

/-- The SESSION_CLASSES body of a class. -/
def sesClass (c : Chip) (cls : BitVec 16) : Option (List Byte) := (c.findRec 0x0B 0 cls.toNat).map fun r => r.body

def sesI2s (b : List Byte) : Bool := flag (b.getD 0 0) 1
def sesAdaptOk (b : List Byte) : Bool := flag (b.getD 0 0) 0
def slotFirst (b : List Byte) : Nat := numAt b 2 2
def slotCount (b : List Byte) : Nat := numAt b 4 2
def streamFirst (b : List Byte) : Nat := numAt b 6 2

/-- The host streams of session index i (R487). -/
def sesStreams (b : List Byte) (i : Nat) : List (BitVec 12) :=
  if sesI2s b then []
  else (List.range 4).map fun role => BitVec.ofNat 12 (streamFirst b + 4 * (i - slotFirst b) + role)

/-- The KV classes of a session class. -/
def sesKv (b : List Byte) : List Nat := (List.range (numAt b 1 1)).map fun k => numAt b (12 + 2 * k) 2

/-- The KV descriptors of session index i: walker, descriptor, class, direction (R487). -/
def sesDescs (c : Chip) (b : List Byte) (i : Nat) : List (BitVec 4 × Nat × Nat × Nat) :=
  (sesKv b).flatMap fun k =>
    match c.findRec 0x0A 0 k with
    | none => []
    | some r => (List.range 2).map fun dir =>
        (BitVec.ofNat 4 (Kv.walkerNo r.body), Kv.descFirst r.body + 2 * (i - slotFirst b) + dir, k, dir)

/-- The session that a stream belongs to, if any. -/
def sessionOf (c : Chip) (s : BitVec 12) : Option (BitVec 10) :=
  ((c.recs 0x0B 0).findSome? fun r =>
    let b := r.body
    if !(sesI2s b) && streamFirst b ≤ s.toNat && s.toNat < streamFirst b + 4 * slotCount b then
      some (BitVec.ofNat 10 (slotFirst b + (s.toNat - streamFirst b) / 4))
    else none)

/-! ### Sessions (R489 to R497, R593) -/

/-- Today, as the Session Table holds it. -/
def today32 (c : Chip) : Word := c.alm.dayCount.setWidth 32

/-- A stream starts with S today (R491, R500). DROPS goes on to the next descriptor written (R502, R506). -/
def startStream (c : Chip) (s : BitVec 12) : Chip :=
  c.onStream s fun x => { x with startDay := some c.alm.dayCount, hist := [], taken := none }

/-- A stream stops: descriptors it has not consumed stay with the host (R496). -/
def stopStream (c : Chip) (s : BitVec 12) : Chip :=
  c.onStream s fun x => { x with startDay := none, ahead := [], taken := none, fetchIx := x.cons }

/-- The session's streams and descriptors go (R494, R495, R497). -/
def stopSession (c : Chip) (i : BitVec 10) : Chip :=
  match c.sesClass (c.session i).cls with
  | none => c
  | some b =>
    let c := (sesStreams b i.toNat).foldl (fun c s => c.stopStream s) c
    (c.sesDescs b i.toNat).foldl (fun c d => c.kvClose d.1 d.2.1) c

/-- The entry becomes FREE (R494; log 36); a held adaptation leaves the queue (R593). -/
def freeSession (c : Chip) (i : BitVec 10) (byUpdate : Bool := false) : Chip :=
  let c := (c.stopSession i).onSession i fun _ => { Session.init with ended := byUpdate }
  { c with sfe := { c.sfe with holdq := c.sfe.holdq.filter fun j => j ≠ i } }

/-- The bind day begins (R491, R495). -/
def bindSession (c : Chip) (i : BitVec 10) : Chip :=
  let x := c.session i
  let runs := x.state = 1 || (x.state = 3 && x.closeDay ≠ c.today32)
  if c.alm.running && c.alm.cycle = 0 && runs && x.bindDay = c.today32 then
    let c := c.onSession i fun x => { x with state := if x.state = 1 then 2 else x.state }
    match c.sesClass x.cls with
    | none => c
    | some b =>
      let c := (c.sesDescs b i.toNat).foldl
        (fun c d => c.kvOpen d.1 d.2.1 (BitVec.ofNat 16 d.2.2.1) (BitVec.ofNat 16 (i.toNat + d.2.2.2 * 2 ^ 15))) c
      (sesStreams b i.toNat).foldl (fun c s => c.startStream s) c
  else c

/-- The close day begins (R494, R495). -/
def closeSession (c : Chip) (i : BitVec 10) : Chip :=
  let x := c.session i
  if c.alm.running && c.alm.cycle = 0 && x.state = 3 && x.closeDay = c.today32 then c.freeSession i else c

/-- Adaptations that hold their room, and how many there is room for (R655). -/
def adaptations (c : Chip) : Nat := (c.sfe.sessions.filter fun s => s.2.adapt).length
def adaptRoom (c : Chip) : Bool := c.adaptations < (if c.satchel then 1 else 16)

/-- An adaptation starts; it is in force from cycle 0 of day d + 2 (R593). -/
def startAdapt (c : Chip) (i : BitVec 10) : Chip :=
  c.onSession i fun x => { x with adapt := true, adaptDay := c.alm.dayCount + 2 }

/-- The held adaptation at the head of the queue starts (R593, R655). -/
def startHeld (c : Chip) : Chip :=
  match c.sfe.holdq with
  | i :: rest =>
    if c.adaptRoom then ({ c with sfe := { c.sfe with holdq := rest } }).startAdapt i else c
  | [] => c

/-! ### Host streams, input (R482, R500 to R505) -/

/-- The stream's session lets it fetch: from BINDING on (R503). -/
def mayFetch (c : Chip) (s : BitVec 12) : Bool :=
  match c.sessionOf s with
  | some i => (c.session i).state = 1 || (c.stream s).startDay.isSome
  | none => false

/-- A descriptor waits to be fetched (R48, R503). -/
def fetchDue (c : Chip) (s : BitVec 12) : Bool :=
  let x := c.stream s
  !c.alm.inFeast && ringLog x.size.toNat 4 12 && x.ahead.length < 2 && x.fetchIx ≠ x.prod && c.mayFetch s &&
    (match c.streamPlan s with | some (e, _) => !(isOutput e) | none => false)

/-- A descriptor and its PCM are fetched (R503, R505). -/
def fetchBlock (c : Chip) (s : BitVec 12) : Chip :=
  if c.fetchDue s then
    match c.streamPlan s with
    | none => c
    | some (e, _) =>
      let x := c.stream s
      let d := mread c.hostMem (x.base.toNat + 64 * (x.fetchIx.toNat % 2 ^ x.size.toNat)) 64
      let n := Pcm.bytes (numAt e 3 1)
      let ok := numAt d 8 2 = n
      let pcm := if ok then Pcm.ofBytes (mread c.hostMem (numAt d 0 8) n) else []
      c.onStream s fun x => { x with fetchIx := x.fetchIx + 1, ahead := x.ahead ++ [⟨x.fetchIx, ok, pcm⟩] }
  else c

/-- Block lines go as VC0 packets, one per cycle, the header last (R482). -/
def sendBlock (c : Chip) (e : Eid) (tile line : Nat) (header : Line) (body : List Line) : Chip :=
  let put (c : Chip) (l : Line) (at_ delay : Nat) : Chip :=
    c.send e (packet 0xFFFF tDataWr 0 (BitVec.ofNat 9 tile) 32 (BitVec.ofNat 24 ((line + at_) * 32)) 0 l) delay
  let c := (body.zipIdx).foldl (fun c l => put c l.1 (l.2 + 1) l.2) c
  put c header 0 body.length

/-- The descriptor bytes 12 to 31 that Lornorix writes (R502 Table 6). -/
def backBytes (seq lts : Nat) (gen : BitVec 16) (flags : Byte) (badDesc : Bool) (peak drops : Nat) : List Byte :=
  leBytes 4 seq ++ leBytes 8 lts ++ leBytes 2 gen.toNat ++ [flags, BitVec.ofNat 8 (b1 badDesc)] ++ leBytes 2 peak ++
  leBytes 2 drops

/-- Input block n of host stream s is delivered on its first day (R482, R500, R501, R504, R505, R522, R528). -/
def deliverStream (c : Chip) (s : BitVec 12) : Chip :=
  match c.streamPlan s, c.sinceStart (c.stream s).startDay with
  | some (e, _), some k =>
    let bd := c.blockDays 160
    if isOutput e || !c.alm.running || k % bd ≠ 0 || c.alm.cycle ≠ numAt e 12 4 then c
    else
      let x := c.stream s
      let n := k / bd
      let lts := c.alm.dayCount.toNat * 2 ^ 22
      let b := numAt e 4 1
      let rate := numAt e 3 1
      let place := numAt e 8 2 + 7 * (n % max 1 (numAt e 5 1))
      let gen := c.alm.gen
      let mixed : Byte := if c.genComing bd then flagMixed else 0
      let quiet : Block := { silence n 5 with flags := flagSub ||| mixed }
      let put (c : Chip) (blk : Block) (peak : Nat) : Chip :=
        c.sendBlock (eidSfe (s.toNat / 1024)) (numAt e 6 1) place (headerLine lts n gen blk.flags b peak)
          (bodyLines blk.exps blk.codes)
      match x.ahead with
      | [] => put (c.onStream s fun x => { x with missed := satInc x.missed }) quiet 0
      | f :: rest =>
        let c := c.onStream s fun x => { x with ahead := rest }
        if !f.ok then
          (put c quiet 0).onStream s fun x => { x with
            backs := x.backs ++ [(f.index, backBytes n lts gen quiet.flags true 0 0)] }
        else
          let g := f.pcm.zipIdx.map fun v =>
            Pcm.gain (c.gainComing s (c.alm.dayCount.toNat + v.2 * bd / max 1 f.pcm.length)) v.1
          let pk := Pcm.peak (g.map fun v => v.1)
          let (y, h) := Pcm.toInternal rate x.hist (g.map fun v => v.1)
          let (codes, es, clamped) := Pcm.encode b (y.map fun v => v.1)
          let sats := Pcm.count g + Pcm.count y + clamped
          let flags : Byte := mixed ||| if 0 < sats then flagSat else 0
          (put c ⟨n, flags, gen, es, codes⟩ pk).onStream s fun x => { x with
            sat := satAdd x.sat sats
            hist := h
            backs := x.backs ++ [(f.index, backBytes n lts gen flags false pk 0)] }
  | _, _ => c

/-- Consumed input descriptors go back to the host at Vigil cycle 16 (R503). -/
def writeBacks (c : Chip) (s : BitVec 12) : Chip :=
  let x := c.stream s
  x.backs.foldl
    (fun c b =>
      (c.hostWrite (x.base.toNat + 64 * (b.1.toNat % 2 ^ x.size.toNat) + 12) b.2).onStream s fun y => { y with
        cons := y.cons + 1 })
    (c.onStream s fun y => { y with backs := [] })

/-! ### Output blocks (R483 to R485, R506) -/

/-- Flags that Lornorix forms for a block of a region over n days from day d (R485, R522). -/
def blockFlags (c : Chip) (region : BitVec 6) (d n : Nat) : Byte :=
  (if c.regionBad region d then flagInvalid else 0) ||| (if c.genMixed d n then flagMixed else 0)

/-- The output block of stream s is taken at Vigil cycle 0 of its last day (R484). -/
def takeStream (c : Chip) (s : BitVec 12) : Chip :=
  match c.streamPlan s, c.sinceStart (c.stream s).startDay with
  | some (e, region), some k =>
    let bd := c.blockDays 160
    if !(isOutput e) || !(c.vigilAt 0) || k % bd + 1 ≠ bd then c
    else
      let n := k / bd
      let day := c.alm.dayCount.toNat - (bd - 1)
      let got := egressBlock (mread c.sfe.egress (256 * s.toNat) 256) 5
      let ok := got.n = n
      let blk := if ok then got else silence n 5
      let blk := { blk with flags := blk.flags ||| c.blockFlags region day bd, gen := c.genOn day }
      c.onStream s fun x => { x with
        taken := some blk
        outUnder := if ok then x.outUnder else satInc x.outUnder }
  | _, _ => c

/-- The gain of a stream in force on day d (R528). -/
def gainOn (x : Stream) (d : Nat) : BitVec 16 := onDay x.gainLog x.gain d

/-- The PCM of an output block, its saturations and the filter state after it (R500, R501, R528). -/
def outPcm (c : Chip) (x : Stream) (rate b day : Nat) (blk : Block) : List (Int × Bool) × List Int × Nat :=
  let v := Pcm.decode b 16 blk.codes blk.exps
  let (y, h) := Pcm.toHost rate x.hist (v.map fun v => v.1)
  let bd := c.blockDays 160
  let z := (y.zipIdx).map fun v => Pcm.gain (gainOn x (day + v.2 * bd / max 1 y.length)) v.1.1
  (z, h, Pcm.count v + Pcm.count y + Pcm.count z)

/-- The taken block is written to a posted descriptor at Vigil cycle 16, or dropped (R505, R506, R645). -/
def writeStream (c : Chip) (s : BitVec 12) : Chip :=
  match c.streamPlan s, (c.stream s).taken with
  | some (e, _), some blk =>
    if !(c.vigilAt 16) then c
    else
      let bd := c.blockDays 160
      let rate := numAt e 3 1
      let day := c.alm.dayCount.toNat - (bd - 1)
      let (z, h, sats) := c.outPcm (c.stream s) rate (numAt e 4 1) day blk
      let c := c.onStream s fun x => { x with taken := none, hist := h, sat := satAdd x.sat sats }
      let x := c.stream s
      if !(ringLog x.size.toNat 4 12) || x.prod = x.cons then
        c.onStream s fun x => { x with missed := satInc x.missed, drops := satInc x.drops }
      else
        let at_ := x.base.toNat + 64 * (x.cons.toNat % 2 ^ x.size.toNat)
        let d := mread c.hostMem at_ 64
        let okDesc := numAt d 8 2 = Pcm.bytes rate
        let pcm := z.map fun v => v.1
        let flags := blk.flags ||| (if 0 < sats then flagSat else 0) ||| (if c.flt.fatal then flagInvalid else 0) |||
          (if okDesc then 0 else flagSub)
        let c := if okDesc then c.hostWrite (numAt d 0 8) (Pcm.toBytes pcm) else c
        let c := (c.hostWrite (at_ + 12)
          (backBytes blk.n (day * 2 ^ 22) blk.gen flags (!okDesc) (Pcm.peak pcm) x.drops.toNat)).onStream s fun x =>
            { x with cons := x.cons + 1, drops := 0 }
        { c with sfe := { c.sfe with wrote := true } }
  | _, _ => c

/-! ### I2S ports (R507 to R520) -/

/-- The port is one the profile enables (R684). -/
def audOn (c : Chip) (p : Fin 8) : Bool := !c.satchel || p.val < 2

/-- AUD_CTL.RUN is written (R517). -/
def runWritten (c : Chip) (p : Fin 8) (run : Bool) : Chip :=
  if c.ready && c.audOn p then c.onAud p fun x => { x with run := run } else c

/-- A write of 1 to AUD_ARM.GO (R518, R519). -/
def armGo (c : Chip) (mask : Byte) : Chip :=
  if !c.ready then c
  else
    let late := c.cyclesTo c.aud.startAt < 64
    { c with aud := { c.aud with
        mask := mask, latched := mask, armed := !late, missed := c.aud.missed || late } }

/-- Port frames per nominal day, times 2^20 (R513, R514): FS times the nominal day. -/
def nominalRatio (c : Chip) (b : List Byte) : Nat := numAt b 4 4 * c.alm.dayLen.toNat * 2 ^ 20 / c.cclkHz

/-- Port p starts on this cycle; S is the next day (R517, R520). Both FIFOs start half full with idle frames (log 37). -/
def startPort (c : Chip) (p : Fin 8) : Chip :=
  match c.audCfg p with
  | none => c
  | some (b, _) =>
    let idle : List (Int × Int) := List.replicate 16 (0, 0)
    c.onAud p fun x => { x with
      running := true, phase := 0, lastBit := false, startDay := some (c.alm.dayCount + 1)
      frames := 0, part := 0, frameAt := c.now, frameLen := 0, startAt := c.now, coming := []
      tracked := c.nominalRatio b
      fifoIn := idle, fifoOut := idle, histIn := [], histOut := [], cur := [], curFlags := 0
      whole := none, taken := none, play := none }

/-- I2S_PORT_START on this cycle (R517). -/
def portStart (c : Chip) (p : Fin 8) : Chip :=
  let x := c.audPort p
  if c.alm.running && x.run && !x.running && c.audOn p then c.startPort p else c

/-- I2S_ARMED_START on this cycle (R518, R520). -/
def armedStart (c : Chip) : Chip :=
  if c.aud.armed && c.alm.running && c.lts = c.aud.startAt then
    let ps := (List.finRange 8).filter fun p => flag c.aud.latched p.val && c.audOn p
    let c := ps.foldl (fun c p => (c.onAud p fun x => { x with run := true }).startPort p) c
    { c with aud := { c.aud with armed := false } }
  else c

/-- I2S_PORT_STOP (R517). -/
def portStop (c : Chip) (p : Fin 8) : Chip :=
  let x := c.audPort p
  if x.running && !x.run then
    c.onAud p fun x => { x with
      running := false, startDay := none, coming := [], fifoIn := [], fifoOut := [], play := none, taken := none
      whole := none, cur := [] }
  else c

/-- A whole frame is dropped or filled on input, in the block under way, or on output, in the block that plays (R515, R525;
log 37). -/
def gapIn (x : AudPort) : AudPort :=
  { x with gapBit := true, dropIn := satInc x.dropIn, curFlags := x.curFlags ||| flagGap }
def gapOut (x : AudPort) : AudPort :=
  { x with
    gapBit := true
    fillOut := satInc x.fillOut
    play := x.play.map fun k => { k with flags := k.flags ||| flagGap } }

/-- The first WIDTH bits of a 32-bit slot, signed (R508). -/
def slotSample (w : Nat) (v : Word) : Int := (v.sshiftRight (32 - w)).toInt

/-- A sample as the 32 bits of a slot: WIDTH bits, then zeros (R508). A converted sample beyond WIDTH bits saturates. -/
def slotWord (w : Nat) (x : Int) : Nat :=
  ((clampInt x (-(2 ^ (w - 1))) (2 ^ (w - 1) - 1)).1 % 2 ^ w).toNat * 2 ^ (32 - w)

/-- The 64 BCLKs of a frame (R507, R508, R511): a period has N source cycles, N + 1 where the accumulator carries, and BCLK is
high for half of them; WS is low for the left slot and high for the right; a slot's first BCLK carries the last bit of the slot
before it. -/
def frameBits (n frac phase : Nat) (last : Bool) (left right : Nat) : List I2sBit :=
  (List.range 64).map fun k =>
    let period := n + ((phase + (k + 1) * frac) / 2 ^ 24 - (phase + k * frac) / 2 ^ 24)
    { cycles := period
      high := period / 2
      ws := decide (32 ≤ k)
      sd := if k = 0 then last else (if k ≤ 32 then left else right).testBit ((64 - k) % 32) }

/-- A port frame goes out on BCLK, WS and SD_OUT, and the accumulator moves on (R507, R508, R511). -/
def sendI2s (c : Chip) (p : Fin 8) (f : Int × Int) : Chip :=
  let x := c.audPort p
  let w := match c.audCfg p with | some (b, _) => i2sWidth b | none => 16
  let (l, r) := (slotWord w f.1, slotWord w f.2)
  (c.onAud p fun x => { x with
    phase := BitVec.ofNat 24 (x.phase.toNat + 64 * x.frac.toNat)
    lastBit := r.testBit 0 }).emit (.i2s p (frameBits x.div.toNat x.frac.toNat x.phase.toNat x.lastBit l r))

/-- A port frame (R508, R513, R515, R517): what came in reaches the ASRC 40 cycles on, the oldest frame of the output FIFO, a
zero frame where it is empty, goes out. -/
def i2sFrame (c : Chip) (p : Fin 8) (left right : Word) : Chip :=
  let x := c.audPort p
  match c.audCfg p with
  | none => c
  | some (b, _) =>
    if !x.running then c
    else
      let w := i2sWidth b
      let c := c.onAud p fun x => { x with
        frames := x.frames + 1
        frameAt := c.now
        frameLen := c.now - x.frameAt
        coming := if inEn b then x.coming ++ [(c.now + 40, (slotSample w left, slotSample w right))] else x.coming }
      let c := if outEn b then
          match (c.audPort p).fifoOut with
          | f :: rest => (c.onAud p fun x => { x with fifoOut := rest }).sendI2s p f
          | [] => (c.onAud p gapOut).sendI2s p (0, 0)
        else c.sendI2s p (0, 0)
      if x.run then c else c.post 1 (.i2sPortStop p)

/-- Input frames that reach the ASRC by now enter its FIFO; a full one loses the newest (R513, R515). -/
def audComing (c : Chip) (p : Fin 8) : Chip :=
  match (c.audPort p).coming.filter fun f => f.1 ≤ c.now with
  | [] => c
  | fs =>
    c.onAud p fun x =>
      fs.foldl (fun x f => if x.fifoIn.length < 32 then { x with fifoIn := x.fifoIn ++ [f.2] } else gapIn x)
        { x with coming := x.coming.filter fun f => c.now < f.1 }

/-- Port frames that the ASRC takes or gives at internal instant k of a day (log 37). -/
def framesAt (c : Chip) (x : AudPort) (k : Nat) : Nat :=
  let unit := c.spd * 2 ^ 20
  (k + 1) * x.tracked / unit - k * x.tracked / unit

/-- n frames leave the input FIFO; where it is empty a zero frame stands in (R515). -/
def takeIn (x : AudPort) : Nat → AudPort
  | 0 => x
  | n + 1 =>
    match x.fifoIn with
    | f :: rest => takeIn { x with fifoIn := rest, histIn := (f :: x.histIn).take 64 } n
    | [] => takeIn { gapIn x with histIn := ((0, 0) :: x.histIn).take 64 } n

/-- A frame enters the output FIFO; a full one loses its oldest (R515). -/
def putOut (x : AudPort) (f : Int × Int) : AudPort :=
  if x.fifoOut.length < 32 then { x with fifoOut := x.fifoOut ++ [f] }
  else { gapOut x with fifoOut := x.fifoOut.tail ++ [f] }

/-- gain(x) of a port, saturated to its width (R501, R521). -/
def portGain (w : Nat) (g : BitVec 16) (x : Int) : Int × Bool :=
  clampInt (roundHaz (x * g.toNat) 12) (-(2 ^ (w - 1))) (2 ^ (w - 1) - 1)

/-- The internal frame that an output block plays at place f; zero for none and for a substituted one (R516). -/
def playFrame (b : List Byte) (blk : Option Block) (f : Nat) : Int × Int :=
  match blk with
  | none => (0, 0)
  | some k =>
    if flag k.flags 0 then (0, 0)
    else
      let v := Pcm.decode (numAt b 2 1) (i2sWidth b) k.codes k.exps
      ((v.getD (2 * f) (0, false)).1, (v.getD (2 * f + 1) (0, false)).1)

/-- Internal instant k of this day at port p: one internal frame each way (R479, R513, R516, R521; log 37). A sample that plays
has the gain of its own day, BD days before (R528). -/
def audInstant (c : Chip) (p : Fin 8) (k : Nat) : Chip :=
  match c.audCfg p with
  | none => c
  | some (b, _) =>
    let x := c.audPort p
    if !x.running then c
    else
      let w := i2sWidth b
      let n := c.framesAt x k
      let days := (c.sinceStart x.startDay).getD 0
      let m := days * c.spd + k
      let c := if inEn b then
          c.onAud p fun x =>
            let x := takeIn x n
            let l := portGain w x.gain (Config.asrc p.val 0 m (x.histIn.map fun f => f.1))
            let r := portGain w x.gain (Config.asrc p.val 1 m (x.histIn.map fun f => f.2))
            let started := match x.startDay with | some s => decide (s.toNat ≤ c.alm.dayCount.toNat) | none => false
            { x with
              cur := if started then x.cur ++ [(l.1, r.1)] else x.cur
              curFlags := if l.2 || r.2 then x.curFlags ||| flagSat else x.curFlags }
        else c
      if outEn b then
        let f := playFrame b (c.audPort p).play (m % 64)
        let own := c.alm.dayCount.toNat - c.blockDays 64
        c.onAud p fun x =>
          let l := (portGain w (onDay x.gainLog x.gain own) f.1).1
          let r := (portGain w (onDay x.gainLog x.gain own) f.2).1
          let x := { x with histOut := ((l, r) :: x.histOut).take 64 }
          (List.range n).foldl
            (fun x i => putOut x
              (Config.asrc p.val 2 (64 * m + i) (x.histOut.map fun f => f.1),
               Config.asrc p.val 3 (64 * m + i) (x.histOut.map fun f => f.2))) x
      else c

/-- The part, of 2^20, of the frame under way that is over at the end of this cycle (R513; log 37). -/
def framePart (c : Chip) (x : AudPort) : Nat :=
  min (2 ^ 20 - 1) ((c.now + 1 - x.frameAt) * 2 ^ 20 / max 1 x.frameLen)

/-- AUD_RATIO at the end of a day of `len` cycles (R513): the port frames of the part of the day that the port has run, from the
divider when the audio PLL clocks it, else from the frames counted. -/
def dayRatio (c : Chip) (b : List Byte) (x : AudPort) (len : Nat) : Nat :=
  if flag (b.getD 0 0) 2 then x.frames * 2 ^ 20 + c.framePart x - x.part
  else
    let div := x.div.toNat * 2 ^ 24 + x.frac.toNat
    let num := min len (c.now + 1 - x.startAt) * 1000000000 * 2 ^ 24 * 2 ^ 20
    let den := c.cclkHz * 64 * max 1 div
    (2 * num + den) / (2 * den)

/-- A day of `len` cycles ends at port p (R513, R514). A port that started in it has no whole day to be judged by, and the ASRC
stays at the nominal ratio (log 37). -/
def audDayEnd (c : Chip) (p : Fin 8) (len : Nat) : Chip :=
  match c.audCfg p with
  | none => c
  | some (b, _) =>
    let x := c.audPort p
    if !x.running then c
    else
      let r := c.dayRatio b x len
      let nom := c.nominalRatio b
      let out := decide (r * 1000 < nom * 999) || decide (nom * 1001 < r * 1000)
      let all := decide (x.startAt + len ≤ c.now + 1)
      c.onAud p fun x => { x with
        ratio := BitVec.ofNat 32 r
        range := if all then out else x.range
        tracked := if all then max (nom * 999 / 1000) (min r (nom * 1001 / 1000)) else x.tracked
        frames := 0
        part := c.framePart x }

/-- A day begins at port p: at a block's first day the block before it is whole, and the one taken plays (R480, R516). -/
def audDayStart (c : Chip) (p : Fin 8) : Chip :=
  let x := c.audPort p
  match c.sinceStart x.startDay with
  | some k =>
    if x.running && k % c.blockDays 64 = 0 then
      c.onAud p fun x => { x with
        whole := if 0 < k then some (x.cur, x.curFlags) else none
        cur := []
        curFlags := 0
        play := x.taken
        taken := none }
    else c
  | none => c

/-- Input block of port p is delivered on the day after its last day (R482, R523). -/
def deliverPort (c : Chip) (p : Fin 8) : Chip :=
  match c.audCfg p, c.sinceStart (c.audPort p).startDay, (c.audPort p).whole with
  | some (b, _), some k, some (fs, fl) =>
    let bd := c.blockDays 64
    if !(inEn b) || !c.alm.running || k % bd ≠ 0 || k = 0 || c.alm.cycle ≠ numAt b 16 4 then c
    else
      let n := k / bd - 1
      let day := c.alm.dayCount.toNat - bd
      let xs := fs.flatMap fun f => [f.1, f.2]
      let (codes, es, clamped) := Pcm.encode (numAt b 2 1) xs
      let pk := Pcm.peak xs
      let flags := fl ||| (if 0 < clamped then flagSat else 0) ||| (if c.genMixed day bd then flagMixed else 0)
      let place := numAt b 14 2 + 6 * (n % max 1 (numAt b 3 1))
      let c := c.sendBlock eidAudio (numAt b 13 1) place
        (headerLine (day * 2 ^ 22) n (c.genOn day) flags (numAt b 2 1) pk) (bodyLines es codes)
      c.onAud p fun x => { x with whole := none, levelSeq := BitVec.ofNat 16 n, levelPeak := BitVec.ofNat 16 pk }
  | _, _, _ => c

/-- The output block of port p is taken at Vigil cycle 0 of its last day (R484). -/
def takePort (c : Chip) (p : Fin 8) : Chip :=
  match c.audCfg p, c.sinceStart (c.audPort p).startDay with
  | some (b, region), some k =>
    let bd := c.blockDays 64
    if !(outEn b) || !(c.vigilAt 0) || k % bd + 1 ≠ bd then c
    else
      let n := k / bd
      let day := c.alm.dayCount.toNat - (bd - 1)
      let got := egressBlock (mread c.aud.egress (256 * p.val) 256) 4
      let ok := got.n = n
      let blk := if ok then got else silence n 4
      let blk := { blk with flags := blk.flags ||| c.blockFlags region day bd, gen := c.genOn day }
      c.onAud p fun x => { x with
        taken := some blk
        underrun := x.underrun || !ok
        underCnt := if ok then x.underCnt else satInc x.underCnt }
  | _, _ => c

end Chip

/-! ### The rows -/

/-- SESSION_BIND (R417, R487, R491, R495). -/
def execSessionBind (i : BitVec 10) (s : State) : Host.Outcome State Fault Refusal := s.run fun c => c.bindSession i

/-- SESSION_CLOSE_DAY (R417, R418, R494, R495, R496, R655). -/
def execSessionCloseDay (i : BitVec 10) (s : State) : Host.Outcome State Fault Refusal := s.run fun c => c.closeSession i

/-- HELD_ADAPT_START (R593, R655). -/
def execHeldAdaptStart (s : State) : Host.Outcome State Fault Refusal := s.run Chip.startHeld

/-- STREAM_DESCRIPTOR_FETCH (R503, R505). -/
def execStreamDescriptorFetch (s : BitVec 12) (st : State) : Host.Outcome State Fault Refusal :=
  st.run fun c => c.fetchBlock s

/-- INPUT_BLOCK_DELIVERY (R482, R500, R501, R504, R505, R523). -/
def execInputBlockDelivery (v : Voice) (s : State) : Host.Outcome State Fault Refusal :=
  s.run fun c => match v with | .stream k => c.deliverStream k | .i2s p => c.deliverPort p

/-- OUTPUT_BLOCK_TAKE (R484, R485, R522). -/
def execOutputBlockTake (v : Voice) (s : State) : Host.Outcome State Fault Refusal :=
  s.run fun c => match v with | .stream k => c.takeStream k | .i2s p => c.takePort p

/-- OUTPUT_BLOCK_WRITE (R501, R502, R505, R506, R645). -/
def execOutputBlockWrite (s : BitVec 12) (st : State) : Host.Outcome State Fault Refusal := st.run fun c => c.writeStream s

/-- I2S_FRAME (R508, R514, R515). -/
def execI2sFrame (p : Fin 8) (left right : Word) (s : State) : Host.Outcome State Fault Refusal :=
  s.run fun c => c.i2sFrame p left right

/-- I2S_PORT_START (R517, R520). -/
def execI2sPortStart (p : Fin 8) (s : State) : Host.Outcome State Fault Refusal := s.run fun c => c.portStart p

/-- I2S_ARMED_START (R518, R520). -/
def execI2sArmedStart (s : State) : Host.Outcome State Fault Refusal := s.run Chip.armedStart

/-- I2S_PORT_STOP (R517). -/
def execI2sPortStop (p : Fin 8) (s : State) : Host.Outcome State Fault Refusal := s.run fun c => c.portStop p

/-- AUD_RUN (R517). -/
def execAudRun (p : Fin 8) (run : Bool) (s : State) : Host.Outcome State Fault Refusal := s.run fun c => c.runWritten p run

/-- AUD_ARM_GO (R518, R519). -/
def execAudArmGo (mask : BitVec 8) (s : State) : Host.Outcome State Fault Refusal := s.run fun c => c.armGo mask

end Sys2Proof.Machine
end

