-- ==== Sys2Proof/Machine/Fronthaul.lean ====
section
/-!
DEFINITION. Machine/Fronthaul.lean: the fronthaul ports (12_fronthaul): frames and their buffer, eCPRI and O-RAN messages,
the acceptance window, symbol records, delay measurement, output rings. A frame's bytes run from its destination address
to its FCS (log 38).
-/
namespace Sys2Proof.Machine
open Sys2Proof

/-! ### Frames (R532, R535 to R540) -/

namespace Fh

/-- The big-endian number of n bytes at place k (R535). -/
def beAt (bs : List Byte) (k n : Nat) : Nat := (bytesAt bs k n).foldl (fun a b => 256 * a + b.toNat) 0

/-- The n big-endian bytes of a number. -/
def beBytes (n v : Nat) : List Byte := (leBytes n v).reverse

/-- The frame carries a tag: EtherType 0x8100 after the addresses (IEEE 802.1Q). -/
def tagged (f : List Byte) : Bool := beAt f 12 2 = 0x8100

/-- Where the EtherType after any tag stands. -/
def typeAt (f : List Byte) : Nat := if tagged f then 16 else 12

/-- The EtherType after any tag. -/
def etherType (f : List Byte) : Nat := beAt f (typeAt f) 2

/-- The bytes between the EtherType and the FCS. -/
def inner (f : List Byte) : List Byte := (f.take (f.length - 4)).drop (typeAt f + 2)

/-- eCPRI message type, payload size and payload (R535). -/
def msgType (f : List Byte) : Nat := beAt (inner f) 1 1
def msgSize (f : List Byte) : Nat := beAt (inner f) 2 2
def msgPayload (f : List Byte) : List Byte := ((inner f).drop 4).take (msgSize f)

/-- The common header passes the first row of R535 Table 2. -/
def headerOk (f : List Byte) : Bool :=
  beAt (inner f) 0 1 / 16 = 1 && beAt (inner f) 0 1 % 2 = 0 && msgSize f + 4 ≤ (inner f).length

/-! The FRONTHAUL_PLAN body (R560 Table 6). -/

def enabled (b : List Byte) : Bool := flag (b.getD 0 0) 0
def rate (b : List Byte) : Bool := flag (b.getD 0 0) 1
def staticComp (b : List Byte) : Option Nat := if flag (b.getD 0 0) 3 then some (numAt b 1 1) else none
def dlyEn (b : List Byte) : Bool := flag (b.getD 0 0) 4
def vid (b : List Byte) : Nat := numAt b 2 2 % 4096
def mac (b : List Byte) : List Byte := bytesAt b 4 6
def entryCount (b : List Byte) : Nat := numAt b 10 1
def tickSym (b : List Byte) : Nat := numAt b 11 1
def earlyWin (b : List Byte) : Nat := numAt b 12 4
def lateWin (b : List Byte) : Nat := numAt b 16 4
def tickDelay (b : List Byte) : Nat := numAt b 20 4
def dayOfs (b : List Byte) : BitVec 15 := BitVec.ofNat 15 (numAt b 24 2)
def spsLog2 (b : List Byte) : Nat := numAt b 26 1
def outCount (b : List Byte) : Nat := numAt b 28 1

/-- The antenna entries. -/
def entries (b : List Byte) : List (List Byte) := (List.range (entryCount b)).map fun i => bytesAt b (64 + 16 * i) 16

/-- The output entries. -/
def outputs (b : List Byte) : List (List Byte) :=
  (List.range (outCount b)).map fun j => bytesAt b (64 + 16 * entryCount b + 32 * j) 32

def pcId (e : List Byte) : Nat := numAt e 0 2
def sector (e : List Byte) : Nat := numAt e 2 1
def ant (e : List Byte) : Nat := numAt e 3 1
def tile (e : List Byte) : TileId := BitVec.ofNat 8 (numAt e 4 1)
def shift (e : List Byte) : Nat := numAt e 5 1
def line0 (e : List Byte) : Nat := numAt e 6 2 % 16384
def startPrb (e : List Byte) : Nat := numAt e 8 2
def nPrb (e : List Byte) : Nat := numAt e 10 2
def buckle (e : List Byte) : Nat := numAt e 12 2 % 4096

/-- G, E and R_L of an entry, and the first line of a record (R548). -/
def groups (e : List Byte) : Nat := (3 * nPrb e + 3) / 4
def expLines (e : List Byte) : Nat := (groups e + 63) / 64
def recLines (e : List Byte) : Nat := 1 + expLines e + groups e
def recLine (e : List Byte) (day symbol : Nat) : Nat := line0 e + ((day % 2) * 14 + symbol) * recLines e

/-- A frame passes R532, or the counter it adds to. -/
def judge (b f : List Byte) (fcsOk : Bool) : Option Nat :=
  let tci := beAt f 14 2 % 4096
  if !fcsOk || f.length < 64 || 9216 < f.length then some 3
  else if etherType f = 0x8808 then some 9
  else if !((bytesAt f 0 6 = mac b) || (bytesAt f 0 6 = List.replicate 6 0xFF && msgType f = 5)) then some 4
  else if !(if tagged f then tci = vid b else vid b = 0) then some 4
  else if etherType f ≠ 0xAEFE then some 4
  else none

/-- The bytes of one PRB under a compression method and width (R539 Table 3): a compressed one begins with its parameter byte,
also under a method that is not accepted (log 39). -/
def prbBytes (meth width : Nat) : Nat := b1 (meth ≠ 0) + 3 * (if width = 0 then 16 else width)

/-- The formats accepted. -/
def formatOk (meth width : Nat) : Bool := (meth = 0 && width = 0) || (meth = 1 && (width = 9 || width = 12 || width = 14))

/-- The 24 values of one PRB, I before Q (R539). -/
def prbValues (meth width : Nat) (bs : List Byte) : List Int :=
  let w := if width = 0 then 16 else width
  let e := if meth = 1 then beAt bs 0 1 % 16 else 0
  let n := beAt bs (b1 (meth = 1)) (3 * w)
  (List.range 24).map fun i => (BitVec.ofNat w (n / 2 ^ (w * (23 - i)))).toInt * 2 ^ e

/-- A section: its first PRB, its PRBs, and the values, none in a format that is not accepted (R538, R539). -/
structure Sec where
  start : Nat
  n : Nat
  values : Option (List Int)
deriving DecidableEq, Repr

/-- The sections of a message. One whose end the payload does not hold is the last (log 39). -/
def sections (static : Option Nat) : Nat → List Byte → List Sec
  | 0, _ => []
  | _, [] => []
  | fuel + 1, bs =>
    let h := beAt bs 0 4
    let start := h / 256 % 1024
    let n := if h % 256 = 0 then 273 - start else h % 256
    let comp := match static with | some x => x | none => beAt bs 4 1
    let rest := bs.drop (if static.isSome then 4 else 6)
    let meth := comp % 16
    let len := n * prbBytes meth (comp / 16)
    if bs.length < (if static.isSome then 4 else 6) ∨ rest.length < len then [⟨start, n, none⟩]
    else
      let ok := formatOk meth (comp / 16) && h / 2 ^ 19 % 2 = 0 && h / 2 ^ 18 % 2 = 0
      let size := prbBytes meth (comp / 16)
      let vs := if ok then some ((List.range n).flatMap fun i => prbValues meth (comp / 16) (bytesAt rest (size * i) size))
        else none
      ⟨start, n, vs⟩ :: sections static fuel (rest.drop len)

/-- A section lies as its entry asks (R540). -/
def placed (e : List Byte) (x : Sec) : Bool :=
  0 < x.n && startPrb e ≤ x.start && x.start + x.n ≤ startPrb e + nPrb e && (x.start - startPrb e) % 4 = 0 &&
    (x.n % 4 = 0 || x.start + x.n = startPrb e + nPrb e)

/-! Type 0 payloads (R536, R537). -/

def frameId (p : List Byte) : Nat := beAt p 5 1
def subframe (p : List Byte) : Nat := beAt p 6 1 / 16
def slotId (p : List Byte) : Nat := beAt p 6 1 % 16 * 4 + beAt p 7 1 / 64
def symbolId (p : List Byte) : Nat := beAt p 7 1 % 64

/-- The header fields pass R536 and R537, PC_ID apart. -/
def iqOk (sps : Nat) (p : List Byte) : Bool :=
  8 ≤ p.length && 128 ≤ beAt p 3 1 && beAt p 3 1 % 128 = 0 && beAt p 4 1 = 0x10 && subframe p ≤ 9 && slotId p < sps &&
    symbolId p ≤ 13

/-- The target day: the day nearest D, from D - M/2, that names slot u (R542). -/
def target (sps ofs d : Nat) (p : List Byte) : Int :=
  let m : Int := 2560 * sps
  let u : Int := (frameId p * 10 + subframe p) * sps + slotId p
  let low := (d : Int) - m / 2
  low + (u - ofs - low) % m

/-- A code group of a record: the values of 16 subcarriers, those missing beyond the last read as code 128 (R548). -/
def group (e : List Byte) (vs : List Int) : List Byte × BitVec 4 × Bool :=
  let g := encodeGroup (vs ++ List.replicate (32 - vs.length) 0) (shift e)
  (g.1, BitVec.ofInt 4 g.2.1, g.2.2)

/-- Where the lines of a record stand. -/
def lineAt (e : List Byte) (day symbol k due : Nat) (l : Line) (notify : Option (BitVec 16) := none) : FhLine :=
  ⟨day, due, tile e, BitVec.ofNat 14 (recLine e day symbol + k), l, notify⟩

/-- The header line of a record (R548 Table 4). -/
def header (x : SymRec) : Line :=
  lineOf (leBytes 8 (x.day.toNat * 2 ^ 22) ++ leBytes 4 x.day.toNat ++
    [BitVec.ofNat 8 (sector x.ent), BitVec.ofNat 8 (ant x.ent), BitVec.ofNat 8 x.symbol,
     BitVec.ofNat 8 (b1 x.incomplete + 2 * b1 x.sat), BitVec.ofNat 8 (shift x.ent), 0] ++
    leBytes 2 (groups x.ent) ++ leBytes 2 x.missing)

/-- The lines a record ends with: exponents, then the header, which fastens the buckle (R552). -/
def tailLines (x : SymRec) (due : Nat) : List FhLine :=
  let e := x.ent
  let nib (k : Nat) : BitVec 4 := match x.groups.find? fun g => g.1 = k with | some g => g.2.1 | none => 0
  ((List.range (expLines e)).map fun i =>
    lineAt e x.day.toNat x.symbol (1 + i) (due + i)
      (expLine ((List.range (min 64 (groups e - 64 * i))).map fun k => nib (64 * i + k)))) ++
  [lineAt e x.day.toNat x.symbol 0 (due + expLines e) (header x)
    (some (BitVec.ofNat 16 (buckle e + x.day.toNat % 2)))]

/-- The group lines of some groups. -/
def groupLines (e : List Byte) (day symbol due : Nat) (gs : List (Nat × BitVec 4 × List Byte)) : List FhLine :=
  (gs.zipIdx).map fun g => lineAt e day symbol (1 + expLines e + g.1.1) (due + g.2) (lineOf g.1.2.2)

/-- The groups of a section: number, exponent, codes; how many clamped. -/
def secGroups (e : List Byte) (x : Sec) : List (Nat × BitVec 4 × List Byte) × Nat :=
  let vs := x.values.getD []
  let first := 3 * (x.start - startPrb e) / 4
  let gs := (List.range ((vs.length + 31) / 32)).map fun i => (first + i, group e ((vs.drop (32 * i)).take 32))
  (gs.map fun g => (g.1, g.2.2.1, g.2.1), (gs.filter fun g => g.2.2.2).length)

/-- Nanoseconds from day 0 to an LTS at 0.8 ns a cycle, whole ones (R555; log 40). -/
def nanos (len : Nat) (l : Lts) : Nat := (fldNat l 22 42 * len + fldNat l 0 22) * 8 / 10

/-- The delay reply (R554, R555), without its FCS, padded to the least length. -/
def reply (b : List Byte) (r : DelayReq) (tsS tsNs len : Nat) : List Byte :=
  let ns := tsNs + nanos len r.lts
  let f := beBytes 6 r.dest.toNat ++ mac b ++ (if r.tagged then [0x81, 0x00] ++ beBytes 2 r.vlan.toNat else []) ++
    [0xAE, 0xFE, 0x10, 0x05, 0x00, 0x14, r.measId, 0x02] ++ beBytes 6 (tsS + ns / 10 ^ 9) ++ beBytes 4 (ns % 10 ^ 9) ++
    List.replicate 8 0
  f ++ List.replicate (60 - f.length) 0

end Fh

namespace Chip

/-! ### Plans and counters -/

/-- The FRONTHAUL_PLAN record in force for port q, if it enables the port. -/
def fhRec (c : Chip) (q : Fin 2) : Option Rec := (c.findRec 0x0D 0 q.val).filter fun r => Fh.enabled r.body

/-- The new copy of port q's record in a verified update, and its apply day (R562). -/
def fhNew (c : Chip) (q : Fin 2) : Option (Rec × BitVec 64) :=
  c.hns.regions.findSome? fun kr =>
    if 2 ≤ kr.2.state.toNat then
      (kr.2.image.bind fun i => i.records.find? fun r => r.sec = 0x0D && r.target.toNat = q.val).map fun r => (r, kr.2.applyDay)
    else none

/-- The record that a message with target day T is judged by, if it enables the port: the new copy of a verified update whose
apply day is before T, else the copy in force (R562). -/
def fhRecFor (c : Chip) (q : Fin 2) (t : Int) : Option Rec :=
  match c.fhNew q with
  | some (r, d) => if (d.toNat : Int) < t then some r else c.fhRec q
  | none => c.fhRec q

/-- The slots of a subframe at port q, if a copy in force or to come enables it (R541). -/
def fhSps (c : Chip) (q : Fin 2) : Option Nat :=
  ((c.fhRec q).or (((c.fhNew q).map fun x => x.1).filter fun r => Fh.enabled r.body)).map fun r => 2 ^ Fh.spsLog2 r.body

/-- The day, of 64 bits, that ended last with the 42 bits of an LTS's DAY, or that runs (R23, R542). -/
def fhDay (c : Chip) (l : Lts) : Nat := c.alm.dayCount.toNat - (c.alm.dayCount.toNat - fldNat l 22 42) % 2 ^ 42

/-- The target day of a type 0 message that came at an LTS (R542). -/
def fhTarget (c : Chip) (q : Fin 2) (p : List Byte) (l : Lts) : Int :=
  Fh.target ((c.fhSps q).getD 1) (c.fhPort q).dayOfs.toNat (c.fhDay l) p

/-- Counter k of port q rises by n: FHE_RX_OK 0 to FHE_OUT_DROP 13 (R563 Table 7). -/
def fhCount (c : Chip) (q : Fin 2) (k : Nat) (n : Nat := 1) : Chip :=
  c.onFh q fun p => { p with counters := tput 0 p.counters k (satAdd (tget 0 p.counters k) n) }

/-! ### Frames (R532 to R534) -/

/-- A frame ends at port q: counted and dropped, or into the FIFO, which hands it on from the next cycle (log 41). A type 0
message is judged by the copy that its target day calls for (R562). -/
def fhFrame (c : Chip) (q : Fin 2) (f : List Byte) (fcsOk : Bool) : Chip :=
  let iq := Fh.etherType f = 0xAEFE && Fh.msgType f = 0 && c.alm.running
  match if iq then (c.fhRecFor q (c.fhTarget q (Fh.msgPayload f) c.lts)).filter fun r => Fh.enabled r.body else c.fhRec q with
  | none => c
  | some r =>
    match Fh.judge r.body f fcsOk with
    | some 9 => c.post 0 (.macControl q)
    | some k => c.fhCount q k
    | none =>
      if 262144 < ((c.fhPort q).fifo.map fun x => x.1.length).sum + f.length then c.fhCount q 8
      else
        (c.onFh q fun p => { p with fifo := p.fifo ++ [(f, c.lts, c.now)] }).post 0
          (if Fh.msgType f = 5 then .delayMeasurementRequest q else .iqData q)

/-! ### Symbol records (R548 to R552) -/

/-- Lines queued behind those that wait. -/
def fhQueue (c : Chip) (q : Fin 2) (ls : List FhLine) : Chip := c.onFh q fun p => { p with lines := p.lines ++ ls }

/-- The cycle from which the last lines of a record can go, `least` at the soonest: after its other lines that wait (R552). -/
def tailDue (c : Chip) (q : Fin 2) (e : List Byte) (day symbol least : Nat) : Nat :=
  let first := Fh.recLine e day symbol
  ((c.fhPort q).lines.filter fun l =>
      l.day = day && l.tile = Fh.tile e && first ≤ l.line.toNat && l.line.toNat < first + Fh.recLines e).foldl
    (fun m l => max m (l.due + 1)) least

/-- The line that goes next: of those that can, the earliest day's, and of these the one that could go first (R552). -/
def nextLine (c : Chip) (q : Fin 2) : Option FhLine :=
  ((c.fhPort q).lines.filter fun l => l.due ≤ c.now).foldl
    (fun best l =>
      match best with
      | none => some l
      | some b => if l.day < b.day ∨ (l.day = b.day ∧ l.due < b.due) then some l else some b)
    none

/-- The record of an entry, a day and a symbol, new if there is none. -/
def symRec (c : Chip) (q : Fin 2) (e : List Byte) (day : BitVec 64) (symbol : Nat) : SymRec :=
  match (c.fhPort q).recs.find? fun x => x.ent = e && x.day = day && x.symbol = symbol with
  | some x => x
  | none => ⟨e, day, symbol, [], false, false, false, 0⟩

/-- The record put back. -/
def putRec (c : Chip) (q : Fin 2) (x : SymRec) : Chip :=
  c.onFh q fun p => { p with
    recs := (p.recs.filter fun y => !(y.ent = x.ent && y.day = x.day && y.symbol = x.symbol)) ++ [x] }

/-- A section is converted into its record (R549, R550, R552). -/
def fhSection (c : Chip) (q : Fin 2) (e : List Byte) (day : BitVec 64) (symbol due : Nat) (x : Fh.Sec) : Chip :=
  if x.values.isNone || !(Fh.placed e x) then c.fhCount q 6
  else
    let r := c.symRec q e day symbol
    let (gs, clamped) := Fh.secGroups e x
    if r.closed || gs.any fun g => r.groups.any fun h => h.1 = g.1 then c.fhCount q 7
    else
      let r := { r with groups := r.groups ++ gs, sat := r.sat || 0 < clamped }
      let c := if 0 < clamped then c.fhCount q 11 clamped else c
      let c := c.fhQueue q (Fh.groupLines e day.toNat symbol due gs)
      if r.groups.length = Fh.groups e then
        (c.fhQueue q (Fh.tailLines r (c.tailDue q e day.toNat symbol due))).putRec q { r with closed := true, groups := [] }
      else c.putRec q r

/-- An open record is filled and closed (R551, R552). -/
def closeRec (c : Chip) (q : Fin 2) (e : List Byte) (day : BitVec 64) (symbol : Nat) : Chip :=
  let r := c.symRec q e day symbol
  if r.closed then c
  else
    let miss : List (Nat × BitVec 4 × List Byte) :=
      ((List.range (Fh.groups e)).filter fun k => !(r.groups.any fun g => g.1 = k)).map fun k =>
        (k, 8, List.replicate 32 128)
    let r := { r with groups := r.groups ++ miss, closed := true, incomplete := true, missing := miss.length }
    let c := c.fhCount q 12
    let c := c.fhQueue q (Fh.groupLines e day.toNat symbol c.now miss)
    (c.fhQueue q (Fh.tailLines r (c.tailDue q e day.toNat symbol c.now))).putRec q { r with groups := [] }

/-- The records of this day close at cycle LATE_WIN + 1 (R551); records that no output can ask for are forgotten. -/
def fhClose (c : Chip) (q : Fin 2) : Chip :=
  match c.fhRecFor q c.alm.dayCount.toNat with
  | none => c
  | some r =>
    if c.alm.running && Fh.enabled r.body && c.alm.cycle = Fh.lateWin r.body + 1 then
      let day := c.alm.dayCount
      let c := c.onFh q fun p => { p with recs := p.recs.filter fun x => day.toNat < x.day.toNat + 2 }
      (Fh.entries r.body).foldl
        (fun c e => (List.range 14).foldl (fun c s => c.closeRec q e day s) c) c
    else c

/-- The next waiting line goes as VC2, one a cycle (R550, R552). -/
def fhWriteLine (c : Chip) (q : Fin 2) : Chip :=
  match c.nextLine q with
  | none => c
  | some l =>
    let (type, aux) := match l.notify with | some b => (tDataWrNotify, b) | none => (tDataWr, 0)
    (c.send (eidFronthaul q)
      (packet 0xFFFF type 2 (tileEid l.tile) 32 (BitVec.ofNat 24 (32 * l.line.toNat)) aux l.data)).onFh q fun p =>
        { p with lines := p.lines.erase l }

/-! ### Type 0 messages (R536 to R547) -/

/-- The tick of a message whose last byte came at cycle `at_` (R546, R547). -/
def fhTick (c : Chip) (q : Fin 2) (b : List Byte) (at_ : Nat) : Chip :=
  c.postAt (at_ + 3 + Fh.tickDelay b) (.tickIn (.fronthaul q))

/-- The entry of a PC_ID. -/
def fhEntry (b p : List Byte) : Option (List Byte) := (Fh.entries b).find? fun e => Fh.pcId e = Fh.beAt p 0 2

/-- A message in the window (R544) is placed (R546, R548 to R550). -/
def fhAccept (c : Chip) (q : Fin 2) (b e p : List Byte) (day : BitVec 64) (at_ : Nat) : Chip :=
  let c := c.fhCount q 0
  let first := Fh.symbolId p = Fh.tickSym b && !((c.fhPort q).ticked.contains day)
  let c := if first then
      (c.onFh q fun x => { x with ticked := (x.ticked.filter fun d => c.alm.dayCount.toNat ≤ d.toNat + 1) ++ [day] }).fhTick
        q b at_
    else c
  (Fh.sections (Fh.staticComp b) p.length (p.drop 8)).foldl
    (fun c x => c.fhSection q e day (Fh.symbolId p) (at_ + 120) x) c

/-- A type 0 message (R536, R537, R542, R544, R545, R547, R562). -/
def fhIq (c : Chip) (q : Fin 2) (p : List Byte) (lts : Lts) (at_ : Nat) : Chip :=
  let d := c.fhDay lts
  let k := fldNat lts 0 22
  let t := c.fhTarget q p lts
  let stopped : Bool := k = 0x3FFFFF
  match c.fhSps q, if stopped then c.fhRec q else (c.fhRecFor q t).filter fun r => Fh.enabled r.body with
  | some sps, some r0 =>
    if !(Fh.iqOk sps p) then c.fhCount q 6
    else
      match fhEntry r0.body p, stopped with
      | none, _ => c.fhCount q 6
      | some e, true =>
        let secs := Fh.sections (Fh.staticComp r0.body) p.length (p.drop 8)
        let good := secs.all fun x => x.values.isSome && Fh.placed e x
        let waits := c.agenda.any fun a => a.2 = .tickIn (.fronthaul q)
        let c := if c.alm.armed && c.tickSelected (.fronthaul q) && Fh.symbolId p = Fh.tickSym r0.body && good && !waits then
            c.fhTick q r0.body at_ else c
        c.fhCount q 1
      | some e, false =>
        let x : Int := if t = d then k else (k : Int) - c.alm.dayLen.toNat
        let near := t = d ∨ t = d + 1
        if near ∧ -(Fh.earlyWin r0.body : Int) ≤ x ∧ x ≤ Fh.lateWin r0.body then
          c.fhAccept q r0.body e p (BitVec.ofInt 64 t) at_
        else if (d : Int) + 2 ≤ t ∨ (near ∧ x < -(Fh.earlyWin r0.body : Int)) then c.fhCount q 1
        else c.fhCount q 2
  | _, _ => c

/-- The oldest frame leaves the FIFO and is handled (R535 Table 2). `delay` says which row takes it. -/
def fhHead (c : Chip) (q : Fin 2) (delay : Bool) (take_ : Chip → List Byte → Lts → Nat → Chip) : Chip :=
  match (c.fhPort q).fifo with
  | [] => c
  | (f, l, t) :: rest =>
    if decide (Fh.msgType f = 5) ≠ delay then c
    else
      let c := c.onFh q fun p => { p with fifo := rest }
      if !(Fh.headerOk f) then c.fhCount q 6 else take_ c f l t

/-- IQ_DATA: type 0 is placed, the other types that are not 5 are dropped. -/
def fhIqHead (c : Chip) (q : Fin 2) : Chip :=
  c.fhHead q false fun c f l t => if Fh.msgType f = 0 then c.fhIq q (Fh.msgPayload f) l t else c.fhCount q 5

/-! ### Delay measurement (R554, R555) -/

/-- A type 5 message: a request is to be answered within 2,048 cycles, all else is dropped. -/
def fhDelayHead (c : Chip) (q : Fin 2) : Chip :=
  c.fhHead q true fun c f l t =>
    let p := Fh.msgPayload f
    match c.fhRec q with
    | none => c
    | some r =>
      if !(Fh.dlyEn r.body) || fldNat l 0 22 = 0x3FFFFF || p.length < 2 || Fh.beAt p 1 1 ≠ 0 then c.fhCount q 5
      else
        let d : DelayReq := ⟨BitVec.ofNat 48 (Fh.beAt f 6 6), Fh.tagged f, BitVec.ofNat 16 (Fh.beAt f 14 2), p.getD 0 0, l⟩
        ((c.fhCount q 10).onFh q fun x => { x with replies := x.replies ++ [d] }).postAt (t + 2048) (.delayMeasurementReply q)

/-- The oldest reply goes. -/
def fhReply (c : Chip) (q : Fin 2) : Chip :=
  match (c.fhPort q).replies, c.fhRec q with
  | d :: rest, some r =>
    (c.onFh q fun x => { x with replies := rest }).emit
      (.ethernet q (Fh.reply r.body d c.fhe.tsS.toNat c.fhe.tsNs.toNat c.alm.dayLen.toNat))
  | _, _ => c

/-! ### Output rings (R556 to R559) -/

/-- The output entry of ring r: its port, its region, its 32 bytes (R556, R557). -/
def fhOutput (c : Chip) (r : BitVec 3) : Option (Fin 2 × BitVec 6 × List Byte) :=
  (List.finRange 2).findSome? fun q =>
    match c.fhRec q with
    | none => none
    | some x =>
      ((Fh.outputs x.body).find? fun o => 2 * numAt o 0 1 + numAt o 1 1 = r.toNat).map fun o => (q, x.region, o)

/-- The lines of an output's payload on a day (R556). -/
def fhPayload (o : List Byte) (day : Nat) : List (TileId × Nat) :=
  (List.range (numAt o 2 1)).flatMap fun j =>
    let n := numAt o (8 + 6 * j) 2
    (List.range n).map fun i => (BitVec.ofNat 8 (numAt o (4 + 6 * j) 1), numAt o (6 + 6 * j) 2 % 16384 + day % 2 * n + i)

/-- The host address of ring r's next posted descriptor. -/
def fhDescAt (c : Chip) (r : BitVec 3) : Nat :=
  (c.fhRing r).base.toNat + 64 * ((c.fhRing r).cons.toNat % 2 ^ (c.fhRing r).size.toNat)

/-- The bytes that a copy moves: CAP at most (R559). -/
def fhBytes (c : Chip) (r : BitVec 3) (x : FhCopy) : Nat := min (32 * x.lines.length) (numAt (mread c.hostMem (c.fhDescAt r) 12) 8 4)

/-- Region r's records of a day are invalid (R89). -/
def badOn (c : Chip) (region : BitVec 6) (day : BitVec 64) : Bool :=
  (c.alm.dayCount = day && c.alm.invalid.contains region) || c.sfe.bad.any fun b => b.1 = day && b.2.contains region

/-- The sector's records of a day that were INCOMPLETE, as the bits of MASK (R557 Table 5, R558). -/
def fhMask (c : Chip) (q : Fin 2) (sector : Nat) (day : BitVec 64) : List Nat :=
  (((c.fhPort q).recs.filter fun x => x.day = day && x.incomplete && Fh.sector x.ent = sector).map fun x =>
    Fh.ant x.ent * 14 + x.symbol)

/-- A copy ends: the descriptor is written and handed back (R557 to R559, R645). -/
def fhCopyEnd (c : Chip) (r : BitVec 3) (x : FhCopy) (bytes : Nat) (trunc : Bool) : Chip :=
  let flags := b1 (!x.mask.isEmpty) + 2 * b1 (c.flt.fatal || x.invalid) + 4 * b1 trunc
  let mask := leBytes 28 ((List.range 224).foldl (fun n i => n + b1 (x.mask.contains i) * 2 ^ i) 0)
  let c := c.hostWrite (c.fhDescAt r + 12)
    (leBytes 4 bytes ++ leBytes 8 (x.day.toNat * 2 ^ 22) ++
      [BitVec.ofNat 8 flags, BitVec.ofNat 8 (r.toNat / 2 + 4 * (r.toNat % 2))] ++
      leBytes 2 x.gen.toNat ++ mask)
  let c := c.onRing r fun y => { y with cons := y.cons + 1, copying := none }
  { c with fhe := { c.fhe with wrote := true } }

/-- The copy's last line has come. -/
def fhCopyCheck (c : Chip) (r : BitVec 3) : Chip :=
  match (c.fhRing r).copying with
  | none => c
  | some x =>
    let n := c.fhBytes r x
    if (n + 31) / 32 ≤ x.came then c.fhCopyEnd r x n (n < 32 * x.lines.length) else c

/-- Ring r's copy of this day begins (R558), or its record is dropped (R559). What its descriptor says of the day stands by then:
its records are closed (R545), its overruns marked (R88, R89). -/
def fhCopyStart (c : Chip) (r : BitVec 3) : Chip :=
  match c.fhOutput r with
  | none => c
  | some (q, region, o) =>
    if !(c.vigilAt 16) then c
    else
      let x := c.fhRing r
      if !(ringLog x.size.toNat 4 12) || x.prod = x.cons || x.copying.isSome then c.fhCount q 13
      else
        (c.onRing r fun y => { y with
          copying := some ⟨c.alm.dayCount, q, c.alm.gen, c.badOn region c.alm.dayCount, c.fhMask q (r.toNat / 2) c.alm.dayCount,
            fhPayload o c.alm.dayCount.toNat, 0, 0⟩ }).fhCopyCheck r

/-- A cycle of port q's copies: one read request over VC1, the lowest ring first. -/
def fhCopyCycle (c : Chip) (q : Fin 2) : Chip :=
  let e := eidFronthaul q
  if 16 ≤ (c.endp e).queue.length || (c.freeSlot e).isNone then c
  else
    let wants := (List.range 8).findSome? fun r =>
      match (c.fhRing (BitVec.ofNat 3 r)).copying with
      | some x =>
        if x.port = q && 32 * x.issued < c.fhBytes (BitVec.ofNat 3 r) x then (x.lines[x.issued]?).map fun l => (r, x, l)
        else none
      | none => none
    match wants with
    | none => c
    | some (r, x, t, line) =>
      (c.sendRequest e (packet 0xFFFF tReadReq 1 (tileEid t) 32 (BitVec.ofNat 24 (32 * line)) 0 0) (.fhLine r x.issued)).onRing
        (BitVec.ofNat 3 r) fun y => { y with copying := some { x with issued := x.issued + 1 } }

/-- Line k of ring r's payload comes; one that does not come is a free value (log 42). -/
def fhCopyLine (c : Chip) (r : BitVec 3) (k : Nat) (l : Option Line) : Chip :=
  match (c.fhRing r).copying with
  | none => c
  | some x =>
    let (l, c) := match l with | some l => (l, c) | none => c.drawBits 256
    let n := c.fhBytes r x
    let c := c.hostWrite (numAt (mread c.hostMem (c.fhDescAt r) 8) 0 8 + 32 * k) (lineBytes l (min 32 (n - 32 * k)))
    (c.onRing r fun y => { y with copying := some { x with came := x.came + 1 } }).fhCopyCheck r

/-- A copy of the day before is still under way at Vigil cycle 0: it stops (R559). -/
def fhStopLate (c : Chip) (r : BitVec 3) : Chip :=
  match (c.fhRing r).copying with
  | none => c
  | some x =>
    if !(c.vigilAt 0) || c.alm.dayCount.toNat ≤ x.day.toNat then c
    else
      let n := min (c.fhBytes r x) (32 * x.came)
      let e := eidFronthaul x.port
      let c := c.onEndp e fun y => { y with
        slots := y.slots.map fun s => (s.1, { s.2 with use := match s.2.use with | .fhLine r' _ => if r' = r.toNat then .other else s.2.use | u => u }) }
      (c.fhCopyEnd r x n true).logFault 0x3004 e r.toNat n

end Chip

/-! ### The rows -/

/-- FH_FRAME (R532, R533, R534). -/
def execFhFrame (q : Fin 2) (bytes : List Byte) (fcsOk : Bool) (s : State) : Host.Outcome State Fault Refusal :=
  s.run fun c => c.fhFrame q bytes fcsOk

/-- MAC_CONTROL (R533). -/
def execMacControl (q : Fin 2) (s : State) : Host.Outcome State Fault Refusal :=
  s.run fun c => if (c.fhRec q).isSome then c.fhCount q 9 else c

/-- IQ_DATA (R535 to R550, R562, R565). -/
def execIqData (q : Fin 2) (s : State) : Host.Outcome State Fault Refusal := s.run fun c => c.fhIqHead q

/-- DELAY_MEASUREMENT_REQUEST (R535, R554, R569). -/
def execDelayMeasurementRequest (q : Fin 2) (s : State) : Host.Outcome State Fault Refusal := s.run fun c => c.fhDelayHead q

/-- DELAY_MEASUREMENT_REPLY (R554, R555). -/
def execDelayMeasurementReply (q : Fin 2) (s : State) : Host.Outcome State Fault Refusal := s.run fun c => c.fhReply q

/-- GROUP_WRITE (R550, R552). -/
def execGroupWrite (q : Fin 2) (s : State) : Host.Outcome State Fault Refusal := s.run fun c => c.fhWriteLine q

/-- RECORD_CLOSE (R551). -/
def execRecordClose (q : Fin 2) (s : State) : Host.Outcome State Fault Refusal := s.run fun c => c.fhClose q

/-- FH_OUTPUT_COPY (R86, R558, R559). -/
def execFhOutputCopy (r : BitVec 3) (s : State) : Host.Outcome State Fault Refusal := s.run fun c => c.fhCopyStart r

/-- FH_OUT_LATE (R559). -/
def execFhOutLate (r : BitVec 3) (s : State) : Host.Outcome State Fault Refusal := s.run fun c => c.fhStopLate r

/-- FH_LINK_DOWN (R563). -/
def execFhLinkDown (q : Fin 2) (s : State) : Host.Outcome State Fault Refusal :=
  s.run fun c =>
    if (c.fhPort q).linkUp then
      (c.onFh q fun p => { p with linkUp := false }).logFault 0x4006 (eidFronthaul q) q.val 0
    else c

/-- FH_LINK_UP (R563): an enabled port has a link again. -/
def execFhLinkUp (q : Fin 2) (s : State) : Host.Outcome State Fault Refusal :=
  s.run fun c => if (c.fhRec q).isSome then c.onFh q fun p => { p with linkUp := true } else c

end Sys2Proof.Machine
end

