-- ==== Sys2Proof/Machine/Skive.lean ====
section
/-!
DEFINITION. Machine/Skive.lean: the Skive block code (09_skive, R387 to R404): prefix tables, the encoder and the decoder.
-/
namespace Sys2Proof.Machine
open Sys2Proof

/-- A prefix table: per class 0 to 8 its length and its code (R394, R396), and the zero point Z (R389). -/
structure SkvTable where
  codes : List (Nat × Nat)
  zero : Nat
deriving DecidableEq, Repr

namespace Skv

/-- The codes of one length, in class order, from `next` on (R396). -/
def assignLen (n : Nat) : List Nat → Nat → Nat → List (Nat × Nat × Nat) × Nat
  | [], _, next => ([], next)
  | l :: ls, k, next =>
    if l = n then
      let (r, e) := assignLen n ls (k + 1) (next + 1)
      ((k, n, next) :: r, e)
    else assignLen n ls (k + 1) next

/-- Codes of lengths n, n + 1, … (R396). -/
def assignFrom (lens : List Nat) : Nat → Nat → Nat → List (Nat × Nat × Nat)
  | 0, _, _ => []
  | fuel + 1, n, next =>
    let (r, e) := assignLen n lens 0 next
    r ++ assignFrom lens fuel (n + 1) (2 * e)

/-- The table of a SKIVE_TABLES record body (R394 Table 3, R396). -/
def table (body : List Byte) : SkvTable :=
  let lens := (bytesAt body 0 9).map fun b => b.toNat
  let all := assignFrom lens 6 1 0
  { codes := (List.range 9).map fun k =>
      match all.find? fun x => x.1 = k with | some x => x.2 | none => (0, 0)
    zero := numAt body 9 1 }

/-- The n low bits of v, most significant first. -/
def msbBits (v n : Nat) : List Bool := (List.range n).map fun i => v.testBit (n - 1 - i)

/-- The class of a code (R389 Table 2). -/
def classOf (z q : Nat) : Nat :=
  if q = z then 0 else 1 + Nat.log2 (if q < z then z - q else q - z)

/-- The bits of one code (R390). -/
def codeBits (t : SkvTable) (q : Nat) : List Bool :=
  let k := classOf t.zero q
  let (n, code) := t.codes.getD k (0, 0)
  let m := if q < t.zero then t.zero - q else q - t.zero
  msbBits code n ++ (if k = 0 then [] else decide (q < t.zero) :: msbBits (m - 2 ^ (k - 1)) (k - 1))

/-- The number whose bit i is element i. -/
def bitsNat : List Bool → Nat
  | [] => 0
  | b :: bs => b1 b + 2 * bitsNat bs

/-- Stream bits as bytes, zeros filling the last (R391). -/
def pack (bs : List Bool) : List Byte := leBytes ((bs.length + 7) / 8) (bitsNat bs)

/-- The bits of bytes, in stream order (R391). -/
def unpack (bs : List Byte) : List Bool := bs.flatMap fun b => (List.range 8).map fun i => b.getLsbD i

/-- A block's header (R388). -/
def header (len : Nat) (raw : Bool) (tid : Nat) : List Byte := leBytes 2 (len * 32 + b1 raw * 16 + tid)

/-- The encoded block, and whether it is raw (R390 to R392). -/
def encode (t : SkvTable) (tid : Nat) (codes : List Byte) : List Byte × Bool :=
  let payload := pack (codes.flatMap fun q => codeBits t q.toNat)
  if payload.length ≤ 256 then (header payload.length false tid ++ payload, false)
  else (header 256 true tid ++ codes, true)

/-- Why a block fails (R403 Table 4). -/
def causeLen : BitVec 3 := 1
def causeUnloaded : BitVec 3 := 2
def causePrefix : BitVec 3 := 3
def causeOverrun : BitVec 3 := 4
def causePad : BitVec 3 := 5
def causeRange : BitVec 3 := 6

/-- The bits read so far begin some assigned code. -/
def begins (t : SkvTable) (n v : Nat) : Bool := t.codes.any fun c => n ≤ c.1 && c.2 / 2 ^ (c.1 - n) = v

/-- A prefix is read: its class and the bits after it, or the cause (R402, R403). -/
def readPrefix (t : SkvTable) : Nat → Nat → List Bool → Except (BitVec 3) (Nat × List Bool)
  | _, _, [] => .error causeOverrun
  | n, v, b :: bs =>
    let v := 2 * v + b1 b
    let n := n + 1
    if begins t n v then
      match t.codes.findIdx? fun c => c = (n, v) with
      | some k => .ok (k, bs)
      | none => readPrefix t n v bs
    else .error causePrefix

/-- The number of the next n bits, most significant first. -/
def readBits : Nat → Nat → List Bool → Option (Nat × List Bool)
  | 0, v, bs => some (v, bs)
  | _ + 1, _, [] => none
  | n + 1, v, b :: bs => readBits n (2 * v + b1 b) bs

/-- One code (R402). -/
def readCode (t : SkvTable) (bs : List Bool) : Except (BitVec 3) (Byte × List Bool) :=
  match readPrefix t 0 0 bs with
  | .error e => .error e
  | .ok (k, bs) =>
    if k = 0 then .ok (BitVec.ofNat 8 t.zero, bs)
    else
      match readBits 1 0 bs with
      | none => .error causeOverrun
      | some (sign, bs) =>
        match readBits (k - 1) 0 bs with
        | none => .error causeOverrun
        | some (low, bs) =>
          let m := 2 ^ (k - 1) + low
          let q : Int := if sign = 1 then t.zero - m else t.zero + m
          if q < 0 ∨ 255 < q then .error causeRange else .ok (BitVec.ofInt 8 q, bs)

/-- n codes, and the bits after them. -/
def readCodes (t : SkvTable) : Nat → List Bool → Except (BitVec 3) (List Byte × List Bool)
  | 0, bs => .ok ([], bs)
  | n + 1, bs =>
    match readCode t bs with
    | .error e => .error e
    | .ok (q, bs) =>
      match readCodes t n bs with
      | .error e => .error e
      | .ok (qs, bs) => .ok (q :: qs, bs)

/-- LEN, RAW and TABLE of a header (R388). -/
def hdrLen (h : Nat) : Nat := h / 32
def hdrRaw (h : Nat) : Bool := (h / 16) % 2 = 1
def hdrTable (h : Nat) : Nat := h % 16

/-- The failure that the header alone shows (R401, R403). -/
def headerCause (h : Nat) (loaded : Bool) : Option (BitVec 3) :=
  if hdrRaw h then (if hdrLen h = 256 then none else some causeLen)
  else if hdrLen h < 32 ∨ 256 < hdrLen h then some causeLen
  else if loaded then none else some causeUnloaded

/-- The 256 codes of a block, or the cause (R401 to R403). -/
def decode (t : Option SkvTable) (block : List Byte) : Except (BitVec 3) (List Byte) :=
  let h := numAt block 0 2
  match headerCause h t.isSome with
  | some e => .error e
  | none =>
    let payload := (block.drop 2).take (hdrLen h)
    if hdrRaw h then .ok payload
    else
      match t with
      | none => .error causeUnloaded
      | some t =>
        match readCodes t 256 (unpack payload) with
        | .error e => .error e
        | .ok (qs, rest) => if 7 < rest.length ∨ rest.any id then .error causePad else .ok qs

/-- The lines that a block of LEN payload bytes fills (R393). -/
def linesOf (len : Nat) : Nat := (2 + len + 31) / 32

end Skv

end Sys2Proof.Machine
end

