-- ==== Sys2Proof/Machine/Tme.lean ====
section
/-!
DEFINITION. Machine/Tme.lean: the Tensor Move Engines (08_memory, R367 to R374) with their Skive engines (09_skive):
descriptors, their checks, the order in which lines are visited, the engine's one packet per cycle, completion.
-/
namespace Sys2Proof.Machine
open Sys2Proof

/-! ### The descriptor (R367 Table 9) -/

namespace Tmd

/-- One side of a copy. -/
structure Side where
  chip : BitVec 16
  eid : Eid
  addr : Nat
  s1 : Nat
  s2 : Nat
deriving DecidableEq, Repr

def dims (d : Desc) : Nat := fldNat (dByte d 0) 0 2
def enc (d : Desc) : Bool := flag (dByte d 0) 2
def dec (d : Desc) : Bool := flag (dByte d 0) 3
def skived (d : Desc) : Bool := enc d || dec d
def tableId (d : Desc) : Nat := fldNat (dByte d 0) 4 4
def count0 (d : Desc) : Nat := dNum d 28 4
def count1 (d : Desc) : Nat := dNum d 32 2
def count2 (d : Desc) : Nat := dNum d 34 2
def src (d : Desc) : Side :=
  ⟨BitVec.ofNat 16 (dNum d 4 2), BitVec.ofNat 9 (dNum d 6 2), dNum d 8 8, dNum d 40 4, dNum d 44 4⟩
def dst (d : Desc) : Side :=
  ⟨BitVec.ofNat 16 (dNum d 16 2), BitVec.ofNat 9 (dNum d 18 2), dNum d 20 8, dNum d 48 4, dNum d 52 4⟩

/-- The EID is an LPDDR channel's. -/
def isChan (e : Eid) : Bool := 0x100 ≤ e.toNat && e.toNat < 0x108

/-- A side's EID field and address keep to Table 9: a tile's SRAM byte or a channel's linear address (R344), a multiple
of 32. -/
def sideOk (field : Nat) (x : Side) : Bool :=
  field < 512 && x.addr % 32 = 0 && x.s1 % 32 = 0 && x.s2 % 32 = 0 &&
    ((isTileEid x.eid && x.addr < 2 ^ 19) || (isChan x.eid && x.addr < 2 ^ 33))

/-- The unused counts are 1 and the unused strides 0. -/
def unusedOk (d : Desc) : Bool :=
  let s := src d
  let t := dst d
  match dims d with
  | 1 => count1 d = 1 && count2 d = 1 && s.s1 = 0 && s.s2 = 0 && t.s1 = 0 && t.s2 = 0
  | 2 => count2 d = 1 && s.s2 = 0 && t.s2 = 0
  | _ => true

/-- A side does not lay out its own elements with overlap (R368). -/
def apart (d : Desc) (x : Side) : Bool :=
  (dims d < 2 || count0 d ≤ x.s1) && (dims d < 3 || (count1 d - 1) * x.s1 + count0 d ≤ x.s2)

/-- The bytes of a side's innermost run: skived, 288 per block (R372). -/
def runBytes (d : Desc) (skivedSide : Bool) : Nat := if skivedSide then count0 d / 256 * 288 else count0 d

/-- The lowest and the highest byte of a side. -/
def span (d : Desc) (x : Side) (skivedSide : Bool) : Nat × Nat :=
  (x.addr, x.addr + (count2 d - 1) * x.s2 + (count1 d - 1) * x.s1 + runBytes d skivedSide - 1)

/-- Truncated quotient. -/
def tquot (a : Int) (b : Nat) : Int := if b = 0 then 0 else a.tdiv b

/-- The displacement in each dimension of an overlapping copy (R374). -/
def shifts (d : Desc) : Int × Int × Int :=
  let s := src d
  let delta : Int := ((dst d).addr : Int) - s.addr
  let d2 := if dims d = 3 then tquot delta s.s2 else 0
  let r := delta - d2 * s.s2
  let d1 := if 2 ≤ dims d then tquot r s.s1 else 0
  (d2, d1, r - d1 * s.s1)

end Tmd

namespace Chip

/-- Two sides lie on one chip. -/
def sameChip (c : Chip) (a b : BitVec 16) : Bool := a = b || (c.isHere a && c.isHere b)

/-- The two sides overlap (08_memory, Overlapping copies). -/
def tmeOverlap (c : Chip) (d : Desc) : Bool :=
  let s := Tmd.src d
  let t := Tmd.dst d
  let a := Tmd.span d s (Tmd.dec d)
  let b := Tmd.span d t (Tmd.enc d)
  c.sameChip s.chip t.chip && s.eid = t.eid && a.1 ≤ b.2 && b.1 ≤ a.2

/-- The SKIVE_TABLES records in force: what a switch of this Vigil brings is in force from the next day on (R144, R398). -/
def skvRecs (c : Chip) : List Rec := c.hns.skvOld.getD (c.hns.records.filter fun r => r.sec = 0x09)

/-- Table k's record body for TME t (R394, R397). -/
def skvBody (c : Chip) (t : BitVec 4) (k : Nat) : Option (List Byte) :=
  let at_ (target : Nat) : Option Rec := c.skvRecs.find? fun r => r.kind = BitVec.ofNat 8 k && r.target.toNat = target
  ((at_ t.toNat).or (at_ 0xFFFF)).map fun r => r.body

/-- The sides that SKIVE_ENC and SKIVE_DEC ask for (R372, R397). -/
def skiveOk (c : Chip) (t : BitVec 4) (d : Desc) : Bool :=
  let far (x : Tmd.Side) : Bool := Tmd.isChan x.eid || !(c.isHere x.chip)
  if !(Tmd.skived d) then true
  else if Tmd.enc d && Tmd.dec d then false
  else
    Tmd.count0 d % 256 = 0 &&
    (if Tmd.enc d then
      isTileEid (Tmd.src d).eid && far (Tmd.dst d) && (c.skvBody t (Tmd.tableId d)).isSome
    else far (Tmd.src d) && isTileEid (Tmd.dst d).eid)

/-- Every field keeps to Table 9 (R367, R368, R372, R397). -/
def tmeFieldsOk (c : Chip) (t : BitVec 4) (d : Desc) : Bool :=
  Tmd.dims d ≠ 0 && dByte d 1 = 0 && fldNat (dByte d 3) 4 3 = 0 && fldNat (dByte d 37) 4 3 = 0 &&
    dNum d 38 2 = 0 && dNum d 56 8 = 0 &&
    Tmd.sideOk (dNum d 6 2) (Tmd.src d) && Tmd.sideOk (dNum d 18 2) (Tmd.dst d) &&
    Tmd.count0 d % 32 = 0 && 32 ≤ Tmd.count0 d && Tmd.count0 d ≤ 0xFFFE0 &&
    1 ≤ Tmd.count1 d && 1 ≤ Tmd.count2 d && Tmd.unusedOk d &&
    Tmd.apart d (Tmd.src d) && Tmd.apart d (Tmd.dst d) && c.skiveOk t d

/-- The status with which a descriptor fails before any byte moves (R368, R373); 0 for none. -/
def tmeCheck (c : Chip) (t : BitVec 4) (d : Desc) : BitVec 3 :=
  if !(c.tmeFieldsOk t d) then 1
  else if c.tmeOverlap d &&
      (Tmd.skived d || (Tmd.src d).s1 ≠ (Tmd.dst d).s1 || (Tmd.src d).s2 ≠ (Tmd.dst d).s2) then 2
  else 0

/-- The place of the k-th line visited, i2, i1, i0 (R374): a dimension whose displacement is positive runs descending in
an overlapping copy. -/
def tmePlace (c : Chip) (d : Desc) (k : Nat) : Nat × Nat × Nat :=
  let n0 := Tmd.count0 d / 32
  let n1 := Tmd.count1 d
  let n2 := Tmd.count2 d
  let (d2, d1, d0) := if c.tmeOverlap d then Tmd.shifts d else (0, 0, 0)
  let pick (s : Int) (n i : Nat) : Nat := if 0 < s then n - 1 - i else i
  (pick d2 n2 (k / (n0 * n1)), pick d1 n1 (k / n0 % n1), pick d0 n0 (k % n0))

/-- A side's address of a place. -/
def placeAddr (x : Tmd.Side) (p : Nat × Nat × Nat) : Nat := x.addr + p.1 * x.s2 + p.2.1 * x.s1 + 32 * p.2.2

/-- A side's address of line l of block j (R372): blocks of 256 bytes, or slots of 288. -/
def blockAddr (d : Desc) (x : Tmd.Side) (skivedSide : Bool) (j l : Nat) : Nat :=
  let nb := Tmd.count0 d / 256
  let run := j / nb
  x.addr + run / Tmd.count1 d * x.s2 + run % Tmd.count1 d * x.s1 + (j % nb) * (if skivedSide then 288 else 256) + 32 * l

/-! ### Descriptor slots (R375) -/

/-- A first half is on its last hop to TME t. -/
def halfComing (c : Chip) (t : BitVec 4) : Bool :=
  c.agenda.any fun a => match a.2 with | .tmeDescriptorPacket u p => u = t && p.addr = 0 | _ => false

/-- Slots of a TME that are taken: queued, running, and one whose first half has come or is coming. -/
def tmeUsed (c : Chip) (t : BitVec 4) : Nat :=
  let x := c.tme t
  x.queue.length + b1 x.job.isSome + b1 (x.half.isSome || c.halfComing t)

/-- The lowest slot number not in use (log 27). -/
def tmeSlot (c : Chip) (t : BitVec 4) : BitVec 5 :=
  let x := c.tme t
  let used (k : Nat) : Bool :=
    (x.queue.any fun q => q.1.toNat = k) || (match x.job with | some j => j.slot.toNat = k | none => false)
  BitVec.ofNat 5 (((List.range 32).find? fun k => !(used k)).getD 0)

/-- A descriptor is accepted (R367, R369). -/
def tmeAccept (c : Chip) (t : BitVec 4) (d : Desc) : Chip :=
  let k := c.tmeSlot t
  c.onTme t fun x => { x with queue := x.queue ++ [(k, d)] }

/-- A DATA_WR reaches TME t (R367, R375, R738): the halves of a descriptor, the lower first. A TME outside the Satchel cluster
is not used (R36). -/
def tmePacket (c : Chip) (t : BitVec 4) (p : Packet) : Chip :=
  let e := eidTme t
  if !(c.clusterOn t) then c
  else if p.vc = 1 && p.len = 3 && p.addr = 0 then c.onTme t fun x => { x with half := some p.payload }
  else if p.vc = 1 && p.len = 3 && p.addr = 0x20 then
    match (c.tme t).half with
    | some lo => (c.onTme t fun x => { x with half := none }).tmeAccept t (p.payload ++ lo)
    | none => c.reject e p
  else c.reject e p

/-- A write of 1 to MEM_TME_SUBMIT.GO (R367, R375, R378). -/
def tmeSubmit (c : Chip) (t : BitVec 4) : Chip :=
  if c.ready && c.clusterOn t then
    if c.tmeUsed t < 32 then
      let d : Desc := descOf ((List.range 16).flatMap fun n => leBytes 4 (tget 0 (c.tme t).regs n).toNat)
      (c.tmeAccept t d).onTme t fun x => { x with result := 1 }
    else c.onTme t fun x => { x with result := 2 }
  else c

/-! ### Running (R369 to R374) -/

/-- The next descriptor starts: it is checked first (R368, R369, R373). -/
def tmeStart (c : Chip) (t : BitVec 4) : Chip :=
  let x := c.tme t
  match x.job, x.queue with
  | none, (k, d) :: rest =>
    if !(c.clusterOn t) then c else
    let st := c.tmeCheck t d
    let lines := Tmd.count0 d / 32 * Tmd.count1 d * Tmd.count2 d
    let j : TmeJob :=
      { slot := k, desc := d
        total := if Tmd.skived d then lines / 8 else lines
        issued := 0, block := 0
        need := if Tmd.enc d then 8 else 1
        stopped := st ≠ 0, status := st, buf := [], outl := [] }
    c.onTme t fun x => { x with queue := rest, job := some j }
  | _, _ => c

/-- The running descriptor changed. -/
def onJob (c : Chip) (t : BitVec 4) (f : TmeJob → TmeJob) : Chip := c.onTme t fun x => { x with job := x.job.map f }

/-- Responses that TME t waits for. -/
def tmeWaits (c : Chip) (t : BitVec 4) : Nat :=
  ((c.endp (eidTme t)).slots.filter fun s =>
    s.2.busy && (match s.2.use with | .tmeLine _ => true | _ => false)).length

/-- The descriptor has nothing more to do (R369, R370). -/
def tmeFinished (c : Chip) (t : BitVec 4) : Bool :=
  match (c.tme t).job with
  | none => false
  | some j =>
    c.tmeWaits t = 0 && (c.endp (eidTme t)).queue.isEmpty &&
      (j.stopped ||
        (j.outl.isEmpty && (if Tmd.skived j.desc then decide (j.total ≤ j.block) else decide (j.total ≤ j.issued))))

/-- BAR0 writes entry i of MEM_WIN of channel k (R378, R384): the window of the source whose entry it is has changed. -/
def winByHost (c : Chip) (k : BitVec 3) (i : Nat) (w : BitVec 9) : Chip :=
  let c := c.onChan k fun x => { x with win := tput 0 x.win i w }
  if i = 0x130 then c.onHif fun h => { h with wins := tput 0 h.wins k.toNat w }
  else if i = 0x133 then c.onCns fun x => { x with win := none }
  else if 0x108 ≤ i ∧ i < 0x118 then c.onTme (BitVec.ofNat 4 (i - 0x108)) fun x => { x with wins := tput 0 x.wins k.toNat w }
  else if 0x118 ≤ i ∧ i < 0x128 then c.onWalker (BitVec.ofNat 4 (i - 0x118)) fun x => { x with wins := tput 0 x.wins k.toNat w }
  else c

/-- The channel of a side on this chip, and its window word for an address (R344, R369). -/
def tmeWindow (c : Chip) (x : Tmd.Side) (a : Nat) : Option (Nat × BitVec 9) :=
  if Tmd.isChan x.eid && c.isHere x.chip then some (x.eid.toNat - 0x100, BitVec.ofNat 9 (a / 2 ^ 24)) else none

/-- One VC1 packet about address a of a side: the window word when the address lies outside the TME's window, else the
packet itself (R345, R369). The second component says that it was the packet. -/
def tmeSend (c : Chip) (t : BitVec 4) (x : Tmd.Side) (a : Nat) (f : Chip → Chip) : Chip × Bool :=
  match c.tmeWindow x a with
  | some (ch, w) =>
    if tget 0 (c.tme t).wins ch = w then (f c, true)
    else
      ((c.onTme t fun y => { y with wins := tput 0 y.wins ch w }).send (eidTme t)
        (packet x.chip tDataWr 1 x.eid 4 0xFFFFF0 0 (w.setWidth 256)), false)
  | none => (f c, true)

/-- The engine asks for one source line. -/
def tmeRead (c : Chip) (t : BitVec 4) (j : TmeJob) : Chip :=
  let d := j.desc
  let s := Tmd.src d
  let a := if Tmd.skived d then blockAddr d s (Tmd.dec d) j.block j.issued else placeAddr s (c.tmePlace d j.issued)
  let (c, sent) := c.tmeSend t s a fun c =>
    c.sendRequest (eidTme t) (packet s.chip tReadReq 1 s.eid 32 (BitVec.ofNat 24 a) 0 0 (if Tmd.dec d then 0b00100 else 0))
      (.tmeLine j.issued)
  if sent then c.onJob t fun j => { j with issued := j.issued + 1 } else c

/-- The engine writes the oldest line that is ready. -/
def tmeWrite (c : Chip) (t : BitVec 4) (j : TmeJob) : Chip :=
  match j.outl with
  | [] => c
  | (_, a, l) :: rest =>
    let x := Tmd.dst j.desc
    let (c, sent) := c.tmeSend t x a fun c =>
      c.send (eidTme t) (packet x.chip tDataWr 1 x.eid 32 (BitVec.ofNat 24 a) 0 l (if Tmd.enc j.desc then 0b00100 else 0))
    if sent then c.onJob t fun j => { j with outl := rest } else c

/-- A cycle of TME t: at most one packet, a write before a read (R369). It waits while its injection queue is full
(R273) or no response slot is free (R275). -/
def tmeCycle (c : Chip) (t : BitVec 4) : Chip :=
  match (c.tme t).job with
  | none => c
  | some j =>
    if !(c.clusterOn t) || j.stopped || 16 ≤ (c.endp (eidTme t)).queue.length then c
    else if (match j.outl with | (r, _) :: _ => decide (r ≤ c.now) | [] => false) then c.tmeWrite t j
    else if (c.freeSlot (eidTme t)).isNone then c
    else if Tmd.skived j.desc then
      if j.outl.isEmpty && j.block < j.total && j.issued < j.need then c.tmeRead t j else c
    else if j.issued < j.total then c.tmeRead t j else c

/-- The descriptor stops: nothing more is issued (R370). -/
def tmeStop (c : Chip) (t : BitVec 4) (st : BitVec 3) : Chip :=
  c.onJob t fun j => if j.stopped then j else { j with stopped := true, status := st, outl := [] }

/-- A source line comes: written on, kept for the block, or, poisoned, the end of the descriptor (R370, R400, R404). The
header line alone settles how many lines the block takes (R401). -/
def tmeLine (c : Chip) (t : BitVec 4) (k : Nat) (l : LineRead) : Chip :=
  match (c.tme t).job with
  | none => c
  | some j =>
    if j.stopped then c
    else
      match l with
      | none => c.tmeStop t 3
      | some l =>
        let d := j.desc
        if Tmd.skived d then
          let buf := j.buf ++ [(k, l)]
          let h := fldNat ((buf.map fun b => b.2).headD 0) 0 16
          let bad := Tmd.dec d && (Skv.headerCause h (c.skvBody t (Skv.hdrTable h)).isSome).isSome
          let need := if Tmd.enc d then 8 else if !j.buf.isEmpty then j.need else if bad then 1 else Skv.linesOf (Skv.hdrLen h)
          let c := c.onJob t fun j => { j with buf := buf, need := need }
          if buf.length = need then c.post 1 (if Tmd.enc d then .skiveEncode t else .skiveDecode t) else c
        else
          let x := Tmd.dst d
          let a := placeAddr x (c.tmePlace d k)
          c.onJob t fun j => { j with outl := j.outl ++ [(c.now + 1, a, l)] }

/-- The bytes of a block's lines, in line order. -/
def blockBytes (j : TmeJob) : List Byte :=
  (List.range j.need).flatMap fun k =>
    match j.buf.find? fun b => b.1 = k with | some b => lineBytes b.2 | none => []

/-- Lines of a block to write, one per cycle from `first` on (R400). -/
def blockOut (j : TmeJob) (skivedSide : Bool) (first : Nat) (bs : List Byte) : List (Nat × Nat × Line) :=
  (List.range ((bs.length + 31) / 32)).map fun l =>
    (first + l, blockAddr j.desc (Tmd.dst j.desc) skivedSide j.block l, lineOf (bs.drop (32 * l)))

/-- The block under way is done with. -/
def nextBlock (c : Chip) (t : BitVec 4) (out : List (Nat × Nat × Line)) : Chip :=
  c.onJob t fun j => { j with
    block := j.block + 1, issued := 0, need := if Tmd.enc j.desc then 8 else 1, buf := [], outl := j.outl ++ out }

/-- A block is encoded (R387 to R393, R398 to R400). A table that a region update took away codes the block raw. -/
def skvEncode (c : Chip) (t : BitVec 4) : Chip :=
  match (c.tme t).job with
  | none => c
  | some j =>
    if j.stopped || !(Tmd.enc j.desc) || j.buf.length ≠ 8 then c
    else
      let codes := blockBytes { j with need := 8 }
      let tid := Tmd.tableId j.desc
      let (bs, raw) := match c.skvBody t tid with
        | some b => Skv.encode (Skv.table b) tid codes
        | none => (Skv.header 256 true tid ++ codes, true)
      let c := c.onTme t fun x => { x with
        blkEnc := satInc x.blkEnc
        blkRaw := if raw then satInc x.blkRaw else x.blkRaw
        bytesOut := satAdd x.bytesOut bs.length }
      c.nextBlock t (blockOut j true (c.now + 9) bs)

/-- A block is decoded, or fails (R398 to R403). -/
def skvDecode (c : Chip) (t : BitVec 4) : Chip :=
  match (c.tme t).job with
  | none => c
  | some j =>
    if j.stopped || !(Tmd.dec j.desc) || j.buf.length ≠ j.need then c
    else
      let bs := blockBytes j
      let h := numAt bs 0 2
      match Skv.decode ((c.skvBody t (Skv.hdrTable h)).map Skv.table) bs with
      | .ok qs => (c.onTme t fun x => { x with blkDec := satInc x.blkDec }).nextBlock t (blockOut j false (c.now + 5) qs)
      | .error e =>
        (c.onTme t fun x => { x with
          decErr := satInc x.decErr
          errTable := BitVec.ofNat 4 (Skv.hdrTable h)
          errCause := e }).tmeStop t 4

/-- A buckle named by a BUCKLE or ERR_BUCKLE field is fastened when the field is enabled (R371). -/
def tmeFasten (c : Chip) (t : BitVec 4) (field : Nat) : Chip :=
  if field / 2 ^ 15 = 1 then
    c.send (eidTme t) (packet 0xFFFF tBuckleOp 3 eidBuckle 4 0 (BitVec.ofNat 16 (field % 4096)) 0)
  else c

/-- A descriptor ends (R371). -/
def tmeEnd (c : Chip) (t : BitVec 4) : Chip :=
  match (c.tme t).job with
  | none => c
  | some j =>
    if !(c.tmeFinished t) then c
    else
      let c := c.onTme t fun x => { x with job := none }
      let c := c.tmeFasten t (dNum j.desc (if j.stopped then 36 else 2) 2)
      let c := c.onTme t fun x => { x with done := satInc x.done }
      if j.stopped then
        (c.onTme t fun x => { x with errSlot := j.slot, errStatus := j.status }).logFault 0x2008 (eidTme t) t.toNat
          (j.status.toNat + 256 * j.slot.toNat)
      else c

end Chip

/-! ### The rows -/

/-- MEM_TME_SUBMIT (R367, R375). -/
def execMemTmeSubmit (t : BitVec 4) (s : State) : Host.Outcome State Fault Refusal := s.run fun c => c.tmeSubmit t

/-- TME_DESCRIPTOR_PACKET (R367, R375, R738). -/
def execTmeDescriptorPacket (t : BitVec 4) (p : Packet) (s : State) : Host.Outcome State Fault Refusal :=
  s.run fun c => c.tmePacket t p

/-- TME_DESCRIPTOR_START (R368, R369, R372, R373, R397). -/
def execTmeDescriptorStart (t : BitVec 4) (s : State) : Host.Outcome State Fault Refusal := s.run fun c => c.tmeStart t

/-- TME_COMPLETE (R370, R371). -/
def execTmeComplete (t : BitVec 4) (s : State) : Host.Outcome State Fault Refusal := s.run fun c => c.tmeEnd t

/-- SKIVE_ENCODE (R387 to R393, R398, R399, R400). -/
def execSkiveEncode (t : BitVec 4) (s : State) : Host.Outcome State Fault Refusal := s.run fun c => c.skvEncode t

/-- SKIVE_DECODE (R398 to R403). -/
def execSkiveDecode (t : BitVec 4) (s : State) : Host.Outcome State Fault Refusal := s.run fun c => c.skvDecode t

end Sys2Proof.Machine
end

