-- ==== Sys2Proof/Machine/RegRead.lean ====
section
/-!
DEFINITION. Machine/RegRead.lean: BAR0 as it reads (16_regmap and the register tables of every chapter): the value at an
offset, what a read clears (R16), the snapshots of 64-bit pairs (R17), narrow and 64-bit reads (R12, R13), READY (R677).
-/
namespace Sys2Proof.Machine
open Sys2Proof

namespace Chip

/-! ### Values by block -/

/-- The low and the high half of a 64-bit value. -/
def lo32 (v : BitVec 64) : Word := v.extractLsb' 0 32
def hi32 (v : BitVec 64) : Word := v.extractLsb' 32 32

/-- One of two halves by the address. -/
def half (v : BitVec 64) (lo : Nat) (r : Nat) : Word := if r = lo then lo32 v else hi32 v

/-- GLB_STEPPING (R699). -/
def steppingWord (c : Chip) : Word := match c.glb.stepping with | .a0 => 0xA0 | .a1 => 0xA1 | .b0 => 0xB0

/-- RESET_CAUSE, HOST_ABSENT and the rest of GLB_STATUS (R690). -/
def glbStatus (c : Chip) : Word :=
  word [(16, c.glb.ddrFail.toNat), (8, c.glb.ddrReady.toNat), (6, c.glb.bootSel.toNat), (5, b1 c.glb.bootSelErr),
    (4, b1 c.glb.thermWarn), (2, c.glb.cause.toNat), (1, b1 c.glb.hostAbsent), (0, b1 c.ready)]

/-- GLB (R690, R699). -/
def glbReg (c : Chip) (r : Nat) : Word :=
  if r = 0x000 then 0x5C0A0256
  else if r = 0x004 then c.steppingWord
  else if r = 0x008 then c.glbStatus
  else if r = 0x010 then word [(0, b1 c.glb.holdDdr)]
  else if r = 0x018 then
    word [(20, c.glb.cclkMhz.toNat), (16, c.glb.satChannel.toNat), (8, c.glb.satCluster.toNat), (0, c.glb.profile.toNat)]
  else if r = 0x01C then word [(2, c.glb.profileLimit.toNat), (1, b1 c.glb.debugLock), (0, b1 c.glb.secureBoot)]
  else if r = 0x020 ∨ r = 0x024 then half c.glb.uptime 0x020 r
  else if r = 0x028 ∨ r = 0x02C then half c.glb.epoch 0x028 r
  else if r = 0x030 ∨ r = 0x034 then half c.lts 0x030 r
  else if 0x040 ≤ r ∧ r < 0x060 then word [(0, (tget 0 c.glb.temp ((r - 0x040) / 4)).toNat)]
  else if r = 0x060 then word [(16, 115), (8, c.glb.derateAt.toNat)]
  else if 0x080 ≤ r ∧ r < 0x0A0 then c.glb.keyDigest.extractLsb' (8 * (r - 0x080)) 32
  else 0

/-- ALM_STATUS (R105). -/
def almStatus (c : Chip) : Word :=
  let a := c.alm
  word [(12, a.offRun.toNat), (8, a.relock.toNat), (6, b1 (a.running && a.yearPos.toNat + 1 = a.yearLen.toNat)),
    (5, b1 a.cfgErr), (4, b1 a.inFeast), (3, b1 a.inVigil), (2, b1 a.holdover), (1, b1 a.armed), (0, b1 a.running)]

/-- ALM (R105). -/
def almReg (c : Chip) (r : Nat) : Word :=
  let a := c.alm
  if r = 0x000 then word [(2, a.startMode.toNat)]
  else if r = 0x004 then c.almStatus
  else if r = 0x008 then a.dayLen.setWidth 32
  else if r = 0x00C then a.vigilLen.setWidth 32
  else if r = 0x010 then word [(2, a.tickSub.toNat), (0, a.tickSrc.toNat)]
  else if r = 0x014 then a.tickTol.setWidth 32
  else if r = 0x018 then a.yearLen.setWidth 32
  else if r = 0x01C then a.yearPos.setWidth 32
  else if r = 0x020 ∨ r = 0x024 then half a.dayCount 0x020 r
  else if r = 0x028 then a.early
  else if r = 0x02C then a.late
  else if r = 0x030 then a.holdCnt
  else if r = 0x034 then a.gen.setWidth 32
  else if r = 0x038 then a.tickOffset
  else if r = 0x03C then word [(16, a.overCount.toNat), (0, a.overTile.toNat)]
  else if r = 0x040 then a.planCur.setWidth 32
  else if r = 0x044 then a.genLast.setWidth 32
  else 0

/-- HNS_STATUS (R153). -/
def hnsStatus (c : Chip) : Word :=
  let h := c.hns
  word [(16, h.failStatus.toNat), (8, h.failStep.toNat), (6, h.source.toNat), (5, b1 h.signed), (4, b1 c.glb.secureBoot),
    (3, b1 h.sealed), (2, b1 h.busy), (0, b1 h.loaded)]

/-- HNS_REGION_STATES (R700). -/
def regionStates (c : Chip) (q : Nat) : Word :=
  word ((List.range 16).map fun m => (2 * m, (c.region (BitVec.ofNat 6 (16 * q + m))).state.toNat))

/-- HNS (R153, R700). -/
def hnsReg (c : Chip) (r : Nat) : Word :=
  if r = 0x004 then c.hnsStatus
  else if r = 0x008 ∨ r = 0x00C then half c.hns.id 0x008 r
  else if 0x020 ≤ r ∧ r < 0x040 then c.hns.digest.extractLsb' (8 * (r - 0x020)) 32
  else if r = 0x040 then word [(0, b1 c.hns.sealed)]
  else if 0x080 ≤ r ∧ r < 0x090 then c.regionStates ((r - 0x080) / 4)
  else if 0x100 ≤ r ∧ r < 0x200 then
    let x := c.region (BitVec.ofNat 6 ((r - 0x100) / 4))
    word [(16, x.id16.toNat), (0, x.state.toNat)]
  else if 0x200 ≤ r ∧ r < 0x300 then (c.region (BitVec.ofNat 6 ((r - 0x200) / 4))).day
  else 0

/-- BKL (R618). -/
def bklReg (c : Chip) (r : Nat) : Word :=
  if 0x8000 ≤ r then 0
  else
    let b := c.buckle (BitVec.ofNat 12 (r / 8))
    if r % 8 = 0 then b.count.setWidth 32
    else word [(17, b1 b.under), (16, b1 b.sat), (8, b.vector.toNat), (0, b1 b.notify)]

/-- The EID has a VC1 source (R272, R288). -/
def hasSource (c : Chip) (e : Eid) : Bool := isEdgeEid e && !(c.unassigned e)

/-- Free response slots of a source. -/
def freeSlots (x : Endp) : Nat := 32 - (x.slots.filter fun s => s.2.busy).length

/-- FAB_THR (R288). -/
def fabThr (c : Chip) (e : Eid) : Word :=
  if c.hasSource e then
    let x := c.endp e
    word [(16, x.halvings.toNat), (8, vc1Depth x), (0, freeSlots x)]
  else 0

/-- FAB_THR_LEVEL (R288). -/
def fabLevel (c : Chip) (e : Eid) : Word := if c.hasSource e then (c.endp e).level.setWidth 32 else 0

/-- FAB_STATUS (R288). -/
def fabStatus (c : Chip) : Word :=
  let f := c.fab
  word [(3, b1 f.rspTimeout), (2, b1 f.vc0Stall), (1, b1 f.drop), (0, b1 (f.ends.any fun x => x.2.level ≠ 0))]

/-- FAB (R288). -/
def fabReg (c : Chip) (r : Nat) : Word :=
  let f := c.fab
  if r = 0x000 then word [(0, b1 f.check)]
  else if r = 0x004 then c.fabStatus
  else if r = 0x008 then f.limit.setWidth 32
  else if r = 0x00C then f.days.setWidth 32
  else if r = 0x010 then f.dropType
  else if r = 0x014 then f.dropEid
  else if r = 0x018 then f.dropField
  else if r = 0x01C then f.dropChip
  else if r = 0x020 then f.stallCnt
  else if r = 0x024 then f.rxqDrop
  else if r = 0x028 then f.lateRsp
  else if 0x030 ≤ r ∧ r < 0x040 then f.lastDrop.extractLsb' (8 * (r - 0x030)) 32
  else if 0x100 ≤ r ∧ r < 0x200 then c.fabThr (BitVec.ofNat 9 (0x100 + (r - 0x100) / 4))
  else if 0x200 ≤ r ∧ r < 0x300 then c.fabLevel (BitVec.ofNat 9 (0x100 + (r - 0x200) / 4))
  else 0

/-- ARB_STATUS.DRAINED (R366). -/
def drained (c : Chip) (k : BitVec 3) : Bool := (c.chan k).freeze && (c.chan k).inFlight.isEmpty

/-- The registers of channel k (R378). -/
def chanReg (c : Chip) (k : BitVec 3) (r : Nat) : Word :=
  let x := c.chan k
  if !(c.chanOn k) then 0
  else if r = 0x000 then x.arbMode.setWidth 32
  else if r = 0x004 then word [(0, b1 x.freeze)]
  else if r = 0x008 then word [(16, b1 (c.drained k)), (8, c.tagsFree k), (0, x.inFlight.length)]
  else if r = 0x00C then word [(0, b1 x.dbgPre)]
  else if r = 0x010 then word [(16, c.derateNow k), (0, (BitVec.ofInt 16 (c.debtOf k 0)).toNat)]
  else if r = 0x014 then x.eccCorr
  else if r = 0x018 then x.eccUncorr
  else if r = 0x01C then x.emergCnt
  else if r = 0x020 then x.skipCnt
  else if 0x040 ≤ r ∧ r < 0x050 then
    let a := c.arbClass k ((r - 0x040) / 4)
    word [(16, a.losses.toNat), (8, a.n.toNat), (4, a.age.toNat)]
  else if 0x800 ≤ r ∧ r < 0x1000 then (tget 0 x.win ((r - 0x800) / 4)).setWidth 32
  else 0

/-- The registers of TME t (R378). -/
def tmeReg (c : Chip) (t : BitVec 4) (r : Nat) : Word :=
  let x := c.tme t
  if !(c.clusterOn t) then 0
  else if r < 0x040 then tget 0 x.regs (r / 4)
  else if r = 0x044 then word [(8, x.result.toNat), (0, 32 - c.tmeUsed t)]
  else if r = 0x048 then word [(8, x.errSlot.toNat), (0, x.errStatus.toNat)]
  else if r = 0x04C then x.done
  else 0

/-- MEM (R378). -/
def memReg (c : Chip) (r : Nat) : Word :=
  if r < 0x80000 then c.chanReg (BitVec.ofNat 3 (r / 0x10000)) (r % 0x10000)
  else if 0x90000 ≤ r ∧ r < 0xA0000 then c.tmeReg (BitVec.ofNat 4 ((r - 0x90000) / 0x1000)) (r % 0x1000)
  else 0

/-- Engines in flight (R427). -/
def inFlightOf (c : Chip) (us : List Nat) : Nat := (us.filter fun u => c.now < u).length

/-- Word n of the item that KVW_DIR_SEL selects, as it stands (R471). A list slot that no page holds is free (log 48). -/
def dirData (c : Chip) (w : BitVec 4) (n : Nat) : Word :=
  let x := c.walker w
  let i := x.dirIndex.toNat
  if x.dirSpace = 0 then
    match c.kvClassOf w i with
    | some r => BitVec.ofNat 32 (numAt (Kv.descBytes r.body (c.kvDesc w i)) (4 * n) 4)
    | none => if i < 256 then BitVec.ofNat 32 (numAt (Kv.descBytes [] (c.kvDesc w i)) (4 * n) 4) else 0
  else if x.dirSpace = 3 then 0
  else
    let slot := 8 * i + n
    let page := (c.kvClasses w).findSome? fun r =>
      let b := Kv.budget r.body
      if Kv.listFirst r.body ≤ slot && slot < Kv.listFirst r.body + Kv.descCount r.body * b then
        let d := c.kvDesc w (Kv.descFirst r.body + (slot - Kv.listFirst r.body) / b)
        let k := ((slot - Kv.listFirst r.body) % b + b - d.head.toNat % b) % b
        d.pages[k]?
      else none
    match page with
    | some p => if x.dirSpace = 1 then Kv.entry p else Kv.side p
    | none => Config.freeBits 32 c.free

/-- KVW (R471, R701). -/
def kvwReg (c : Chip) (w : BitVec 4) (r : Nat) : Word :=
  let x := c.walker w
  if !(c.clusterOn w) then 0
  else if r = 0x000 then
    word [(16, c.inFlightOf x.unschedBusy), (8, c.inFlightOf x.plannedBusy), (0, x.moves.length)]
  else if r = 0x004 then x.ops
  else if r = 0x008 then x.labHits
  else if r = 0x00C then x.planLate
  else if r = 0x010 then x.movesDone
  else if r = 0x014 then x.evtDrop
  else if r = 0x020 ∨ r = 0x024 then half x.evtBase 0x020 r
  else if r = 0x028 then x.evtSize.setWidth 32
  else if r = 0x02C then x.evtProd.setWidth 32
  else if r = 0x030 then x.evtCons.setWidth 32
  else if r = 0x040 then word [(30, x.dirSpace.toNat), (0, x.dirIndex.toNat)]
  else if 0x044 ≤ r ∧ r < 0x064 then c.dirData w ((r - 0x044) / 4)
  else 0

/-- CMP (R405). -/
def cmpReg (c : Chip) (t : BitVec 4) (r : Nat) : Word :=
  let x := c.tme t
  if !(c.clusterOn t) then 0
  else if r = 0x000 then x.blkEnc
  else if r = 0x004 then x.blkRaw
  else if r = 0x008 then x.bytesOut
  else if r = 0x00C then x.blkDec
  else if r = 0x010 then x.decErr
  else if r = 0x014 then word [(8, x.errTable.toNat), (0, x.errCause.toNat)]
  else if r = 0x018 then word ((List.range 16).map fun k => (k, b1 (c.skvBody t k).isSome))
  else if 0x100 ≤ r ∧ r < 0x200 then
    match c.skvBody t ((r - 0x100) / 16) with
    | some b => BitVec.ofNat 32 (numAt b (r % 16) 4)
    | none => 0
  else 0

/-- The registers of I2S port p (R524 Table 9). -/
def audPortReg (c : Chip) (p : Fin 8) (r : Nat) : Word :=
  let x := c.audPort p
  if !(c.audOn p) then 0
  else if r = 0x00 then word [(0, b1 x.run)]
  else if r = 0x04 then word [(3, b1 x.gapBit), (2, b1 x.underrun), (1, b1 x.range), (0, b1 x.running)]
  else if r = 0x08 then x.div.setWidth 32
  else if r = 0x0C then x.frac.setWidth 32
  else if r = 0x10 then x.ratio
  else if r = 0x14 then x.gain.setWidth 32
  else if r = 0x18 then x.dropIn
  else if r = 0x1C then x.fillOut
  else if r = 0x20 then x.underCnt
  else if r = 0x24 then word [(16, x.levelSeq.toNat), (0, x.levelPeak.toNat)]
  else 0

/-- AUD (R524). -/
def audReg (c : Chip) (r : Nat) : Word :=
  if h : r / 0x100 < 8 then c.audPortReg ⟨r / 0x100, h⟩ (r % 0x100)
  else if r = 0x800 ∨ r = 0x804 then half c.aud.startAt 0x800 r
  else if r = 0x808 then word [(17, b1 c.aud.missed), (16, b1 c.aud.armed), (0, c.aud.mask.toNat)]
  else 0

/-- The registers of fronthaul port q (R563). -/
def fhPortReg (c : Chip) (q : Fin 2) (r : Nat) : Word :=
  let x := c.fhPort q
  let b := match c.findRec 0x0D 0 q.val with | some y => y.body | none => []
  if r = 0x00 then word [(8, b1 x.linkUp), (1, b1 (Fh.rate b)), (0, b1 (Fh.enabled b))]
  else if r = 0x04 then word [(16, Fh.spsLog2 b), (0, x.dayOfs.toNat)]
  else if 0x08 ≤ r ∧ r < 0x40 then tget 0 x.counters ((r - 0x08) / 4)
  else 0

/-- FHE (R563). -/
def fheReg (c : Chip) (r : Nat) : Word :=
  if c.satchel then 0
  else if h : r / 0x100 < 2 then c.fhPortReg ⟨r / 0x100, h⟩ (r % 0x100)
  else if 0x400 ≤ r ∧ r < 0x500 then
    let x := c.fhRing (BitVec.ofNat 3 ((r - 0x400) / 0x20))
    let k := r % 0x20
    if k = 0x00 ∨ k = 0x04 then half x.base 0x00 k
    else if k = 0x08 then x.size.setWidth 32
    else if k = 0x0C then x.prod.setWidth 32
    else if k = 0x10 then x.cons.setWidth 32
    else 0
  else if r = 0x800 then c.fhe.tsNs
  else if r = 0x804 then c.fhe.tsS.extractLsb' 0 32
  else if r = 0x808 then word [(0, fldNat c.fhe.tsS 32 16)]
  else 0

/-- The PCIe completion ring has no free entry (R586, R620). -/
def cplFull (c : Chip) : Bool :=
  2 ^ c.hif.cplSize.toNat ≤ ahead16 c.hif.cplProd c.hif.cplCons && ringLog c.hif.cplSize.toNat 4 12

/-- A command of the PCIe ring is in progress (R603). -/
def pcieBusy (c : Chip) : Bool :=
  (c.hif.waiting.any fun w => w.1 = .pcie) || (c.bkl.waits ++ c.bkl.remote).any (fun w => w.src = .pcie) ||
    c.cns.pending.any fun l => match l.answer with | some (s, _) => s = .pcie | none => false

/-- HIF_STATUS (R618). -/
def hifStatus (c : Chip) : Word :=
  let h := c.hif
  word [(11, b1 h.prodErr), (10, b1 c.cplFull), (9, b1 c.pcieBusy), (8, b1 h.linkUp), (4, h.width.toNat), (0, h.speed.toNat)]

/-- HIF and MSI-X (R579, R618). -/
def hifReg (c : Chip) (r : Nat) : Word :=
  let h := c.hif
  if r = 0x000 then word [(2, b1 h.dayIrq), (1, b1 h.resync), (0, b1 h.cmdEn)]
  else if r = 0x004 then c.hifStatus
  else if r = 0x010 ∨ r = 0x014 then half h.cmdBase 0x010 r
  else if r = 0x018 then h.cmdSize.setWidth 32
  else if r = 0x01C then h.cmdProd.setWidth 32
  else if r = 0x020 then h.cmdCons.setWidth 32
  else if r = 0x030 ∨ r = 0x034 then half h.cplBase 0x030 r
  else if r = 0x038 then h.cplSize.setWidth 32
  else if r = 0x03C then h.cplProd.setWidth 32
  else if r = 0x040 then h.cplCons.setWidth 32
  else if r = 0x050 then h.window.setWidth 32
  else if r = 0x060 then h.refused
  else if r = 0x064 then h.poison
  else if r = 0x068 then h.badTlp
  else if r = 0x06C then c.bkl.badOp
  else if 0x10000 ≤ r ∧ r < 0x10400 then (tget msixMasked h.msix ((r - 0x10000) / 16)).extractLsb' (8 * (r % 16)) 32
  else if r = 0x11000 ∨ r = 0x11004 then half h.pba 0x11000 r
  else 0

/-- The registers of link n (R333). -/
def linkReg (c : Chip) (n : Fin 6) (r : Nat) : Word :=
  let x := c.link n
  if r = 0x00 then word [(0, b1 x.enable)]
  else if r = 0x04 then
    word [(16, x.peer.toNat), (13, x.cause.toNat), (12, b1 x.degraded), (8, x.state.toNat), (6, x.width.toNat),
      (0, x.lanesOk.toNat)]
  else if r = 0x08 then x.markOffset
  else if r = 0x0C then x.delay
  else if r = 0x10 then x.fecCorr
  else if r = 0x14 then x.fecUncorr
  else if r = 0x18 then x.lost
  else if r = 0x1C then x.crcDrop
  else if r = 0x20 then x.downDrop
  else if r = 0x24 then x.badFrame
  else if r = 0x28 then x.trainCnt
  else 0

/-- UML (R333). -/
def umlReg (c : Chip) (r : Nat) : Word :=
  if c.satchel then 0
  else if h : r / 0x100 < 6 then c.linkReg ⟨r / 0x100, h⟩ (r % 0x100)
  else if r = 0x800 then word [(16, b1 c.uml.root), (0, c.uml.skew.toNat)]
  else 0

/-- A census bank. -/
def cnsBank (c : Chip) (b : BitVec 2) : CBank := tget CBank.init c.cns.banks b.toNat

/-- The bank that the next latch takes (R631). -/
def nextBank (c : Chip) : Option (BitVec 2) :=
  ([1, 2, 3, 4].map fun k => c.cns.last + BitVec.ofNat 2 k).find? fun b => !(c.cnsBank b).full

/-- CNS_ARM slot a. -/
def arm (c : Chip) (a : BitVec 2) : Arm := tget Arm.init c.cns.arms a.toNat

/-- CNS_STATUS (R657). With every bank full, NEXT shows the bank after the last one used. -/
def cnsStatus (c : Chip) : Word :=
  let banks : List (BitVec 2) := [0, 1, 2, 3]
  let armed := (banks.filter fun a => (c.arm a).state ≠ 0).length
  word [(9, armed), (8, b1 (banks.any fun b => (c.cnsBank b).full && !(c.cnsBank b).valid)),
    (4, (c.nextBank.getD (c.cns.last + 1)).toNat),
    (0, (banks.map fun b => b1 (c.cnsBank b).full * 2 ^ b.toNat).sum)]

/-- CNS and the banks (R657). -/
def cnsReg (c : Chip) (r : Nat) : Word :=
  let k := c.cns
  if r = 0x000 then
    word [(8, k.faultMask.toNat), (3, b1 k.bcastEn), (2, b1 k.spill), (1, b1 k.drive), (0, b1 k.pinEn)]
  else if r = 0x004 then c.cnsStatus
  else if r = 0x00C then k.seq
  else if r = 0x010 then k.missed
  else if r = 0x014 then k.late
  else if r = 0x018 then k.dup
  else if r = 0x020 then k.spillLo
  else if r = 0x024 then word [(8, k.spillChan.toNat), (0, b1 k.spillA32)]
  else if r = 0x028 then k.spillSize.setWidth 32
  else if r = 0x02C then k.spillProd.setWidth 32
  else if r = 0x030 then k.spillCons.setWidth 32
  else if 0x040 ≤ r ∧ r < 0x080 then
    let a := c.arm (BitVec.ofNat 2 ((r - 0x040) / 16))
    match r % 16 / 4 with
    | 0 => lo32 a.target
    | 1 => hi32 a.target
    | 2 => a.state.setWidth 32
    | _ => a.origin.setWidth 32
  else if 0x10000 ≤ r ∧ r < 0x50000 then
    tget 0 (c.cnsBank (BitVec.ofNat 2 (r / 0x10000 - 1))).words (r % 0x10000 / 4)
  else 0

/-- FLT_STATUS (R657). -/
def fltStatus (c : Chip) : Word :=
  word [(11, b1 c.flt.fatal), (10, b1 c.faultN), (9, b1 (256 ≤ c.unacked)), (0, c.unacked % 512)]

/-- FLT and the log (R646, R657). -/
def fltReg (c : Chip) (r : Nat) : Word :=
  let f := c.flt
  if r = 0x000 then word [(16, f.fwdChip.toNat), (8, f.fwdMask.toNat), (0, f.pinMask.toNat)]
  else if r = 0x004 then c.fltStatus
  else if r = 0x008 then f.head.setWidth 32
  else if r = 0x00C then f.tail.setWidth 32
  else if 0x010 ≤ r ∧ r < 0x024 then tget 0 f.counts ((r - 0x010) / 4 + 1)
  else if r = 0x030 then f.overflow
  else if r = 0x034 then f.fwdDrop
  else if 0x1000 ≤ r ∧ r < 0x3000 then
    BitVec.ofNat 32 (numAt (entryBytes (tget FltEntry.init f.log ((r - 0x1000) / 32))) (r % 32) 4)
  else 0

/-- The stream is one the profile enables (R684). -/
def streamOn (c : Chip) (s : BitVec 12) : Bool := !c.satchel || s.toNat < 16

/-- The 16 bytes of a Session Table entry (R489 Table 3). ADAPT shows from the day it is in force (R593). -/
def sessionBytes (c : Chip) (i : BitVec 10) : List Byte :=
  let x := c.session i
  let shown := x.adapt && x.adaptDay.toNat ≤ c.alm.dayCount.toNat
  [BitVec.ofNat 8 x.state.toNat, BitVec.ofNat 8 (b1 shown + 2 * b1 x.ended)] ++ leBytes 2 x.cls.toNat ++
    leBytes 4 x.bindDay.toNat ++ leBytes 4 x.closeDay.toNat ++ leBytes 4 x.cookie.toNat

/-- The registers of stream s (R524 Table 8). -/
def streamReg (c : Chip) (s : BitVec 12) (r : Nat) : Word :=
  let x := c.stream s
  if !(c.streamOn s) then 0
  else if r = 0x00 ∨ r = 0x04 then half x.base 0x00 r
  else if r = 0x08 then x.size.setWidth 32
  else if r = 0x0C then x.prod.setWidth 32
  else if r = 0x10 then x.cons.setWidth 32
  else if r = 0x14 then x.gain.setWidth 32
  else if r = 0x18 then x.sat
  else if r = 0x1C then x.missed
  else 0

/-- Stream s is an output stream of the plan in force. -/
def outStream (c : Chip) (s : BitVec 12) : Bool := match c.streamPlan s with | some (e, _) => isOutput e | none => false

/-- SFE (R524). -/
def sfeReg (c : Chip) (r : Nat) : Word :=
  if r < 0x300 then
    if r % 0x100 / 4 < 49 then (Config.fir (r / 0x100) (r % 0x100 / 4)).setWidth 32 else 0
  else if 0x10000 ≤ r ∧ r < 0x30000 then c.streamReg (BitVec.ofNat 12 ((r - 0x10000) / 32)) (r % 32)
  else if 0x40000 ≤ r ∧ r < 0x44000 then
    let i := (r - 0x40000) / 16
    if c.satchel && 4 ≤ i then 0 else BitVec.ofNat 32 (numAt (c.sessionBytes (BitVec.ofNat 10 i)) (r % 16) 4)
  else if 0x50000 ≤ r ∧ r < 0x54000 then
    let s : BitVec 12 := BitVec.ofNat 12 ((r - 0x50000) / 4)
    if c.streamOn s && c.outStream s then (c.stream s).outUnder else 0
  else 0

/-- TILE_STATUS of a tile that is on (R199). -/
def tileStatus (x : Tile) : Word :=
  let waits := x.recvWait.isSome || match x.hold with | .wait .. => true | _ => false
  word [(12, b1 x.conflict), (11, b1 x.illegal), (10, b1 x.clip), (9, b1 x.eqOvf), (8, b1 x.eqEmpty), (4, b1 x.loose),
    (2, b1 waits), (1, b1 x.gated), (0, b1 x.inSection)]

/-- The registers of tile t (R199, R236). -/
def tileReg (c : Chip) (t : TileId) (r : Nat) : Word :=
  let x := c.tile t
  if c.tileOff t then (if r = 0x004 then 8 else 0)
  else if r = 0x000 then word [(0, b1 x.check)]
  else if r = 0x004 then tileStatus { x with gated := x.gated || c.glb.tripped }
  else if r = 0x008 then x.pc.setWidth 32
  else if r = 0x00C then word [(16, x.satAcc.toNat), (0, x.satRq.toNat)]
  else if r = 0x010 then x.conflictCnt
  else if r = 0x014 then x.clipCnt
  else if r = 0x018 then x.skipCnt
  else if r = 0x01C then x.statCtl.setWidth 32
  else if r = 0x020 ∨ r = 0x024 then half x.statLts 0x020 r
  else if r = 0x028 then
    word [(16, x.statGen.toNat), (4, x.statDays.toNat), (3, b1 x.statShort), (2, b1 x.statOvr), (1, b1 x.statMixed),
      (0, b1 x.statValid)]
  else if r = 0x02C then x.statSeq
  else if 0x8000 ≤ r ∧ r < 0xA000 then half (tget 0 x.ct ((r - 0x8000) / 8)) 0 (r % 8)
  else if 0xA000 ≤ r ∧ r < 0xC000 then
    let n := (r - 0xA000) / 8
    let v := tget 0 x.recPre n
    if r % 8 = 0 then v.extractLsb' 0 32 else word [(8, (tget 0 x.recPost n).toNat), (0, fldNat v 32 8)]
  else if 0xC000 ≤ r ∧ r < 0xD000 then
    BitVec.ofNat 32 (leNat ((List.range 4).map fun b => tget 0 x.lut (r - 0xC000 + b)))
  else 0

/-! ### BAR0 (R15, R677, R696) -/

/-- The register at a word-aligned offset, as it reads without its side effects and snapshots. -/
def peekUp (c : Chip) (o : Nat) : Word :=
  let r := o % 0x100000
  match o / 0x100000 with
  | 0x0 => c.glbReg r
  | 0x1 => c.almReg r
  | 0x2 => c.hnsReg r
  | 0x3 => c.bklReg r
  | 0x4 => c.fabReg r
  | 0x5 => c.memReg r
  | 0x6 => if r < 0x10000 then c.kvwReg (BitVec.ofNat 4 (r / 0x1000)) (r % 0x1000) else 0
  | 0x7 => if r < 0x10000 then c.cmpReg (BitVec.ofNat 4 (r / 0x1000)) (r % 0x1000) else 0
  | 0x8 => c.audReg r
  | 0x9 => c.fheReg r
  | 0xA => c.hifReg r
  | 0xB => c.umlReg r
  | 0xC => c.cnsReg r
  | 0xD => c.fltReg r
  | 0xE => c.sfeReg r
  | 0xF => 0
  | _ => if o < 0x2000000 then c.tileReg (BitVec.ofNat 8 (o / 0x10000)) (o % 0x10000) else 0

/-- The same under R677: three registers read while READY is 0. -/
def peek (c : Chip) (o : Nat) : Word := if c.ready || o = 0x000 || o = 0x004 || o = 0x008 then c.peekUp o else 0

/-! ### What a read does (R16, R17) -/

/-- The low halves of 64-bit pairs (R17), a range of offsets with the distance between pairs. -/
def loPairs : List (Nat × Nat × Nat) :=
  [(0x000020, 0x000020, 8), (0x000028, 0x000028, 8), (0x000030, 0x000030, 8), (0x100020, 0x100020, 8), (0x200008, 0x200008, 8),
   (0x800800, 0x800800, 8), (0x900804, 0x900804, 8), (0xA00010, 0xA00010, 8), (0xA00030, 0xA00030, 8),
   (0xC00020, 0xC00020, 8)] ++
  [(0x600020, 0x60F020, 0x1000), (0x900400, 0x9004E0, 0x20), (0xE10000, 0xE2FFE0, 32)]

/-- The offset is the low half of a pair. -/
def isLo (o : Nat) : Bool :=
  (loPairs.any fun x => x.1 ≤ o && o ≤ x.2.1 && (o - x.1) % x.2.2 = 0) ||
  (0x1000000 ≤ o && o < 0x2000000 &&
    (o % 0x10000 = 0x0020 || (0x8000 ≤ o % 0x10000 && o % 0x10000 < 0xC000 && o % 8 = 0)))

/-- The offset is the high half of a pair: its low half lies just below. -/
def isHi (o : Nat) : Bool := 4 ≤ o && isLo (o - 4)

/-- Fields with access RC that a 32-bit read at a word offset clears. -/
def rcClear (c : Chip) (o : Nat) : Chip :=
  let r := o % 0x100000
  match o / 0x100000 with
  | 0x4 =>
    if 0x100 ≤ r ∧ r < 0x200 then
      let e : Eid := BitVec.ofNat 9 (0x100 + (r - 0x100) / 4)
      if c.hasSource e then c.onEndp e fun x => { x with halvings := 0 } else c
    else c.onFab fun f => match r with
      | 0x010 => { f with dropType := 0 }
      | 0x014 => { f with dropEid := 0 }
      | 0x018 => { f with dropField := 0 }
      | 0x01C => { f with dropChip := 0 }
      | 0x020 => { f with stallCnt := 0 }
      | 0x024 => { f with rxqDrop := 0 }
      | 0x028 => { f with lateRsp := 0 }
      | _ => f
  | 0x5 =>
    if r < 0x80000 then
      let k : BitVec 3 := BitVec.ofNat 3 (r / 0x10000)
      let q := r % 0x10000
      if !(c.chanOn k) then c
      else if 0x040 ≤ q ∧ q < 0x050 then c.onClass k ((q - 0x040) / 4) fun a => { a with losses := 0 }
      else c.onChan k fun x => match q with
        | 0x014 => { x with eccCorr := 0 }
        | 0x018 => { x with eccUncorr := 0 }
        | 0x01C => { x with emergCnt := 0 }
        | 0x020 => { x with skipCnt := 0 }
        | _ => x
    else if 0x90000 ≤ r ∧ r < 0xA0000 ∧ r % 0x1000 = 0x04C then
      let t : BitVec 4 := BitVec.ofNat 4 ((r - 0x90000) / 0x1000)
      if c.clusterOn t then c.onTme t fun x => { x with done := 0 } else c
    else c
  | 0x6 =>
    if r < 0x10000 then
      let w : BitVec 4 := BitVec.ofNat 4 (r / 0x1000)
      if !(c.clusterOn w) then c
      else c.onWalker w fun x => match r % 0x1000 with
        | 0x004 => { x with ops := 0 }
        | 0x008 => { x with labHits := 0 }
        | 0x00C => { x with planLate := 0 }
        | 0x010 => { x with movesDone := 0 }
        | 0x014 => { x with evtDrop := 0 }
        | _ => x
    else c
  | 0x7 =>
    if r < 0x10000 then
      let t : BitVec 4 := BitVec.ofNat 4 (r / 0x1000)
      if !(c.clusterOn t) then c
      else c.onTme t fun x => match r % 0x1000 with
        | 0x000 => { x with blkEnc := 0 }
        | 0x004 => { x with blkRaw := 0 }
        | 0x008 => { x with bytesOut := 0 }
        | 0x00C => { x with blkDec := 0 }
        | 0x010 => { x with decErr := 0 }
        | _ => x
    else c
  | 0x8 =>
    if h : r / 0x100 < 8 then
      if !(c.audOn ⟨r / 0x100, h⟩) then c
      else c.onAud ⟨r / 0x100, h⟩ fun x => match r % 0x100 with
        | 0x18 => { x with dropIn := 0 }
        | 0x1C => { x with fillOut := 0 }
        | 0x20 => { x with underCnt := 0 }
        | _ => x
    else c
  | 0x9 =>
    if h : r / 0x100 < 2 then
      let k := r % 0x100
      if c.satchel || k < 0x08 || 0x40 ≤ k then c
      else c.onFh ⟨r / 0x100, h⟩ fun p => { p with counters := tput 0 p.counters ((k - 0x08) / 4) 0 }
    else c
  | 0xA =>
    match r with
    | 0x060 => c.onHif fun h => { h with refused := 0 }
    | 0x064 => c.onHif fun h => { h with poison := 0 }
    | 0x068 => c.onHif fun h => { h with badTlp := 0 }
    | 0x06C => c.onBkl fun k => { k with badOp := 0 }
    | _ => c
  | 0xB =>
    if h : r / 0x100 < 6 then
      if c.satchel then c
      else c.onLink ⟨r / 0x100, h⟩ fun l => match r % 0x100 with
        | 0x10 => { l with fecCorr := 0 }
        | 0x14 => { l with fecUncorr := 0 }
        | 0x18 => { l with lost := 0 }
        | 0x1C => { l with crcDrop := 0 }
        | 0x20 => { l with downDrop := 0 }
        | 0x24 => { l with badFrame := 0 }
        | 0x28 => { l with trainCnt := 0 }
        | _ => l
    else c
  | 0xC => c.onCns fun k => match r with
      | 0x010 => { k with missed := 0 }
      | 0x014 => { k with late := 0 }
      | 0x018 => { k with dup := 0 }
      | _ => k
  | 0xD =>
    c.onFlt fun f =>
      if 0x010 ≤ r ∧ r < 0x024 then { f with counts := tput 0 f.counts ((r - 0x010) / 4 + 1) 0 }
      else match r with
        | 0x030 => { f with overflow := 0 }
        | 0x034 => { f with fwdDrop := 0 }
        | _ => f
  | 0xE =>
    if 0x10000 ≤ r ∧ r < 0x30000 then
      let s : BitVec 12 := BitVec.ofNat 12 ((r - 0x10000) / 32)
      if !(c.streamOn s) then c
      else c.onStream s fun x => match r % 32 with
        | 0x18 => { x with sat := 0 }
        | 0x1C => { x with missed := 0 }
        | _ => x
    else if 0x50000 ≤ r ∧ r < 0x54000 then
      let s : BitVec 12 := BitVec.ofNat 12 ((r - 0x50000) / 4)
      if c.streamOn s && c.outStream s then c.onStream s fun x => { x with outUnder := 0 } else c
    else c
  | 0x0 => c
  | 0x1 => c
  | 0x2 => c
  | 0x3 => c
  | 0xF => c
  | _ =>
    let t : TileId := BitVec.ofNat 8 (o / 0x10000)
    if c.tileOff t || 0x2000000 ≤ o then c
    else c.onTile t fun x => match o % 0x10000 with
      | 0x00C => { x with satAcc := 0, satRq := 0 }
      | 0x010 => { x with conflictCnt := 0 }
      | 0x014 => { x with clipCnt := 0 }
      | 0x018 => { x with skipCnt := 0 }
      | _ => x

/-- The place of a pair's snapshot for a port (R17). -/
def snapKey (p : Port) (lo : Nat) : Nat := 4 * lo + (match p with | .pcie => 0 | .i3c => 1 | .jtag => 2 | .umaed => 3)

/-- A 32-bit read of a word offset by a port: its value, and the chip after it (R15, R16, R17, R677). -/
def read32 (c : Chip) (p : Port) (o : Nat) : Word × Chip :=
  if !c.ready then (c.peek o, c)
  else
    let v := if isHi o then tget 0 c.hif.snaps (snapKey p (o - 4)) else c.peek o
    let c := if isLo o then c.onHif fun h => { h with snaps := tput 0 h.snaps (snapKey p o) (c.peek (o + 4)) } else c
    let drew := o / 0x100000 = 0x6 ∧ 0x044 ≤ o % 0x1000 ∧ o % 0x1000 < 0x064
    (v, if drew then { c with free := c.free + 1 } else c.rcClear o)

/-- A read of `size` bytes, 1 to 4 (R12): every register it touches is read, the lower address first. -/
def readSpan (c : Chip) (p : Port) (off size : Nat) : BitVec 64 × Chip :=
  let first := off / 4 * 4
  let (v0, c) := c.read32 p first
  if off + size ≤ first + 4 then (BitVec.ofNat 64 (v0.toNat / 256 ^ (off - first) % 256 ^ size), c)
  else
    let (v1, c) := c.read32 p (first + 4)
    (BitVec.ofNat 64 ((v0.toNat + v1.toNat * 2 ^ 32) / 256 ^ (off - first) % 256 ^ size), c)

/-- A read of `size` bytes: one of 8 is two of 4, the lower address first, wherever it lies (R12, R13). -/
def readBar0 (c : Chip) (p : Port) (off size : Nat) : BitVec 64 × Chip :=
  if size = 8 then
    let (v0, c) := c.readSpan p off 4
    let (v1, c) := c.readSpan p (off + 4) 4
    (v0 ||| (v1 <<< 32), c)
  else c.readSpan p off size

/-- A BAR0 read is answered (R572). -/
def answerRead (c : Chip) (p : Port) (off : BitVec 25) (size : BitVec 4) : Chip :=
  let (v, c) := c.readBar0 p off.toNat size.toNat
  c.emit (.bar0 p off v)

end Chip

/-! ### The rows -/

/-- RC_READ (R12, R13, R15, R16, R677, R706): a BAR0 read; RC fields of the registers it touches clear. -/
def execRcRead (p : Port) (off : BitVec 25) (size : BitVec 4) (s : State) : Host.Outcome State Fault Refusal :=
  s.run fun c => c.answerRead p off size

/-- LO_HALF_READ (R12, R13, R17): a BAR0 read; the low half of a pair snapshots its high half for the port. -/
def execLoHalfRead (p : Port) (off : BitVec 25) (size : BitVec 4) (s : State) : Host.Outcome State Fault Refusal :=
  s.run fun c => c.answerRead p off size

end Sys2Proof.Machine
end

