-- ==== Sys2Proof/Machine/HostPorts.lean ====
section
/-!
DEFINITION. Machine/HostPorts.lean: the ports a host reaches the chip by (13_host): BAR2 and BAR4 TLPs, the PCIe link and
its configuration space, FLR, the I3C target, the JTAG port. Commands that arrive here wait in `Hif.waiting` for the
command processor.
-/
namespace Sys2Proof.Machine
open Sys2Proof

namespace Chip

/-- A reset holds the chip: its ports are dead (R670, R671, R673). -/
def inReset (c : Chip) : Bool := match c.glb.phase with | .held => true | _ => false

/-! ### Configuration space (R570 Table 1, R571 Table 2) -/

/-- What the two tables fix of the word at a byte offset, as a mask and a value: the header with its BARs, the PCI Express
capability, the MSI-X capability, laid out as the PCIe Base Specification has them (log 17). A BAR keeps the address bits
above its size; the offset of either capability is free. -/
def cfgFixed (c : Chip) (off : Nat) : Word × Word :=
  let w : Word := tget 0 c.hif.cfg (off / 4)
  let all : Word := 0xFFFFFFFF
  let known : List (Nat × Word × Word) :=
    [(0x0C, 0x00FF0000, 0), (0x10, all, w &&& 0xFE000000), (0x14, all, 0), (0x18, all, (w &&& 0xF8000000) ||| 0x4),
     (0x1C, all, w), (0x20, all, 0xC), (0x24, all, w &&& 0xFFFFFFFC), (0x30, all, 0), (0x3C, 0xFF00, 0),
     (Config.msixCap, 0x07FF00FF, 0x003F0011), (Config.msixCap + 4, all, 0x00A10000), (Config.msixCap + 8, all, 0x00A11000),
     (Config.pcieCap, 0xFF, 0x10), (Config.pcieCap + 0x04, 0x10000007, 0x10000002),
     (Config.pcieCap + 0x0C, 0xFFF, 0x085),
     (Config.pcieCap + 0x10, 0x03FF0000, word [(20, c.hif.width.toNat), (16, c.hif.speed.toNat)]),
     (Config.pcieCap + 0x24, 0x00030000, 0x00030000)]
  match known.find? fun k => k.1 = off / 4 * 4 with
  | some k => k.2
  | none => (0, 0)

/-- A configuration read: what no table fixes is free. -/
def cfgRead (c : Chip) (off : Nat) (free : Word) : Word :=
  let (mask, v) := c.cfgFixed off
  (free &&& ~~~mask) ||| (v &&& mask)

/-! ### BAR2 and BAR4 (R573 to R577, R677) -/

/-- The naturally aligned pieces of 32, 16, 8 or 4 bytes of n bytes from address a: place from the start, size (R573). -/
def piecesFrom : Nat → Nat → Nat → Nat → List (Nat × Nat)
  | 0, _, _, _ => []
  | fuel + 1, a, k, n =>
    if n = 0 then []
    else
      let size := if a % 32 = 0 ∧ 32 ≤ n then 32 else if a % 16 = 0 ∧ 16 ≤ n then 16
        else if a % 8 = 0 ∧ 8 ≤ n then 8 else 4
      (k, size) :: piecesFrom fuel (a + size) (k + size) (n - size)

/-- The pieces of a TLP. -/
def pieces (a n : Nat) : List (Nat × Nat) := piecesFrom (n / 4 + 1) a 0 n

/-- The endpoint and the address there of a BAR2 offset or of a system address (R573, R574). -/
def barTarget (bar4 : Bool) (x : Nat) : Eid × Nat :=
  if bar4 then (eidChannel (BitVec.ofNat 3 (x / 2 ^ 33)), x % 2 ^ 33) else (BitVec.ofNat 9 (x / 524288), x % 524288)

/-- A VC1 packet of the host interface about an address: its window word first when the address lies outside its
window (R345, R575). -/
def hostSend (c : Chip) (bar4 : Bool) (x : Nat) (f : Chip → Eid → BitVec 24 → Chip) : Chip :=
  let (e, a) := barTarget bar4 x
  let k := e.toNat - 0x100
  let w : BitVec 9 := BitVec.ofNat 9 (a / 2 ^ 24)
  let c := if bar4 && tget 0 c.hif.wins k ≠ w then
      (c.onHif fun h => { h with wins := tput 0 h.wins k w }).send eidHost
        (packet 0xFFFF tDataWr 1 e 4 0xFFFFF0 0 (w.setWidth 256))
    else c
  f c e (BitVec.ofNat 24 a)

/-- A POISON answer to a BAR read (R576). -/
def countPoison (c : Chip) (off : Nat) : Chip :=
  (c.onHif fun h => { h with poison := satInc h.poison }).logFault 0x2009 eidHost 0 off

/-- A write TLP, a packet for each piece (R573). One that is itself a window word moves the window (R345). -/
def barWrite (c : Chip) (t : Tlp) (x : Nat) : Chip :=
  (pieces x t.data.length).foldl
    (fun c p =>
      let l := lineOf (bytesAt t.data p.1 p.2)
      let c := c.hostSend t.bar4 (x + p.1) fun c e a => c.send eidHost (packet 0xFFFF tDataWr 1 e p.2 a 0 l)
      let (e, a) := barTarget t.bar4 (x + p.1)
      if t.bar4 && p.2 = 4 && a % 2 ^ 24 = 0xFFFFF0 then
        c.onHif fun h => { h with wins := tput 0 h.wins (e.toNat - 0x100) (l.extractLsb' 0 9) }
      else c) c

/-- A write has partial byte enables (R573). -/
def partialBe (t : Tlp) : Bool := t.firstBe ≠ 0xF || (4 < t.data.length && t.lastBe ≠ 0xF)

/-- A BAR2 or BAR4 TLP arrives (R573, R574, R577, R677). No TLP reaches BAR2 beyond its 128 MiB. While READY is 0 a read
completes with EP and all ones, and nothing is counted (log 58). -/
def barTlp (c : Chip) (t : Tlp) : Chip :=
  let off := t.off.toNat
  let x := if t.bar4 then c.hif.window.toNat * 2 ^ 34 + off else off
  if !t.bar4 && 2 ^ 27 ≤ off then c
  else if t.write then
    if !c.ready then c
    else if partialBe t then c.onHif fun h => { h with badTlp := satInc h.badTlp }
    else c.barWrite t x
  else if !c.ready then c.emit (.tlp t.id true (List.replicate t.count 0xFF))
  else c.onHif fun h => { h with reads := h.reads ++ [⟨t.id, t.bar4, off, x, t.count, pieces x t.count, [], false⟩] }

/-- A cycle of the host interface: the next piece of the oldest read that has one, when a response slot is free (R573,
R577). -/
def hostReadCycle (c : Chip) : Chip :=
  if 16 ≤ (c.endp eidHost).queue.length || (c.freeSlot eidHost).isNone then c
  else
    match c.hif.reads.find? fun r => !r.pieces.isEmpty with
    | none => c
    | some r =>
      match r.pieces with
      | [] => c
      | (k, n) :: rest =>
        let c := c.hostSend r.bar4 (r.base + k) fun c e a =>
          c.sendRequest eidHost (packet 0xFFFF tReadReq 1 e n a 0 0) (.hostRead r.id k)
        c.onHif fun h => { h with
          reads := h.reads.map fun y => if y = r then { r with pieces := rest } else y }

/-- A read whose last piece has come is completed; with POISON, EP and all ones (R576). -/
def finishRead (c : Chip) (r : HostRead) : Chip :=
  if (r.got.map fun g => g.2.length).sum < r.count then c
  else
    let c := c.onHif fun h => { h with reads := h.reads.filter fun y => y ≠ r }
    let all := (pieces r.base r.count).flatMap fun p =>
      match r.got.find? fun g => g.1 = p.1 with | some g => g.2 | none => []
    c.emit (.tlp r.id r.poison (if r.poison then List.replicate r.count 0xFF else all))

/-- Piece k of read `id` comes; without data it was POISON, or, `timedOut`, never came (R278, R576). -/
def hostPiece (c : Chip) (id k : Nat) (l : Option Line) (timedOut : Bool) : Chip :=
  match c.hif.reads.find? fun r => r.id = id with
  | none => c
  | some r =>
    match (pieces r.base r.count).find? fun p => p.1 = k with
    | none => c
    | some (_, n) =>
      let c := if l.isNone && !timedOut then c.countPoison r.off else c
      let bs := match l with | some l => lineBytes l n | none => List.replicate n 0xFF
      let r' : HostRead := { r with got := r.got ++ [(k, bs)], poison := r.poison || l.isNone }
      let c := c.onHif fun h => { h with reads := h.reads.map fun y => if y = r then r' else y }
      c.finishRead r'

/-! ### JTAG DEBUG accesses (R599, R600) -/

/-- A DEBUG access is allowed: the fuse is whole, and AUTHORITY does not withhold it (R125, R595 Table 8, R600). -/
def debugAllowed (c : Chip) : Bool :=
  !c.glb.debugLock && (match c.hns.authority[2]? with | some a => a.debug | none => true)

/-- The access that DBG_ADDR names starts (R599 Table 10, R600). -/
def debugAccess (c : Chip) (v : Line) : Chip :=
  let d := c.hif.jtag.dbgAddr
  let n := match fldNat d 49 2 with | 0 => 4 | 1 => 8 | 2 => 16 | _ => 32
  if flag d 51 then
    c.send eidCmd { packet (fld d 0 16) tDataWr 1 (fld d 16 9) n (fld d 25 24) 0 v with debug := true }
  else
    c.sendRequest eidCmd { packet (fld d 0 16) tReadReq 1 (fld d 16 9) n (fld d 25 24) 0 0 with debug := true } .debug

/-- The data of a DEBUG read comes; a POISON one captures zero. -/
def debugLine (c : Chip) (l : Option Line) : Chip := c.onJtag fun j => { j with dbgData := l.getD 0 }

/-- DBG_DATA is shifted: what it captured, then its Update-DR (R599, R600). -/
def debugData (c : Chip) (v : Line) : Chip :=
  let c := c.onJtag fun j => { j with ir := 0x19 }
  if c.debugAllowed then (c.emit (.jtag 256 c.hif.jtag.dbgData.toNat)).debugAccess v
  else (c.emit (.jtag 256 0)).onHif fun h => { h with refused := satInc h.refused }

/-! ### I3C and JTAG commands and completions (R586, R587, R597 to R599) -/

/-- A command of a port waits for the processor (R584, R587). -/
def wait (c : Chip) (src : Src) (d : Desc) : Chip := c.onHif fun h => { h with waiting := h.waiting ++ [(src, d)] }

/-- A private transfer sets the pointer (R597). -/
def i3cPoint (c : Chip) (p : Byte) : Chip := c.onI3c fun x => { x with ptr := p }

/-- A private write to pointer 0x00 (R597, R598). -/
def i3cWrite (c : Chip) (bs : List Byte) : Chip :=
  let c := c.i3cPoint 0x00
  if bs.length ≠ 64 then c
  else if c.hif.i3c.busy then c.onI3c fun x => { x with dropped := true }
  else (c.onI3c fun x => { x with busy := true }).wait .i3c (descOf bs)

/-- A read at pointer 0x40. -/
def i3cCpl (c : Chip) : Chip :=
  let c := c.i3cPoint 0x40
  match c.hif.i3c.cpls with
  | k :: rest => (c.onI3c fun x => { x with cpls := rest }).emit (.i3c (completionBytes k false))
  | [] => c.emit (.i3c (List.replicate 16 0))

/-- A read at pointer 0x50. -/
def i3cStatus (c : Chip) : Chip :=
  let c := c.i3cPoint 0x50
  let x := c.hif.i3c
  let v := b1 x.busy + 2 * b1 (!x.cpls.isEmpty) + 4 * b1 c.glb.hostAbsent + 8 * b1 x.dropped
  (c.emit (.i3c (leBytes 4 v))).onI3c fun x => { x with dropped := false }

/-- Update-DR of CMD. -/
def jtagCommand (c : Chip) (d : Desc) : Chip :=
  let c := c.onJtag fun j => { j with ir := 0x10 }
  if c.hif.jtag.pendingCmd then c.onJtag fun j => { j with busy := true }
  else (c.onJtag fun j => { j with pendingCmd := true, busy := false }).wait .jtag d

/-- Capture-DR of CPL. -/
def jtagCompletion (c : Chip) : Chip :=
  let c := c.onJtag fun j => { j with ir := 0x11 }
  match c.hif.jtag.cpls with
  | k :: rest => (c.onJtag fun j => { j with cpls := rest }).emit (.jtag 128 (leNat (completionBytes k false)))
  | [] => c.emit (.jtag 128 0)

/-- The IDCODE register (R599 Table 10). -/
def idcode (c : Chip) : Nat :=
  (match c.glb.stepping with | .a0 => 0 | .a1 => 1 | .b0 => 2) * 2 ^ 28 + 0x0256 * 2 ^ 12 + 0x3C5 * 2 + 1

/-- An instruction that selects the boundary-scan register, and the shift of what that captures. -/
def boundaryScan (c : Chip) (code : Byte) : Chip :=
  let (v, c) := (c.onJtag fun j => { j with ir := code }).drawBits Config.boundaryBits
  c.emit (.jtag Config.boundaryBits v.toNat)

/-- An instruction of the TAP, which a reset holds with every port. -/
def onPort (c : Chip) (f : Chip → Chip) : Chip := if c.inReset then c else f c

/-! ### The PCIe link (R570, R596, R672, R676) -/

/-- A Function Level Reset begins a soft reset at once (R672). -/
def flr (c : Chip) : Chip := (c.onGlb fun g => { g with softAt := some c.now, softFlr := true }).post 0 .resetSoftBegin

end Chip

/-! ### The rows -/

/-- BAR_TLP (R573 to R577, R677). -/
def execBarTlp (t : Tlp) (s : State) : Host.Outcome State Fault Refusal := s.run fun c => c.barTlp t

/-- PCIE_CONFIG_REQUEST (R570, R571, R676): a read answers what Tables 1 and 2 fix; the rest of the space the PCIe Base
Specification gives and this manual does not print, so it is free. Words written are kept (log 17). -/
def execPcieConfigRequest (off : BitVec 12) (write : Option Word) (s : State) : Host.Outcome State Fault Refusal :=
  s.run fun c => c.onPort fun c =>
    match write with
    | some v => (c.onHif fun h => { h with cfg := tput 0 h.cfg (off.toNat / 4) v }).emit (.config 0)
    | none => let (v, c) := c.drawBits 32; c.emit (.config (c.cfgRead off.toNat v))

/-- DL_UP (R596, R618, R675): the link trains from READY on. -/
def execDlUp (width : BitVec 4) (speed : BitVec 3) (s : State) : Host.Outcome State Fault Refusal :=
  s.run fun c =>
    if c.ready then
      (c.onHif fun h => { h with linkUp := true, width := width, speed := speed }).onGlb fun g => { g with hostAbsent := false }
    else c

/-- DL_DOWN_TIMEOUT (R596). -/
def execDlDownTimeout (s : State) : Host.Outcome State Fault Refusal :=
  s.run fun c =>
    (c.onHif fun h => { h with linkUp := false, width := 0, speed := 0 }).onGlb fun g => { g with hostAbsent := true }

/-- FLR (R570, R672). -/
def execFlr (s : State) : Host.Outcome State Fault Refusal := s.run fun c => c.onPort Chip.flr

/-- I3C_COMMAND_WRITE (R587, R597, R598). -/
def execI3cCommandWrite (bytes : List Byte) (s : State) : Host.Outcome State Fault Refusal :=
  s.run fun c => c.onPort fun c => c.i3cWrite bytes

/-- I3C_COMPLETION_READ (R597). -/
def execI3cCompletionRead (s : State) : Host.Outcome State Fault Refusal := s.run fun c => c.onPort Chip.i3cCpl

/-- I3C_STATUS_READ (R597). -/
def execI3cStatusRead (s : State) : Host.Outcome State Fault Refusal := s.run fun c => c.onPort Chip.i3cStatus

/-- I3C_RECKONING_READ (R597, R602). -/
def execI3cReckoningRead (count : BitVec 13) (s : State) : Host.Outcome State Fault Refusal :=
  s.run fun c => c.onPort fun c => (c.i3cPoint 0x80).emit (.i3c (bytesAt c.hif.i3c.buf 0 (min 4096 count.toNat)))

/-- I3C_DYNAMIC_ADDRESS: ENTDAA or SETDASA (R597). -/
def execI3cDynamicAddress (a : BitVec 7) (s : State) : Host.Outcome State Fault Refusal :=
  s.run fun c => c.onPort fun c => c.onI3c fun x => { x with dyn := some a }

/-- JTAG_CMD (R587, R599). -/
def execJtagCmd (d : Desc) (s : State) : Host.Outcome State Fault Refusal :=
  s.run fun c => c.onPort fun c => c.jtagCommand d

/-- JTAG_CPL (R587, R599). -/
def execJtagCpl (s : State) : Host.Outcome State Fault Refusal := s.run fun c => c.onPort Chip.jtagCompletion

/-- JTAG_RECORD (R599, R602). -/
def execJtagRecord (s : State) : Host.Outcome State Fault Refusal :=
  s.run fun c => c.onPort fun c =>
    (c.onJtag fun j => { j with ir := 0x12 }).emit (.jtag 32768 (leNat (bytesAt c.hif.jtag.buf 0 4096)))

/-- DBG_ADDR (R599). -/
def execDbgAddr (v : BitVec 64) (s : State) : Host.Outcome State Fault Refusal :=
  s.run fun c => c.onPort fun c => c.onJtag fun j => { j with ir := 0x18, dbgAddr := v }

/-- DBG_DATA (R359, R361, R595, R599, R600). -/
def execDbgData (v : Line) (s : State) : Host.Outcome State Fault Refusal :=
  s.run fun c => c.onPort fun c => c.debugData v

/-- IDCODE (R599). -/
def execIdcode (s : State) : Host.Outcome State Fault Refusal :=
  s.run fun c => c.onPort fun c => (c.onJtag fun j => { j with ir := 0x02 }).emit (.jtag 32 c.idcode)

/-- EXTEST (R599): selects the boundary-scan register, whose cells and their order the manual does not give; what is captured
from the balls and shifted out is free (log 115). -/
def execExtest (s : State) : Host.Outcome State Fault Refusal :=
  s.run fun c => c.onPort fun c => c.boundaryScan 0x00

/-- SAMPLE_PRELOAD (R599): as EXTEST. -/
def execSamplePreload (s : State) : Host.Outcome State Fault Refusal :=
  s.run fun c => c.onPort fun c => c.boundaryScan 0x01

/-- BYPASS and every other code (R599): the bypass register captures 0. -/
def execBypass (code : Byte) (s : State) : Host.Outcome State Fault Refusal :=
  s.run fun c => c.onPort fun c => (c.onJtag fun j => { j with ir := code }).emit (.jtag 1 0)

end Sys2Proof.Machine
end

