-- ==== Sys2Proof/Machine/Arrivals.lean ====
section
/-!
DEFINITION. Machine/Arrivals.lean: a packet reaches an endpoint (06_stitch, R256, R259, R275 to R279, R738): writes, reads,
responses and commands, by the kind of endpoint. Rows for a TYPE's special places (a window word, a descriptor, a score)
lie with their block. What reaches an endpoint that R52 or R573 leaves unassigned reaches nothing.
-/
namespace Sys2Proof.Machine
open Sys2Proof

namespace Chip

/-! ### Which unit an EID is (R249 Table 1) -/

/-- The tile, channel, TME, walker, Stream Front End of an EID. -/
def tileOf (e : Eid) : Option TileId := if isTileEid e then some (BitVec.ofNat 8 e.toNat) else none
def chanOf (e : Eid) : Option (BitVec 3) :=
  if 0x100 ≤ e.toNat ∧ e.toNat < 0x108 then some (BitVec.ofNat 3 (e.toNat - 0x100)) else none
def tmeOf (e : Eid) : Option (BitVec 4) :=
  if 0x108 ≤ e.toNat ∧ e.toNat < 0x118 then some (BitVec.ofNat 4 (e.toNat - 0x108)) else none
def walkerOf (e : Eid) : Option (BitVec 4) :=
  if 0x118 ≤ e.toNat ∧ e.toNat < 0x128 then some (BitVec.ofNat 4 (e.toNat - 0x118)) else none
def sfeOf (e : Eid) : Option Nat := if 0x138 ≤ e.toNat ∧ e.toNat < 0x13C then some (e.toNat - 0x138) else none

/-! ### Writes -/

/-- A DATA_WR to an egress buffer of `size` bytes whose first has key `base` (R483). -/
def egressOk (p : Packet) (size : Nat) : Bool :=
  p.vc = 0 && p.addr.toNat < size && p.addr.toNat % pktLen p = 0

/-- DATA_WR at endpoint e (R167, R344, R347, R367, R432, R483, R738). -/
def dataArrives (c : Chip) (e : Eid) (p : Packet) (inPort : RPort) : Chip :=
  let bs := pktBytes p (pktLen p)
  match tileOf e, chanOf e, tmeOf e, walkerOf e, sfeOf e with
  | some t, _, _, _, _ => c.tileWrite t e p inPort none
  | _, some k, _, _, _ =>
    if p.vc = 1 && p.len = 0 && p.addr = 0xFFFFF0 then c.setWindow k p else c.chanPacket k p
  | _, _, some t, _, _ => c.tmePacket t p
  | _, _, _, some w, _ => if p.addr = 0x200000 then c.kvNotice w p else c.kvScore w p
  | _, _, _, _, some n =>
    if egressOk p 0x40000 then
      { c with sfe := { c.sfe with egress := mwrite c.sfe.egress (0x40000 * n + p.addr.toNat) bs } }
    else c.reject e p
  | _, _, _, _, _ =>
    if e = eidAudio && egressOk p 0x800 then
      { c with aud := { c.aud with egress := mwrite c.aud.egress p.addr.toNat bs } }
    else c.reject e p

/-- DATA_WR_NOTIFY at endpoint e (R609, R738). -/
def notifyArrives (c : Chip) (e : Eid) (p : Packet) (inPort : RPort) : Chip :=
  match tileOf e, chanOf e with
  | some t, _ => c.tileWrite t e p inPort (some p)
  | _, some k => c.chanPacket k p
  | _, _ => c.reject e p

/-! ### Reads and responses -/

/-- READ_REQ at endpoint e (R168, R344, R738). -/
def readArrives (c : Chip) (e : Eid) (p : Packet) : Chip :=
  match tileOf e, chanOf e with
  | some t, _ => c.tileRead t e p
  | _, some k => c.chanPacket k p
  | _, _ => c.reject e p

/-- What a response slot was reserved for takes its answer: a line, or none where it was POISON or timed out (R278). -/
def answer (c : Chip) (e : Eid) (use : SlotUse) (l : Option Line) (timedOut : Bool) : Chip :=
  match use with
  | .hostRead id k => c.hostPiece id k l timedOut
  | .tmeLine k => match tmeOf e with | some t => c.tmeLine t k l | none => c
  | .moveLine k => match walkerOf e with | some w => c.kvMoveLine w k l | none => c
  | .fhLine r k => c.fhCopyLine (BitVec.ofNat 3 r) k l
  | .debug => c.debugLine l
  | .other => c

/-- READ_RSP or CMD_RSP at endpoint e (R259, R278, R279): a tag that names no waiting slot is late. -/
def responseArrives (c : Chip) (e : Eid) (p : Packet) : Chip :=
  let k := (tagSlot p.aux).toNat
  let s := tget RspSlot.init (c.endp e).slots k
  if !(addrAligned p) then c.reject e p
  else if s.busy && s.inc = tagInc p.aux then
    (c.freeRsp e k false).answer e s.use (if pktPoison p then none else some p.payload) false
  else c.onFab fun f => { f with lateRsp := satInc f.lateRsp }

/-- A slot's time-out (R278). -/
def slotTimeout (c : Chip) (e : Eid) (k : BitVec 5) : Chip :=
  let s := tget RspSlot.init (c.endp e).slots k.toNat
  if c.slotExpired s then
    let c := (c.freeRsp e k.toNat true).onFab fun f => { f with rspTimeout := true }
    (c.logFault 0x200A e e.toNat (tagOf k.toNat s.inc).toNat).answer e s.use none true
  else c

/-! ### Commands of peers (R587, R601) -/

/-- CMD at endpoint e: a well-formed one joins the Umaed port's queue. -/
def cmdArrives (c : Chip) (e : Eid) (p : Packet) : Chip :=
  if e = eidCmd && p.len = 3 && p.addr = 0 then c.wait (.umaed p.schip p.seid p.aux) (p.payload.setWidth 512)
  else c.reject e p

/-- A packet reaches endpoint e; there is none at an EID that R52 or R573 leaves unassigned. -/
def arrives (c : Chip) (e : Eid) (f : Chip → Chip) : Chip := if c.unassigned e then c else f c

end Chip

/-- A row about endpoint e, which R249 must give the chip (log 1). -/
def atEndpoint (e : Eid) (s : State) (f : Chip → Chip) : Host.Outcome State Fault Refusal :=
  if isEid e then s.run fun c => c.arrives e f else .fault (.noSuchUnit e)

/-! ### The rows -/

/-- DATA_WR (R167, R170, R171, R259, R347, R483, R738). -/
def execDataWr (e : Eid) (p : Packet) (inPort : RPort) (s : State) : Host.Outcome State Fault Refusal :=
  atEndpoint e s fun c => c.dataArrives e p inPort

/-- DATA_WR_NOTIFY (R259, R609, R738). -/
def execDataWrNotify (e : Eid) (p : Packet) (inPort : RPort) (s : State) : Host.Outcome State Fault Refusal :=
  atEndpoint e s fun c => c.notifyArrives e p inPort

/-- READ_REQ (R168, R170, R259, R277, R738). -/
def execReadReq (e : Eid) (p : Packet) (s : State) : Host.Outcome State Fault Refusal :=
  atEndpoint e s fun c => c.readArrives e p

/-- READ_RSP (R275, R278, R279). -/
def execReadRsp (e : Eid) (p : Packet) (s : State) : Host.Outcome State Fault Refusal :=
  atEndpoint e s fun c => c.responseArrives e p

/-- CMD (R587, R601, R738). -/
def execCmd (e : Eid) (p : Packet) (s : State) : Host.Outcome State Fault Refusal :=
  atEndpoint e s fun c => c.cmdArrives e p

/-- CMD_RSP (R275, R279). -/
def execCmdRsp (e : Eid) (p : Packet) (s : State) : Host.Outcome State Fault Refusal :=
  atEndpoint e s fun c => c.responseArrives e p

/-- RSP_TIMEOUT (R278). -/
def execRspTimeout (e : Eid) (slot : BitVec 5) (s : State) : Host.Outcome State Fault Refusal :=
  atEndpoint e s fun c => c.slotTimeout e slot

end Sys2Proof.Machine
end

