-- ==== Sys2Proof/Machine/Buckles.lean ====
section
/-!
DEFINITION. Machine/Buckles.lean: the buckle file (13_host, R605 to R613): the operations that reach it as BUCKLE_OP
packets, the report of a local command's operation, the tiles a count wakes. And the fault unit's FAULT packet (R651).
-/
namespace Sys2Proof.Machine
open Sys2Proof

/-- What an operation does to a buckle (R607, R608 Table 11). -/
inductive BklOp where
  | add (n : Nat)
  | sub
  | put (v : BitVec 24)
deriving DecidableEq, Repr

/-- The buckle after an operation. -/
def BklOp.apply (b : Buckle) : BklOp → Buckle
  | .add n =>
    if b.count.toNat + n ≤ 0xFFFFFF then { b with count := BitVec.ofNat 24 (b.count.toNat + n) }
    else { b with count := 0xFFFFFF, sat := true }
  | .sub => if b.count = 0 then { b with under := true } else { b with count := b.count - 1 }
  | .put v => { b with count := v }

namespace Chip

/-- The operation is a FASTEN or FASTEN_N, which raises the buckle's vector (R613). -/
def bklNotify (c : Chip) (n : BitVec 12) (op : BklOp) : Chip :=
  match op with
  | .add _ =>
    let b := c.buckle n
    if b.notify && 8 ≤ b.vector.toNat then c.vector b.vector.toNat else c
  | _ => c

/-- The packet carries an operation of this chip's command processor (R606). -/
def fromCommand (c : Chip) (p : Packet) : Bool := p.seid = eidCmd && c.isHere p.schip && p.vc = 3

/-- The file reports a local command's operation, and the command completes (R606, R589 Table 5, R594). -/
def bklReport (c : Chip) (p : Packet) (op : BklOp) (before after : BitVec 24) : Chip :=
  if c.fromCommand p then
    match c.bkl.waits with
    | [] => c
    | w :: rest =>
      let c := c.onBkl fun k => { k with waits := rest }
      let failed := op = .sub && before = 0
      let shown := if w.opcode = 0x30 then before else after
      c.complete w.src w.tag w.opcode 0x00 (if failed then 1 else 0) (shown.setWidth 64)
  else c

/-- A BUCKLE_OP reaches the buckle file on this cycle (R606, R607, R608, R610, R613). -/
def bklOp (c : Chip) (p : Packet) (op : BklOp) : Chip :=
  if p.addr ≠ 0 then c.reject eidBuckle p
  else
    let n := auxBuckle p.aux
    let before := (c.buckle n).count
    let c := c.onBuckle n fun b => op.apply b
    let c := c.bklNotify n op
    let c := c.wakeTiles n
    c.bklReport p op before (c.buckle n).count

/-- The amount of a FASTEN_N, the value of a SET: payload bits [23:0]. -/
def bklArg (p : Packet) : BitVec 24 := p.payload.extractLsb' 0 24

/-- The entry that a FAULT packet's payload holds, marked REMOTE (R646 Table 7, R651). -/
def remoteEntry (p : Packet) : FltEntry :=
  let bs := lineBytes p.payload
  let r := bs.getD 14 0
  { lts := BitVec.ofNat 64 (numAt bs 0 8)
    code := BitVec.ofNat 16 (numAt bs 8 2)
    source := BitVec.ofNat 9 (numAt bs 10 2)
    unit := BitVec.ofNat 16 (numAt bs 12 2)
    region := if flag r 7 then some (r.extractLsb' 0 6) else none
    remote := true
    count := BitVec.ofNat 32 (numAt bs 16 4)
    detail := BitVec.ofNat 64 (numAt bs 20 8)
    chip := BitVec.ofNat 16 (numAt bs 28 2)
    seq := 0 }

/-- A FAULT packet reaches endpoint e (R259, R651, R738). -/
def faultPacket (c : Chip) (e : Eid) (p : Packet) : Chip :=
  if e ≠ eidFault ∨ addrAligned p = false then c.reject e p
  else
    let x := remoteEntry p
    let k := faultClass x.code
    if 1 ≤ k ∧ k ≤ 5 then c.takeFault x else c.onFlt fun f => { f with fwdDrop := satInc f.fwdDrop }

end Chip

/-- FASTEN (R607, R608, R613). -/
def execFasten (p : Packet) (s : State) : Host.Outcome State Fault Refusal := s.run fun c => c.bklOp p (.add 1)

/-- FASTEN_N: + payload bits [23:0] (R607, R608, R613). -/
def execFastenN (p : Packet) (s : State) : Host.Outcome State Fault Refusal :=
  s.run fun c => c.bklOp p (.add (Chip.bklArg p).toNat)

/-- UNFASTEN (R607, R608). -/
def execUnfasten (p : Packet) (s : State) : Host.Outcome State Fault Refusal := s.run fun c => c.bklOp p .sub

/-- SET: count = payload bits [23:0] (R608). -/
def execSet (p : Packet) (s : State) : Host.Outcome State Fault Refusal := s.run fun c => c.bklOp p (.put (Chip.bklArg p))

/-- RESERVED_BUCKLE_OP (R608): ignored, counted, BAD_PACKET. -/
def execReservedBuckleOp (p : Packet) (s : State) : Host.Outcome State Fault Refusal :=
  s.run fun c =>
    if p.addr ≠ 0 then c.reject eidBuckle p
    else
      (c.onBkl fun k => { k with badOp := satInc k.badOp }).logFault 0x2003 eidBuckle eidBuckle.toNat
        (headerDetail p).toNat

/-- FAULT (R646 to R653, R738). -/
def execFault (e : Eid) (p : Packet) (s : State) : Host.Outcome State Fault Refusal :=
  s.run fun c => c.faultPacket e p

end Sys2Proof.Machine
end

