-- ==== Sys2Proof/Machine/Census.lean ====
section
/-!
DEFINITION. Machine/Census.lean: the census unit (14_census, R626 to R642): latches and their records, armed triggers, the
broadcast, the spill, the CENSUS_TRIG pin. The record's order of registers is that of 16_regmap (R702 to R704).
-/
namespace Sys2Proof.Machine
open Sys2Proof

namespace Chip

/-! ### The record (R641, R642, R702 to R704) -/

/-- Offsets lo, lo + 4, … of n registers. -/
def regs (lo n : Nat) : List Nat := (List.range n).map fun i => lo + 4 * i

/-- The words of a section from a record byte on. -/
def section_ (at_ : Nat) (ws : List Word) : List (Nat × Word) := (ws.zipIdx).map fun w => (at_ / 4 + w.2, w.1)

/-- The census registers at these offsets, in their order. -/
def peekAll (c : Chip) (os : List Nat) : List Word := os.map c.peekUp

/-- GLB, ALM and HNS. -/
def cenGlobal : List Nat :=
  [0x000008, 0x000020, 0x000024] ++ regs 0x000040 8 ++ [0x100004, 0x10001C, 0x100020, 0x100024] ++ regs 0x100028 8 ++
    [0x200004] ++ regs 0x200080 4

/-- The edge EIDs of R249 Table 1. -/
def edgeEids : List Nat := (List.range 64).filter fun i => isEdgeEid (BitVec.ofNat 9 (0x100 + i))

/-- FAB, FAB_THR, FAB_THR_LEVEL. -/
def cenFab : List Nat :=
  [0x400004] ++ regs 0x400010 7 ++ regs 0x400030 4 ++ (edgeEids.map fun i => 0x400100 + 4 * i) ++
    edgeEids.map fun i => 0x400200 + 4 * i

def cenChan (k : Nat) : List Nat :=
  ([0x008, 0x010] ++ regs 0x014 4 ++ regs 0x040 4).map fun r => 0x500000 + 0x10000 * k + r

def cenTme (t : Nat) : List Nat :=
  (regs 0x044 3).map (fun r => 0x590000 + 0x1000 * t + r) ++ (regs 0x000 7).map fun r => 0x700000 + 0x1000 * t + r

def cenWalker (w : Nat) : List Nat := (regs 0x000 6 ++ regs 0x02C 2).map fun r => 0x600000 + 0x1000 * w + r

def cenLink (n : Nat) : List Nat := (regs 0x04 10).map fun r => 0xB00000 + 0x100 * n + r

def cenFh (q : Nat) : List Nat := (regs 0x00 16).map fun r => 0x900000 + 0x100 * q + r

def cenAud (p : Nat) : List Nat := ([0x04, 0x10, 0x18, 0x1C, 0x20, 0x24]).map fun r => 0x800000 + 0x100 * p + r

def cenHost : List Nat :=
  [0xA00004, 0xA0001C, 0xA00020, 0xA0003C, 0xA00040] ++ regs 0xA00060 4 ++ regs 0xD00004 3 ++ regs 0xD00010 5 ++
    regs 0xD00030 2

/-- The four sums of SFE n (R704). -/
def cenSfe (c : Chip) (n : Nat) : List Word :=
  let mine := c.sfe.streams.filter fun kx => kx.1 / 1024 = n && c.streamOn (BitVec.ofNat 12 kx.1)
  let sum (f : Stream → Word) (ok : BitVec 12 → Bool) : Word :=
    satAdd (0 : Word) ((mine.filter fun kx => ok (BitVec.ofNat 12 kx.1)).map fun kx => (f kx.2).toNat).sum
  let isIn (s : BitVec 12) : Bool := match c.streamPlan s with | some (e, _) => !(isOutput e) | none => false
  [sum (fun x => x.sat) fun _ => true, sum (fun x => x.missed) isIn, sum (fun x => x.missed) c.outStream,
   sum (fun x => x.outUnder) c.outStream]

/-- The 16 bytes of a router: nibble 4p + v is the occupancy of input port p's VC v. -/
def cenRouter (c : Chip) (r : Nat) : List Word :=
  let x := c.router (BitVec.ofNat 9 r)
  let n := (List.range 20).foldl (fun n k => n + (tget [] x.bufs k).length % 16 * 16 ^ k) 0
  (List.range 4).map fun i => BitVec.ofNat 32 (n / 2 ^ (32 * i))

/-- The 64 bytes of a tile. -/
def cenTile (c : Chip) (t : Nat) : List Word :=
  let id : TileId := BitVec.ofNat 8 t
  let x := c.tile id
  let off := c.tileOff id
  c.peekAll (([0x004, 0x008, 0x00C, 0x010, 0x014, 0x018, 0x02C]).map fun r => 0x1000000 + 0x10000 * t + r) ++
    [if off then 0 else BitVec.ofNat 32 x.eq.length] ++
    (List.range 8).map fun i => if off then 0 else (tget 0 x.a i).setWidth 32

/-- The block sections of a record: those of Table 3 beyond the header. -/
def cenBlocks (c : Chip) : List (Nat × Word) :=
  let each (n base step : Nat) (f : Nat → List Word) : List (Nat × Word) :=
    (List.range n).flatMap fun i => section_ (base + step * i) (f i)
  section_ 0x0100 (c.peekAll cenGlobal) ++ section_ 0x0200 (c.peekAll cenFab) ++
    each 8 0x0400 128 (fun k => c.peekAll (cenChan k)) ++ each 16 0x0800 64 (fun t => c.peekAll (cenTme t)) ++
    each 16 0x0C00 64 (fun w => c.peekAll (cenWalker w)) ++ each 6 0x1000 128 (fun n => c.peekAll (cenLink n)) ++
    each 2 0x1300 128 (fun q => c.peekAll (cenFh q)) ++ each 8 0x1400 64 (fun p => c.peekAll (cenAud p)) ++
    each 4 0x1600 128 c.cenSfe ++ section_ 0x1800 (c.peekAll cenHost) ++ each 256 0x2000 16 c.cenRouter ++
    each 256 0x4000 64 c.cenTile ++ (c.bkl.file.map fun kb => (0x8000 / 4 + kb.1, kb.2.count.setWidth 32))

/-- The header of a record that is not yet VALID (R642 Table 4). -/
def cenHeader (c : Chip) (seq : Word) (l : Latch) (bank : BitVec 2) (driven multi : Bool) : List Word :=
  let fl := 2 * b1 driven + 4 * b1 multi + 8 * b1 c.flt.fatal
  let two := l.code = 3 || l.code = 4
  let bs := leBytes 8 c.lts.toNat ++ leBytes 8 c.glb.epoch.toNat ++ leBytes 4 seq.toNat ++
    [l.code, BitVec.ofNat 8 bank.toNat, BitVec.ofNat 8 fl, 0] ++ leBytes 2 c.alm.gen.toNat ++
    leBytes 2 c.glb.chipId.toNat ++ leBytes 2 (if l.code = 5 then l.fault.toNat else 0) ++ leBytes 2 c.uml.skew.toNat ++
    leBytes 8 c.hns.id.toNat ++ leBytes 8 (if two then l.target.toNat else 0) ++
    leBytes 2 (if l.code = 4 then l.origin.toNat else 0) ++ leBytes 6 0 ++ leBytes 8 c.glb.uptime.toNat
  (List.range 16).map fun i => BitVec.ofNat 32 (numAt bs (4 * i) 4)

/-- A bank changed. -/
def onCnsBank (c : Chip) (b : BitVec 2) (f : CBank → CBank) : Chip :=
  c.onCns fun k => { k with banks := tput CBank.init k.banks b.toNat (f (tget CBank.init k.banks b.toNat)) }

/-- A record is begun in a bank, complete within 4,096 cycles (R630, R631; the bound is taken, log 8). -/
def cenRecord (c : Chip) (l : Latch) (b : BitVec 2) (driven multi : Bool) : Chip :=
  let seq := c.cns.seq + 1
  let ws := section_ 0 (c.cenHeader seq l b driven multi) ++ c.cenBlocks
  let words : Table Word := ws.filter fun w => w.2 ≠ 0
  ((c.onCnsBank b fun _ => ⟨true, false, words⟩).onCns fun k => { k with seq := seq, last := b }).post 4096
    (.censusRecordComplete b)

/-! ### Arms (R633, R635) -/

/-- A slot of CNS_ARM changed. -/
def onArm (c : Chip) (a : BitVec 2) (x : Arm) : Chip :=
  c.onCns fun k => { k with arms := tput Arm.init k.arms a.toNat x }

/-- The slots. -/
def armSlots : List (BitVec 2) := [0, 1, 2, 3]

/-- A broadcast target in this chip's time: less UML_SKEW, borrowing ALM_DAY_LEN cycles from DAY (R331). -/
def localLts (c : Chip) (t : Lts) : Lts :=
  let cyc := fldNat t 0 22
  let skew := c.uml.skew.toNat
  if skew ≤ cyc then (fld t 22 42).append (BitVec.ofNat 22 (cyc - skew))
  else
    let len := max 1 c.alm.dayLen.toNat
    let days := (skew - cyc + len - 1) / len
    (fld t 22 42 - BitVec.ofNat 42 days).append (BitVec.ofNat 22 (cyc + days * len - skew))

/-- The local LTS of a slot's planned latch. -/
def armLts (c : Chip) (x : Arm) : Lts := if x.state = 2 then c.localLts x.target else x.target

/-- This cycle is the slot's trigger edge, and how far off the latch is: 16 cycles before the first cycle at or after the
target; where that edge lies in the day before, or the target's day has passed, at cycle 0. -/
def armDue (c : Chip) (x : Arm) : Option Nat :=
  if x.state = 0 || !c.alm.running then none
  else
    let t := c.armLts x
    let ahead : Int := (fld t 22 42 - fld c.lts 22 42).toInt
    let k := fldNat t 0 22
    if ahead < 0 then (if c.alm.cycle = 0 then some 0 else none)
    else if ahead = 0 then
      (if k = c.alm.cycle + 16 then some 16 else if c.alm.cycle = 0 ∧ k < 16 then some k else none)
    else none

/-- A slot frees. -/
def freeArm (c : Chip) (a : BitVec 2) : Chip := c.onArm a Arm.init

/-- The trigger edge of a slot (R627, R635): one that R628 ignores frees its slot. -/
def armEdge (c : Chip) (a : BitVec 2) : Chip :=
  let x := c.arm a
  match c.armDue x with
  | none => c
  | some lead =>
    let n := c.cns.pending.length
    let c := c.trigger ⟨0, if x.state = 2 then 4 else 3, x.target, x.origin, 0, none⟩ lead
    if c.cns.pending.length = n then c.freeArm a else c

/-- A free slot takes a target; its edge may be this cycle. -/
def armSlot (c : Chip) (x : Arm) : Option Chip :=
  (armSlots.find? fun a => (c.arm a).state = 0).map fun a =>
    let c := c.onArm a x
    if (c.armDue x).isSome then c.post 0 (.censusArmedTrigger a) else c

/-! ### Broadcast (R636 to R638) -/

/-- A CENSUS_TRIG packet goes out on every UP link but one. The manual routes it on the links themselves. -/
def cenBroadcast (c : Chip) (target : BitVec 64) (origin : BitVec 16) (hops : Nat) (except : Option (Fin 6)) : Chip :=
  ((List.finRange 6).filter fun n => (c.link n).state = 5 && except ≠ some n).foldl
    (fun c n =>
      let p := packet 0xFFFF tCensusTrig 3 eidCensus 16 0 (BitVec.ofNat 16 hops)
        (lineOf (leBytes 8 target.toNat ++ leBytes 2 origin.toNat))
      let (p, c) := c.stamp eidCensus p
      c.egress n none 12 p) c

/-- The link a CENSUS_TRIG came over: the one named, or the one whose peer sent it. -/
def cenFrom (c : Chip) (p : Packet) (link : Option (Fin 6)) : Option (Fin 6) :=
  match link with
  | some n => some n
  | none => (List.finRange 6).find? fun n => (c.link n).state = 5 && (c.link n).peer = p.schip && !(c.isHere p.schip)

/-- A slot or a latch of the last day has this origin and target (R637). -/
def cenKnown (c : Chip) (target : BitVec 64) (origin : BitVec 16) : Bool :=
  (armSlots.any fun a => (c.arm a).state = 2 && (c.arm a).target = target && (c.arm a).origin = origin) ||
    c.cns.made.any fun m => m.2 = some (target, origin) && c.now < m.1 + c.alm.dayLen.toNat

/-- A CENSUS_TRIG packet arrives (R637, R638). One that comes while the almanac is stopped cannot be armed (R633) and
counts as missed. -/
def cenArrive (c : Chip) (p : Packet) (link : Option (Fin 6)) : Chip :=
  let target : BitVec 64 := fld p.payload 0 64
  let origin : BitVec 16 := fld p.payload 64 16
  if !c.cns.bcastEn then c
  else if c.cenKnown target origin then c.onCns fun k => { k with dup := satInc k.dup }
  else
    let from_ := c.cenFrom p link
    let missed (c : Chip) : Chip := c.onCns fun k => { k with missed := satInc k.missed }
    let c :=
      if !c.alm.running then missed c
      else if c.cyclesTo (c.localLts target) < 16 then c.onCns fun k => { k with late := satInc k.late }
      else match c.armSlot ⟨2, target, origin⟩ with
        | some c => c
        | none => missed c
    let hops := fldNat p.aux 0 8
    if 0 < hops then c.cenBroadcast target origin (hops - 1) from_ else c

/-! ### The latch (R626, R628, R631, R634, R635) -/

/-- The triggers `due` are latched (R624, R626, R641): they leave the pending list, and the record's peers and the
armed slots they came from are kept for the packets that follow. -/
def cenTaken (c : Chip) (due : List Latch) : Chip :=
  c.onCns fun k => { k with
    pending := k.pending.filter fun l => c.now < l.at_
    made := (k.made.filter fun m => c.now < m.1 + 2 ^ 22) ++
      due.map fun l => (c.now, if l.code = 4 then some (l.target, l.origin) else none) }

/-- An armed slot whose trigger is among `due` is freed (R626). -/
def cenFreed (due : List Latch) (c : Chip) (a : BitVec 2) : Chip :=
  let x := c.arm a
  if x.state ≠ 0 && (due.any fun l =>
      l.code = (if x.state = 2 then 4 else 3) && l.target = x.target && l.origin = x.origin) then c.freeArm a
  else c

/-- The DONE of a CENSUS command whose trigger is latched (R622). -/
def cenAnswered (lts : Lts) (c : Chip) (l : Latch) : Chip :=
  match l.answer with
  | some (src, tag) => c.complete src tag 0x03 0x00 0 lts
  | none => c

/-- The latch of this cycle: its record, or one missed; its slots free; a MODE 0 command completes. -/
def cenLatch (c : Chip) : Chip :=
  let due := c.cns.pending.filter fun l => l.at_ ≤ c.now
  match due with
  | [] => c
  | l0 :: rest =>
    let first := rest.foldl (fun b l => if l.code.toNat < b.code.toNat then l else b) l0
    let driven := (due.any fun l => 2 ≤ l.code.toNat) && decide (c.now < c.cns.driveUntil)
    let c' := match c.nextBank with
      | some b => c.cenRecord first b driven (!rest.isEmpty)
      | none => c.onCns fun k => { k with missed := satInc k.missed }
    due.foldl (Chip.cenAnswered c.lts) (armSlots.foldl (Chip.cenFreed due) (c'.cenTaken due))

/-- A record is complete (R630, R642): VALID, and vector 2. -/
def cenComplete (c : Chip) (b : BitVec 2) : Chip :=
  let x := c.cnsBank b
  if x.full && !x.valid then
    (c.onCnsBank b fun x => { x with
      valid := true, words := tput 0 x.words 5 (tget 0 x.words 5 ||| 0x10000) }).vector 2
  else c

/-- CNS_RELEASE is written (R632). A bank whose record is not yet complete keeps it. -/
def cenRelease (c : Chip) (mask : BitVec 4) : Chip :=
  armSlots.foldl
    (fun c b => if flag mask b.toNat && (c.cnsBank b).valid then
      c.onCnsBank b fun x => { x with full := false, valid := false } else c) c

/-! ### The spill (R639, R640) -/

/-- CNS_SPILL_SIZE is valid and the ring has an entry free. -/
def spillRoom (c : Chip) : Bool :=
  c.cns.spill && ringLog c.cns.spillSize.toNat 1 8 &&
    ahead16 c.cns.spillProd c.cns.spillCons < 2 ^ c.cns.spillSize.toNat

/-- Where the next entry starts. -/
def spillStart (c : Chip) : Nat :=
  b1 c.cns.spillA32 * 2 ^ 32 + c.cns.spillLo.toNat + c.cns.spillProd.toNat % 2 ^ c.cns.spillSize.toNat * 131072

/-- One line of a record, with the window word first where it lies outside the unit's window (R345, R640). -/
def spillLine (c : Chip) (words : Table Word) (start i : Nat) : Chip :=
  let a := start + 2048 * (32 * i / 1024) + 32 * i % 1024
  let e := eidChannel c.cns.spillChan
  let w : BitVec 9 := BitVec.ofNat 9 (a / 2 ^ 24)
  let c := if c.cns.win = some w then c else
    (c.onCns fun k => { k with win := some w }).send eidCensus (packet 0xFFFF tDataWr 1 e 4 0xFFFFF0 0 (w.setWidth 256))
  let l := lineOf ((List.range 8).flatMap fun j => leBytes 4 (tget 0 words (8 * i + j)).toNat)
  c.send eidCensus (packet 0xFFFF tDataWr 1 e 32 (BitVec.ofNat 24 a) 0 l)

/-- The next VALID record to spill, the oldest first. -/
def spillNext (c : Chip) : Option (BitVec 2) :=
  if c.cns.spilling.isNone && c.spillRoom then
    (armSlots.filter fun b => (c.cnsBank b).valid).foldl
      (fun best b =>
        match best with
        | none => some b
        | some y => if (tget 0 (c.cnsBank b).words 4).toNat < (tget 0 (c.cnsBank y).words 4).toNat then some b else some y)
      none
  else none

/-- Every write of the copy under way has been injected. -/
def spillDone (c : Chip) : Bool := c.cns.spilling.isSome && (c.endp eidCensus).queue.isEmpty

/-- CENSUS_SPILL of bank b: the copy starts, or, its last write injected, ends: the bank is released and PROD advances. -/
def cenSpill (c : Chip) (b : BitVec 2) : Chip :=
  if c.cns.spilling = some b && c.spillDone then
    (c.cenRelease (1 <<< b.toNat)).onCns fun k => { k with spilling := none, spillProd := k.spillProd + 1 }
  else if c.spillNext = some b then
    let words := (c.cnsBank b).words
    let start := c.spillStart
    (List.range 2048).foldl (fun c i => c.spillLine words start i)
      (c.onCns fun k => { k with spilling := some b, win := none })
  else c

end Chip

/-! ### The rows -/

/-- CENSUS_PIN_EDGE (R627, R629): the falling edge, registered on the third cycle and latched 16 after it. An edge
while the unit itself pulls the pin is its own. -/
def execCensusPinEdge (s : State) : Host.Outcome State Fault Refusal :=
  s.run fun c =>
    if c.ready && c.cns.pinEn && !(decide (c.now < c.cns.driveUntil)) then c.trigger ⟨0, 1, 0, 0, 0, none⟩ else c

/-- CENSUS_ARMED_TRIGGER (R627, R629, R635). -/
def execCensusArmedTrigger (a : BitVec 2) (s : State) : Host.Outcome State Fault Refusal := s.run fun c => c.armEdge a

/-- CENSUS_LATCH (R626, R628, R631, R634, R635, R641, R642). -/
def execCensusLatch (s : State) : Host.Outcome State Fault Refusal := s.run Chip.cenLatch

/-- CENSUS_RECORD_COMPLETE (R579, R630). -/
def execCensusRecordComplete (b : BitVec 2) (s : State) : Host.Outcome State Fault Refusal := s.run fun c => c.cenComplete b

/-- CENSUS_SPILL (R632, R639, R640, R709). -/
def execCensusSpill (b : BitVec 2) (s : State) : Host.Outcome State Fault Refusal := s.run fun c => c.cenSpill b

/-- CENSUS_TRIG_RELEASE (R629). -/
def execCensusTrigRelease (s : State) : Host.Outcome State Fault Refusal :=
  s.run fun c => if c.cns.driveUntil ≤ c.now then c.emit (.trigPin true) else c

/-- CENSUS_TRIG (R636 to R638, R662, R738). -/
def execCensusTrig (e : Eid) (p : Packet) (link : Option (Fin 6)) (s : State) : Host.Outcome State Fault Refusal :=
  s.run fun c => if e = eidCensus ∧ Chip.addrAligned p = true then c.cenArrive p link else c.reject e p

/-- CNS_RELEASE (R632). -/
def execCnsRelease (mask : BitVec 4) (s : State) : Host.Outcome State Fault Refusal :=
  s.run fun c => if c.ready then c.cenRelease mask else c

end Sys2Proof.Machine
end

