-- ==== Sys2Proof/Machine/Crypto.lean ====
section
/-!
DEFINITION. Machine/Crypto.lean: SHA-256 and the ECDSA P-256 verification that the harness loader makes (R113, R114, R129).
The manual names the algorithms by FIPS 180-4 and FIPS 186 and does not restate them; their constants and steps are
PRESUMED from those standards (log 14).
-/
namespace Sys2Proof.Machine
open Sys2Proof

/-! ### SHA-256 -/

/-- The first 64 primes: those below 312 that no prime up to 17 divides but itself. -/
def shaPrimes : List Nat :=
  (List.range 312).filter fun n => 2 ≤ n && [2, 3, 5, 7, 11, 13, 17].all fun d => n = d || n % d ≠ 0

/-- The first 32 bits of the fractional part of the k-th root of p, found bit by bit. -/
def rootBits (k p : Nat) : Word :=
  BitVec.ofNat 32 ((List.range 36).foldr (fun b r => if (r + 2 ^ b) ^ k ≤ p * 2 ^ (32 * k) then r + 2 ^ b else r) 0)

/-- The round constants: from the cube roots of the first 64 primes. -/
def shaK : List Word := shaPrimes.map (rootBits 3)

/-- The eight words of a hash value. -/
structure ShaState where
  a : Word
  b : Word
  c : Word
  d : Word
  e : Word
  f : Word
  g : Word
  h : Word
deriving DecidableEq, Repr

/-- The initial hash value: from the square roots of the first eight primes. -/
def shaInit : ShaState :=
  let h (k : Nat) : Word := rootBits 2 (shaPrimes.getD k 0)
  ⟨h 0, h 1, h 2, h 3, h 4, h 5, h 6, h 7⟩

/-- n further words of the message schedule, latest first. -/
def shaExtend : Nat → List Word → List Word
  | 0, ws => ws
  | n + 1, ws =>
    let w (k : Nat) : Word := ws.getD (k - 1) 0
    let s0 := (w 15).rotateRight 7 ^^^ (w 15).rotateRight 18 ^^^ (w 15 >>> 3)
    let s1 := (w 2).rotateRight 17 ^^^ (w 2).rotateRight 19 ^^^ (w 2 >>> 10)
    shaExtend n ((s1 + w 7 + s0 + w 16) :: ws)

/-- One round with its constant and schedule word. -/
def shaRound (s : ShaState) (kw : Word × Word) : ShaState :=
  let s1 := s.e.rotateRight 6 ^^^ s.e.rotateRight 11 ^^^ s.e.rotateRight 25
  let ch := (s.e &&& s.f) ^^^ (~~~s.e &&& s.g)
  let t1 := s.h + s1 + ch + kw.1 + kw.2
  let s0 := s.a.rotateRight 2 ^^^ s.a.rotateRight 13 ^^^ s.a.rotateRight 22
  let maj := (s.a &&& s.b) ^^^ (s.a &&& s.c) ^^^ (s.b &&& s.c)
  { a := t1 + (s0 + maj), b := s.a, c := s.b, d := s.c, e := s.d + t1, f := s.e, g := s.f, h := s.g }

/-- The number whose bytes are given, most significant first. -/
def beNat (bs : List Byte) : Nat := bs.foldl (fun v b => v * 256 + b.toNat) 0

/-- The n bytes of a number, most significant first. -/
def beBytes (n v : Nat) : List Byte := (leBytes n v).reverse

/-- One block of 64 bytes. -/
def shaBlock (s : ShaState) (block : List Byte) : ShaState :=
  let ws := (List.range 16).map fun i => BitVec.ofNat 32 (beNat (bytesAt block (4 * i) 4))
  let r := (shaK.zip (shaExtend 48 ws.reverse).reverse).foldl shaRound s
  { a := s.a + r.a, b := s.b + r.b, c := s.c + r.c, d := s.d + r.d,
    e := s.e + r.e, f := s.f + r.f, g := s.g + r.g, h := s.h + r.h }

/-- n blocks from the front of the bytes. -/
def shaBlocks : Nat → List Byte → ShaState → ShaState
  | 0, _, s => s
  | n + 1, bs, s => shaBlocks n (bs.drop 64) (shaBlock s (bs.take 64))

/-- SHA-256: the 32 bytes in output order (FIPS 180-4). -/
def sha256 (bs : List Byte) : List Byte :=
  let n := bs.length
  let zeros := (119 - n % 64) % 64
  let padded := bs ++ (0x80 : Byte) :: List.replicate zeros 0 ++ beBytes 8 (8 * n)
  let s := shaBlocks (padded.length / 64) padded shaInit
  [s.a, s.b, s.c, s.d, s.e, s.f, s.g, s.h].flatMap fun w => beBytes 4 w.toNat

/-! ### ECDSA on P-256 -/

/-- The field prime, the order, b, and the generator of P-256. -/
def p256P : Nat := 0xffffffff00000001000000000000000000000000ffffffffffffffffffffffff
def p256N : Nat := 0xffffffff00000000ffffffffffffffffbce6faada7179e84f3b9cac2fc632551
def p256B : Nat := 0x5ac635d8aa3a93e7b3ebbd55769886bc651d06b0cc53b0f63bce3c3e27d2604b
def p256Gx : Nat := 0x6b17d1f2e12c4247f8bce6e563a440f277037d812deb33a0f4a13945d898c296
def p256Gy : Nat := 0x4fe342e2fe1a7f9b8ee7eb4a7c0f9e162bce33576b315ececbb6406837bf51f5

/-- a - b modulo m, for b below m. -/
def subMod (m a b : Nat) : Nat := (a + m - b % m) % m

/-- x to the power e modulo m, e below 2^n. -/
def powMod (m : Nat) : Nat → Nat → Nat → Nat
  | 0, _, _ => 1 % m
  | n + 1, x, e =>
    let half := powMod m n (x * x % m) (e / 2)
    if e % 2 = 1 then half * x % m else half

/-- The inverse modulo a prime. -/
def invMod (m x : Nat) : Nat := powMod m 256 (x % m) (m - 2)

/-- A point in Jacobian coordinates; Z is 0 at infinity. -/
structure JPoint where
  x : Nat
  y : Nat
  z : Nat
deriving DecidableEq, Repr

def JPoint.infinity : JPoint := ⟨1, 1, 0⟩

/-- A point doubled. -/
def JPoint.double (p : JPoint) : JPoint :=
  let m := p256P
  if p.z = 0 || p.y = 0 then JPoint.infinity
  else
    let yy := p.y * p.y % m
    let zz := p.z * p.z % m
    let s := 4 * p.x * yy % m
    let t := 3 * (subMod m p.x zz * ((p.x + zz) % m)) % m
    let x := subMod m (t * t % m) (2 * s)
    ⟨x, subMod m (t * subMod m s x % m) (8 * yy * yy), 2 * p.y * p.z % m⟩

/-- Two points added. -/
def JPoint.add (p q : JPoint) : JPoint :=
  let m := p256P
  if p.z = 0 then q
  else if q.z = 0 then p
  else
    let pz := p.z * p.z % m
    let qz := q.z * q.z % m
    let u1 := p.x * qz % m
    let u2 := q.x * pz % m
    let s1 := p.y * qz * q.z % m
    let s2 := q.y * pz * p.z % m
    if u1 = u2 then (if s1 = s2 then p.double else JPoint.infinity)
    else
      let h := subMod m u2 u1
      let r := subMod m s2 s1
      let hh := h * h % m
      let hhh := hh * h % m
      let v := u1 * hh % m
      let x := subMod m (subMod m (r * r % m) hhh) (2 * v)
      ⟨x, subMod m (r * subMod m v x % m) (s1 * hhh), p.z * q.z * h % m⟩

/-- k times p, k below 2^n. -/
def JPoint.times (p : JPoint) : Nat → Nat → JPoint
  | 0, _ => JPoint.infinity
  | n + 1, k =>
    let half := p.double.times n (k / 2)
    if k % 2 = 1 then half.add p else half

/-- The point lies on the curve, its coordinates below the prime. -/
def onCurve (x y : Nat) : Bool :=
  x < p256P && y < p256P && y * y % p256P = (x * x * x + (p256P - 3) * x + p256B) % p256P

/-- ECDSA P-256 verification of a 32-byte digest (R129 step 10; FIPS 186): the digest is the hash value that is signed. -/
def ecdsaOk (digest r s qx qy : List Byte) : Bool :=
  let n := p256N
  let r := beNat r
  let s := beNat s
  let x := beNat qx
  let y := beNat qy
  if 0 < r && r < n && 0 < s && s < n && onCurve x y then
    let w := invMod n s
    let g : JPoint := ⟨p256Gx, p256Gy, 1⟩
    let q : JPoint := ⟨x, y, 1⟩
    let t := (g.times 256 (beNat digest * w % n)).add (q.times 256 (r * w % n))
    if t.z = 0 then false
    else
      let zi := invMod p256P t.z
      (t.x * (zi * zi % p256P) % p256P) % n = r
  else false

end Sys2Proof.Machine
end

