-- ==== Sys2Proof/Machine/ImageForm.lean ====
section
/-!
DEFINITION. Machine/ImageForm.lean: what a harness image is made of (R113 to R126): header, directory, records, GLOBAL,
ALMANAC, AUTHORITY and REGION_MAP, read as total functions of the bytes, with the checks of their reserved fields.
-/
namespace Sys2Proof.Machine
open Sys2Proof

/-- n bytes from place k are all zero. -/
def zeroAt (bs : List Byte) (k n : Nat) : Bool := (bytesAt bs k n).all fun b => b = 0

/-- A directory entry (R115 Table 2). -/
structure DirEntry where
  type : Byte
  region : Byte
  off : Nat
  len : Nat
  digest : List Byte
  reserved : Bool
deriving DecidableEq, Repr

namespace Img

/-! ### The header (R113, R114) -/

def magic (b : List Byte) : List Byte := bytesAt b 0 4
def version (b : List Byte) : Nat := numAt b 4 2
def flags (b : List Byte) : Nat := numAt b 6 2
def signed (b : List Byte) : Bool := flags b % 2 = 1
def isRegion (b : List Byte) : Bool := flags b / 2 % 2 = 1
def harnessId (b : List Byte) : BitVec 64 := BitVec.ofNat 64 (numAt b 8 8)
def steppings (b : List Byte) : Nat := numAt b 16 2
def updateRegion (b : List Byte) : Nat := numAt b 18 1
def sectionCount (b : List Byte) : Nat := numAt b 20 2
def total (b : List Byte) : Nat := numAt b 24 4
def digest (b : List Byte) : List Byte := bytesAt b 32 32
def publicKey (b : List Byte) : List Byte := bytesAt b 128 64
def baseId (b : List Byte) : BitVec 64 := BitVec.ofNat 64 (numAt b 192 8)

/-- Step 2 (R129): VERSION, reserved bytes and bits, the fields that Table 1 and R114 fix, the length. -/
def headerOk (b : List Byte) (len : Nat) : Bool :=
  version b = 1 && flags b < 4 && steppings b < 8 && zeroAt b 19 1 && zeroAt b 22 2 && zeroAt b 28 4 && zeroAt b 200 56 &&
    (signed b || zeroAt b 64 128) &&
    (if isRegion b then 1 ≤ updateRegion b && updateRegion b ≤ 63 else updateRegion b = 0 && baseId b = 0) &&
    total b = len && 256 ≤ len && len % 8 = 0 && len ≤ 0x10000000

/-- DIGEST as R113 computes it. -/
def computed (b : List Byte) : List Byte := sha256 (b.take 32 ++ bytesAt b 192 64 ++ b.drop 256)

/-! ### The directory (R115, R116) -/

/-- Entry i of the directory. -/
def dir (b : List Byte) (i : Nat) : DirEntry :=
  let e := bytesAt b (256 + 32 * i) 32
  { type := e.getD 0 0, region := e.getD 1 0, off := numAt e 4 4, len := numAt e 8 4, digest := bytesAt e 12 16,
    reserved := zeroAt e 2 2 && zeroAt e 28 4 }

def dirs (b : List Byte) : List DirEntry := (List.range (sectionCount b)).map (dir b)

/-- The payload of a section. -/
def payload (b : List Byte) (d : DirEntry) : List Byte := bytesAt b d.off d.len

/-- Entries in ascending OFFSET order, none overlapping, from place k on (R115, R116). -/
def dirFrom (total : Nat) : Nat → List DirEntry → Bool
  | _, [] => true
  | k, d :: ds =>
    k ≤ d.off && d.off % 8 = 0 && d.len % 8 = 0 && 8 ≤ d.len && d.off + d.len ≤ total && dirFrom total (d.off + d.len) ds

/-- Step 6 (R129): every code assigned, REGION rules, order, alignment and bounds. -/
def dirOk (b : List Byte) : Bool :=
  let n := sectionCount b
  1 ≤ n && n ≤ 1024 && 256 + 32 * n ≤ total b &&
    (dirs b).all (fun d => 1 ≤ d.type.toNat && d.type.toNat ≤ 0x11 && d.region.toNat < 64 && d.reserved &&
      (!isRegion b || d.region.toNat = updateRegion b)) &&
    dirFrom (total b) (256 + 32 * n) (dirs b)

/-- Step 7: every SEC_DIGEST. -/
def digestsOk (b : List Byte) : Bool := (dirs b).all fun d => (sha256 (payload b d)).take 16 = d.digest

/-! ### Records (R117, R119) -/

/-- The records of a payload, at most `fuel` of them; none when they do not fill it or break R119. -/
def records (sec : Byte) (region : Byte) : Nat → List Byte → Option (List Rec)
  | _, [] => some []
  | 0, _ => none
  | fuel + 1, p =>
    let n := numAt p 4 4
    if p.length < 8 + n || n % 8 ≠ 0 || p.getD 3 0 ≠ region then none
    else
      match records sec region fuel (p.drop (8 + n)) with
      | none => none
      | some rs =>
        some ({ sec := sec, target := BitVec.ofNat 16 (numAt p 0 2), kind := p.getD 2 0, region := region.setWidth 6,
                body := (p.drop 8).take n } :: rs)

/-- The section has records: it is none of GLOBAL, ALMANAC and AUTHORITY. -/
def hasRecords (type : Byte) : Bool := type ≠ 0x01 && type ≠ 0x02 && type ≠ 0x10

/-- Every record of the image, in order. -/
def allRecords (b : List Byte) : Option (List Rec) :=
  (dirs b).foldl
    (fun rs d =>
      match rs with
      | none => none
      | some rs =>
        if hasRecords d.type then (records d.type d.region d.len (payload b d)).map fun x => rs ++ x else some rs)
    (some [])

/-- The payload of the first section of a type. -/
def sectionOf (b : List Byte) (type : Byte) : Option (List Byte) :=
  ((dirs b).find? fun d => d.type = type).map (payload b)

def countOf (b : List Byte) (type : Byte) : Nat := ((dirs b).filter fun d => d.type = type).length

/-- The codes that a region image may carry (R117 Table 3). -/
def regionMayCarry (type : Byte) : Bool :=
  let t := type.toNat
  (2 ≤ t && t ≤ 7) || (9 ≤ t && t ≤ 0x0E)

/-- TARGET and KIND are listed for the section (R117 Table 3). -/
def targetOk (regionImage : Bool) (r : Rec) : Bool :=
  let t := r.target.toNat
  let k := r.kind.toNat
  match r.sec.toNat with
  | 0x03 | 0x04 | 0x05 | 0x0A | 0x0B => t < 256 && k = 0
  | 0x06 => t < 256 && k < 16
  | 0x07 => ((k = 0 || k = 1) && t ≤ 0x13E) || (k = 2 && t = 0 && !regionImage)
  | 0x08 => t < 8 && (k = 0 || k = 1)
  | 0x09 => (t < 16 || t = 0xFFFF) && k < 16
  | 0x0C => t < 4 && k = 0
  | 0x0D => t < 2 && k = 0
  | 0x0E => t < 8 && k = 0
  | 0x0F => t < 6 && k = 0
  | 0x11 => 1 ≤ t && t ≤ 63 && k = 0
  | _ => false

/-! ### GLOBAL (R120) -/

namespace Glo

def profile (g : List Byte) : Nat := numAt g 0 1
def cluster (g : List Byte) : Nat := numAt g 1 1
def channel (g : List Byte) : Nat := numAt g 2 1
def chip (g : List Byte) : Nat := numAt g 4 2
def mhz (g : List Byte) : Nat := numAt g 6 2
def roles (g : List Byte) : List (BitVec 2) :=
  (List.range 256).map fun t => fld (g.getD (64 + t / 4) 0) (2 * (t % 4)) 2

/-- The profiles that PROFILE_LIMIT allows (R682 Table 5). -/
def allowed (limit : BitVec 2) (profile : Nat) : Bool :=
  match limit.toNat with
  | 0 => profile = 0 || profile = 2
  | 1 => profile ≤ 2
  | _ => profile = 2

/-- The field checks of Table 5 and R683. -/
def ok (g : List Byte) (limit : BitVec 2) : Bool :=
  let sat := profile g = 2
  g.length = 128 && profile g ≤ 2 && allowed limit (profile g) &&
    (if sat then cluster g < 16 && channel g < 8 else cluster g = 0 && channel g = 0) &&
    zeroAt g 3 1 && chip g ≠ 0xFFFF && mhz g = (if sat then 800 else 1250) && zeroAt g 8 56

end Glo

/-! ### ALMANAC (R59 to R61, R122) -/

namespace Alma

def dayLen (p : List Byte) : Nat := numAt p 0 4
def vigilLen (p : List Byte) : Nat := numAt p 4 4
def tickTol (p : List Byte) : Nat := numAt p 8 4
def tickSrc (p : List Byte) : Nat := numAt p 12 4
def yearLen (p : List Byte) : Nat := numAt p 16 2
def planCount (p : List Byte) : Nat := numAt p 18 2
def planOff (p : List Byte) : Nat := numAt p 20 4
def yearOff (p : List Byte) : Nat := numAt p 24 4

/-- The 128-byte day-plan records. -/
def planRecs (p : List Byte) : List (List Byte) :=
  (List.range (planCount p)).map fun i => bytesAt p (planOff p + 128 * i) 128

/-- The section entries of a day-plan record, 16 bytes each. -/
def entries (p r : List Byte) : List (List Byte) :=
  (List.range (numAt r 92 4)).map fun j => bytesAt p (numAt r 88 4 + 16 * j) 16

/-- A section entry (R60 Table 2). -/
def entry (e : List Byte) : Section where
  first := numAt e 0 4
  last := numAt e 4 4
  entry := BitVec.ofNat 11 (numAt e 8 2)
  tile := e.getD 10 0
  loose := flag (e.getD 11 0) 0
  region := (e.getD 12 0).setWidth 6

/-- A day plan (R59 Table 1). -/
def plan (p r : List Byte) : DayPlan where
  planId := numAt r 0 2
  dram := (List.range 8).map fun c => BitVec.ofNat 16 (numAt r (8 + 2 * c) 2)
  feasts := (List.range (numAt r 4 1)).map fun f => (numAt r (24 + 8 * f) 4, numAt r (28 + 8 * f) 4)
  sections := (entries p r).map entry

def plans (p : List Byte) : List DayPlan := (planRecs p).map (plan p)

def year (p : List Byte) : List Nat := (List.range (yearLen p)).map fun k => numAt p (yearOff p + 2 * k) 2

/-- Entries sorted by TILE, then by START (R60). -/
def sorted : List Section → Bool
  | a :: b :: t => (a.tile.toNat < b.tile.toNat || (a.tile = b.tile && a.first ≤ b.first)) && sorted (b :: t)
  | _ => true

/-- The reserved fields and bounds of one day-plan record. -/
def planOk (p r : List Byte) : Bool :=
  numAt r 0 2 < 512 && zeroAt r 2 2 && numAt r 4 1 ≤ 8 && zeroAt r 5 3 && zeroAt r 96 32 &&
    (List.range 8).all (fun f => numAt r (24 + 8 * f) 4 < 2 ^ 22 && numAt r (28 + 8 * f) 4 < 2 ^ 22 &&
      (f < numAt r 4 1 || zeroAt r (24 + 8 * f) 8)) &&
    numAt r 92 4 ≤ 16384 && numAt r 88 4 + 16 * numAt r 92 4 ≤ p.length &&
    (entries p r).all (fun e => numAt e 0 4 < 2 ^ 22 && numAt e 4 4 < 2 ^ 22 && numAt e 8 2 < 2 ^ 11 &&
      numAt e 11 1 < 2 && numAt e 12 1 < 64 && zeroAt e 13 3) &&
    sorted ((entries p r).map entry)

/-- The field checks of Table 6, R59, R60, R61 and the first rows of R62. A field that a register takes holds no bit that
the register reserves. -/
def ok (p : List Byte) (regionImage : Bool) : Bool :=
  32 ≤ p.length && dayLen p < 2 ^ 22 && vigilLen p < 2 ^ 17 && tickTol p < 2 ^ 17 && tickSrc p < 32 &&
    1 ≤ yearLen p && yearLen p ≤ 4096 && 1 ≤ planCount p && planCount p ≤ 512 && planOff p % 8 = 0 &&
    yearOff p % 8 = 0 && zeroAt p 28 4 && planOff p + 128 * planCount p ≤ p.length &&
    (planRecs p).all (planOk p) && decide ((plans p).map fun x => x.planId).Nodup &&
    (if regionImage then yearOff p = 0
     else yearOff p + 2 * yearLen p ≤ p.length &&
       (year p).all fun y => y < 512 && (plans p).any fun x => x.planId = y)

end Alma

/-! ### AUTHORITY (R125) -/

def authorityOk (p : List Byte) : Bool :=
  p.length = 80 && (List.range 4).all fun i => numAt p (20 * i + 16) 1 < 2 && zeroAt p (20 * i + 17) 3

def authority (p : List Byte) : List Authority :=
  (List.range 4).map fun i => ⟨BitVec.ofNat 128 (numAt p (20 * i) 16), flag (p.getD (20 * i + 16) 0) 0⟩

/-! ### REGION_MAP (R126 Table 8) -/

/-- The four kinds of extent: IMEM in bundles, CT in entries, SRAM in lines, LUT by number. -/
inductive Store where
  | imem | ct | sram | lut
deriving DecidableEq, Repr

/-- What each store holds. -/
def storeSize : Store → Nat
  | .imem => 2048 | .ct => 1024 | .sram => 16384 | .lut => 16

/-- The places of copy k (0 ACT, 1 SHD) of a region in a store. -/
def inExtent (m : List Byte) (st : Store) (k : Bool) (x : Nat) : Bool :=
  let run (a : Nat) : Bool :=
    let first := numAt m (if k then a + 2 else a) 2
    first ≤ x && x < first + numAt m (a + 4) 2
  match st with
  | .imem => run 4
  | .ct => run 10
  | .sram => run 20
  | .lut => x < 16 && (numAt m (if k then 18 else 16) 2).testBit x

/-- A region's extents apply on tile t. -/
def onMask (m : List Byte) (t : Nat) : Bool := flag (m.getD (32 + t / 8) 0) (t % 8)

/-- Either copy of a region in a store: first place and number of places; for LUTs, see `lutMask`. -/
def runs (m : List Byte) (a : Nat) : List (Nat × Nat) :=
  [(numAt m a 2, numAt m (a + 4) 2), (numAt m (a + 2) 2, numAt m (a + 4) 2)]

/-- Two runs share a place. -/
def meet (a b : Nat × Nat) : Bool := 0 < a.2 && 0 < b.2 && a.1 < b.1 + b.2 && b.1 < a.1 + a.2

def lutMask (m : List Byte) : Nat := numAt m 16 2 ||| numAt m 18 2

/-- How many LUTs a mask names. -/
def lutCount (m : Nat) : Nat := ((List.range 16).filter fun k => m.testBit k).length

/-- The field checks of one record body: reserved bytes, REGION, extents within their stores, copies of equal length (R126),
no copy over the other. -/
def mapOk (r : Rec) : Bool :=
  let m := r.body
  m.length = 64 && numAt m 0 1 = r.target.toNat && zeroAt m 1 3 && zeroAt m 26 6 &&
    [(4, 2048), (10, 1024), (20, 16384)].all (fun s =>
      let rs := runs m s.1
      rs.all (fun x => x.1 + x.2 ≤ s.2) && !(meet (rs.getD 0 (0, 0)) (rs.getD 1 (0, 0)))) &&
    (numAt m 16 2 &&& numAt m 18 2) = 0 && lutCount (numAt m 16 2) = lutCount (numAt m 18 2)

/-- Two regions overlap on a tile that both masks include (R126). -/
def mapsClash (a b : List Byte) : Bool :=
  (List.range 256).any (fun t => onMask a t && onMask b t) &&
    ([4, 10, 20].any (fun s => (runs a s).any fun x => (runs b s).any fun y => meet x y) ||
      (lutMask a &&& lutMask b) ≠ 0)

/-- Every pair of a list passes. -/
def pairs {α : Type} (f : α → α → Bool) : List α → Bool
  | [] => true
  | x :: xs => xs.all (f x) && pairs f xs

/-- The region map (R126): one record per region, no clash. -/
def regionMapOk (rs : List Rec) : Bool :=
  rs.all mapOk && pairs (fun a b => a.target ≠ b.target && !(mapsClash a.body b.body)) rs

end Img

end Sys2Proof.Machine
end

