-- ==== Sys2Proof/Machine/ImageRules.lean ====
section
/-!
DEFINITION. Machine/ImageRules.lean: the checks of step 8 (R129) that the other chapters give, over a list of records and a
chip whose profile, roles, CHIP_ID and almanac lengths are those of the image (R265, R266, R283, R323, R353, R377, R395,
R420, R478, R488, R499, R510, R512, R541, R545, R561, R62, R121).
-/
namespace Sys2Proof.Machine
open Sys2Proof

namespace Chip

/-- The chip as an image's GLOBAL makes it. -/
def asGlobal (c : Chip) (g : List Byte) : Chip :=
  c.onGlb fun x => { x with
    profile := BitVec.ofNat 2 (Img.Glo.profile g)
    satCluster := BitVec.ofNat 4 (Img.Glo.cluster g)
    satChannel := BitVec.ofNat 3 (Img.Glo.channel g)
    cclkMhz := BitVec.ofNat 12 (Img.Glo.mhz g)
    chipId := BitVec.ofNat 16 (Img.Glo.chip g)
    roles := Img.Glo.roles g }

/-- The registers that an image's ALMANAC loads (R104, R122). -/
def asAlmanac (c : Chip) (a : List Byte) : Chip :=
  c.onAlm fun x => { x with
    dayLen := BitVec.ofNat 22 (Img.Alma.dayLen a)
    vigilLen := BitVec.ofNat 17 (Img.Alma.vigilLen a)
    tickTol := BitVec.ofNat 17 (Img.Alma.tickTol a)
    tickSub := BitVec.ofNat 3 (Img.Alma.tickSrc a / 4)
    tickSrc := BitVec.ofNat 2 (Img.Alma.tickSrc a)
    yearLen := BitVec.ofNat 13 (Img.Alma.yearLen a) }

/-- The chip as an image's GLOBAL and ALMANAC make it. -/
def asImage (c : Chip) (g a : List Byte) : Chip := (c.asGlobal g).asAlmanac a

end Chip

namespace Img

/-- The records of one section and KIND. -/
def recsOf (rs : List Rec) (sec kind : Nat) : List Rec := rs.filter fun r => r.sec.toNat = sec && r.kind.toNat = kind

/-- No two records have one identity: section, TARGET and KIND (R128). DRAM day plans have their PLAN_INDEX too. -/
def identitiesOk (rs : List Rec) : Bool :=
  pairs (fun a b => !(a.sec = b.sec && a.target = b.target && a.kind = b.kind))
    (rs.filter fun r => (7 ≤ r.sec.toNat && r.sec.toNat ≤ 0x0F) && !(r.sec = 0x08 && r.kind = 0))

/-! ### Tile stores (R117 Table 3, R121, R126, R127) -/

/-- The store and the places that a tile record writes. -/
def span (r : Rec) : Store × Nat × Nat :=
  let first := numAt r.body 0 4
  let n := r.body.length - 8
  match r.sec.toNat with
  | 3 => (.imem, first, n / 16)
  | 4 => (.sram, first / 32, (n + 31) / 32)
  | 5 => (.ct, first, n / 8)
  | _ => (.lut, r.kind.toNat, 1)

/-- The bits that R197 reserves in a Channel Table entry. -/
def ctReserved : Nat := 0xFFFFFF0000C000E0

/-- The body of a tile record. -/
def tileBodyOk (r : Rec) : Bool :=
  let b := r.body
  let first := numAt b 0 4
  let n := b.length - 8
  match r.sec.toNat with
  | 3 => 8 ≤ b.length && zeroAt b 4 4 && n % 16 = 0 && first + n / 16 ≤ 2048 && first < 2048
  | 4 => 8 ≤ b.length && zeroAt b 4 4 && first % 32 = 0 && first + n ≤ 0x80000
  | 5 => 8 ≤ b.length && zeroAt b 4 4 && first < 1024 && first + n / 8 ≤ 1024 &&
      (List.range (n / 8)).all fun i => (numAt b (8 + 8 * i) 8 &&& ctReserved) = 0
  | 6 => b.length = 256
  | _ => true

/-- The record is one of a tile's stores. -/
def isTileRec (r : Rec) : Bool := 3 ≤ r.sec.toNat && r.sec.toNat ≤ 6

/-- Tile records: their bodies, and no tile that is off or outside the Satchel cluster (R121). -/
def tileRecsOk (g : Chip) (rs : List Rec) : Bool :=
  (rs.filter isTileRec).all fun r => tileBodyOk r && !(g.tileOff (BitVec.ofNat 8 r.target.toNat))

/-- A region image's record writes only the copy that is its shadow, on tiles of its mask (R127). -/
def inShadow (map : List Byte) (copy : Bool) (r : Rec) : Bool :=
  !isTileRec r ||
    (onMask map r.target.toNat &&
      (let s := span r
       (List.range s.2.2).all fun i => inExtent map s.1 (!copy) (s.2.1 + i)))

/-! ### Day plans (R62, R121) -/

/-- Intervals in ascending order, none overlapping. -/
def ascending : List (Nat × Nat) → Bool
  | a :: b :: t => a.2 < b.1 && ascending (b :: t)
  | _ => true

/-- The Feasts of a plan. -/
def feastsOk (g : Chip) (p : DayPlan) : Bool :=
  p.feasts.all (fun f => f.1 ≤ f.2 && f.2 < g.vigilStart) && ascending p.feasts

/-- The sections of a plan. -/
def sectionsOk (g : Chip) (ss : List Section) : Bool :=
  ss.all (fun s => s.first ≤ s.last && s.last < g.vigilStart && !(g.tileOff s.tile)) &&
    pairs (fun a b => a.tile ≠ b.tile || a.last < b.first || b.last < a.first) ss &&
    ss.all fun s => (ss.filter fun x => x.tile = s.tile).length ≤ 64

/-- The DRAM_PLAN fields of a plan. -/
def dramNamesOk (g : Chip) (rs : List Rec) (p : DayPlan) : Bool :=
  (p.dram.zipIdx).all fun x =>
    if x.1 = 0xFFFF then !(g.chanOn (BitVec.ofNat 3 x.2))
    else (recsOf rs 0x08 0).any fun r => r.target.toNat = x.2 && numAt r.body 0 2 = x.1.toNat

/-! ### Router tables (R260, R261, R265, R266, R281, R283) -/

def routerBodyOk (r : Rec) : Bool := r.sec ≠ 0x07 || r.body.length = (if r.kind = 2 then 65536 else 512)

/-- Entry i of a router's table of one KIND. -/
def entryOf (rs : List Rec) (kind : Nat) (r : Eid) (i : Nat) : Byte :=
  match (recsOf rs 0x07 kind).find? fun x => x.target.toNat = r.toNat with
  | some x => x.body.getD i 0
  | none => 0

/-- The routers whose entries R265 checks: every tile router, and the edge router of every assigned endpoint. -/
def covered (g : Chip) : List Eid :=
  ((List.range 512).map fun n => BitVec.ofNat 9 n).filter fun e => isTileEid e || (isEdgeEid e && !(g.unassigned e))

/-- The port of the X-then-Y path from router r to endpoint e. -/
def pathPort (r e : Eid) : RPort :=
  if r = e then .loc
  else if isTileEid r then
    let dest : Nat × RPort :=
      if isTileEid e then (e.toNat, .loc) else match edgeAt e with | some (t, side) => (t.toNat, side) | none => (0, .loc)
    let row := r.toNat / 16
    let col := r.toNat % 16
    if col < dest.1 % 16 then .e
    else if dest.1 % 16 < col then .w
    else if row < dest.1 / 16 then .s
    else if dest.1 / 16 < row then .n
    else dest.2
  else match edgeAt r with | some (_, side) => opposite side | none => .loc

/-- Entries at index 0x1FF from router r lead to an Umaed edge router by X and then Y. -/
def farWalk (rs : List Rec) : Nat → Eid → Bool → Bool → Bool
  | 0, _, _, _ => false
  | fuel + 1, r, movedY, first =>
    match portOf (fldNat (entryOf rs 0 r 0x1FF) 0 3) with
    | none => false
    | some .loc => (Chip.umaedOf r).isSome
    | some p =>
      if !isTileEid r && !first then false
      else
        match neighbour r p with
        | none => false
        | some (u, _) =>
          let inMesh := isTileEid r && isTileEid u
          let moveX := p = .e || p = .w
          if inMesh && moveX && movedY then false else farWalk rs fuel u (movedY || (inMesh && !moveX)) false

/-- The local and far tables of a set of records. -/
def localOk (g : Chip) (rs : List Rec) : Bool :=
  let routers := covered g
  let isValid (i : Nat) : Bool := routers.any fun r => flag (entryOf rs 0 r i) 7
  (recsOf rs 0x07 0).all (fun r => r.body.all fun b => fldNat b 3 4 = 0 && (!flag b 7 || fldNat b 0 3 ≤ 4)) &&
  (recsOf rs 0x07 2).all (fun r => r.body.all fun b =>
    fldNat b 3 4 = 0 && (!flag b 7 || (fldNat b 0 3 ≤ 5 && !g.satchel))) &&
  (List.range 511).all (fun i =>
    let e : Eid := BitVec.ofNat 9 i
    !isValid i || (!(g.unassigned e) && routers.all fun r =>
      let b := entryOf rs 0 r i
      flag b 7 && portOf (fldNat b 0 3) = some (pathPort r e))) &&
  (!isValid 0x1FF || (!g.satchel && routers.all fun r => flag (entryOf rs 0 r 0x1FF) 7 && farWalk rs 40 r false true))

/-- The routers that hold a valid entry for a tree, with its mask. -/
def treeMasks (rs : List Rec) (tree : Nat) : List (Eid × Byte) :=
  ((recsOf rs 0x07 1).map fun r => (BitVec.ofNat 9 r.target.toNat, r.body.getD tree 0)).filter fun x => flag x.2 7

/-- The moves of a tree: from, to, the move is X, the move is Y; none where it leaves the mesh. -/
def treeMoves (ms : List (Eid × Byte)) : List (Option (Eid × Eid × Bool × Bool)) :=
  ms.flatMap fun m =>
    ([RPort.n, .e, .s, .w].filter fun p => flag m.2 (portNo p)).map fun p =>
      (neighbour m.1 p).map fun u =>
        let inMesh := isTileEid m.1 && isTileEid u.1
        let moveX := p = .e || p = .w
        (m.1, u.1, inMesh && moveX, inMesh && !moveX)

/-- From a router up the tree, at most `fuel` moves: no Y move above an X move, no router met again. -/
def climb (moves : List (Eid × Eid × Bool × Bool)) (start : Eid) : Nat → Eid → Bool → Bool
  | 0, _, _ => false
  | fuel + 1, r, sawX =>
    match moves.find? fun m => m.2.1 = r with
    | none => true
    | some m => m.1 ≠ start && !(sawX && m.2.2.2) && climb moves start fuel m.1 (sawX || m.2.2.1)

/-- The multicast trees (R281, R283). -/
def treesOk (rs : List Rec) : Bool :=
  (recsOf rs 0x07 1).all (fun r => r.body.all fun b => !flag b 6) &&
  (List.range 512).all fun tree =>
    let ms := treeMasks rs tree
    let moves := treeMoves ms
    let real := moves.filterMap id
    ms.all (fun m => !flag m.2 5 || (Chip.umaedOf m.1).isSome) && real.length = moves.length &&
      pairs (fun a b => a.2.1 ≠ b.2.1) real && real.all fun m => climb real m.2.1 400 m.2.1 false

/-! ### MEMORY_PLAN (R348, R349, R353, R377) -/

/-- A KIND 1 body (R377 Table 11). -/
def arbiterOk (b : List Byte) : Bool :=
  b.length = 32 && numAt b 0 1 ≤ 2 && numAt b 1 1 ≤ 3 && 1 ≤ numAt b 2 1 && numAt b 2 1 ≤ 2 && zeroAt b 3 1 &&
    numAt b 4 4 < 2 ^ 20 && 1000 ≤ numAt b 8 2 && 256 ≤ numAt b 10 2 && numAt b 10 2 ≤ 4095 && 16 ≤ numAt b 12 1 &&
    zeroAt b 13 19

/-- A plan entry (R348 Table 3). -/
structure PlanEntry where
  cycle : Nat
  op : Nat
  bank : Nat
  col : Nat
  run : Nat
  row : Nat
  tile : Nat
  period : Nat
  line : Nat
deriving DecidableEq, Repr

def planEntry (b : List Byte) (i : Nat) : PlanEntry :=
  let e := bytesAt b (16 + 16 * i) 16
  { cycle := numAt e 0 4, op := numAt e 4 1, bank := numAt e 5 1, col := numAt e 6 1, run := numAt e 7 1, row := numAt e 8 4,
    tile := numAt e 12 1, period := numAt e 13 1, line := numAt e 14 2 }

def planEntries (b : List Byte) : List PlanEntry := (List.range (numAt b 2 2)).map (planEntry b)

def isRd (op : Nat) : Bool := op = 2 || op = 3
def isWr (op : Nat) : Bool := op = 4 || op = 5
def width (op : Nat) : Nat := if op = 3 || op = 5 then 2 else 1

/-- The fields of an entry (R348 Table 3, R353). -/
def entryOk (ranks : Nat) (e : PlanEntry) : Bool :=
  e.cycle < 2 ^ 22 && 1 ≤ e.op && e.op ≤ 0xC && e.bank < 32 && (ranks = 2 || e.bank < 16) &&
    if isRd e.op || isWr e.op then
      e.col + e.run * width e.op ≤ 60 && 1 ≤ e.run && e.run ≤ 60 && 4 ≤ e.period && e.row = 0 &&
        (if isRd e.op then e.line + e.run * width e.op ≤ 16384 else e.line = 0 && e.tile + e.run * width e.op ≤ 64)
    else
      e.col = 0 && e.run = 1 && e.period = 0 && e.tile = 0 &&
        (if e.op = 1 then e.row < 2 ^ 18 && e.line = 0
         else if e.op = 0xC then 1 ≤ e.line && (ranks = 2 || e.row < 2 ^ 16)
         else e.row = 0 && e.line = 0)

/-- The issues of a plan in order of their cycles. -/
def issues (es : List PlanEntry) : List (Nat × PlanEntry) :=
  (es.flatMap fun e => (List.range e.run).map fun k => (e.cycle + k * e.period, e)).insertionSort fun a b => a.1 ≤ b.1

/-- The issues are at least 4 cycles apart. -/
def apart : List (Nat × PlanEntry) → Bool
  | a :: b :: t => a.1 + 4 ≤ b.1 && apart (b :: t)
  | _ => true

/-- The banks of a rank. -/
def rankOfBank (b : Nat) : List Nat := (List.range 16).map fun k => 16 * (b / 16) + k

/-- The banks that an issue touches; an MRR4 and a ZQLAT count as touching every bank of their rank. -/
def touches (e : PlanEntry) : List Nat :=
  if e.op = 7 || e.op = 9 || e.op = 0xA || e.op = 0xB then rankOfBank e.bank else if e.op = 0xC then [] else [e.bank]

/-- The plan run through: open banks, GAPs as first cycle, end and mask; no issue other than GAP from `tail` on. -/
def runPlan (tail : Nat) : List (Nat × PlanEntry) → List Nat → List (Nat × Nat × Nat) → Bool
  | [], open_, _ => open_.isEmpty
  | (t, e) :: rest, open_, gaps =>
    let late := tail ≤ t
    let inGap := gaps.any fun g => t < g.2.1 && (touches e).any fun b => g.2.2.testBit b
    if (late && (!open_.isEmpty || e.op ≠ 0xC)) || inGap then false
    else if e.op = 1 then !(open_.contains e.bank) && runPlan tail rest (e.bank :: open_) gaps
    else if isRd e.op || isWr e.op then open_.contains e.bank && runPlan tail rest open_ gaps
    else if e.op = 6 then open_.contains e.bank && runPlan tail rest (open_.filter fun b => b ≠ e.bank) gaps
    else if e.op = 7 then runPlan tail rest (open_.filter fun b => b / 16 ≠ e.bank / 16) gaps
    else if e.op = 8 then !(open_.contains e.bank) && runPlan tail rest open_ gaps
    else if e.op = 9 then !(open_.any fun b => b / 16 = e.bank / 16) && runPlan tail rest open_ gaps
    else if e.op = 0xC then
      !(open_.any fun b => e.row.testBit b) && runPlan tail rest open_ ((t, t + e.line, e.row) :: gaps)
    else runPlan tail rest open_ gaps

/-- Planned transactions in flight never pass RESV_TAGS: a RD from its issue for RD_LAT cycles, a WR from 4 cycles before
its issue up to it. -/
def inFlightOk (rdLat tags : Nat) (is : List (Nat × PlanEntry)) : Bool :=
  let fs := is.filterMap fun x =>
    if isRd x.2.op then some (x.1 + 4, x.1 + 4 + rdLat, width x.2.op)
    else if isWr x.2.op then some (x.1, x.1 + 4, width x.2.op) else none
  fs.all fun f => ((fs.filter fun h => h.1 ≤ f.1 && f.1 < h.2.1).map fun h => h.2.2).sum ≤ tags

/-- No RD entry of a plan sends to a tile that is off (R121). -/
def planTilesOk (g : Chip) (b : List Byte) : Bool :=
  (planEntries b).all fun e => !(isRd e.op && g.tileOff (BitVec.ofNat 8 e.tile))

/-- A DRAM day plan (R348, R353), with the body of its channel's KIND 1 record. -/
def dayPlanOk (g : Chip) (cfg b : List Byte) : Bool :=
  let es := planEntries b
  let is := issues es
  let ranks := numAt cfg 2 1
  let rdLat := match numAt cfg 0 1 with | 0 => 64 | 1 => 70 | _ => 80
  let tail := g.alm.dayLen.toNat - g.alm.tickTol.toNat - 128
  b.length = 16 + 16 * numAt b 2 2 && numAt b 4 1 ≤ 32 && zeroAt b 5 11 && es.all (entryOk ranks) &&
    decide (es.Pairwise fun x y => x.cycle < y.cycle) && apart is && runPlan tail is [] [] &&
    es.any (fun e => e.op = 0xA) && planTilesOk g b && inFlightOk rdLat (numAt b 4 1) is

/-- MEMORY_PLAN as a whole. -/
def memoryOk (g : Chip) (rs : List Rec) : Bool :=
  let cfgs := recsOf rs 0x08 1
  let days := recsOf rs 0x08 0
  cfgs.all (fun r => arbiterOk r.body) &&
    (List.range 8).all (fun k =>
      let mine := days.filter fun r => r.target.toNat = k
      (!(g.chanOn (BitVec.ofNat 3 k)) || cfgs.any fun r => r.target.toNat = k) &&
        pairs (fun a b => numAt a.body 0 2 ≠ numAt b.body 0 2) mine &&
        (mine.map fun r => numAt r.body 2 2).sum ≤ 32768) &&
    days.all fun r =>
      match cfgs.find? fun x => x.target = r.target with
      | some x => dayPlanOk g x.body r.body
      | none => dayPlanOk g ([0, 3, 2] ++ List.replicate 29 0) r.body

/-! ### UMAED_CONFIG (R322, R323) -/

def umaedBodyOk (b : List Byte) : Bool :=
  b.length = 1104 && numAt b 0 1 < 8 && numAt b 1 1 < 16 && numAt b 2 1 ≤ 7 &&
    (numAt b 3 1 = 1 || numAt b 3 1 = 2 || numAt b 3 1 = 4) && zeroAt b 6 10 &&
    (List.range 512).all fun t => fldNat (b.getD (81 + 2 * t) 0) 1 6 = 0

def umaedOk (g : Chip) (rs : List Rec) : Bool :=
  let cfg := recsOf rs 0x0F 0
  let on (r : Rec) (k : Nat) : Bool := flag (r.body.getD 0 0) k
  let root := cfg.any fun r => on r 2
  let parents := cfg.filter fun r => on r 1
  let enabled := cfg.any fun r => on r 0
  cfg.all (fun r => umaedBodyOk r.body) && cfg.all (fun r => on r 2 = root) && parents.length ≤ 1 &&
    !(root && !parents.isEmpty) && (!enabled || root || !parents.isEmpty) &&
    cfg.all (fun r => !(flag (r.body.getD 1 0) 3 && fldNat (r.body.getD 1 0) 0 2 = 0)) &&
    cfg.all (fun r => numAt r.body 4 2 ≠ g.glb.chipId.toNat) &&
    parents.all (fun r => g.alm.tickSrc = 2 && g.alm.tickSub.toNat = r.target.toNat) && !(g.satchel && enabled)

/-- No region's TILE_MASK names a tile that is off (R121, R126). -/
def masksOk (g : Chip) (rs : List Rec) : Bool :=
  (recsOf rs 0x11 0).all fun r => (List.range 256).all fun t => !(onMask r.body t && g.tileOff (BitVec.ofNat 8 t))

/-! ### SKIVE_TABLES (R394, R395) -/

def skiveOk (rs : List Rec) : Bool :=
  (rs.filter fun r => r.sec = 0x09).all fun r =>
    let lens := (List.range 9).map fun k => numAt r.body k 1
    r.body.length = 16 && lens.all (fun n => 1 ≤ n && n ≤ 6) && zeroAt r.body 10 6 &&
      (lens.map fun n => 2 ^ (6 - n)).sum ≤ 64

/-! ### KV_CLASSES (R419, R420) -/

def kvBodyOk (g : Chip) (rs : List Rec) (b : List Byte) : Bool :=
  let m := Kv.mode b
  let entries := Kv.planes b * Kv.split b
  let j := Kv.descCount b
  numAt b 0 1 < 16 && numAt b 1 1 ≤ 1 && 1 ≤ Kv.planes b && Kv.planes b ≤ 64 && 1 ≤ Kv.split b && Kv.split b ≤ 16 &&
    entries ≤ 256 && b.length = 40 + 8 * entries && Kv.walkerNo b ≤ 15 &&
    (if m ≤ 1 then numAt b 5 1 = 0 else 1 ≤ numAt b 5 1 && numAt b 5 1 ≤ 16) && numAt b 6 1 ≤ 8 &&
    1 ≤ Kv.low b && Kv.low b ≤ 8 && Kv.descFirst b ≤ 255 && 1 ≤ j && j ≤ 256 && Kv.listFirst b ≤ 16383 &&
    4 ≤ Kv.budget b && Kv.budget b ≤ 1024 && 4 ≤ Kv.frames b && Kv.frames b ≤ Kv.budget b &&
    Kv.frames b % Kv.split b = 0 && Kv.lpChannel b ≤ 7 && numAt b 19 1 < 64 && Kv.lpBase b % 2048 = 0 &&
    (if m = 3 then 2 ≤ Kv.ringSize b && Kv.ringSize b ≤ 32 && Kv.ringPos b < Kv.ringSize b else Kv.ringSize b = 0) &&
    zeroAt b 30 2 && zeroAt b 36 4 &&
    (List.range entries).all (fun i =>
      let at_ := 40 + 8 * i
      let t : TileId := BitVec.ofNat 8 (Kv.mapTile b i)
      zeroAt b (at_ + 1) 1 && Kv.mapBase b i < 16384 && numAt b (at_ + 4) 2 < 16384 && numAt b (at_ + 6) 2 < 16384 &&
        (i % Kv.split b = 0 || zeroAt b (at_ + 4) 4) && !(g.tileOff t) &&
        Kv.mapBase b i * 32 + j * Kv.frames b / Kv.split b * 8192 ≤ 0x80000) &&
    Kv.descFirst b + j ≤ 256 && Kv.listFirst b + j * Kv.budget b ≤ 16384 &&
    (Kv.direct b || numAt b 6 1 = 0) && !(2 ≤ m && Kv.dropClass b) && !(m = 3 && (numAt b 19 1 = 0 || g.satchel)) &&
    (Kv.dropClass b ||
      (g.chanOn (BitVec.ofNat 3 (Kv.lpChannel b)) &&
        (recsOf rs 0x08 1).any fun r => r.target.toNat = Kv.lpChannel b &&
          Kv.lpBase b + j * Kv.planes b * Kv.budget b * 16384 ≤ 2 ^ (30 + numAt r.body 1 1))) &&
    (!g.satchel || Kv.walkerNo b = g.glb.satCluster.toNat)

/-- Two ranges share a number. -/
def rangesMeet (a n b m : Nat) : Bool := a < b + m && b < a + n

def kvOk (g : Chip) (rs : List Rec) : Bool :=
  let ks := (recsOf rs 0x0A 0).map fun r => r.body
  ks.all (kvBodyOk g rs) &&
    pairs (fun a b => Kv.walkerNo a ≠ Kv.walkerNo b ||
      (!(rangesMeet (Kv.descFirst a) (Kv.descCount a) (Kv.descFirst b) (Kv.descCount b)) &&
       !(rangesMeet (Kv.listFirst a) (Kv.descCount a * Kv.budget a) (Kv.listFirst b) (Kv.descCount b * Kv.budget b)))) ks

/-! ### Streams, session classes, I2S ports (R478, R486, R488, R499, R510, R512) -/

/-- The entries of a STREAM_PLAN body. -/
def streamEntries (b : List Byte) : List (List Byte) :=
  (List.range (numAt b 0 4)).map fun i => bytesAt b (8 + 24 * i) 24

def streamEntryOk (g : Chip) (sfe : Nat) (e : List Byte) : Bool :=
  let out := numAt e 2 1 = 1
  numAt e 0 2 / 1024 = sfe && numAt e 2 1 ≤ 1 && numAt e 3 1 ≤ 3 && numAt e 4 1 ≤ 31 && zeroAt e 7 1 && zeroAt e 10 2 &&
    zeroAt e 16 8 &&
    (if out then zeroAt e 5 2 && zeroAt e 8 2 && zeroAt e 12 4
     else 1 ≤ numAt e 5 1 && numAt e 5 1 ≤ 16 && !(g.tileOff (e.getD 6 0)) && numAt e 8 2 < 16384 &&
       numAt e 12 4 < 2 ^ 22 && numAt e 12 4 + 7 < g.vigilStart)

def streamsOk (g : Chip) (rs : List Rec) : Bool :=
  (recsOf rs 0x0C 0).all fun r =>
    let es := streamEntries r.body
    r.body.length = 8 + 24 * numAt r.body 0 4 && zeroAt r.body 4 4 && es.all (streamEntryOk g r.target.toNat) &&
      pairs (fun a b => numAt a 0 2 ≠ numAt b 0 2) es

/-- The direction of a stream in these records, none where no entry names it. -/
def streamDir (rs : List Rec) (s : Nat) : Option Bool :=
  (recsOf rs 0x0C 0).findSome? fun r =>
    ((streamEntries r.body).find? fun e => numAt e 0 2 = s).map Chip.isOutput

/-- An AUDIO_CONFIG body (R510 Table 7, R512). -/
def audioBodyOk (g : Chip) (b : List Byte) : Bool :=
  let inp := Chip.inEn b
  let div := numAt b 8 2 * 2 ^ 24 + numAt b 10 3
  let want := 64 * numAt b 4 4 * div
  let have_ := 10 ^ 9 * 2 ^ 24
  b.length = 32 && numAt b 0 1 < 8 && numAt b 1 1 ≤ 2 && numAt b 2 1 ≤ 31 &&
    (if inp then 1 ≤ numAt b 3 1 && numAt b 3 1 ≤ 16 && !(g.tileOff (b.getD 13 0)) else numAt b 3 1 = 0) &&
    8000 ≤ numAt b 4 4 && numAt b 4 4 ≤ 96000 && 2 ≤ numAt b 8 2 && numAt b 8 2 ≤ 4095 && numAt b 14 2 < 16384 &&
    numAt b 16 4 < 2 ^ 22 && numAt b 16 4 + 6 < g.vigilStart && zeroAt b 22 10 &&
    (flag (b.getD 0 0) 2 || (have_ * 10 ^ 6 ≤ want * (10 ^ 6 + 20) && want * (10 ^ 6 - 20) ≤ have_ * 10 ^ 6))

/-- The port channels of an I2S session class, by role. -/
def i2sRoles (b : List Byte) : List (Nat × Nat) := (List.range 4).map fun k => (k, numAt b (20 + k) 1)

def sessionBodyOk (g : Chip) (rs : List Rec) (b : List Byte) : Bool :=
  let i2s := Chip.sesI2s b
  let first := Chip.slotFirst b
  let n := Chip.slotCount b
  let kvs := numAt b 1 1
  b.length = 32 && numAt b 0 1 < 4 && kvs ≤ 4 && first ≤ 1023 && 1 ≤ n && n ≤ 1024 && first + n ≤ 1024 &&
    (if i2s then numAt b 6 2 = 0 else numAt b 6 2 % 4 = 0) && zeroAt b 24 8 &&
    (List.range 4).all (fun k => k < kvs || numAt b (12 + 2 * k) 2 = 0xFFFF) &&
    (List.range kvs).all (fun k => (recsOf rs 0x0A 0).any fun r =>
      r.target.toNat = numAt b (12 + 2 * k) 2 && 2 * n ≤ Kv.descCount r.body) &&
    (if i2s then
       n ≤ 1 && (i2sRoles b).all fun x =>
         x.2 < 16 &&
           (recsOf rs 0x0E 0).any fun r => r.target.toNat = x.2 % 8 &&
             (if x.1 < 2 then Chip.inEn r.body else Chip.outEn r.body) && (!g.satchel || x.2 % 8 < 2)
     else
       zeroAt b 20 4 && (List.range (4 * n)).all fun k =>
         streamDir rs (numAt b 6 2 + k) = some (decide (2 ≤ k % 4)) && (!g.satchel || numAt b 6 2 + k < 16))

def sessionsOk (g : Chip) (rs : List Rec) : Bool :=
  let cs := (recsOf rs 0x0B 0).map fun r => r.body
  let channels (b : List Byte) : List (Bool × Nat) :=
    if Chip.sesI2s b then (i2sRoles b).map fun x => (decide (x.1 < 2), x.2) else []
  cs.all (sessionBodyOk g rs) &&
    pairs (fun a b => !(rangesMeet (Chip.slotFirst a) (Chip.slotCount a) (Chip.slotFirst b) (Chip.slotCount b)) &&
      (Chip.sesI2s a || Chip.sesI2s b ||
        !(rangesMeet (Chip.streamFirst a) (4 * Chip.slotCount a) (Chip.streamFirst b) (4 * Chip.slotCount b))) &&
      !((Chip.sesKv a).any fun k => (Chip.sesKv b).contains k) &&
      !((channels a).any fun k => (channels b).contains k)) cs &&
    (!g.satchel || (cs.map Chip.slotCount).sum ≤ 4)

/-- SPD is a number that R478 allows, where the records need it. -/
def spdOk (g : Chip) (rs : List Rec) : Bool :=
  let needs := (recsOf rs 0x0C 0).any (fun r => 0 < numAt r.body 0 4) || !(recsOf rs 0x0B 0).isEmpty ||
    (recsOf rs 0x0E 0).any fun r => Chip.inEn r.body || Chip.outEn r.body
  let f := if g.satchel then 800000000 else 1250000000
  let n := 16000 * g.alm.dayLen.toNat
  !needs || (n % f = 0 && [1, 2, 4, 8, 16, 32].contains (n / f))

/-! ### FRONTHAUL_PLAN (R541, R545, R560, R561) -/

/-- The extents of an output entry: tile, first line, lines. -/
def outExtents (e : List Byte) : List (Nat × Nat × Nat) :=
  (List.range (numAt e 2 1)).map fun k => (numAt e (4 + 6 * k) 1, numAt e (6 + 6 * k) 2, numAt e (8 + 6 * k) 2)

def antennaOk (g : Chip) (e : List Byte) : Bool :=
  numAt e 2 1 < 4 && numAt e 3 1 < 16 && !(g.tileOff (e.getD 4 0)) && numAt e 5 1 ≤ 31 && numAt e 6 2 < 16384 &&
    Fh.startPrb e ≤ 272 && 1 ≤ Fh.nPrb e && Fh.startPrb e + Fh.nPrb e ≤ 273 && numAt e 12 2 < 4096 &&
    numAt e 12 2 % 2 = 0 && zeroAt e 14 2

def outputOk (g : Chip) (e : List Byte) : Bool :=
  numAt e 0 1 < 4 && numAt e 1 1 ≤ 1 && 1 ≤ numAt e 2 1 && numAt e 2 1 ≤ 4 && zeroAt e 3 1 && zeroAt e 28 4 &&
    (List.range 4).all fun k =>
      if k < numAt e 2 1 then
        zeroAt e (5 + 6 * k) 1 && numAt e (6 + 6 * k) 2 < 16384 && 1 ≤ numAt e (8 + 6 * k) 2 &&
          numAt e (8 + 6 * k) 2 ≤ 8192 && !(g.tileOff (e.getD (4 + 6 * k) 0))
      else zeroAt e (4 + 6 * k) 6

/-- The areas of tile SRAM that a port's records and extents take: tile, first line, lines. -/
def portAreas (b : List Byte) : List (Nat × Nat × Nat) :=
  ((Fh.entries b).map fun e => (numAt e 4 1, numAt e 6 2, 28 * Fh.recLines e)) ++
    ((Fh.outputs b).flatMap outExtents).map fun x => (x.1, x.2.1, 2 * x.2.2)

def portOk (g : Chip) (b : List Byte) : Bool :=
  let es := Fh.entries b
  let os := Fh.outputs b
  let l := g.alm.dayLen.toNat
  let lines := (es.map fun e => 14 * Fh.recLines e).sum
  64 ≤ b.length && numAt b 0 1 < 32 && (flag (b.getD 0 0) 3 || numAt b 1 1 = 0) && numAt b 2 2 < 4096 &&
    1 ≤ Fh.entryCount b && Fh.entryCount b ≤ 64 && Fh.tickSym b ≤ 13 && numAt b 12 4 < 2 ^ 22 && numAt b 16 4 < 2 ^ 22 &&
    numAt b 20 4 < 2 ^ 22 && numAt b 24 2 < 2 ^ 15 && Fh.spsLog2 b ≤ 3 && zeroAt b 27 1 && Fh.outCount b ≤ 8 &&
    zeroAt b 29 35 && b.length = 64 + 16 * Fh.entryCount b + 32 * Fh.outCount b &&
    es.all (antennaOk g) && os.all (outputOk g) &&
    pairs (fun x y => Fh.pcId x ≠ Fh.pcId y) es &&
    pairs (fun x y => !(numAt x 0 1 = numAt y 0 1 && numAt x 1 1 = numAt y 1 1)) os &&
    (!Fh.enabled b ||
      (l * 2 ^ Fh.spsLog2 b = 1250000 && Fh.earlyWin b + 1024 ≤ l && Fh.lateWin b + 1 + lines < g.vigilStart &&
        !g.satchel))

def fronthaulOk (g : Chip) (rs : List Rec) : Bool :=
  let bs := (recsOf rs 0x0D 0).map fun r => r.body
  let areas := bs.flatMap portAreas
  let sectors (b : List Byte) : List Nat :=
    (Fh.entries b).map Fh.sector ++ (Fh.outputs b).map fun o => numAt o 0 1
  bs.all (portOk g) &&
    pairs (fun x y => !(Fh.sector x = Fh.sector y && Fh.ant x = Fh.ant y)) (bs.flatMap Fh.entries) &&
    pairs (fun x y => !((sectors x).any fun s => (sectors y).contains s)) bs &&
    areas.all (fun a => a.2.1 + a.2.2 ≤ 16384) &&
    pairs (fun a b => a.1 ≠ b.1 || !(rangesMeet a.2.1 a.2.2 b.2.1 b.2.2)) areas

/-! ### All of them -/

/-- The checks over the records of the image, a region image's as merged. -/
def recordsOk (g : Chip) (rs : List Rec) : Bool :=
  identitiesOk rs && rs.all routerBodyOk && localOk g rs && treesOk rs && skiveOk rs && kvOk g rs && streamsOk g rs &&
    (recsOf rs 0x0E 0).all (fun r => audioBodyOk g r.body) && sessionsOk g rs && spdOk g rs && fronthaulOk g rs

/-- The day plans. -/
def plansOk (g : Chip) (rs : List Rec) (ps : List DayPlan) : Bool :=
  ps.all fun p => feastsOk g p && sectionsOk g p.sections && dramNamesOk g rs p

end Img

end Sys2Proof.Machine
end

