-- ==== Sys2Proof/Machine/Frames.lean ====
section
/-!
DEFINITION. Machine/Frames.lean: what an Umaed link puts on its lanes (07_umaed, R297, R298, R302, R311; 17_package, R729):
a frame's 5,140 bits, the scrambler, the RS(544,514) code and the symbols of each lane; and what wrong symbols do.
-/
namespace Sys2Proof.Machine
open Sys2Proof

namespace Uml

/-- Frame period, slot-0 hop and mark lag of a WIDTH code (R299 Table 1). -/
def period (w : BitVec 2) : Nat := match w.toNat with | 0 => 32 | 1 => 64 | _ => 128
def hop (w : BitVec 2) : Nat := match w.toNat with | 0 => 180 | 1 => 212 | _ => 276
def lag (w : BitVec 2) : Nat := match w.toNat with | 0 => 212 | 1 => 276 | _ => 404

/-! ### Lanes (R309, R311, R729) -/

/-- The lanes that a mask holds. -/
def laneCount (m : BitVec 4) : Nat := b1 (flag m 0) + b1 (flag m 1) + b1 (flag m 2) + b1 (flag m 3)

/-- The lanes that a link of this width runs on (R311): all four; 0 and 1 if both work, otherwise 2 and 3; the lowest that
works. -/
def activeLanes (lanes : BitVec 4) (w : BitVec 2) : List (BitVec 2) :=
  match w.toNat with
  | 0 => [0, 1, 2, 3]
  | 1 => if flag lanes 0 && flag lanes 1 then [0, 1] else [2, 3]
  | 2 => ([0, 1, 2, 3].filter fun k : BitVec 2 => flag lanes k.toNat).take 1
  | _ => []

/-- The lanes of a WIDTH code. -/
def lanesOf (w : BitVec 2) : Nat := match w.toNat with | 0 => 4 | 1 => 2 | _ => 1

/-- The working lanes carry a width (R311): every lane it would run on works. -/
def carries (lanes : BitVec 4) (w : BitVec 2) : Bool :=
  !(activeLanes lanes w).isEmpty && (activeLanes lanes w).all fun k => flag lanes k.toNat

/-- The widths that the working lanes allow, not below MIN_WIDTH: [0] four, [1] two, [2] one (R303, R309, R311). -/
def offered (lanes : BitVec 4) (minWidth : Nat) : BitVec 3 :=
  let ok (w : BitVec 2) : Nat := b1 (carries lanes w && minWidth ≤ lanesOf w)
  BitVec.ofNat 3 (ok 0 + 2 * ok 1 + 4 * ok 2)

/-- The widest of a set of widths (R311). -/
def widest (ws : BitVec 3) : Option (BitVec 2) :=
  if flag ws 0 then some 0 else if flag ws 1 then some 1 else if flag ws 2 then some 2 else none

/-- The widths that are no wider than this one. -/
def noWider (w : BitVec 2) : BitVec 3 := BitVec.allOnes 3 <<< w.toNat

/-- The transmitter taps of a TX_PRESET, in hundredths of the peak swing (R729 Table 9). -/
def tapsOf (preset : Nat) : Taps :=
  match preset with
  | 0 => ⟨0, 100, 0⟩
  | 1 => ⟨-5, 95, 0⟩
  | 2 => ⟨0, 90, -10⟩
  | 3 => ⟨-5, 85, -10⟩
  | 4 => ⟨-10, 80, -10⟩
  | 5 => ⟨0, 80, -20⟩
  | 6 => ⟨-10, 70, -20⟩
  | _ => ⟨-15, 65, -20⟩

/-! ### A frame's bits (R302) -/

/-- The control field (R302 Table 2). -/
def controlBits (ftype : BitVec 4) (f : Frame) : Nat :=
  let valid := (f.packets.map fun sp => 2 ^ sp.1).foldl (· ||| ·) 0
  ftype.toNat + valid * 2 ^ 4 + f.fseq.toNat * 2 ^ 17 + b1 f.mark * 2 ^ 25 + f.markOfs.toNat * 2 ^ 26 +
    f.markDay.toNat * 2 ^ 33 + f.skew.toNat * 2 ^ 49 + f.sentA.toNat * 2 ^ 65 + f.sentB.toNat * 2 ^ 73 +
    f.retA.toNat * 2 ^ 81 + f.retB.toNat * 2 ^ 89 + f.width.toNat * 2 ^ 97

/-- What IDENT puts into slot 0 (R303 Table 3). -/
def identBits (i : Ident) : Nat :=
  leNat (leBytes 2 i.chip.toNat ++ [BitVec.ofNat 8 i.link, i.widths.setWidth 8, i.stepping])

/-- The message of a codeword (R302): slot s stands at bit 148 + 384 s, byte 0 lowest. -/
def frameBits (ftype : BitVec 4) (f : Frame) (ident : Option Ident) : BitVec 5140 :=
  let slot (sp : Nat × Packet) : Nat := leNat (headerBytes sp.2 ++ lineBytes sp.2.payload) * 2 ^ (148 + 384 * sp.1)
  let body := match ident with
    | some i => identBits i * 2 ^ 148
    | none => (f.packets.map slot).foldl (· ||| ·) 0
  BitVec.ofNat 5140 (controlBits ftype f ||| body)

/-! ### Scrambler and code (R297, R298; log 120) -/

/-- The scrambler over the next n bits of x, n at most 39: each goes out XORed with those sent 39 and 58 bits before it.
`s` holds the last 58 bits sent, the oldest lowest. -/
def scrambleStep (s x n : Nat) : Nat × Nat :=
  let y := (x ^^^ (s >>> 19) ^^^ s) % 2 ^ n
  (y, (s >>> n) ||| (y <<< (58 - n)))

/-- A message scrambled, bit 0 first, with the scrambler's next state. -/
def scramble (s : BitVec 58) (m : BitVec 5140) : BitVec 5140 × BitVec 58 :=
  let r := (List.replicate 131 39 ++ [31]).foldl
    (fun (a : Nat × Nat × Nat) n =>
      let (y, s) := scrambleStep a.2.2 (m.toNat >>> a.2.1) n
      (a.1 ||| (y <<< a.2.1), a.2.1 + n, s))
    (0, 0, s.toNat)
  (BitVec.ofNat 5140 r.1, BitVec.ofNat 58 r.2.2)

/-- The field of 2^10 elements that x^10 + x^3 + 1 gives: times x, and times. -/
def gfX (a : BitVec 10) : BitVec 10 := if a.msb then (a <<< 1) ^^^ 0b1001 else a <<< 1
def gfMul (a b : BitVec 10) : BitVec 10 :=
  (List.range 10).foldr (fun i acc => gfX acc ^^^ (if flag a i then b else 0)) 0

/-- The generator polynomial, the product of x - a^j for j from 0 to 29 with a the element x: its coefficients below
x^30, the highest first. -/
def rsGen : List (BitVec 10) :=
  ((List.range 30).foldl
    (fun (ga : List (BitVec 10) × BitVec 10) _ =>
      (List.zipWith (· ^^^ ·) (ga.1 ++ [0]) (0 :: ga.1.map (gfMul ga.2)), gfX ga.2))
    ([1], 1)).1.tail

/-- The 30 parity symbols of a message, whose first symbol is its highest coefficient. -/
def rsParity (g : List (BitVec 10)) (m : List (BitVec 10)) : List (BitVec 10) :=
  m.foldl
    (fun r x =>
      let t := x ^^^ r.headD 0
      List.zipWith (· ^^^ ·) (r.tail ++ [0]) (g.map (gfMul t)))
    (List.replicate 30 0)

/-- The 544 symbols of a codeword. -/
def codeword (m : BitVec 5140) : List (BitVec 10) :=
  let ms := (List.range 514).map fun k => m.extractLsb' (10 * k) 10
  ms ++ rsParity rsGen ms

/-- The symbols that each lane carries: round-robin, symbol 0 on the lowest (R298). -/
def spread (lanes : List (BitVec 2)) (cs : List (BitVec 10)) : List (BitVec 2 × List (BitVec 10)) :=
  lanes.zipIdx.map fun ki => (ki.1, (cs.zipIdx.filter fun ci => ci.2 % lanes.length = ki.2).map fun ci => ci.1)

/-! ### Wrong symbols (R297, R307, R313) -/

/-- The wrong symbols of a received codeword, each once. -/
def wrong (f : Fec) : List (Fin 544) := (List.finRange 544).filter fun k => f.wrong.contains k

/-- The codeword can be corrected: up to 15 symbols are wrong. -/
def correctable (f : Fec) : Bool := (wrong f).length ≤ 15

/-- The lanes that hold at least 8 uncorrectable symbols in this codeword (R313): wrong ones where it cannot be corrected
(log 121). -/
def badLanes (lanes : List (BitVec 2)) (f : Fec) : List (BitVec 2) :=
  if correctable f then []
  else (lanes.zipIdx.filter fun ki =>
    8 ≤ ((wrong f).filter fun (k : Fin 544) => k.val % lanes.length = ki.2).length).map fun ki => ki.1

end Uml

end Sys2Proof.Machine
end

