-- ==== Sys2Proof/Machine/Umaed.lean ====
section
/-!
DEFINITION. Machine/Umaed.lean: the Umaed links (07_umaed): frames taken up and received, credits and lost packets, training
and width, day marks and the muster. A received frame's row stands at cycle f + H - 1 of R300, its receive delay over
(log 44).
-/
namespace Sys2Proof.Machine
open Sys2Proof

namespace Chip

/-- The UMAED_CONFIG body of link n (R322). -/
def umlCfg (c : Chip) (n : Fin 6) : List Byte := match c.findRec 0x0F 0 n.val with | some r => r.body | none => []

def umlParent (c : Chip) (n : Fin 6) : Bool := flag ((c.umlCfg n).getD 0 0) 1
def minWidth (c : Chip) (n : Fin 6) : Nat := max 1 (numAt (c.umlCfg n) 3 1)
def peerChip (c : Chip) (n : Fin 6) : BitVec 16 := BitVec.ofNat 16 (numAt (c.umlCfg n) 4 2)

/-- The widths link n offers now: those its lanes carry, none wider than a lane failure left (R311, R314). -/
def umlOffer (c : Chip) (n : Fin 6) : BitVec 3 :=
  Uml.offered (c.link n).lanesOk (c.minWidth n) &&& Uml.noWider (c.link n).cap

/-! ### States (R309 to R316) -/

/-- The VC0 packets that wait at a link that leaves UP are late (R315, R271). -/
def lateEgress (c : Chip) (n : Fin 6) : Chip :=
  (((c.link n).egress.filter fun f => f.pkt.vc = 0).foldl (fun c f => c.vc0Late (eidUmaed n) f.pkt)) c

/-- Rows of link n's training that are no longer to come. -/
def umlForget (c : Chip) (n : Fin 6) : Chip :=
  c.unpost fun i => i = .adaptTimeout n || i = .identEnd n || i = .alignDone n || i = .echoRspSend n || i = .frameSend n

/-- Link n enters a state; its frames start with the next cycle where it sends any. -/
def umlEnter (c : Chip) (n : Fin 6) (st : BitVec 3) : Chip :=
  let c := if (c.link n).state = 5 && st ≠ 5 then c.lateEgress n else c
  (c.umlForget n).onLink n fun l => { l with
    state := st
    gotIdent := if st = 3 then false else l.gotIdent
    echoes := if st = 4 then 0 else l.echoes
    echoWait := false
    received := 0
    badFrames := []
    downed := if st = 5 then false else l.downed
    markDue := if st = 5 then l.markDue else none
    nextFrame := c.now + 1 }

/-- ENABLE takes a value: 1 leaves OFF for DETECT, 0 enters OFF (R309, R333). -/
def umlEnable (c : Chip) (n : Fin 6) (on : Bool) : Chip :=
  let c := c.onLink n fun l => { l with enable := on, cap := if l.state = 0 then 0 else l.cap }
  if !on then c.umlEnter n 0 else if (c.link n).state = 0 then c.umlEnter n 1 else c

/-- RETRAIN (R314): the link may become wider again. -/
def umlRetrain (c : Chip) (n : Fin 6) : Chip :=
  if (c.link n).state = 0 then c else (c.onLink n fun l => { l with cap := 0 }).umlEnter n 1

/-- UML_CTL is written (R16, R314, R333). -/
def umlCtlWritten (c : Chip) (n : Fin 6) (enable retrain : Bool) : Chip :=
  if c.satchel then c
  else
    let c := if c.hns.sealed then c else c.umlEnable n enable
    if retrain then c.umlRetrain n else c

/-- A pass through ADAPT, IDENT or ALIGN fails (R310). -/
def trainFail (c : Chip) (n : Fin 6) : Chip :=
  let st := (c.link n).state
  ((c.onLink n fun l => { l with trainCnt := satInc l.trainCnt, cause := st }).logFault 0x4003 (eidUmaed n) n.val
    st.toNat).umlEnter n 1

/-- Signal on some lanes in DETECT (R309). -/
def umlDetect (c : Chip) (n : Fin 6) (lanes : BitVec 4) : Chip :=
  if (c.link n).state = 1 && c.minWidth n ≤ Uml.laneCount lanes then
    ((c.onLink n fun l => { l with lanesOk := lanes }).umlEnter n 2).post 1250000 (.adaptTimeout n)
  else c

/-- The width that frames of a link in training have: the widest its lanes carry (log 45). -/
def trainWidth (c : Chip) (n : Fin 6) : BitVec 2 := (Uml.widest (c.umlOffer n)).getD 2

/-- The lanes adapt (R309): IDENT lasts 64 frame periods. -/
def umlAdapted (c : Chip) (n : Fin 6) (lanes : BitVec 4) : Chip :=
  let ok := (c.link n).lanesOk &&& lanes
  if (c.link n).state = 2 && c.minWidth n ≤ Uml.laneCount ok then
    let c := (c.onLink n fun l => { l with lanesOk := ok, peerWidths := 0, width := 0 }).umlEnter n 3
    let w := c.trainWidth n
    (c.onLink n fun l => { l with width := w }).post (64 * Uml.period w) (.identEnd n)
  else c

/-- IDENT ends (R309, R310, R311). -/
def umlIdentEnd (c : Chip) (n : Fin 6) : Chip :=
  let l := c.link n
  if l.state ≠ 3 then c
  else
    match Uml.widest (c.umlOffer n &&& l.peerWidths) with
    | some w =>
      if l.gotIdent && l.peer = c.peerChip n then (c.onLink n fun l => { l with width := w }).umlEnter n 4
      else c.trainFail n
    | none => c.trainFail n

/-- A response to an ECHO_REQ (R312): after the sixteenth, IDLE_TRAIN goes on for at most 256 frame periods (log 8). -/
def umlEcho (c : Chip) (n : Fin 6) (roundTrip : BitVec 16) : Chip :=
  let l := c.link n
  if l.state = 4 && l.echoWait && l.echoes < 16 then
    let c := c.onLink n fun l => { l with echoes := l.echoes + 1, echoWait := false, rounds := roundTrip.toNat - 64 }
    if l.echoes + 1 = 16 then c.post (256 * Uml.period l.width) (.alignDone n) else c
  else c

/-- ALIGN ends (R309, R312). -/
def umlAligned (c : Chip) (n : Fin 6) : Chip :=
  let l := c.link n
  if l.state = 4 && l.echoes = 16 then
    let d := l.rounds / 2
    let c := c.onLink n fun l => { l with delay := BitVec.ofNat 32 d }
    if 16 < d then c.trainFail n else c.umlEnter n 5
  else c

/-- A lane fails in UP (R313, R309). When no width is left the link goes down, and the width code logged is free
(log 46). -/
def umlLaneFail (c : Chip) (n : Fin 6) (lane : BitVec 2) : Chip :=
  let l := c.link n
  if l.state = 5 && flag l.lanesOk lane.toNat then
    let lanes := l.lanesOk &&& ~~~((1 : BitVec 4) <<< lane.toNat)
    let c := c.onLink n fun l => { l with lanesOk := lanes, degraded := true }
    match Uml.widest (c.umlOffer n &&& l.peerWidths &&& Uml.noWider l.width) with
    | some w =>
      ((c.logFault 0x4004 (eidUmaed n) n.val (lanes.toNat + 256 * w.toNat)).onLink n fun l =>
        { l with width := w, cap := w }).umlEnter n 4
    | none =>
      let (w, c) := c.drawBits 2
      (c.logFault 0x4004 (eidUmaed n) n.val (lanes.toNat + 256 * w.toNat)).post 0 (.linkDown n)
  else c

/-- The link enters DOWN and drops what it queues (R309, R316). -/
def umlDown (c : Chip) (n : Fin 6) : Chip :=
  let l := c.link n
  if l.state = 5 && (Uml.widest (c.umlOffer n &&& l.peerWidths)).isNone then
    let lost := l.egress
    let c := (c.umlEnter n 6).logFault 0x4005 (eidUmaed n) n.val 0
    let c := c.onLink n fun l => { l with downed := true, egress := [], downDrop := satAdd l.downDrop lost.length }
    lost.foldl (fun c f => if isRequest f.pkt then c.send (eidUmaed n) (poisonResponse f.pkt) else c) c
  else c

/-! ### Frames sent (R302 to R305, R309, R324) -/

/-- The order in which VCs fill slots (R304). -/
def slotOrder (p : Packet) : Nat := match p.vc.toNat with | 0 => 0 | 3 => 1 | 2 => 2 | _ => 3

/-- A queued packet can fill a slot now: it has come, and its pool has a credit. -/
def canFill (l : Link) (now : Nat) (f : Queued) : Bool := f.ready ≤ now && poolFree l (poolKey f.pkt) ≠ 0

/-- The packet that fills the next slot (R304): of the first VC that has one, from the next input in turn, its oldest. -/
def nextSlot (l : Link) (now : Nat) : Option Queued :=
  (l.egress.filter (canFill l now)).foldl
    (fun best f =>
      let dist (q : Queued) : Nat := (q.input + 13 - tget 0 l.turn q.pkt.vc.toNat) % 13
      match best with
      | none => some f
      | some b =>
        if slotOrder f.pkt < slotOrder b.pkt ∨ (slotOrder f.pkt = slotOrder b.pkt ∧ dist f < dist b) then some f else some b)
    none

/-- At most n slots of a frame filled, and the link then: each packet is gone from its queue, a credit of its pool is used,
and the turn of its VC passes on. -/
def fillSlots (now : Nat) : Nat → Link → List Packet × Link
  | 0, l => ([], l)
  | n + 1, l =>
    match nextSlot l now with
    | none => ([], l)
    | some f =>
      let k := poolKey f.pkt
      let v := f.pkt.vc.toNat
      let (ps, l) := fillSlots now n { l with
        egress := l.egress.erase f
        sentCum := tput 0 l.sentCum k (tget 0 l.sentCum k + 1)
        turn := tput 0 l.turn v ((f.input + 1) % 13) }
      (f.pkt :: ps, l)

/-- A frame with some packets starts on link n: its control field, its codeword on the active lanes (R297, R298, R302,
R324). -/
def sendFrame (c : Chip) (n : Fin 6) (ftype : BitVec 4) (ps : List Packet) (ident : Option Ident := none) : Chip :=
  let l := c.link n
  let v := l.fseq.toNat % 4
  let mark := ftype = 0 && (match l.markDue with | some (k, _) => decide (k < c.now) | none => false)
  let (k, d) := l.markDue.getD (0, 0)
  let f : Frame :=
    { fseq := l.fseq
      mark := mark
      markOfs := if mark then BitVec.ofNat 7 (c.now - k - 1) else 0
      markDay := if mark then d else 0
      skew := c.uml.skew
      sentA := tget 0 l.sentCum (2 * v)
      sentB := tget 0 l.sentCum (2 * v + 1)
      retA := tget 0 l.freed (2 * v)
      retB := tget 0 l.freed (2 * v + 1)
      width := l.width
      packets := (ps.zipIdx).map fun p => (p.2, p.1) }
  let (bits, scr) := Uml.scramble l.scr (Uml.frameBits ftype f ident)
  (c.onLink n fun l => { l with
    scr := scr
    fseq := l.fseq + 1
    markDue := if mark then none else l.markDue }).emit
      (.umaed n ftype f ident (Uml.spread (Uml.activeLanes l.lanesOk l.width) (Uml.codeword bits)))

/-- A DATA frame starts (R304): it takes what its slots hold from the egress queues; VC0 packets that it leaves for the
first time are late (R271). -/
def sendData (c : Chip) (n : Fin 6) : Chip :=
  let (ps, l) := fillSlots c.now 13 (c.link n)
  let c := (c.onLink n fun _ => l).sendFrame n 0 ps
  let late := l.egress.filter fun f => f.pkt.vc = 0 && f.ready ≤ c.now && c.now < f.ready + Uml.period l.width
  late.foldl (fun c f => c.vc0Late (eidUmaed n) f.pkt) c

/-- A frame of link n starts, and the next one a frame period later. -/
def umlFrame (c : Chip) (n : Fin 6) : Chip :=
  let l := c.link n
  if c.now < l.nextFrame || l.state.toNat < 3 || 5 < l.state.toNat then c
  else
    let c := match l.state.toNat with
      | 3 =>
        c.sendFrame n 2 []
          (some ⟨c.glb.chipId, n.val, c.umlOffer n, match c.glb.stepping with | .a0 => 0xA0 | .a1 => 0xA1 | .b0 => 0xB0⟩)
      | 4 =>
        if l.echoes < 16 then
          if l.echoWait then c else (c.sendFrame n 3 []).onLink n fun l => { l with echoWait := true }
        else c.sendFrame n 1 []
      | _ => c.sendData n
    c.onLink n fun l => { l with nextFrame := c.now + Uml.period l.width }

/-! ### Frames received (R300, R303, R306 to R308, R318 to R320) -/

/-- A packet that came over link n in slot s goes on: into the mesh at the edge router, or to the link that leads to its
chip (R250, R263, R318, R320). -/
def umlPacket (c : Chip) (n : Fin 6) (s : Nat) (p : Packet) : Chip :=
  let e := eidUmaed n
  let mesh (c : Chip) (p : Packet) : Chip :=
    if p.vc = 1 then c.onLink n fun l => { l with coming := l.coming ++ [⟨p, c.now + s⟩] }
    else c.onEndp e fun x => { x with outq := x.outq ++ [⟨p, c.now + s⟩] }
  if p.mc then
    let entry : BitVec 16 := BitVec.ofNat 16 (numAt (c.umlCfg n) (80 + 2 * p.deid.toNat) 2)
    if flag entry 15 then mesh c (remark { p with deid := fld entry 0 9 })
    else (c.freePool n p).dropAt e p .noEid
  else if c.isHere p.dchip then mesh c p
  else
    match c.farLink p.dchip with
    | some m => (c.freePool n p).egress m (some n) (6 + n.val) p (1 + s)
    | none => (c.freePool n p).dropAt e p .noChip

/-- One packet of a good frame: its CRC is checked (R254, R308), its pool takes it. -/
def umlTake (c : Chip) (n : Fin 6) (s : Nat) (p : Packet) : Chip :=
  if p.crc ≠ packetCrc p then
    (c.onLink n fun l => { l with crcDrop := satInc l.crcDrop }).logFault 0x4002 (eidUmaed n) n.val (headerDetail p).toNat
  else
    let k := poolKey p
    (c.onLink n fun l => { l with rcvd := tput 0 l.rcvd k (tget 0 l.rcvd k + 1) }).umlPacket n s p

/-- The VC1 packets that leave link n's receiver by now join its queue at the edge router (R272, R300). -/
def umlComing (c : Chip) (n : Fin 6) : Chip :=
  let l := c.link n
  match l.coming.filter fun f => f.ready ≤ c.now with
  | [] => c
  | fs =>
    (c.onLink n fun l => { l with coming := l.coming.filter fun f => c.now < f.ready }).onEndp (eidUmaed n) fun x =>
      { x with queue := x.queue ++ fs.map fun f => f.pkt }

/-- The credits of one pool in a good frame (R306). Outside UP the egress queues receive none (R315): the count shows them
in the first frame after. -/
def umlCredits (c : Chip) (n : Fin 6) (k : Nat) (sent ret : Byte) : Chip :=
  c.onLink n fun l =>
    let lost := sent - tget 0 l.rcvd k
    { l with
      rcvd := tput 0 l.rcvd k sent
      freed := tput 0 l.freed k (tget 0 l.freed k + lost)
      lost := satAdd l.lost lost.toNat
      retSeen := if l.state = 5 then tput 0 l.retSeen k ret else l.retSeen }

/-- Both pools of the frame's VC. -/
def umlGood (c : Chip) (n : Fin 6) (f : Frame) : Chip :=
  let v := f.fseq.toNat % 4
  (c.umlCredits n (2 * v) f.sentA f.retA).umlCredits n (2 * v + 1) f.sentB f.retB

/-- A frame that a receiver discards and counts (R302, R303). -/
def umlBad (c : Chip) (n : Fin 6) : Chip := c.onLink n fun l => { l with badFrame := satInc l.badFrame }

/-- A received codeword's part in the test of R313: a lane that holds at least 8 uncorrectable symbols in more than 16 of the
last 1,024 frames fails. -/
def umlLanes (c : Chip) (n : Fin 6) (fec : Fec) : Chip :=
  let l := c.link n
  if l.state ≠ 5 then c
  else
    let lanes := Uml.activeLanes l.lanesOk l.width
    let bad := (l.badFrames.filter fun b => l.received < b.1 + 1023) ++
      (Uml.badLanes lanes fec).map fun k => (l.received, k)
    let c := c.onLink n fun l => { l with received := l.received + 1, badFrames := bad }
    (lanes.filter fun k => 16 < (bad.filter fun b => b.2 = k).length).foldl (fun c k => c.post 0 (.laneFail n k)) c

/-- A codeword arrives on link n (R297, R302, R303, R306, R307, R313), `take` being what its frame does by its type. A link
that sends no frames receives none. -/
def umlFrameIn (c : Chip) (n : Fin 6) (r : Codeword) (take : Chip → Chip) : Chip :=
  let st := (c.link n).state.toNat
  if st < 3 || 5 < st then c
  else if Uml.correctable r.fec then
    let c := if (Uml.wrong r.fec).isEmpty then c else c.onLink n fun l => { l with fecCorr := satInc l.fecCorr }
    let c := c.umlLanes n r.fec
    if r.frame.width = 3 then c.umlBad n else (take c).umlGood n r.frame
  else
    ((c.onLink n fun l => { l with fecUncorr := satInc l.fecUncorr }).logFault 0x4001 (eidUmaed n) n.val
      r.frame.fseq.toNat).umlLanes n r.fec

/-- What a good DATA frame does in UP (R303, R325): its packets are taken, its mark is to register. -/
def umlData (c : Chip) (n : Fin 6) (f : Frame) : Chip :=
  if (c.link n).state ≠ 5 then c
  else
    let c := f.packets.foldl (fun c sp => c.umlTake n sp.1 sp.2) c
    if f.mark then c.post (Uml.period (c.link n).width - f.markOfs.toNat) (.markRegister n f.markDay f.skew) else c

/-- A good IDENT frame (R303, R309, R311). -/
def umlIdent (c : Chip) (n : Fin 6) (i : Ident) : Chip :=
  if (c.link n).state = 3 then c.onLink n fun l => { l with peer := i.chip, peerWidths := i.widths, gotIdent := true } else c

/-! ### Day marks (R324 to R330) -/

/-- The last cycle of this chip's recent day with these low bits. -/
def dayEndOf (c : Chip) (d : BitVec 16) : Option Nat := (c.uml.dayEnds.reverse.find? fun x => x.1 = d).map fun x => x.2

/-- The check of a mark on a running chip (R327): at once, or at the end of the day that runs (log 47). -/
def checkMark (c : Chip) (n : Fin 6) (d : BitVec 16) (e : Int) : Chip :=
  if c.alm.dayCount.setWidth 16 = d && !c.alm.dayEnded then
    { c with uml := { c.uml with early := c.uml.early ++ [(n, d, c.now, e)] } }
  else
    match c.dayEndOf d with
    | some k => c.judgeMark n d c.now e k
    | none => c.logFault 0x3006 (eidUmaed n) n.val ((c.link n).markOffset.toNat + d.toNat * 2 ^ 32)

/-- A mark registers (R325 to R330). -/
def umlMark (c : Chip) (n : Fin 6) (d skew : BitVec 16) : Chip :=
  let lag := Uml.lag (c.link n).width
  let parent := c.umlParent n
  let c : Chip := if parent then { c with uml := { c.uml with skew := skew + BitVec.ofNat 16 lag } } else c
  if c.alm.armed then
    if !parent then c
    else if d = 0xFFFF then
      let c := c.onLink n fun l => { l with markOffset := 0 }
      if c.alm.day0At.isNone then c.day0In 1 else c
    else c.logFault 0x3006 (eidUmaed n) n.val ((c.link n).markOffset.toNat + d.toNat * 2 ^ 32)
  else if c.alm.running then
    let c := if parent then c.tick (.peer n) else c
    if (c.link n).state = 5 then c.checkMark n d ((skew.toNat : Int) + lag - c.uml.skew.toNat) else c
  else c

end Chip

/-! ### The rows -/

/-- FRAME_SEND (R302, R304, R305, R309, R324). -/
def execFrameSend (n : Fin 6) (s : State) : Host.Outcome State Fault Refusal := s.run fun c => c.umlFrame n

/-- DATA_FRAME (R300, R302, R303, R306, R307, R308, R318, R320, R325). -/
def execDataFrame (n : Fin 6) (f : Frame) (fec : Fec) (s : State) : Host.Outcome State Fault Refusal :=
  s.run fun c => c.umlFrameIn n ⟨f, fec⟩ fun c => c.umlData n f

/-- IDLE_TRAIN (R303, R306). -/
def execIdleTrain (n : Fin 6) (r : Codeword) (s : State) : Host.Outcome State Fault Refusal :=
  s.run fun c => c.umlFrameIn n r id

/-- IDENT (R303, R306, R309, R311). -/
def execIdent (n : Fin 6) (body : Ident) (r : Codeword) (s : State) : Host.Outcome State Fault Refusal :=
  s.run fun c => c.umlFrameIn n r fun c => c.umlIdent n body

/-- ECHO_REQ (R303, R306): its answer goes 64 cycles on. -/
def execEchoReq (nr : Fin 6 × Codeword) (s : State) : Host.Outcome State Fault Refusal :=
  s.run fun c => c.umlFrameIn nr.1 nr.2 fun c => if (c.link nr.1).state = 4 then c.post 64 (.echoRspSend nr.1) else c

/-- ECHO_RSP_SEND (R303). -/
def execEchoRspSend (n : Fin 6) (s : State) : Host.Outcome State Fault Refusal :=
  s.run fun c => if (c.link n).state = 4 then c.sendFrame n 4 [] else c

/-- ECHO_RSP (R306, R309, R312). -/
def execEchoRsp (nr : Fin 6 × Codeword) (roundTrip : BitVec 16) (s : State) : Host.Outcome State Fault Refusal :=
  s.run fun c => c.umlFrameIn nr.1 nr.2 fun c => c.umlEcho nr.1 roundTrip

/-- RESERVED_FRAME (R302, R303). -/
def execReservedFrame (n : Fin 6) (s : State) : Host.Outcome State Fault Refusal := s.run fun c => c.umlBad n

/-- MARK_REGISTER (R325, R326, R327, R329, R330). -/
def execMarkRegister (n : Fin 6) (markDay skew : BitVec 16) (s : State) : Host.Outcome State Fault Refusal :=
  s.run fun c => c.umlMark n markDay skew

/-- LANE_SIGNAL_DETECT (R309). -/
def execLaneSignalDetect (n : Fin 6) (lanes : BitVec 4) (s : State) : Host.Outcome State Fault Refusal :=
  s.run fun c => c.umlDetect n lanes

/-- ADAPT_DONE (R309). -/
def execAdaptDone (n : Fin 6) (lanes : BitVec 4) (s : State) : Host.Outcome State Fault Refusal :=
  s.run fun c => c.umlAdapted n lanes

/-- ADAPT_TIMEOUT (R309, R310). -/
def execAdaptTimeout (n : Fin 6) (s : State) : Host.Outcome State Fault Refusal :=
  s.run fun c => if (c.link n).state = 2 then c.trainFail n else c

/-- IDENT_END (R309, R310, R311). -/
def execIdentEnd (n : Fin 6) (s : State) : Host.Outcome State Fault Refusal := s.run fun c => c.umlIdentEnd n

/-- ALIGN_DONE (R309, R310, R312). -/
def execAlignDone (n : Fin 6) (s : State) : Host.Outcome State Fault Refusal := s.run fun c => c.umlAligned n

/-- LANE_FAIL (R313). -/
def execLaneFail (n : Fin 6) (lane : BitVec 2) (s : State) : Host.Outcome State Fault Refusal :=
  s.run fun c => c.umlLaneFail n lane

/-- LINK_DOWN (R309, R316). -/
def execLinkDown (n : Fin 6) (s : State) : Host.Outcome State Fault Refusal := s.run fun c => c.umlDown n

/-- RETRAIN: UML_CTL written with RETRAIN 1 (R314, R333). -/
def execRetrain (n : Fin 6) (enable : Bool) (s : State) : Host.Outcome State Fault Refusal :=
  s.run fun c =>
    if c.ready then c.umlCtlWritten n enable true else c

/-- LINK_ENABLE: UML_CTL written with RETRAIN 0 (R309, R333). ENABLE is locked by the seal (R16, R151). -/
def execLinkEnable (n : Fin 6) (enable : Bool) (s : State) : Host.Outcome State Fault Refusal :=
  s.run fun c => if c.ready then c.umlCtlWritten n enable false else c

end Sys2Proof.Machine
end

