-- ==== Sys2Proof/Machine/Harness.lean ====
section
/-!
DEFINITION. Machine/Harness.lean: the harness loader (03_harness): verification in the order of Table 4, full loads, DDR
training, boot from flash, region images and their switch, the seal.
-/
namespace Sys2Proof.Machine
open Sys2Proof

/-- What a verification ends with: the failed step of Table 4, 0 for none, and the completion status (R129, R139). -/
structure Verdict where
  step : Nat
  status : Byte
deriving DecidableEq, Repr

namespace Img

/-- Every step passed. -/
def pass : Verdict := ⟨0, 0x00⟩

/-- Step n of Table 4 failed. -/
def failAt (n : Nat) : Verdict :=
  ⟨n, match n with | 3 | 9 => 0x06 | 4 | 10 => 0x08 | 5 | 7 => 0x07 | _ => 0x04⟩

/-- The tiles that a record names. -/
def tilesOf (r : Rec) : List Nat :=
  let b := r.body
  match r.sec.toNat with
  | 3 | 4 | 5 | 6 => [r.target.toNat]
  | 7 => if r.target.toNat < 256 then [r.target.toNat] else []
  | 0x0A => (List.range (Kv.planes b * Kv.split b)).map (Kv.mapTile b)
  | 0x0C => ((streamEntries b).filter fun e => numAt e 2 1 = 0).map fun e => numAt e 6 1
  | 0x0D => (portAreas b).map fun a => a.1
  | 0x0E => if Chip.inEn b then [numAt b 13 1] else []
  | _ => []

/-- The record has two copies when a region owns it (R128). -/
def isOwned (r : Rec) : Bool := r.sec = 0x07 || (9 ≤ r.sec.toNat && r.sec.toNat ≤ 0x0E)

/-- The identity of a record (R128). -/
def identity (r : Rec) : Byte × BitVec 16 × Byte := (r.sec, r.target, r.kind)

end Img

namespace Chip

/-! ### Images as the loader reads them (R134, R156) -/

/-- n bytes of the image that a job names, from byte k of it, as its memory holds them now. -/
def jobBytes (c : Chip) (j : LoadJob) (k n : Nat) : List Byte :=
  mread (if j.fromFlash then c.flash else c.hostMem) (j.place + k) n

/-- The image's length: the command's, or, at boot, TOTAL_LENGTH (R679). -/
def jobLength (c : Chip) (j : LoadJob) : Nat := if j.fromBoot then Img.total c.hns.read else j.length

/-- The job is a full load. -/
def isFull (j : LoadJob) : Bool := j.opcode = 0x10

/-- The region whose image the job verifies, none of a full load. -/
def jobRegion (j : LoadJob) : Option (BitVec 6) := if isFull j then none else some j.region

/-! ### What is in force, and what a region image makes of it (R124, R128, R131) -/

/-- The REGION_MAP body of region r. -/
def regionMap (c : Chip) (r : BitVec 6) : Option (List Byte) := (c.findRec 0x11 0 r.toNat).map fun x => x.body

/-- Records with those of a region replaced by its image's. -/
def mergeRecs (rs : List Rec) (x : BitVec 6 × RegionImage) : List Rec :=
  rs.filter (fun r => r.region ≠ x.1) ++ x.2.records.filter fun r => !(Img.isTileRec r)

/-- Day plans with the sections of a region replaced by its image's (R124). -/
def mergePlans (ps : List DayPlan) (x : BitVec 6 × RegionImage) : List DayPlan :=
  ps.map fun p =>
    let new := match x.2.plans.find? fun q => q.1 = p.planId with | some q => q.2 | none => []
    { p with sections := p.sections.filter (fun s => s.region ≠ x.1) ++ new }

/-- The images that wait for their switch, of regions other than r. -/
def pendingImages (c : Chip) (r : BitVec 6) : List (BitVec 6 × RegionImage) :=
  c.hns.regions.filterMap fun kr =>
    if kr.1 = r.toNat ∨ kr.2.state = 0 then none else kr.2.image.map fun i => (BitVec.ofNat 6 kr.1, i)

/-- The content of a region image. -/
def regionImage (b : List Byte) (rs : List Rec) : RegionImage :=
  { id := Img.harnessId b, records := rs,
    plans := match Img.sectionOf b 0x02 with
      | some a => (Img.Alma.plans a).map fun p => (p.planId, p.sections)
      | none => [] }

/-! ### Step 8 (R129) -/

/-- Step 8 of a full image, its records given. -/
def fullOk (c : Chip) (b : List Byte) (rs : List Rec) : Bool :=
  match Img.sectionOf b 0x01, Img.sectionOf b 0x02 with
  | some g, some a =>
    Img.countOf b 0x01 = 1 && Img.countOf b 0x02 = 1 && Img.countOf b 0x11 = 1 && Img.countOf b 0x10 ≤ 1 &&
      Img.Glo.ok g c.glb.profileLimit && Img.Alma.ok a false &&
      (match Img.sectionOf b 0x10 with | some p => Img.authorityOk p | none => true) &&
      rs.all (Img.targetOk false) && Img.regionMapOk (Img.recsOf rs 0x11 0) &&
      (let m := c.asImage g a
       Img.masksOk m rs && Img.tileRecsOk m rs && Img.plansOk m rs (Img.Alma.plans a) && Img.recordsOk m rs && Img.memoryOk m rs &&
         Img.umaedOk m rs)
  | _, _ => false

/-- R128: the identity belongs to region r or to none, and no image of another region that waits carries it. -/
def mayOwn (c : Chip) (r : BitVec 6) (x : Rec) : Bool :=
  (match c.hns.owners.find? fun o => o.1 = Img.identity x with | some o => o.2 = r | none => true) &&
    !((c.pendingImages r).any fun p => p.2.records.any fun y => Img.isOwned y && Img.identity y = Img.identity x)

/-- The merged image passes with these further images in place (R131). -/
def mergedOk (c : Chip) (xs : List (BitVec 6 × RegionImage)) : Bool :=
  (xs.foldl mergePlans c.hns.plans).all (fun p => Img.sectionsOk c p.sections) &&
    Img.recordsOk c (xs.foldl mergeRecs c.hns.records)

/-- Step 8 of an image of region r, its records given (R117, R119, R121, R123, R127, R128, R131). -/
def regionOk (c : Chip) (r : BitVec 6) (b : List Byte) (rs : List Rec) : Bool :=
  match c.regionMap r with
  | none => false
  | some map =>
    let image := regionImage b rs
    let pend := c.pendingImages r
    (Img.dirs b).all (fun d => Img.regionMayCarry d.type) && Img.countOf b 0x02 ≤ 1 && rs.all (Img.targetOk true) &&
      Img.tileRecsOk c rs && rs.all (fun x => Img.inShadow map (c.region r).copy x && (Img.tilesOf x).all (Img.onMask map)) &&
      rs.all (fun x => !(Img.isOwned x) || c.mayOwn r x) &&
      (match Img.sectionOf b 0x02 with | some a => Img.Alma.ok a true | none => true) &&
      image.plans.all (fun p => p.2.all fun s => s.region = r && Img.onMask map s.tile.toNat) &&
      c.mergedOk [(r, image)] && pend.all (fun p => c.mergedOk [p, (r, image)]) && c.mergedOk (pend ++ [(r, image)])

/-- Step 9: the ALMANAC header and plan fields equal those in force (R123): of the header, the ALM registers as they stand,
which a host may have rewritten since the load (log 50). PLAN_COUNT and PLAN_OFFSET describe the payload
itself and are not compared (log 50). -/
def almanacEqual (c : Chip) (a : List Byte) : Bool :=
  Img.Alma.dayLen a = c.alm.dayLen.toNat && Img.Alma.vigilLen a = c.alm.vigilLen.toNat &&
    Img.Alma.tickTol a = c.alm.tickTol.toNat &&
    Img.Alma.tickSrc a = c.alm.tickSub.toNat * 4 + c.alm.tickSrc.toNat && Img.Alma.yearLen a = c.alm.yearLen.toNat &&
    (Img.Alma.plans a).all fun p => c.hns.plans.any fun q => q.planId = p.planId && q.dram = p.dram && q.feasts = p.feasts

/-! ### Verification (R129, R130, R139) -/

/-- The stepping's bit in STEPPING_MASK. -/
def steppingBit (c : Chip) : Nat := match c.glb.stepping with | .a0 => 0 | .a1 => 1 | .b0 => 2

/-- Steps 1 to 4, which the header alone decides: of an image of `len` bytes, a full one or one of region r. -/
def verifyHead (c : Chip) (b : List Byte) (len : Nat) (r : Option (BitVec 6)) : Verdict :=
  if Img.magic b ≠ [0x4C, 0x58, 0x48, 0x4E] then Img.failAt 1
  else if !(Img.headerOk b len) then Img.failAt 2
  else if (match r with | some r => !(Img.isRegion b && Img.updateRegion b = r.toNat) | none => false) then ⟨0, 0x04⟩
  else if !((Img.steppings b).testBit c.steppingBit) ||
      (Img.isRegion b && !(c.hns.loaded && Img.baseId b = c.hns.id)) then Img.failAt 3
  else if c.glb.secureBoot && !(Img.signed b && BitVec.ofNat 256 (leNat (sha256 (Img.publicKey b))) = c.glb.keyDigest) then
    Img.failAt 4
  else Img.pass

/-- Steps 5 to 10, over the bytes that have been read. -/
def verifyRest (c : Chip) (b : List Byte) (r : Option (BitVec 6)) : Verdict :=
  let rs := (Img.allRecords b).getD []
  if Img.computed b ≠ Img.digest b then Img.failAt 5
  else if !(Img.dirOk b) then Img.failAt 6
  else if !(Img.digestsOk b) then Img.failAt 7
  else if (Img.allRecords b).isNone || !(match r with | some r => c.regionOk r b rs | none => c.fullOk b rs) then
    Img.failAt 8
  else if Img.isRegion b && !(match Img.sectionOf b 0x02 with | some a => c.almanacEqual a | none => true) then
    Img.failAt 9
  else if Img.signed b &&
      !(ecdsaOk (Img.digest b) (bytesAt b 64 32) (bytesAt b 96 32) (bytesAt b 128 32) (bytesAt b 160 32)) then
    Img.failAt 10
  else Img.pass

/-- The verdict on an image of `len` bytes: the first step of Table 4 that fails. -/
def verify (c : Chip) (b : List Byte) (len : Nat) (r : Option (BitVec 6)) : Verdict :=
  if c.verifyHead b len r ≠ Img.pass then c.verifyHead b len r else c.verifyRest b r

/-- The first job's verdict, on exactly the bytes that were read (R156). -/
def jobVerdict (c : Chip) (j : LoadJob) : Verdict := c.verify c.hns.read (c.jobLength j) (jobRegion j)

/-- HNS_STATUS records a failed step (R129). -/
def noteFailure (c : Chip) (v : Verdict) : Chip :=
  if v.step = 0 then c else c.onHns fun h => { h with failStep := BitVec.ofNat 8 v.step, failStatus := v.status }

/-! ### What an image writes into the tiles (R117 Table 3, R163) -/

/-- One tile record written. -/
def writeTileRec (c : Chip) (r : Rec) : Chip :=
  let first := numAt r.body 0 4
  let data := r.body.drop 8
  c.onTile (BitVec.ofNat 8 r.target.toNat) fun t =>
    match r.sec.toNat with
    | 3 =>
      let put (m : Table (BitVec 128)) (i : Nat) : Table (BitVec 128) :=
        tput 0 m (first + i) (BitVec.ofNat 128 (numAt data (16 * i) 16))
      { t with imem := (List.range (data.length / 16)).foldl put t.imem }
    | 4 => { t with sram := mwrite t.sram first data }
    | 5 =>
      let put (m : Table (BitVec 64)) (i : Nat) : Table (BitVec 64) :=
        tput 0 m (first + i) (BitVec.ofNat 64 (numAt data (8 * i) 8))
      { t with ct := (List.range (data.length / 8)).foldl put t.ct }
    | 6 =>
      let put (m : Table Byte) (i : Nat) : Table Byte := tput 0 m (256 * r.kind.toNat + i) (r.body.getD i 0)
      { t with lut := (List.range 256).foldl put t.lut }
    | _ => t

def writeTileRecs (c : Chip) (rs : List Rec) : Chip := (rs.filter Img.isTileRec).foldl writeTileRec c

/-- The Channel Table and LUT entries of a region's shadow copy hold zero where the image does not write them (R146). -/
def zeroShadow (c : Chip) (map : List Byte) (copy : Bool) : Chip :=
  ((List.range 256).filter (Img.onMask map)).foldl
    (fun c k => c.onTile (BitVec.ofNat 8 k) fun t =>
      { t with
        ct := t.ct.filter fun e => !(Img.inExtent map .ct (!copy) e.1)
        lut := t.lut.filter fun e => !(Img.inExtent map .lut (!copy) (e.1 / 256)) })
    c

/-- What AUDIO_CONFIG and FRONTHAUL_PLAN load into registers, at a full load or a copy switch (R146, R524, R560; AUD_GAIN at
a switch, log 107). -/
def loadPortRegs (c : Chip) (r : Rec) : Chip :=
  let n := r.target.toNat
  match r.sec.toNat with
  | 0x0E => if h : n < 8 then c.onAud ⟨n, h⟩ fun p => { p with
      div := BitVec.ofNat 12 (numAt r.body 8 2)
      frac := BitVec.ofNat 24 (numAt r.body 10 3)
      gain := BitVec.ofNat 16 (numAt r.body 20 2) } else c
  | 0x0D => if h : n < 2 then c.onFh ⟨n, h⟩ fun p => { p with dayOfs := Fh.dayOfs r.body } else c
  | _ => c

/-- The same registers where the image that takes over holds no record for the port: zero (R146). -/
def zeroPortRegs (c : Chip) (r : Rec) : Chip :=
  let n := r.target.toNat
  match r.sec.toNat with
  | 0x0E => if h : n < 8 then c.onAud ⟨n, h⟩ fun p => { p with div := 0, frac := 0, gain := 0 } else c
  | 0x0D => if h : n < 2 then c.onFh ⟨n, h⟩ fun p => { p with dayOfs := 0 } else c
  | _ => c

/-! ### Reading an image (R132, R136, R142, R156, R679) -/

/-- A record that a load has just read goes into its structure: of a full load a tile record, a port's registers or
ARB_MODE (R136); of a region image a tile record of its shadow copies (R142). A tile record whose body is not one of
Table 3 writes nothing (log 52). -/
def writeRec (c : Chip) (j : LoadJob) (r : Rec) : Chip :=
  if Img.isTileRec r then
    if r.target.toNat < 256 && Img.tileBodyOk r &&
        (isFull j ||
          match c.regionMap j.region with
          | some map => Img.inShadow map (c.region j.region).copy r
          | none => false) then c.writeTileRec r else c
  else if !(isFull j) then c
  else if r.sec = 0x08 && r.kind = 1 && r.target.toNat < 8 then
    c.onChan (BitVec.ofNat 3 r.target.toNat) fun k => { k with arbMode := BitVec.ofNat 20 (numAt r.body 4 4) }
  else c.loadPortRegs r

/-- The sections whose payload has come in whole since `before` bytes had been read go into their structures (R104, R136,
R142). -/
def sectionsRead (c : Chip) (j : LoadJob) (before : Nat) : Chip :=
  let b := c.hns.read
  let now := (Img.dirs b).filter fun d =>
    256 + 32 * Img.sectionCount b ≤ d.off && before < d.off + d.len && d.off + d.len ≤ b.length
  now.foldl
    (fun c d =>
      if d.type = 0x02 then (if isFull j then c.asAlmanac (Img.payload b d) else c)
      else if Img.hasRecords d.type then
        ((Img.records d.type d.region d.len (Img.payload b d)).getD []).foldl (fun c r => c.writeRec j r) c
      else c) c

/-- How many bytes the loader reads of the job's image: all of them, up to the limit, and no more than the header where a
step up to 4 fails. A boot learns TOTAL_LENGTH from the header. -/
def jobNeed (c : Chip) (j : LoadJob) : Nat :=
  let b := c.hns.read
  if b.length < 256 then (if j.fromBoot then 256 else min 256 j.length)
  else if c.verifyHead b (c.jobLength j) (jobRegion j) ≠ Img.pass then 256
  else min (c.jobLength j) 0x10000000

/-- The job's image has bytes that are still to be read. -/
def fetching (c : Chip) (j : LoadJob) : Bool := c.hns.read.length < c.jobNeed j

/-- Cycles from one read of the job's memory to the next: 8 bytes a cycle from host memory, 25 MB/s from flash (R132, R679;
log 49). -/
def fetchTime (j : LoadJob) : Nat := if j.fromFlash then 50 else 1

/-- The next bytes of the image are read and hashed; after the last a signed image takes its 480,000 cycles (R132). -/
def readMore (c : Chip) (j : LoadJob) : Chip :=
  let before := c.hns.read.length
  let bs := c.jobBytes j before (min (if j.fromFlash then 1 else 8) (c.jobNeed j - before))
  let c := (c.onHns fun h => { h with read := h.read ++ bs }).sectionsRead j before
  let next :=
    if c.fetching j then fetchTime j
    else if Img.signed c.hns.read && c.verifyHead c.hns.read (c.jobLength j) (jobRegion j) = Img.pass then 480000
    else 0
  c.onHns fun h => { h with left := next }

/-- The loader works for a cycle (R132, R48). -/
def loaderCycle (c : Chip) : Chip :=
  match c.hns.jobs with
  | [] => c
  | j :: _ =>
    if !c.hns.busy || c.hns.left = 0 || (c.alm.inFeast && !j.fromFlash && c.fetching j) then c
    else if c.fetching j && c.hns.left = 1 then c.readMore j
    else c.onHns fun h => { h with left := h.left - 1 }

/-! ### The loader's queue (R585) -/

/-- No harness is in force (R135, R137): its structures, identity and profile go; every region is IDLE. -/
def dropHarness (c : Chip) : Chip :=
  let c := c.onHns fun h => { h with
    loaded := false, signed := false, source := 0, id := 0, digest := 0, records := [], plans := [], year := []
    authority := [], owners := [], waitDdr := none
    regions := (h.regions.map fun (kr : Nat × Region) => (kr.1, { Region.init with day := kr.2.day })).filter fun kr =>
      kr.2 ≠ Region.init }
  c.onGlb fun g => { g with
    profile := 3, satCluster := 0, satChannel := 0, cclkMhz := 0, chipId := 0xFFFF, roles := [] }

/-- Every buckle's count and the flags of its BKL_CTL go (R605): NOTIFY is one of them, the number in VECTOR is none
(log 114). -/
def zeroBuckles (c : Chip) : Chip :=
  let bs : Table Buckle := c.bkl.file.map fun (kb : Nat × Buckle) => (kb.1, { Buckle.init with vector := kb.2.vector })
  c.onBkl fun k => { k with file := bs.filter fun kb => kb.2 ≠ Buckle.init }

/-- A job's completion; a boot has none. -/
def completeJob (c : Chip) (j : LoadJob) (status : Byte) (step : Nat) (result : BitVec 64) : Chip :=
  if j.fromBoot then c else c.complete j.src j.tag j.opcode status (BitVec.ofNat 8 step) result

/-- The RESULT of a failed HARNESS_REGION is not stated: the apply day of Table 5 is a free value (R589). -/
def failJob (c : Chip) (j : LoadJob) (status : Byte) (step : Nat) : Chip :=
  let (r, c) := c.drawBits 64
  c.completeJob j status step r

/-- Full loads at the head of the queue that a START or a SEAL has overtaken are refused when their turn comes (R133,
R151). -/
def refuseStale (c : Chip) : Chip :=
  if c.alm.running || c.alm.armed || c.hns.sealed then
    let stale := c.hns.jobs.takeWhile isFull
    let c := c.onHns fun h => { h with jobs := h.jobs.dropWhile isFull }
    stale.foldl (fun c j => c.failJob j (if c.hns.sealed then 0x03 else 0x0A) 0) c
  else c

/-- The first job of the queue begins (R135, R605). -/
def beginJob (c : Chip) : Chip :=
  let c := c.refuseStale
  match c.hns.jobs with
  | [] => c
  | j :: _ =>
    let c := if isFull j then c.dropHarness.zeroBuckles else c
    let n := if !j.fromBoot && j.length = 0 then 0 else fetchTime j
    c.onHns fun h => { h with busy := true, left := n, read := [] }

/-- The first job is over; the next begins. -/
def endJob (c : Chip) : Chip := (c.onHns fun h => { h with jobs := h.jobs.drop 1, busy := false, left := 0, read := [] }).beginJob

/-- A job joins the queue. -/
def addJob (c : Chip) (j : LoadJob) : Chip :=
  let idle := c.hns.jobs.isEmpty
  let c := c.onHns fun h => { h with jobs := h.jobs ++ [j] }
  if idle then c.beginJob else c

/-- Region images whose verification is given up: each completes HARNESS_MISMATCH and its region is IDLE (R135, R158;
of a CANCEL, log 51). -/
def discardJobs (c : Chip) (p : LoadJob → Bool) : Chip :=
  let gone := c.hns.jobs.filter fun j => !(isFull j) && p j
  let headGone := match c.hns.jobs with | j :: _ => !(isFull j) && p j | [] => false
  let c := c.onHns fun h => { h with jobs := h.jobs.filter fun j => isFull j || !(p j) }
  let c := gone.foldl
    (fun c j => (c.onRegion j.region fun r => { r with state := 0 }).failJob j 0x06 0) c
  if headGone then (c.onHns fun h => { h with busy := false, left := 0, read := [] }).beginJob else c

/-- The full load whose image the loader has read, if one is due for its verdict. -/
def fullDue (c : Chip) : Option LoadJob :=
  match c.hns.jobs with
  | j :: _ => if isFull j && c.hns.left = 0 && c.hns.waitDdr.isNone then some j else none
  | [] => none

/-! ### Full loads (R135 to R138, R680, R681) -/

/-- The lane taps that a link's UMAED_CONFIG record gives (R729). -/
def setTaps (c : Chip) (links : List Rec) (n : Fin 6) : Chip :=
  match links.find? fun r => r.target.toNat = n.val with
  | some r => c.onLink n fun l => { l with taps := Uml.tapsOf (numAt r.body 2 1) }
  | none => c

/-- A full image that has passed step 10 comes into force (R120, R136): GLOBAL, the records, day plans, year table and
authority, the Umaed links. What its sections write elsewhere was written as they were read (`writeRec`). -/
def install (c : Chip) (b : List Byte) : Chip :=
  match Img.sectionOf b 0x01, Img.sectionOf b 0x02, Img.allRecords b with
  | some g, some a, some rs =>
    let c := (c.asGlobal g).onHns fun h => { h with
      records := rs.filter fun r => !(Img.isTileRec r)
      plans := Img.Alma.plans a
      year := Img.Alma.year a
      authority := match Img.sectionOf b 0x10 with | some p => Img.authority p | none => []
      owners := (rs.filter Img.isOwned).map fun r => (Img.identity r, r.region) }
    let links := Img.recsOf rs 0x0F 0
    let root := links.any fun r => flag (r.body.getD 0 0) 2
    let c : Chip := { c with uml := { c.uml with root := root, skew := if root then 0 else c.uml.skew } }
    let c := (List.finRange 6).foldl (fun c n => c.setTaps links n) c
    let c := (List.finRange 6).foldl
      (fun c n => c.umlEnable n (links.any fun r => r.target.toNat = n.val && flag (r.body.getD 0 0) 0)) c
    let noFall (d : KvDesc) : KvDesc := { d with fallFrom := none }
    let clearFall (t : Table KvDesc) : Table KvDesc :=
      (t.map fun (kd : Nat × KvDesc) => (kd.1, noFall kd.2)).filter fun kd => kd.2 ≠ KvDesc.init
    let ws : Table Walker := c.kvw.map fun (kw : Nat × Walker) => (kw.1, { kw.2 with descs := clearFall kw.2.descs, notices := [], degraded := [] })
    { c with kvw := ws.filter fun kw => kw.2 ≠ Walker.init }
  | _, _, _ => c

/-- A channel's devices start again: closed, refresh counted from now; contents that the reset did not keep are lost
(R680, R355). -/
def startDevices (c : Chip) (k : BitVec 3) : Chip :=
  let t := c.now + c.trefi k
  c.onChan k fun x => { x with
    banks := []
    debt := []
    trefiAt := t
    cells := if x.ddrKept then x.cells else []
    ecc := if x.ddrKept then x.ecc else []
    ddrKept := false }

/-- The enabled channels train: `fail` names those that do not pass (R680, R681). -/
def train (c : Chip) (fail : Byte) : Chip :=
  let on := ((List.range 8).map fun k => BitVec.ofNat 3 k).filter fun k => c.chanOn k
  let mask := on.foldl (fun (m : Byte) k => m ||| ((1 : Byte) <<< k.toNat)) 0
  let c := on.foldl startDevices c
  c.onGlb fun g => { g with ddrFail := fail &&& mask, ddrReady := ~~~fail &&& mask }

/-- Step 10 has passed, and the channels have trained (R136, R680). -/
def ddrTraining (c : Chip) (fail : Byte) : Chip :=
  match c.fullDue with
  | none => c
  | some j =>
    let b := c.hns.read
    if c.jobVerdict j = Img.pass then
      let c := (c.install b).train fail
      (c.onHns fun h => { h with
        busy := false
        waitDdr := some (Img.harnessId b, BitVec.ofNat 256 (leNat (Img.digest b)), Img.signed b) }).post 0
          .harnessLoadComplete
    else c

/-- LOADED sets, HNS_ID and HNS_DIGEST are written, DONE is posted (R136). -/
def loadComplete (c : Chip) : Chip :=
  match c.hns.jobs, c.hns.waitDdr with
  | j :: _, some (id, digest, signed) =>
    let c := c.onHns fun h => { h with
      loaded := true, id := id, digest := digest, signed := signed, waitDdr := none
      source := if j.fromFlash then 2 else 1 }
    (c.completeJob j 0x00 0 id).endJob
  | _, _ => c

/-- A full load failed: no harness is in force (R137); what its sections wrote as they were read stays (R136; log 52). With
BOOT_SEL 0b10 the second flash offset is next (R678). -/
def loadFailed (c : Chip) : Chip :=
  match c.fullDue with
  | none => c
  | some j =>
    let b := c.hns.read
    let v := c.jobVerdict j
    if v = Img.pass then c
    else
      let c := (c.noteFailure v).completeJob j v.status v.step (Img.harnessId b)
      let again := j.fromBoot && c.glb.bootSel = 2 && c.hns.bootTry = 1
      let c := if again then
          c.onHns fun h => { h with
            bootTry := 2, jobs := h.jobs ++ [{ j with place := 0x01000000 }] }
        else c
      c.endJob

/-- A load from flash offset 0 that no command asked for (R138). -/
def flashLoad (c : Chip) (tries : Nat) : Chip :=
  (c.onHns fun h => { h with bootTry := tries }).addJob
    { src := .pcie, tag := 0, opcode := 0x10, region := 0, fromFlash := true, place := 0, length := 0, fromBoot := true }

/-- The boot that BOOT_SEL selects (R678). -/
def boot (c : Chip) : Chip :=
  if c.ready && !c.hns.loaded && c.hns.jobs.isEmpty && c.hns.bootTry = 0 then
    match c.glb.bootSel.toNat with
    | 0 => c
    | 1 => c.flashLoad 1
    | 2 => c.flashLoad 1
    | _ => c.onGlb fun g => { g with bootSelErr := true }
  else c

/-- HNS_CTL.SPI_RETRY (R138, R153). Behind a load under way the retry waits its turn in the loader's queue (R585), and the
boot keeps its second try (R678). -/
def spiRetry (c : Chip) : Chip :=
  if c.ready && !c.hns.loaded && !c.alm.running && !c.alm.armed then
    c.flashLoad (if c.hns.jobs.isEmpty then 2 else c.hns.bootTry)
  else c

/-! ### Region images (R139 to R149) -/

/-- A session class record is rewritten from a to b at the copy switch (R529). -/
def sessionsRewritten (c : Chip) (cls : BitVec 16) (a b : List Byte) : Chip :=
  let kept := bytesAt a 2 6 = bytesAt b 2 6 && bytesAt a 12 12 = bytesAt b 12 12 && b ≠ []
  if kept then c
  else
    ((List.range (slotCount a)).map fun i => (BitVec.ofNat 10 (slotFirst a + i) : BitVec 10)).foldl
      (fun c i => if (c.session i).state ≠ 0 && (c.session i).cls = cls then c.freeSession i true else c) c

/-- The copies of region r switch (R124, R128, R144, R146): every settings value of the new copies is the image's, or zero
where the image gives none. -/
def switchRegion (c : Chip) (r : BitVec 6) : Chip :=
  match (c.region r).image with
  | none => c
  | some i =>
    let old := c.hns.records.filter fun x => x.region = r
    let newBody (x : Rec) : List Byte := match i.records.find? fun y => Img.identity y = Img.identity x with
      | some y => y.body
      | none => []
    let c := (old.filter fun x => x.sec = 0x0B).foldl (fun c x => c.sessionsRewritten x.target x.body (newBody x)) c
    let c := (old.filter fun x => x.sec = 0x0A).foldl (fun c x => c.classRewritten x.target x.body (newBody x)) c
    let fresh := (i.records.filter Img.isOwned).filter fun x => !(c.hns.owners.any fun o => o.1 = Img.identity x)
    let c := c.onHns fun h => { h with
      skvOld := if c.alm.running then h.skvOld.or (some (h.records.filter fun x => x.sec = 0x09)) else none
      records := mergeRecs h.records (r, i)
      plans := mergePlans h.plans (r, i)
      owners := h.owners ++ fresh.map fun x => (Img.identity x, r) }
    let c := (old.filter fun x => newBody x = []).foldl zeroPortRegs c
    let c := i.records.foldl loadPortRegs c
    let map := (c.regionMap r).getD []
    let c := (c.zeroShadow map (c.region r).copy).writeTileRecs (i.records.filter fun x => x.sec = 0x05 || x.sec = 0x06)
    let c := ((List.range 256).filter (Img.onMask map)).foldl
      (fun c t => c.onTile (BitVec.ofNat 8 t) fun x => { x with winSwitch := true }) c
    c.onRegion r fun x => { x with state := 0, id16 := i.id.setWidth 16, copy := !x.copy, image := none }

/-- A region's verified image becomes pending with its apply day (R142, R143). On an almanac that does not run the day shown
is ALM_DAYCOUNT as it stands (log 108). -/
def pendRegion (c : Chip) (r : BitVec 6) (b : List Byte) (rs : List Rec) : Chip :=
  let y := max 1 c.alm.yearLen.toNat
  let d : BitVec 64 :=
    if c.alm.running then c.alm.dayCount + 2 + BitVec.ofNat 64 (y - 1 - (c.alm.yearPos.toNat + 2) % y) else c.alm.dayCount
  let image := regionImage b rs
  c.onRegion r fun x => { x with state := 2, day := d.setWidth 32, applyDay := d, image := some image }

/-- Verification of a region image ends (R141 to R143, R149). -/
def regionVerified (c : Chip) : Chip :=
  match c.hns.jobs with
  | [] => c
  | j :: _ =>
    if isFull j || c.hns.left ≠ 0 then c
    else
      let b := c.hns.read
      let v := c.jobVerdict j
      if v = Img.pass then
        let c := c.pendRegion j.region b ((Img.allRecords b).getD [])
        let d := (c.region j.region).applyDay
        let c := if c.alm.running then c else c.switchRegion j.region
        (c.completeJob j 0x00 0 d).endJob
      else
        let c := (c.noteFailure v).onRegion j.region fun x => { x with state := 0 }
        (c.failJob j v.status v.step).endJob

/-- The regions that a test selects, in ascending order. -/
def regionKeys (c : Chip) (p : Region → Bool) : List (BitVec 6) :=
  (c.hns.regions.filter fun kr => p kr.2).map fun kr => BitVec.ofNat 6 kr.1

/-- The lowest region that is APPLYING (R141, R145). -/
def applying (c : Chip) : Option (BitVec 6) := (c.regionKeys fun x => x.state = 3).head?

/-- Every image that waits for its switch, in ascending order of regions, takes over (R149). -/
def applyRegions (c : Chip) : Chip := (c.regionKeys fun x => x.state = 2 || x.state = 3).foldl switchRegion c

/-- HARNESS_REGION with CANCEL (R147, R148): whether it is possible, and the region as it leaves it. -/
def cancelRegion (c : Chip) (r : BitVec 6) : Byte × Chip :=
  let x := c.region r
  match x.state.toNat with
  | 0 => (0x04, c)
  | 1 => (0x00, c.discardJobs fun j => j.region = r)
  | 2 =>
    if c.alm.running && x.applyDay.toNat ≤ c.alm.dayCount.toNat then (0x05, c)
    else (0x00, c.onRegion r fun y => { y with state := 0, image := none })
  | _ => (0x05, c)

end Chip

/-! ### The rows -/

/-- HNS_CTL.SPI_RETRY (R138, R153). -/
def execSpiRetry (s : State) : Host.Outcome State Fault Refusal := s.run Chip.spiRetry

/-- HARNESS_LOAD_COMPLETE (R136, R680). -/
def execHarnessLoadComplete (s : State) : Host.Outcome State Fault Refusal := s.run Chip.loadComplete

/-- DDR_TRAINING (R136, R680, R681): the full image that has passed step 10 is in its structures, and the channels train. -/
def execDdrTraining (fail : Byte) (s : State) : Host.Outcome State Fault Refusal := s.run fun c => c.ddrTraining fail

/-- FULL_LOAD_FAILED (R129, R137, R678). -/
def execFullLoadFailed (s : State) : Host.Outcome State Fault Refusal := s.run Chip.loadFailed

/-- REGION_VERIFY_DONE (R142, R143, R149). -/
def execRegionVerifyDone (s : State) : Host.Outcome State Fault Refusal := s.run Chip.regionVerified

/-- BOOT (R678, R679, R138). -/
def execBoot (s : State) : Host.Outcome State Fault Refusal := s.run Chip.boot

end Sys2Proof.Machine
end

