-- ==== Sys2Proof/Machine/Commands.lean ====
section
/-!
DEFINITION. Machine/Commands.lean: the command processor (13_host, R581 to R604) and every opcode of Table 5. A command's
row is the processor's start of that command: where it may start none, the command waits (R584, R586), and the row of a
command whose descriptor carries another opcode is none (log 3).
-/
namespace Sys2Proof.Machine
open Sys2Proof

namespace Chip

/-! ### Serving (R584, R586 to R588, R595) -/

/-- A command is in progress: it waits for the buckle file, for its packets' injection or for its latch (R584). -/
def procBusy (c : Chip) : Bool :=
  !c.bkl.waits.isEmpty || !c.bkl.remote.isEmpty || c.cns.pending.any fun l => l.answer.isSome

/-- The processor may start a command of this port now. -/
def mayStart (c : Chip) (src : Src) : Bool := c.ready && !c.alm.inFeast && !c.procBusy && c.cplRoom src

/-- The processor takes the command from its port's queue (R584, R597, R599). -/
def take (c : Chip) (src : Src) (d : Desc) : Chip :=
  let c := c.onHif fun h => { h with waiting := h.waiting.erase (src, d), lastPort := portCode src }
  match src with
  | .i3c => c.onI3c fun x => { x with busy := false }
  | .jtag => c.onJtag fun x => { x with pendingCmd := false }
  | _ => c

/-- The opcodes that Table 5 lists. -/
def opcodes : List Nat :=
  [0x01, 0x02, 0x03, 0x10, 0x11, 0x12, 0x20, 0x21, 0x22, 0x30, 0x31, 0x38, 0x40, 0x50, 0x60, 0x7F]

/-- Table 8, the default matrix (R595). -/
def matrixAllows (c : Chip) (src : Src) (op : Nat) : Bool :=
  match src with
  | .pcie => true
  | .i3c =>
    op = 0x01 || op = 0x02 || op = 0x03 || op = 0x50 || op = 0x7F || op = 0x60 ||
      ((op = 0x10 || op = 0x11 || op = 0x12) && c.glb.hostAbsent)
  | .jtag => op = 0x01 || op = 0x02 || op = 0x03
  | .umaed .. =>
    op = 0x01 || op = 0x02 || op = 0x03 || op = 0x20 || op = 0x21 || op = 0x22 || op = 0x30 || op = 0x31 || op = 0x60

/-- The AUTHORITY record in force allows it; with none, the matrix alone decides (R125). -/
def recordAllows (c : Chip) (src : Src) (op : Nat) : Bool :=
  match c.hns.authority[(portCode src).toNat]? with
  | some a => flag a.opcodes op
  | none => true

/-- A CMD of this chip whose SEID is not the host interface's is refused (R601). -/
def strayCmd (c : Chip) (src : Src) : Bool :=
  match src with
  | .umaed chip eid _ => c.isHere chip && eid ≠ eidHost
  | _ => false

/-- Step 2 of R588 passes (R151, R595, R601). -/
def mayIssue (c : Chip) (src : Src) (op : Nat) : Bool :=
  c.matrixAllows src op && c.recordAllows src op && !(c.strayCmd src) && !(op = 0x10 && c.hns.sealed)

/-- A command completes with a failing status: AUX 0, and a RESULT that Table 5 gives only for the opcodes whose RESULT
is 0; any other is not stated, and free. -/
def refuse (c : Chip) (src : Src) (d : Desc) (status : Byte) : Chip :=
  let op := (dOpcode d).toNat
  if op = 0x12 || op = 0x40 || op = 0x7F || !(opcodes.contains op) then c.complete src (dTag d) (dOpcode d) status
  else
    let (r, c) := c.drawBits 64
    c.complete src (dTag d) (dOpcode d) status 0 r

/-- A command completes DONE. -/
def done (c : Chip) (src : Src) (d : Desc) (aux : Byte) (result : BitVec 64) : Chip :=
  c.complete src (dTag d) (dOpcode d) 0x00 aux result

/-- The processor starts a command, or leaves it waiting. -/
def serve (c : Chip) (src : Src) (d : Desc) (f : Chip → Chip) : Chip :=
  if c.mayStart src then f (c.take src d)
  else if c.hif.waiting.contains (src, d) then c
  else c.wait src d

/-- A listed opcode's row: the checks of R588 in their order, then what the opcode does. -/
def command (c : Chip) (src : Src) (d : Desc) (op : Nat) (fields : Chip → Bool) (f : Chip → Chip) : Chip :=
  if (dOpcode d).toNat ≠ op then c
  else c.serve src d fun c =>
    if !(c.mayIssue src op) then c.refuse src d 0x03
    else if !(fields c) then c.refuse src d 0x04
    else f c

/-! ### The Reckoning record (R614 to R617) -/

/-- Bytes of values, each with its width in bytes, in order. -/
def packed (fs : List (Nat × Nat)) : List Byte := fs.flatMap fun f => leBytes f.2 f.1

/-- An area of n bytes, zero beyond what it holds. -/
def area (n : Nat) (bs : List Byte) : List Byte := bytesAt bs 0 n

/-- n bits as bytes, bit i of byte i / 8. -/
def bitmap (n : Nat) (p : Nat → Bool) : List Byte :=
  (List.range (n / 8)).map fun k => BitVec.ofNat 8 ((List.range 8).map fun j => b1 (p (8 * k + j)) * 2 ^ j).sum

/-- 8-bit maps over the channels. -/
def chanMap (p : BitVec 3 → Bool) : Nat := ((List.range 8).map fun k => b1 (p (BitVec.ofNat 3 k)) * 2 ^ k).sum

/-- Sessions in a state; Satchel has four (R684). -/
def sessionsIn (c : Chip) (k : Nat) : Nat :=
  if k = 0 then (if c.satchel then 4 else 1024) - (c.sfe.sessions.filter fun s => s.2.state ≠ 0).length
  else (c.sfe.sessions.filter fun s => s.2.state.toNat = k).length

/-- The record for a port's page, each area's fields packed in the order that Table 12 lists them (the order within an
area is the model's, log 53). -/
def reckoning (c : Chip) (port page : Nat) : List Byte :=
  let r (o : Nat) : Nat × Nat := ((c.peekUp o).toNat, 4)
  let a := c.alm
  area 0x40 (packed [r 0x000000, r 0x000004, r 0x000018, (c.glb.chipId.toNat, 2), (port, 1), (0, 1), (1, 2)]) ++
  area 0x40 (packed [(c.hns.id.toNat, 8), (c.hns.digest.toNat, 32), r 0x200004]) ++
  area 0x40 (packed [r 0x100004, (c.lts.toNat, 8), (a.dayCount.toNat, 8), (a.yearPos.toNat, 4), (a.yearLen.toNat, 4),
    (a.planCur.toNat, 4), (a.gen.toNat, 4), (a.genLast.toNat, 4), (a.early.toNat, 4), (a.late.toNat, 4),
    (a.holdCnt.toNat, 4), (a.tickOffset.toNat, 4)]) ++
  area 0x40 (packed [(c.glb.epoch.toNat, 8), (c.glb.uptime.toNat, 8), (b1 a.holdover, 1), (a.relock.toNat, 1),
    (chanMap fun k => (c.chan k).freeze, 1), (chanMap c.drained, 1), (b1 c.glb.hostAbsent, 1)]) ++
  area 0x40 (packed ([(c.hif.cmdProd.toNat, 2), (c.hif.cmdCons.toNat, 2), (c.hif.cplProd.toNat, 2),
    (c.hif.cplCons.toNat, 2), (c.flt.head.toNat, 2), (c.flt.tail.toNat, 2), (c.unacked, 2)] ++
    ((List.range 5).map fun k => ((tget 0 c.flt.counts (k + 1)).toNat, 4)) ++ [(b1 (!c.faultN), 1)])) ++
  area 0x40 (packed ((List.range 16).flatMap fun w =>
    let x := c.walker (BitVec.ofNat 4 w); [(x.evtProd.toNat, 2), (x.evtCons.toNat, 2)])) ++
  area 0x20 (packed ((List.range 8).flatMap fun q =>
    let x := c.fhRing (BitVec.ofNat 3 q); [(x.prod.toNat, 2), (x.cons.toNat, 2)])) ++
  area 0x20 (packed (((List.range 4).map fun k => (c.sessionsIn k, 2)) ++ [(c.sfe.holdq.length, 2)])) ++
  area 0x40 [] ++
  area 0x200 (packed ((List.range 64).flatMap fun k =>
    let x := c.region (BitVec.ofNat 6 k); [(x.state.toNat, 1), (0, 1), (x.id16.toNat, 2), (x.day.toNat, 4)])) ++
  bitmap 1024 (fun i => (c.session (BitVec.ofNat 10 i)).state ≠ 0) ++
  bitmap 1024 (fun i => flag (BitVec.ofNat 32 (numAt (c.sessionBytes (BitVec.ofNat 10 i)) 0 4)) 8 ||
    c.sfe.holdq.contains (BitVec.ofNat 10 i)) ++
  bitmap 4096 (fun i => (c.buckle (BitVec.ofNat 12 i)).count ≠ 0) ++
  area 0x100 [] ++
  area 0x800 ((List.range 512).flatMap fun i =>
    let x := c.stream (BitVec.ofNat 12 (512 * page + i))
    if x.size = 0 then leBytes 4 0xFFFFFFFF else leBytes 2 x.prod.toNat ++ leBytes 2 x.cons.toNat)

/-- RECKON's operands fit its port (R602, R616, R617). -/
def reckonFields (c : Chip) (src : Src) (d : Desc) : Bool :=
  let page := dNum d 16 1
  dClean d [(8, 8), (16, 1)] && page ≤ 7 && !(c.satchel && page ≠ 0) &&
    (match src with
     | .pcie => dNum d 8 8 % 64 = 0
     | .i3c => dNum d 8 8 = 0
     | .jtag => dNum d 8 8 = 0
     | .umaed .. => dNum d 10 2 ≤ 0x1FF && dNum d 15 1 = 0)

/-- The 128 DATA_WR packets that carry the record to where a peer asked for it (R617). -/
def reckonLines (c : Chip) (d : Desc) (bytes : List Byte) : Chip :=
  (List.range 128).foldl
    (fun c i => c.send eidCmd (packet (BitVec.ofNat 16 (dNum d 8 2)) tDataWr 1 (BitVec.ofNat 9 (dNum d 10 2)) 32
      (BitVec.ofNat 24 (dNum d 12 3 + 32 * i)) 0 (lineOf (bytesAt bytes (32 * i) 32)))) c

/-- The record goes to host memory, to the port's buffer, or in 128 DATA_WR packets to where the peer says (R602, R617). -/
def reckon (c : Chip) (src : Src) (d : Desc) : Chip :=
  let rec_ := c.reckoning (portCode src).toNat (dNum d 16 1)
  let lts := c.lts
  match src with
  | .pcie => (c.hostWrite (dNum d 8 8) rec_).done src d 0 lts
  | .i3c => (c.onI3c fun x => { x with buf := rec_ }).done src d 0 lts
  | .jtag => (c.onJtag fun x => { x with buf := rec_ }).done src d 0 lts
  | .umaed .. =>
    let c := c.reckonLines d rec_
    c.onBkl fun k => { k with remote := k.remote ++ [⟨src, dTag d, dOpcode d, lts⟩] }

/-! ### CENSUS (R331, R627, R633, R634, R636) -/

/-- CENSUS: a trigger now, whose latch completes the command; or a slot armed at TARGET. A trigger that R628 ignores has no
latch: its command completes at once, and its RESULT is not stated (log 54). -/
def census (c : Chip) (src : Src) (d : Desc) : Chip :=
  let target : BitVec 64 := fld d 128 64
  let mode := dNum d 8 1
  if mode = 0 then
    let n := c.cns.pending.length
    let c := c.trigger ⟨0, 2, 0, 0, 0, some (src, dTag d)⟩
    if c.cns.pending.length = n then
      let (r, c) := c.drawBits 64
      c.done src d 0 r
    else c
  else
    let here := if mode = 2 then c.localLts target else target
    if !c.alm.running || c.cyclesTo target < 64 || c.cyclesTo here < 64 then c.refuse src d 0x04
    else
      let origin : BitVec 16 := if mode = 2 then c.glb.chipId else 0
      match c.armSlot ⟨BitVec.ofNat 2 mode, target, origin⟩ with
      | none => c.refuse src d 0x02
      | some c =>
        let c := if mode = 2 then c.cenBroadcast target origin 64 none else c
        c.done src d 0 here

/-! ### Harness commands (R133 to R151, R585) -/

/-- The operands of an image: ADDR from PCIe, a flash offset from I3C (R134, R589). -/
def imageOps (src : Src) : List (Nat × Nat) := match src with | .i3c => [(8, 4), (16, 4)] | _ => [(8, 8), (16, 4)]

def imageOk (src : Src) (d : Desc) : Bool := match src with | .pcie => dNum d 8 8 % 8 = 0 | _ => true

/-- The job that a command gives the loader. -/
def jobOf (src : Src) (d : Desc) (region : BitVec 6) : LoadJob where
  src := src
  tag := dTag d
  opcode := dOpcode d
  region := region
  fromFlash := match src with | .i3c => true | _ => false
  place := match src with | .i3c => dNum d 8 4 | _ => dNum d 8 8
  length := dNum d 16 4
  fromBoot := false

/-- HARNESS_LOAD (R133, R135, R158). -/
def harnessLoad (c : Chip) (src : Src) (d : Desc) : Chip :=
  if c.alm.running || c.alm.armed then c.refuse src d 0x0A
  else (c.discardJobs fun _ => true).addJob (jobOf src d 0)

/-- The region that a command names, if REGION_MAP defines it (R139). -/
def namedRegion (c : Chip) (d : Desc) : Option (BitVec 6) :=
  let n := dNum d 20 1
  let r : BitVec 6 := BitVec.ofNat 6 n
  if 1 ≤ n && n ≤ 63 && c.hns.loaded && (c.regionMap r).isSome then some r else none

/-- HARNESS_REGION (R139, R140). -/
def harnessRegion (c : Chip) (src : Src) (d : Desc) : Chip :=
  match c.namedRegion d with
  | none => c.refuse src d 0x04
  | some r =>
    if (c.region r).state ≠ 0 then c.refuse src d 0x05
    else (c.onRegion r fun x => { x with state := 1 }).addJob (jobOf src d r)

/-- HARNESS_REGION with CANCEL (R139, R147, R148): the RESULT of one that is DONE is not stated, and free. -/
def harnessCancel (c : Chip) (src : Src) (d : Desc) : Chip :=
  match c.namedRegion d with
  | none => c.refuse src d 0x04
  | some r =>
    let (status, c) := c.cancelRegion r
    c.refuse src d status

/-- HARNESS_SEAL (R150). -/
def harnessSeal (c : Chip) (src : Src) (d : Desc) : Chip :=
  if c.hns.loaded then (c.onHns fun h => { h with sealed := true }).done src d 0 0 else c.refuse src d 0x04

/-! ### Sessions (R490 to R498, R593, R655) -/

/-- SESSION_OPEN (R490, R492, R493, R497): a stopped almanac is judged first. -/
def sessionOpen (c : Chip) (src : Src) (d : Desc) : Chip :=
  if !c.alm.running then c.refuse src d 0x02
  else
    let cls : BitVec 16 := BitVec.ofNat 16 (dNum d 8 2)
    match c.sesClass cls with
    | none => c.refuse src d 0x04
    | some b =>
      match ((List.range (slotCount b)).map fun k => slotFirst b + k).find? fun i => (c.session (BitVec.ofNat 10 i)).state = 0 with
      | none => c.refuse src d 0x02
      | some i =>
        let bind := c.today32 + 2
        let c := c.onSession (BitVec.ofNat 10 i) fun _ => { Session.init with
          state := 1
          cls := cls
          bindDay := bind
          cookie := BitVec.ofNat 32 (dNum d 12 4) }
        c.done src d 0 (BitVec.ofNat 64 (i + bind.toNat * 2 ^ 32))

/-- SESSION_CLOSE (R494, R593). -/
def sessionClose (c : Chip) (src : Src) (d : Desc) : Chip :=
  let n := dNum d 8 2
  let i : BitVec 10 := BitVec.ofNat 10 n
  let st := (c.session i).state
  if 1024 ≤ n || !(st = 1 || st = 2) then c.refuse src d 0x04
  else
    let c := c.onSession i fun x => { x with state := 3, closeDay := c.today32 + 2 }
    let c : Chip := { c with sfe := { c.sfe with holdq := c.sfe.holdq.filter fun j => j ≠ i } }
    c.done src d 0 (c.alm.dayCount + 2)

/-- SESSION_ADAPT (R498, R593, R655). A request for an adaptation that has started or is held already changes nothing and
answers with what stands (log 55). -/
def sessionAdapt (c : Chip) (src : Src) (d : Desc) : Chip :=
  let n := dNum d 8 2
  let i : BitVec 10 := BitVec.ofNat 10 n
  let x := c.session i
  let ok := match c.sesClass x.cls with | some b => sesAdaptOk b | none => false
  let held (c : Chip) (k : Nat) : Chip :=
    let (r, c) := c.drawBits 64
    c.complete src (dTag d) (dOpcode d) 0x01 (BitVec.ofNat 8 k) r
  if 1024 ≤ n || x.state ≠ 2 || !ok then c.refuse src d 0x04
  else if x.adapt then c.done src d 0 x.adaptDay
  else if c.sfe.holdq.contains i then held c (c.sfe.holdq.idxOf i + 1)
  else if c.adaptRoom then (c.startAdapt i).done src d 0 (c.alm.dayCount + 2)
  else if c.sfe.holdq.length < 64 then
    held { c with sfe := { c.sfe with holdq := c.sfe.holdq ++ [i] } } (c.sfe.holdq.length + 1)
  else c.refuse src d 0x02

/-! ### Buckles (R594, R606) -/

/-- A buckle command's operation: its code of Table 11 and its payload. -/
def buckleGo (c : Chip) (src : Src) (d : Desc) (op : Nat) (payload : Nat) : Chip :=
  let chip : BitVec 16 := BitVec.ofNat 16 (dNum d 8 2)
  let here := c.isHere chip
  let w : BklWait := ⟨src, dTag d, dOpcode d, 0⟩
  let c := c.send eidCmd (packet (if here then 0xFFFF else chip) tBuckleOp (if here then 3 else 1) eidBuckle 4 0
    (BitVec.ofNat 16 (op * 4096 + dNum d 10 2)) (BitVec.ofNat 256 payload))
  if here then c.onBkl fun k => { k with waits := k.waits ++ [w] }
  else c.onBkl fun k => { k with remote := k.remote ++ [w] }

/-- The operands of both buckle commands. -/
def buckleOps : List (Nat × Nat) := [(8, 2), (10, 2), (12, 4)]

/-! ### Settings (R97 to R101, R590) -/

/-- A KIND's units and indices, and the bits of VALUE that Table 7 names (Table 8 of 04_tile for KIND 0). -/
def settingSpace (kind : Nat) : Nat × Nat × Nat :=
  match kind with
  | 0 => (256, 1024, 0x000000FFFF3FFF1F)
  | 1 => (256, 1024, 0xFFFFFFFF)
  | 2 => (256, 1, 0xFF)
  | 3 => (4096, 1, 0xFFFF)
  | 4 => (8, 1, 0xFFFF)
  | 5 => (2, 1, 0x7FFF)
  | _ => (0, 0, 0)

/-- The unit is on, and one the profile enables. -/
def settingUnitOn (c : Chip) (kind unit : Nat) : Bool :=
  match kind with
  | 0 => !(c.tileOff (BitVec.ofNat 8 unit))
  | 1 => !(c.tileOff (BitVec.ofNat 8 unit))
  | 2 => !(c.tileOff (BitVec.ofNat 8 unit))
  | 3 => c.streamOn (BitVec.ofNat 12 unit)
  | 4 => !c.satchel || unit < 2
  | 5 => !c.satchel
  | _ => false

/-- R590's checks. -/
def settingsFields (c : Chip) (d : Desc) : Bool :=
  let kind := dNum d 8 1
  let unit := dNum d 10 2
  let s := settingSpace kind
  let mask := dNum d 24 8
  dClean d [(8, 1), (10, 2), (12, 4), (16, 8), (24, 8)] && unit < s.1 && dNum d 12 4 < s.2.1 && c.settingUnitOn kind unit &&
    mask ≠ 0 && decide ((dNum d 16 8 &&& mask) ||| s.2.2 = s.2.2)

/-- SETTINGS_WRITE (R97, R98, R101). Bits that MASK selects beyond the setting change nothing. -/
def settingsWrite (c : Chip) (src : Src) (d : Desc) : Chip :=
  let kind := dNum d 8 1
  let gen := c.alm.genLast + 1
  let now := !c.alm.running
  let day : BitVec 64 := if now then c.alm.dayCount else c.alm.dayCount + 2
  let w : Setting :=
    { gen := gen, day := day, kind := BitVec.ofNat 8 kind, unit := BitVec.ofNat 16 (dNum d 10 2), index := dNum d 12 4
      value := BitVec.ofNat 64 (dNum d 16 8), mask := BitVec.ofNat 64 (dNum d 24 8 &&& (settingSpace kind).2.2) }
  let c := c.onAlm fun a => { a with genLast := gen, settings := if now then a.settings else a.settings ++ [w] }
  let c := if now then c.applySettings [w] else c
  c.done src d (if now then 1 else 0) (BitVec.ofNat 64 (gen.toNat + fldNat day 0 32 * 2 ^ 32))

/-! ### The rest of Table 5 -/

/-- STREAM_RING_BIND (R592). -/
def streamBind (c : Chip) (src : Src) (d : Desc) : Chip :=
  let n := dNum d 8 2
  let s : BitVec 12 := BitVec.ofNat 12 n
  let free := match c.sessionOf s with | some i => (c.session i).state = 0 | none => true
  if 4096 ≤ n || (c.streamPlan s).isNone || !free then c.refuse src d 0x04
  else
    (c.onStream s fun x => { x with
      base := BitVec.ofNat 64 (dNum d 16 8)
      size := BitVec.ofNat 5 (dNum d 10 1)
      prod := 0
      cons := 0
      fetchIx := 0
      ahead := []
      backs := [] }).done src d 0 0

/-- FAULT_ACK (R589, R650). -/
def faultAck (c : Chip) (src : Src) (d : Desc) : Chip :=
  let n := dNum d 8 1
  if n = 0 || c.unacked < n then c.refuse src d 0x04
  else
    let c := c.onFlt fun f => { f with head := f.head + BitVec.ofNat 16 n }
    c.done src d 0 (BitVec.ofNat 64 c.unacked)

/-- EPOCH_SET (R95). -/
def epochSet (c : Chip) (src : Src) (d : Desc) : Chip :=
  let old := c.glb.epoch
  (c.onGlb fun g => { g with epoch := fld d 64 64 }).done src d 0 old

/-- RESET_SOFT with its KEY: the soft reset begins 1,024 cycles after the completion (R591). -/
def resetSoft (c : Chip) (src : Src) (d : Desc) : Chip :=
  let c := c.done src d 0 0
  (c.onGlb fun g => { g with softAt := some (c.now + 1024), softFlr := false }).post 1024 .resetSoftBegin

end Chip

/-! ### The rows -/

/-- NOP (R588, R589). -/
def execNop (src : Src) (d : Desc) (s : State) : Host.Outcome State Fault Refusal :=
  s.run fun c => c.command src d 0x01 (fun _ => dClean d []) fun c => c.done src d 0 c.lts

/-- RECKON (R602, R614 to R617). -/
def execReckon (src : Src) (d : Desc) (s : State) : Host.Outcome State Fault Refusal :=
  s.run fun c => c.command src d 0x02 (fun c => c.reckonFields src d) fun c => c.reckon src d

/-- CENSUS (R331, R589, R628, R633, R634, R636). -/
def execCensus (src : Src) (d : Desc) (s : State) : Host.Outcome State Fault Refusal :=
  s.run fun c =>
    c.command src d 0x03 (fun _ => dClean d [(8, 1), (16, 8)] && dNum d 8 1 ≤ 2) fun c => c.census src d

/-- HARNESS_LOAD (R133 to R138, R151, R585, R589). -/
def execHarnessLoad (src : Src) (d : Desc) (s : State) : Host.Outcome State Fault Refusal :=
  s.run fun c =>
    c.command src d 0x10 (fun _ => dClean d (Chip.imageOps src) && Chip.imageOk src d) fun c => c.harnessLoad src d

/-- HARNESS_REGION (R134, R139 to R143, R585, R589). -/
def execHarnessRegion (src : Src) (d : Desc) (s : State) : Host.Outcome State Fault Refusal :=
  s.run fun c =>
    if flag (dFlags d) 0 then c
    else c.command src d 0x11 (fun _ => dClean d ((20, 1) :: Chip.imageOps src) && Chip.imageOk src d) fun c =>
      c.harnessRegion src d

/-- HARNESS_REGION with CANCEL (R139, R147, R148, R589). -/
def execHarnessRegionCancel (src : Src) (d : Desc) (s : State) : Host.Outcome State Fault Refusal :=
  s.run fun c =>
    if !(flag (dFlags d) 0) then c
    else c.command src d 0x11 (fun _ => dFlags d = 1 && dClean d [(1, 1), (20, 1)]) fun c => c.harnessCancel src d

/-- HARNESS_SEAL (R150 to R152). -/
def execHarnessSeal (src : Src) (d : Desc) (s : State) : Host.Outcome State Fault Refusal :=
  s.run fun c => c.command src d 0x12 (fun _ => dClean d []) fun c => c.harnessSeal src d

/-- SESSION_OPEN (R490, R492, R493, R497). -/
def execSessionOpen (src : Src) (d : Desc) (s : State) : Host.Outcome State Fault Refusal :=
  s.run fun c => c.command src d 0x20 (fun _ => dClean d [(8, 2), (12, 4)]) fun c => c.sessionOpen src d

/-- SESSION_CLOSE (R494, R593). -/
def execSessionClose (src : Src) (d : Desc) (s : State) : Host.Outcome State Fault Refusal :=
  s.run fun c => c.command src d 0x21 (fun _ => dClean d [(8, 2)]) fun c => c.sessionClose src d

/-- SESSION_ADAPT (R498, R593, R655). -/
def execSessionAdapt (src : Src) (d : Desc) (s : State) : Host.Outcome State Fault Refusal :=
  s.run fun c => c.command src d 0x22 (fun _ => dClean d [(8, 2)]) fun c => c.sessionAdapt src d

/-- BUCKLE_SET (R594, R606). -/
def execBuckleSet (src : Src) (d : Desc) (s : State) : Host.Outcome State Fault Refusal :=
  s.run fun c =>
    c.command src d 0x30 (fun _ => dClean d Chip.buckleOps && dNum d 10 2 < 4096 && dNum d 15 1 = 0) fun c =>
      c.buckleGo src d 3 (dNum d 12 3)

/-- BUCKLE_FASTEN, and with UNFASTEN (R594, R606). -/
def execBuckleFasten (src : Src) (d : Desc) (s : State) : Host.Outcome State Fault Refusal :=
  s.run fun c =>
    let un := flag (dFlags d) 0
    let n := dNum d 12 4
    c.command src d 0x31
      (fun _ => dClean d ((1, 1) :: Chip.buckleOps) && (dFlags d).toNat ≤ 1 && dNum d 10 2 < 4096 &&
        (un || (1 ≤ n && n < 2 ^ 24)))
      fun c => if un then c.buckleGo src d 2 0 else if n = 1 then c.buckleGo src d 0 0 else c.buckleGo src d 1 n

/-- SETTINGS_WRITE (R97 to R101, R590). -/
def execSettingsWrite (src : Src) (d : Desc) (s : State) : Host.Outcome State Fault Refusal :=
  s.run fun c => c.command src d 0x38 (fun c => c.settingsFields d) fun c => c.settingsWrite src d

/-- STREAM_RING_BIND (R589, R592). -/
def execStreamRingBind (src : Src) (d : Desc) (s : State) : Host.Outcome State Fault Refusal :=
  s.run fun c =>
    c.command src d 0x40
      (fun _ => dClean d [(8, 2), (10, 1), (16, 8)] && (dNum d 10 1 = 0 || (4 ≤ dNum d 10 1 && dNum d 10 1 ≤ 12)) &&
        dNum d 16 8 % 64 = 0)
      fun c => c.streamBind src d

/-- FAULT_ACK (R589, R650). -/
def execFaultAck (src : Src) (d : Desc) (s : State) : Host.Outcome State Fault Refusal :=
  s.run fun c => c.command src d 0x50 (fun _ => dClean d [(8, 1)]) fun c => c.faultAck src d

/-- EPOCH_SET (R95, R96). -/
def execEpochSet (src : Src) (d : Desc) (s : State) : Host.Outcome State Fault Refusal :=
  s.run fun c => c.command src d 0x60 (fun _ => dClean d [(8, 8)]) fun c => c.epochSet src d

/-- RESET_SOFT (R591). -/
def execResetSoft (src : Src) (d : Desc) (s : State) : Host.Outcome State Fault Refusal :=
  s.run fun c => c.command src d 0x7F (fun _ => dClean d [(8, 4)] && dNum d 8 4 = 0xA55A) fun c => c.resetSoft src d

/-- BAD_OPCODE: any opcode that Table 5 reserves (R588, R589). -/
def execBadOpcode (src : Src) (d : Desc) (s : State) : Host.Outcome State Fault Refusal :=
  s.run fun c =>
    if Chip.opcodes.contains (dOpcode d).toNat then c
    else c.serve src d fun c => c.refuse src d 0x09

end Sys2Proof.Machine
end

