-- ==== Sys2Proof/Machine/RegWrite.lean ====
section
/-!
DEFINITION. Machine/RegWrite.lean: BAR0 as it is written (R11 to R17, R677 and the register tables of every chapter). A
write of a register that has a row of its own acts as that row does.
-/
namespace Sys2Proof.Machine
open Sys2Proof

namespace Chip

/-- The almanac runs or is armed, which locks several registers (R103, R198, R236, R524). -/
def almLocked (c : Chip) : Bool := c.alm.running || c.alm.armed

/-- One half of a 64-bit value replaced (R17). -/
def setHalf (old : BitVec 64) (lo r : Nat) (v : Word) : BitVec 64 :=
  if r = lo then (old &&& 0xFFFFFFFF00000000) ||| v.setWidth 64 else (old &&& 0xFFFFFFFF) ||| (v.setWidth 64 <<< 32)

/-- A write that the seal ignores (R16, R151). -/
def unsealed (c : Chip) (f : Chip → Chip) : Chip := if c.hns.sealed then c else f c

/-- A W1C bit (R16). -/
def w1c (old : Bool) (v : Word) (i : Nat) : Bool := old && !(flag v i)

/-! ### By block -/

/-- GLB (R687, R690). -/
def glbWrite (c : Chip) (r : Nat) (v : Word) : Chip :=
  if r = 0x010 then c.onGlb fun g => { g with holdDdr := flag v 0 }
  else if r = 0x060 then c.unsealed fun c => c.onGlb fun g => { g with derateAt := fld v 8 8 }
  else c

/-- ALM_CTL (R65 to R69, R105). -/
def almCtlWritten (c : Chip) (v : Word) : Chip :=
  let mode : BitVec 2 := fld v 2 2
  let c := c.setStartMode mode
  let c := if flag v 1 then c.stopWritten else c
  if flag v 0 then c.startWritten mode else c

/-- A register that R103 and the seal lock. -/
def almParam (c : Chip) (f : Alm → Alm) : Chip := c.unsealed fun c => if c.almLocked then c else c.onAlm f

/-- ALM (R103 to R105). -/
def almWrite (c : Chip) (r : Nat) (v : Word) : Chip :=
  match r with
  | 0x000 => c.almCtlWritten v
  | 0x004 => c.onAlm fun a => { a with cfgErr := w1c a.cfgErr v 5 }
  | 0x008 => c.almParam fun a => { a with dayLen := fld v 0 22 }
  | 0x00C => c.almParam fun a => { a with vigilLen := fld v 0 17 }
  | 0x010 => c.tickSrcWritten v
  | 0x014 => c.almParam fun a => { a with tickTol := fld v 0 17 }
  | 0x018 => c.almParam fun a => { a with yearLen := fld v 0 13 }
  | _ => c

/-- HNS (R138, R153). -/
def hnsWrite (c : Chip) (r : Nat) (v : Word) : Chip := if r = 0x000 && flag v 0 then c.spiRetry else c

/-- BKL (R607, R613, R618). -/
def bklWrite (c : Chip) (r : Nat) (v : Word) : Chip :=
  if r < 0x8000 ∧ r % 8 = 4 then
    c.onBuckle (BitVec.ofNat 12 (r / 8)) fun b => { b with
      under := w1c b.under v 17
      sat := w1c b.sat v 16
      vector := fld v 8 6
      notify := flag v 0 }
  else c

/-- FAB (R288). -/
def fabWrite (c : Chip) (r : Nat) (v : Word) : Chip :=
  match r with
  | 0x000 => c.onFab fun f => { f with check := flag v 0 }
  | 0x004 => c.onFab fun f => { f with
      rspTimeout := w1c f.rspTimeout v 3
      vc0Stall := w1c f.vc0Stall v 2
      drop := w1c f.drop v 1 }
  | 0x008 => c.unsealed fun c => c.onFab fun f => { f with limit := fld v 0 4 }
  | 0x00C => c.unsealed fun c => c.onFab fun f => { f with days := fld v 0 4 }
  | _ => c

/-- A channel (R344, R360, R366, R378). -/
def chanWrite (c : Chip) (k : BitVec 3) (r : Nat) (v : Word) : Chip :=
  if !(c.chanOn k) then c
  else if r = 0x000 then c.unsealed fun c => c.onChan k fun x => { x with arbMode := fld v 0 20 }
  else if r = 0x004 then c.setFreeze k (flag v 0)
  else if r = 0x00C then c.unsealed fun c => c.onChan k fun x => { x with dbgPre := flag v 0 }
  else if 0x800 ≤ r ∧ r < 0x1000 then c.winByHost k ((r - 0x800) / 4) (fld v 0 9)
  else c

/-- A TME (R367, R378). -/
def tmeRegWrite (c : Chip) (t : BitVec 4) (r : Nat) (v : Word) : Chip :=
  if !(c.clusterOn t) then c
  else if r < 0x040 then c.onTme t fun x => { x with regs := tput 0 x.regs (r / 4) v }
  else if r = 0x040 && flag v 0 then c.tmeSubmit t
  else c

/-- MEM (R378). -/
def memWrite (c : Chip) (r : Nat) (v : Word) : Chip :=
  if r < 0x80000 then c.chanWrite (BitVec.ofNat 3 (r / 0x10000)) (r % 0x10000) v
  else if 0x90000 ≤ r ∧ r < 0xA0000 then c.tmeRegWrite (BitVec.ofNat 4 ((r - 0x90000) / 0x1000)) (r % 0x1000) v
  else c

/-- KVW (R471). -/
def kvwWrite (c : Chip) (w : BitVec 4) (r : Nat) (v : Word) : Chip :=
  if !(c.clusterOn w) then c
  else c.onWalker w fun x =>
    match r with
    | 0x020 => { x with evtBase := setHalf x.evtBase 0x020 0x020 (v &&& 0xFFFFFFF0) }
    | 0x024 => { x with evtBase := setHalf x.evtBase 0x020 0x024 v }
    | 0x028 => { x with evtSize := fld v 0 5 }
    | 0x030 => { x with evtCons := fld v 0 16 }
    | 0x040 => { x with dirSpace := fld v 30 2, dirIndex := fld v 0 11 }
    | _ => x

/-- An I2S port (R517, R521, R524). -/
def audPortWrite (c : Chip) (p : Fin 8) (r : Nat) (v : Word) : Chip :=
  if !(c.audOn p) then c
  else
    match r with
    | 0x00 => c.runWritten p (flag v 0)
    | 0x04 => c.onAud p fun x => { x with gapBit := w1c x.gapBit v 3, underrun := w1c x.underrun v 2 }
    | 0x08 => c.unsealed fun c => c.onAud p fun x => { x with div := fld v 0 12 }
    | 0x0C => c.unsealed fun c => c.onAud p fun x => { x with frac := fld v 0 24 }
    | 0x14 => c.unsealed fun c => if c.almLocked then c else c.onAud p fun x => { x with gain := fld v 0 16 }
    | _ => c

/-- AUD_ARM (R518, R519): MISSED, then MASK with or without GO. -/
def audArmWritten (c : Chip) (v : Word) : Chip :=
  let c : Chip := { c with aud := { c.aud with missed := w1c c.aud.missed v 17, mask := fld v 0 8 } }
  if flag v 8 then c.armGo (fld v 0 8) else c

/-- AUD (R524). -/
def audWrite (c : Chip) (r : Nat) (v : Word) : Chip :=
  if h : r / 0x100 < 8 then c.audPortWrite ⟨r / 0x100, h⟩ (r % 0x100) v
  else if r = 0x800 ∨ r = 0x804 then { c with aud := { c.aud with startAt := setHalf c.aud.startAt 0x800 r v } }
  else if r = 0x808 then c.audArmWritten v
  else c

/-- FHE (R543, R555, R557, R563). -/
def fheWrite (c : Chip) (r : Nat) (v : Word) : Chip :=
  if c.satchel then c
  else if h : r / 0x100 < 2 then
    if r % 0x100 = 0x04 then
      c.unsealed fun c => if c.alm.running then c else c.onFh ⟨r / 0x100, h⟩ fun p => { p with dayOfs := fld v 0 15 }
    else c
  else if 0x400 ≤ r ∧ r < 0x500 then
    let k := r % 0x20
    c.onRing (BitVec.ofNat 3 ((r - 0x400) / 0x20)) fun x =>
      if k = 0x00 ∨ k = 0x04 then { x with base := setHalf x.base 0x00 k v }
      else if k = 0x08 then { x with size := fld v 0 5 }
      else if k = 0x0C then { x with prod := fld v 0 16 }
      else x
  else if r = 0x800 then { c with fhe := { c.fhe with tsNs := v } }
  else if r = 0x804 then { c with fhe := { c.fhe with tsS := (fld c.fhe.tsS 32 16).append v } }
  else if r = 0x808 then { c with fhe := { c.fhe with tsS := (fld v 0 16).append (fld c.fhe.tsS 0 32) } }
  else c

/-! ### The host interface (R574, R579, R581, R603, R618) -/

/-- HIF_CMD_PROD lies further ahead of CONS than the ring size: PROD_ERR, and no reading until RESYNC (R581), whether or not
the ring is being read. A size code that R618 does not allow gives no ring to compare with. -/
def prodCheck (c : Chip) : Chip :=
  let h := c.hif
  if ringLog h.cmdSize.toNat 4 12 && 2 ^ h.cmdSize.toNat < ahead16 h.cmdProd h.cmdCons then
    c.onHif fun h => { h with prodErr := true, halted := true }
  else c

/-- HIF_CTL (R579, R581, R603): RESYNC from 1 to 0 clears PROD_ERR and lets the reading go on. -/
def hifCtlWritten (c : Chip) (v : BitVec 3) : Chip :=
  let ends := c.hif.resync && !(flag v 1)
  (c.onHif fun h => { h with
    cmdEn := flag v 0
    resync := flag v 1
    dayIrq := flag v 2
    prodErr := h.prodErr && !ends
    halted := h.halted && !ends }).prodCheck

/-- HIF_CMD_PROD (R581). -/
def cmdProdWritten (c : Chip) (v : BitVec 16) : Chip := (c.onHif fun h => { h with cmdProd := v }).prodCheck

/-- A ring base or size, which the reading locks (R618). -/
def ringParam (c : Chip) (f : Hif → Hif) : Chip := if c.hif.cmdEn && !c.hif.resync then c else c.onHif f

/-- One word of the MSI-X table: a pending vector that is unmasked is delivered (log 9). -/
def msixWritten (c : Chip) (n k : Nat) (v : Word) : Chip :=
  let old := tget msixMasked c.hif.msix n
  let keep : BitVec 128 := ~~~((0xFFFFFFFF : BitVec 128) <<< (32 * k))
  let new := (old &&& keep) ||| (v.setWidth 128 <<< (32 * k))
  let c := c.onHif fun h => { h with msix := tput msixMasked h.msix n new }
  if flag c.hif.pba n && !(flag new 96) then
    (c.onHif fun h => { h with pba := h.pba &&& ~~~((1 : BitVec 64) <<< n) }).vector n
  else c

/-- HIF (R618). -/
def hifWrite (c : Chip) (r : Nat) (v : Word) : Chip :=
  let whenResync (f : Hif → Hif) : Chip := if c.hif.resync then c.onHif f else c
  if r = 0x000 then c.hifCtlWritten (fld v 0 3)
  else if r = 0x004 then c.onHif fun h => { h with prodErr := w1c h.prodErr v 11 }
  else if r = 0x010 ∨ r = 0x014 then c.ringParam fun h => { h with cmdBase := setHalf h.cmdBase 0x010 r v }
  else if r = 0x018 then (c.ringParam fun h => { h with cmdSize := fld v 0 4 }).prodCheck
  else if r = 0x01C then c.cmdProdWritten (fld v 0 16)
  else if r = 0x020 then (whenResync fun h => { h with cmdCons := fld v 0 16 }).prodCheck
  else if r = 0x030 ∨ r = 0x034 then c.ringParam fun h => { h with cplBase := setHalf h.cplBase 0x030 r v }
  else if r = 0x038 then c.ringParam fun h => { h with cplSize := fld v 0 4 }
  else if r = 0x03C then whenResync fun h => { h with cplProd := fld v 0 16 }
  else if r = 0x040 then c.onHif fun h => { h with cplCons := fld v 0 16 }
  else if r = 0x050 then c.onHif fun h => { h with window := fld v 0 2 }
  else if 0x10000 ≤ r ∧ r < 0x10400 then c.msixWritten ((r - 0x10000) / 16) (r % 16 / 4) v
  else c

/-- UML (R313, R333). -/
def umlWrite (c : Chip) (r : Nat) (v : Word) : Chip :=
  if c.satchel then c
  else if h : r / 0x100 < 6 then
    if r % 0x100 = 0x00 then c.umlCtlWritten ⟨r / 0x100, h⟩ (flag v 0) (flag v 1)
    else if r % 0x100 = 0x04 then c.onLink ⟨r / 0x100, h⟩ fun l => { l with degraded := w1c l.degraded v 12 }
    else c
  else c

/-- CNS (R632, R657). -/
def cnsWrite (c : Chip) (r : Nat) (v : Word) : Chip :=
  match r with
  | 0x000 => c.onCns fun k => { k with
      faultMask := fld v 8 5, bcastEn := flag v 3, spill := flag v 2, drive := flag v 1, pinEn := flag v 0 }
  | 0x008 => c.cenRelease (fld v 0 4)
  | 0x020 => c.onCns fun k => { k with spillLo := v }
  | 0x024 => c.onCns fun k => { k with spillChan := fld v 8 3, spillA32 := flag v 0 }
  | 0x028 => c.onCns fun k => { k with spillSize := fld v 0 4 }
  | 0x030 => c.onCns fun k => { k with spillCons := fld v 0 16 }
  | _ => c

/-- FLT (R657). -/
def fltWrite (c : Chip) (r : Nat) (v : Word) : Chip :=
  if r = 0x000 then c.onFlt fun f => { f with fwdChip := fld v 16 16, fwdMask := fld v 8 5, pinMask := fld v 0 4 } else c

/-- SFE (R524): the producer index, and the gain while the almanac neither runs nor is armed. -/
def sfeWrite (c : Chip) (r : Nat) (v : Word) : Chip :=
  if 0x10000 ≤ r ∧ r < 0x30000 then
    let s : BitVec 12 := BitVec.ofNat 12 ((r - 0x10000) / 32)
    if !(c.streamOn s) then c
    else if r % 32 = 0x0C then c.onStream s fun x => { x with prod := fld v 0 16 }
    else if r % 32 = 0x14 then c.unsealed fun c => if c.almLocked then c else c.onStream s fun x => { x with gain := fld v 0 16 }
    else c
  else c

/-- A tile (R198, R199, R236). -/
def tileRegWrite (c : Chip) (t : TileId) (r : Nat) (v : Word) : Chip :=
  let setting (f : Tile → Tile) : Chip := c.unsealed fun c => if c.almLocked then c else c.onTile t f
  if c.tileOff t then c
  else if r = 0x000 then c.onTile t fun x => { x with check := flag v 0 }
  else if r = 0x004 then c.onTile t fun x => { x with
    conflict := w1c x.conflict v 12
    illegal := w1c x.illegal v 11
    clip := w1c x.clip v 10
    eqOvf := w1c x.eqOvf v 9
    eqEmpty := w1c x.eqEmpty v 8 }
  else if r = 0x01C then setting fun x => { x with statCtl := fld v 0 8 }
  else if 0x8000 ≤ r ∧ r < 0xA000 then
    let n := (r - 0x8000) / 8
    setting fun x => { x with
      ct := tput 0 x.ct n (setHalf (tget 0 x.ct n) 0 (r % 8) v &&& ~~~(BitVec.ofNat 64 Img.ctReserved)) }
  else if 0xC000 ≤ r ∧ r < 0xD000 then
    let put (l : Table Byte) (b : Nat) : Table Byte := tput 0 l (r - 0xC000 + b) (fld v (8 * b) 8)
    setting fun x => { x with lut := (List.range 4).foldl put x.lut }
  else c

/-! ### BAR0 -/

/-- A 32-bit write of a word offset (R15). -/
def write32 (c : Chip) (o : Nat) (v : Word) : Chip :=
  let r := o % 0x100000
  match o / 0x100000 with
  | 0x0 => c.glbWrite r v
  | 0x1 => c.almWrite r v
  | 0x2 => c.hnsWrite r v
  | 0x3 => c.bklWrite r v
  | 0x4 => c.fabWrite r v
  | 0x5 => c.memWrite r v
  | 0x6 => if r < 0x10000 then c.kvwWrite (BitVec.ofNat 4 (r / 0x1000)) (r % 0x1000) v else c
  | 0x7 => c
  | 0x8 => c.audWrite r v
  | 0x9 => c.fheWrite r v
  | 0xA => c.hifWrite r v
  | 0xB => c.umlWrite r v
  | 0xC => c.cnsWrite r v
  | 0xD => c.fltWrite r v
  | 0xE => c.sfeWrite r v
  | 0xF => c
  | _ => if o < 0x2000000 then c.tileRegWrite (BitVec.ofNat 8 (o / 0x10000)) (o % 0x10000) v else c

/-- A BAR0 write (R12, R13, R677): narrow and unaligned ones are ignored, a 64-bit one is two of 32 bits, the lower address
first, wherever those two are aligned; before READY each is discarded. -/
def writeBar0 (c : Chip) (off size : Nat) (v : BitVec 64) : Chip :=
  if !c.ready then c
  else if size = 4 ∧ off % 4 = 0 then c.write32 off (fld v 0 32)
  else if size = 8 ∧ off % 4 = 0 then (c.write32 off (fld v 0 32)).write32 (off + 4) (fld v 32 32)
  else c

end Chip

/-! ### The rows -/

/-- REGISTER_WRITE (R11 to R17, R677, R697): a BAR0 write. No port's identity changes what it does. -/
def execRegisterWrite (_p : Port) (off : BitVec 25) (size : BitVec 4) (v : BitVec 64) (s : State) :
    Host.Outcome State Fault Refusal := s.run fun c => c.writeBar0 off.toNat size.toNat v

/-- RESYNC: HIF_CTL is written (R579, R581, R603, R604). -/
def execResync (v : BitVec 3) (s : State) : Host.Outcome State Fault Refusal :=
  s.run fun c => if c.ready then c.hifCtlWritten v else c

/-- HIF_CMD_PROD_WRITE (R581). -/
def execHifCmdProdWrite (v : BitVec 16) (s : State) : Host.Outcome State Fault Refusal :=
  s.run fun c => if c.ready then c.cmdProdWritten v else c

end Sys2Proof.Machine
end

