-- ==== Sys2Proof/Machine/Release.lean ====
section
/-!
DEFINITION. Machine/Release.lean: what the Vigil does for every block at once (R85, R86, R145) and the stop of the almanac
(R68, R102, R149, R497, R635).
-/
namespace Sys2Proof.Machine
open Sys2Proof

namespace Chip

/-- The streams that have consumed descriptors to hand back. -/
def backStreams (c : Chip) : List (BitVec 12) :=
  (c.sfe.streams.filter fun kx => !kx.2.backs.isEmpty).map fun kx => BitVec.ofNat 12 kx.1

/-- The walkers with events of the day. -/
def eventWalkers (c : Chip) : List (BitVec 4) :=
  (c.kvw.filter fun kw => !kw.2.events.isEmpty).map fun kw => BitVec.ofNat 4 kw.1

/-- Vigil cycle 16: the day's records go to the host rings (R86, R470, R503), and vectors 3, 4 and 5 follow the last write
of their kind (R579, R580). The fronthaul copies begin on this cycle with rows of their own. -/
def releaseDay (c : Chip) : Chip :=
  if c.vigilAt 16 then
    let ss := c.backStreams
    let before := c.kvw.map fun (kw : Nat × Walker) => kw.2.evtProd
    let c := ss.foldl (fun c s => c.writeBacks s) c
    let c := c.eventWalkers.foldl (fun c w => c.releaseEvents w) c
    let evts := c.kvw.map (fun (kw : Nat × Walker) => kw.2.evtProd) ≠ before
    let backs := c.sfe.wrote || !ss.isEmpty
    let c := if c.hif.dayIrq then c.vector 3 else c
    let c := if evts then c.vector 4 else c
    if backs then ({ c with sfe := { c.sfe with wrote := false } }).vector 5 else c
  else c

/-- Vigil cycles 64 to 767: the pending images whose day has come enter APPLYING on cycle 64, then one region a cycle
switches its copies, the lowest first (R141, R145; the pace is the model's, log 60). -/
def applyDue (c : Chip) : Chip :=
  if c.vigilAt 64 then
    (c.regionKeys fun x => x.state = 2 && x.applyDay.toNat ≤ c.alm.dayCount.toNat).foldl
      (fun c r => c.onRegion r fun x => { x with state := 3 }) c
  else if c.alm.running && c.alm.inVigil && 64 < c.vigilCycle && c.vigilCycle ≤ 767 then
    match c.applying with
    | some r => c.switchRegion r
    | none => c
  else c

/-- Every session becomes FREE (R497). -/
def freeSessions (c : Chip) : Chip :=
  (c.sfe.sessions.map fun (kx : Nat × Session) => (BitVec.ofNat 10 kx.1 : BitVec 10)).foldl
    (fun c i => if (c.session i).state = 0 then c else c.freeSession i) c

/-- Every census slot frees and counts as missed (R635), with the edge it may have had. -/
def freeArms (c : Chip) : Chip :=
  armSlots.foldl
    (fun c a =>
      let x := c.arm a
      if x.state = 0 then c
      else
        let mine (l : Latch) : Bool :=
          l.code = (if x.state = 2 then 4 else 3) && l.target = x.target && l.origin = x.origin
        (c.freeArm a).onCns fun k => { k with
          missed := satInc k.missed, pending := k.pending.filter fun l => !(mine l) })
    c

/-- The cycle after the last one of the last day: stat windows still open close with that day's record (R237), the almanac
is stopped (R68), pending images switch (R149), settings not
yet in force apply (R102), sessions and census slots are free (R497, R635). -/
def stopAlmanac (c : Chip) : Chip :=
  if c.alm.running && c.alm.dayEnded && c.alm.stopReq then
    let c := (c.tileKeys.filter fun t => (c.tile t).winOpen).foldl closeWindow c
    let c := c.onAlm fun a => { a with
      running := false
      stopReq := false
      stopAtVigil16 := false
      inVigil := false
      inFeast := false
      hdOpen := false }
    let c := c.applyRegions.onHns fun h => { h with skvOld := none }
    let c := c.applySettings (c.alm.staged ++ c.alm.settings)
    let c := c.onAlm fun a => { a with
      staged := []
      settings := []
      nextPlan := none
      nextSrc := none
      tickSrc := match a.nextSrc with | some v => fld v 0 2 | none => a.tickSrc
      tickSub := match a.nextSrc with | some v => fld v 2 3 | none => a.tickSub }
    let ports : Table FhPort := c.fhe.ports.map fun (kp : Nat × FhPort) => (kp.1, { kp.2 with recs := [], ticked := [] })
    let c : Chip := { c with fhe := { c.fhe with ports := ports.filter fun kp => kp.2 ≠ FhPort.init } }
    c.freeSessions.freeArms
  else c

end Chip

/-- OUTPUT_RELEASE (R86, R470, R503, R579, R580). -/
def execOutputRelease (s : State) : Host.Outcome State Fault Refusal := s.run Chip.releaseDay

/-- REGION_APPLY (R144, R145). -/
def execRegionApply (s : State) : Host.Outcome State Fault Refusal := s.run Chip.applyDue

/-- ALMANAC_STOPPED (R68, R102, R149, R497, R635). -/
def execAlmanacStopped (s : State) : Host.Outcome State Fault Refusal := s.run Chip.stopAlmanac

end Sys2Proof.Machine
end

