-- ==== Sys2Proof/Machine/Reset.lean ====
section
/-!
DEFINITION. Machine/Reset.lean: resets, the start sequence, TEST_EN, PLLs and temperature (15_bringup, R670 to R677, R686 to
R693; 17_package, R717).
-/
namespace Sys2Proof.Machine
open Sys2Proof

/-- Which reset: POR_N; SYS_RST_N or TEST_EN; the command; an FLR. -/
inductive ResetKind where
  | por | sys | soft | flr
deriving DecidableEq, Repr

namespace Chip

/-! ### What a reset leaves (R673, R674 Table 2) -/

/-- RESET_CAUSE (R690 Table 7). -/
def causeOf : ResetKind → BitVec 2
  | .por => 0 | .sys => 1 | .soft => 2 | .flr => 3

/-- Writes to LPDDR5X that were under way complete (R673), and every bank is precharged before the devices enter self
refresh (R342, R674). -/
def finishBursts (c : Chip) : Chip :=
  c.chans.foldl
    (fun c kx =>
      let k : BitVec 3 := BitVec.ofNat 3 kx.1
      let c := kx.2.inFlight.foldl
        (fun c t => if t.2.pkt.type = tReadReq then c else c.writeBytes k t.2.addr (pktLen t.2.pkt) t.2.pkt.payload)
        ((List.range 32).foldl (fun c b => c.storeCheck k b) c)
      (List.range 32).foldl (fun c b => c.precharge k b) c) c

/-- A channel after a reset: its contents stay in self refresh while HOLD_DDR is 1 (R674). -/
def keptChan (hold : Bool) (x : Chan) : Chan :=
  if hold then { Chan.init with cells := x.cells, ecc := x.ecc, ddrKept := true } else Chan.init

/-- The channels after a warm reset; one that the table does not list has nothing to keep but is in self refresh too. -/
def keptChans (hold : Bool) (t : Table Chan) : Table Chan :=
  ((List.range 8).map fun k => (k, keptChan hold (tget Chan.init t k))).filter fun kx => kx.2 ≠ Chan.init

/-- The fault unit after a warm reset: log, indices and counts kept, FATAL and FLT_CTL at their reset values. FLT_OVERFLOW
and FLT_FWD_DROP are kept with the log (log 56). -/
def keptFlt (f : Flt) : Flt :=
  { Flt.init with
    head := f.head, tail := f.tail, counts := f.counts, overflow := f.overflow, fwdDrop := f.fwdDrop, log := f.log }

/-- The census unit after a warm reset: banks, CNS_SEQ and the spill indices kept; a record that was not complete is given
up (log 56). -/
def keptCns (k : Cns) : Cns :=
  let whole (b : CBank) : CBank := if b.full && !b.valid then CBank.init else b
  let bs : Table CBank := k.banks.map fun (kb : Nat × CBank) => (kb.1, whole kb.2)
  { Cns.init with
    banks := bs.filter fun kb => kb.2 ≠ CBank.init
    last := k.last, seq := k.seq, spillProd := k.spillProd, spillCons := k.spillCons }

/-- The host interface after a warm reset: the command keeps the PCIe link, its configuration and the MSI-X table; an FLR
keeps the link alone; the rings are cleared by each. -/
def keptHif (kind : ResetKind) (h : Hif) : Hif :=
  match kind with
  | .soft => { Hif.init with
      linkUp := h.linkUp, width := h.width, speed := h.speed, cfg := h.cfg, msix := h.msix, pba := h.pba }
  | .flr => { Hif.init with linkUp := h.linkUp, width := h.width, speed := h.speed }
  | _ => Hif.init

/-- The global block after a reset: the part's own values and pins, and, but for POR_N, what Table 2 keeps. -/
def keptGlb (kind : ResetKind) (g : Glb) : Glb :=
  let part : Glb := { Glb.init with
    stepping := g.stepping, secureBoot := g.secureBoot, debugLock := g.debugLock, profileLimit := g.profileLimit
    keyDigest := g.keyDigest, porN := g.porN, sysRstN := g.sysRstN, testEn := g.testEn, bootSel := g.bootSel
    cause := causeOf kind }
  match kind with
  | .por => part
  | _ => { part with
      holdDdr := g.holdDdr, epoch := g.epoch, uptime := g.uptime, hostAbsent := g.hostAbsent
      unlocked := if kind = .sys then 0 else g.unlocked }

/-- A reset takes the whole chip at once: nothing to come comes (R673, R674). -/
def resetAll (c : Chip) (kind : ResetKind) : Chip :=
  let hold := c.glb.holdDdr && kind ≠ .por
  let c := if hold then c.finishBursts else c
  let driving := decide (c.now < c.cns.driveUntil)
  let n : Chip := { Chip.reset with free := c.free, glb := keptGlb kind c.glb, hostMem := c.hostMem, flash := c.flash, out := c.out }
  let n : Chip := if kind = .por then n
    else { n with
      now := c.now
      alm := { Alm.init with dayCount := c.alm.dayCount }
      chans := keptChans hold c.chans
      cns := keptCns c.cns
      flt := keptFlt c.flt
      hif := keptHif kind c.hif }
  if driving then n.emit (.trigPin true) else n

/-- The chip is held in reset (R670, R671, R717). -/
def hold (c : Chip) (kind : ResetKind) : Chip := (c.resetAll kind).onGlb fun g => { g with phase := .held }

/-- The start sequence begins; READY comes n cycles on (R675 Table 3; its bounds are taken, log 8). -/
def begin_ (c : Chip) (n : Nat) : Chip := c.onGlb fun g => { g with phase := .starting, readyAt := c.now + n }

/-- No pin holds the chip any longer (R671, R717). -/
def pinsFree (c : Chip) : Bool := c.glb.porN && c.glb.sysRstN && !c.glb.testEn

/-- A reset pin rose: when both are high BOOT_SEL is latched (R678), and the start begins unless TEST_EN holds. -/
def released (c : Chip) (bootSel : BitVec 2) : Chip :=
  let c := if c.glb.porN && c.glb.sysRstN then c.onGlb fun g => { g with bootSel := bootSel } else c
  if c.pinsFree then c.begin_ 312500 else c

/-- POR_N falls. -/
def porAssert (c : Chip) : Chip :=
  if c.glb.porN then (c.onGlb fun g => { g with porN := false }).hold .por else c

/-- POR_N rises: GLB_UPTIME counts from here (R92). -/
def porRelease (c : Chip) (bootSel : BitVec 2) : Chip :=
  if c.glb.porN then c else (c.onGlb fun g => { g with porN := true }).released bootSel

/-- A pin that holds a warm reset is asserted: a chip not yet held stops (R671, R673). -/
def warmPin (c : Chip) : Chip := if c.inReset then c else c.hold .sys

/-- SYS_RST_N falls. -/
def sysAssert (c : Chip) : Chip :=
  if c.glb.sysRstN then (c.onGlb fun g => { g with sysRstN := false }).warmPin else c

/-- SYS_RST_N rises. -/
def sysRelease (c : Chip) (bootSel : BitVec 2) : Chip :=
  if c.glb.sysRstN then c else (c.onGlb fun g => { g with sysRstN := true }).released bootSel

/-- TEST_EN changes (R717). -/
def testPin (c : Chip) (level : Bool) : Chip :=
  if level = c.glb.testEn then c
  else if level then (c.onGlb fun g => { g with testEn := true }).warmPin
  else
    let c := c.onGlb fun g => { g with testEn := false }
    if c.pinsFree then c.begin_ 312500 else c

/-- A posted RESET_SOFT, or an FLR, begins on this cycle (R591, R672): the sequence is measured from here (R675). -/
def softBegin (c : Chip) : Chip :=
  match c.glb.phase, c.glb.softAt with
  | .held, _ => c
  | _, some t => if t ≤ c.now then (c.resetAll (if c.glb.softFlr then .flr else .soft)).begin_ 12500 else c
  | _, none => c

/-- READY sets, and the boot starts (R675, R678). -/
def becomeReady (c : Chip) : Chip :=
  match c.glb.phase with
  | .starting => if c.glb.readyAt ≤ c.now then (c.onGlb fun g => { g with phase := .up }).post 0 .boot else c
  | _ => c

/-! ### Clocks and temperature (R686 to R689) -/

/-- PLL k loses lock. -/
def unlockPll (c : Chip) (k : BitVec 2) : Chip :=
  if c.inReset || flag c.glb.unlocked k.toNat then c
  else (c.onGlb fun g => { g with unlocked := g.unlocked ||| ((1 : BitVec 4) <<< k.toNat) }).logFault 0x5001 Config.globalEid k.toNat 0

/-- Reading n of a sample, signed quarters of a degree. -/
def reading (codes : BitVec 128) (n : Nat) : BitVec 16 := fld codes (16 * n) 16

/-- The eight sensors update (R686, R687, R688): readings, THERM_WARN with its hysteresis, and the trip of each sensor that
comes to 115 °C. -/
def sample (c : Chip) (codes : BitVec 128) : Chip :=
  match c.glb.phase with
  | .held => c
  | _ =>
    let ns := List.range 8
    let hottest : Int := ns.foldl (fun m n => max m (reading codes n).toInt) (-32768)
    let at_ : Int := 4 * c.glb.derateAt.toNat
    let trips := ns.filter fun n => 460 ≤ (reading codes n).toInt && (tget 0 c.glb.temp n).toInt < 460
    let put (t : Table (BitVec 16)) (n : Nat) : Table (BitVec 16) := tput 0 t n (reading codes n)
    let c := c.onGlb fun g => { g with
      temp := ns.foldl put g.temp
      thermWarn := if at_ ≤ hottest then true else if hottest ≤ at_ - 20 then false else g.thermWarn
      tripped := g.tripped || !trips.isEmpty }
    trips.foldl (fun c n => c.logFault 0x5002 Config.globalEid n (reading codes n).toNat) c

end Chip

/-! ### The rows -/

/-- POR_N_ASSERT (R670, R673, R674). -/
def execPorNAssert (s : State) : Host.Outcome State Fault Refusal := s.run Chip.porAssert

/-- POR_N_RELEASE (R92, R596, R675, R678, R682). -/
def execPorNRelease (bootSel : BitVec 2) (s : State) : Host.Outcome State Fault Refusal := s.run fun c => c.porRelease bootSel

/-- SYS_RST_N_ASSERT (R670, R671, R673, R674). -/
def execSysRstNAssert (s : State) : Host.Outcome State Fault Refusal := s.run Chip.sysAssert

/-- SYS_RST_N_RELEASE (R675, R678, R693). -/
def execSysRstNRelease (bootSel : BitVec 2) (s : State) : Host.Outcome State Fault Refusal :=
  s.run fun c => c.sysRelease bootSel

/-- RESET_SOFT_BEGIN (R591, R672, R673, R674, R675, R692). -/
def execResetSoftBegin (s : State) : Host.Outcome State Fault Refusal := s.run Chip.softBegin

/-- READY (R675). -/
def execReady (s : State) : Host.Outcome State Fault Refusal := s.run Chip.becomeReady

/-- TEST_EN (R717). -/
def execTestEn (level : Bool) (s : State) : Host.Outcome State Fault Refusal := s.run fun c => c.testPin level

/-- PLL_UNLOCK (R644, R689). -/
def execPllUnlock (k : BitVec 2) (s : State) : Host.Outcome State Fault Refusal := s.run fun c => c.unlockPll k

/-- PLL_RELOCK (R689): no fault and no FATAL state is cleared. -/
def execPllRelock (k : BitVec 2) (s : State) : Host.Outcome State Fault Refusal :=
  s.run fun c => c.onGlb fun g => { g with unlocked := g.unlocked &&& ~~~((1 : BitVec 4) <<< k.toNat) }

/-- TEMP_SAMPLE (R355, R686, R687, R688): sensor n's reading is codes [16n + 15 : 16n]. -/
def execTempSample (codes : BitVec 128) (s : State) : Host.Outcome State Fault Refusal := s.run fun c => c.sample codes

end Sys2Proof.Machine
end

