-- ==== Sys2Proof/Machine/Clock.lean ====
section
/-!
DEFINITION. Machine/Clock.lean: what the block does when no command waits (log 2). One CCLK cycle has parts: the rows that
fall due on it, the bundles that issue on it, the rows that a day's end gives, and its end, on which tile banks, injection
queues and engines move and the next cycle begins. Rows that depend on the world outside (a pin, a link, a device's
training, a sensor) are never given here.
-/
namespace Sys2Proof.Machine
open Sys2Proof

/-! ### Bundles (R186, R187 Tables 3 to 7) -/

namespace Bundle

/-- The CTL slot's row. -/
def ctl (t : TileId) (w : BitVec 24) : Instr :=
  let d : BitVec 4 := fld w 15 4
  let a : BitVec 4 := fld w 11 4
  let imm : BitVec 14 := fld w 0 14
  match fldNat w 19 5 with
  | 0x00 => .ctlNop t
  | 0x01 => .amovi t d imm
  | 0x02 => .aaddi t d imm
  | 0x03 => .aadd t d a (fld w 7 4)
  | 0x04 => .amovv t d a (fld w 6 5)
  | 0x05 => .loopi t (fld w 17 2) (fld w 7 10) (fld w 0 6)
  | 0x06 => .loopb t (fld w 17 2) (fld w 13 4) (fld w 9 4) (fld w 0 6)
  | 0x07 => .idle t imm
  | 0x08 => .wait t (fld w 7 12) (fld w 3 4)
  | 0x09 => .halt t
  | 0x0A => .haltv t
  | _ => .reservedOpcode t .ctl

/-- The LS slot's row. -/
def ls (t : TileId) (w : BitVec 28) : Instr :=
  let r : BitVec 4 := fld w 20 4
  let a : BitVec 4 := fld w 16 4
  let p := flag w 15
  let off : BitVec 15 := fld w 0 15
  match fldNat w 24 4 with
  | 0x0 => .lnop t
  | 0x1 => .ldb t r a p off
  | 0x2 => .stb t r a p off
  | 0x3 => .ldw t r a p off
  | 0x4 => .stw t r a p off
  | 0x5 => .lde t a p off
  | 0x6 => .lda t r a p off
  | 0x7 => .ldt t (fld w 20 3) a p off
  | _ => .reservedOpcode t .ls

/-- The MXU slot's row. -/
def mxu (t : TileId) (w : BitVec 20) : Instr :=
  let a : BitVec 4 := fld w 12 4
  let p := flag w 11
  let f := flag w 10
  match fldNat w 16 4 with
  | 0x0 => .mnop t
  | 0x1 => .mzp t (fld w 0 8)
  | 0x2 => .mwld t a p
  | 0x3 => .mswap t
  | 0x4 => .mmac t a p
  | 0x5 => .mmacg t a p f
  | 0x6 => .mout t a f
  | 0x7 => .mclr t
  | _ => .reservedOpcode t .mxu

/-- The VXU slot's row. -/
def vxu (t : TileId) (w : BitVec 32) : Instr :=
  let d : BitVec 4 := fld w 22 4
  let a : BitVec 4 := fld w 18 4
  let b : BitVec 4 := fld w 14 4
  let imm : BitVec 14 := fld w 0 14
  match fldNat w 26 6 with
  | 0x00 => .vnop t
  | 0x01 => .vadd t d a b
  | 0x02 => .vsub t d a b
  | 0x03 => .vmul t d a b
  | 0x04 => .vshl t d a imm
  | 0x05 => .vshr t d a imm
  | 0x06 => .vmax t d a b
  | 0x07 => .vmin t d a b
  | 0x08 => .vcmp t d a b imm
  | 0x09 => .vclamp t d a imm
  | 0x0A => .vmovi t d imm
  | 0x0B => .vlut t d a imm
  | 0x0C => .vrq t d a imm
  | 0x0D => .vstat t a imm
  | 0x0E => .vtopk t d a imm
  | _ => .reservedOpcode t .vxu

/-- The FAB slot's row. -/
def fab (t : TileId) (w : BitVec 24) : Instr :=
  let a : BitVec 4 := fld w 13 4
  let p := flag w 12
  match fldNat w 20 4 with
  | 0x0 => .fnop t
  | 0x1 => .send t (fld w 17 3) a p
  | 0x2 => .recv t a p
  | _ => .reservedOpcode t .fab

/-- The five rows of a bundle. They read the registers as they stand on the cycle, so their order shows only where two of
them stall or end the section: CTL comes last and its word stands (log 57). -/
def rows (t : TileId) (b : BitVec 128) : List Instr :=
  [ls t (fld b 76 28), mxu t (fld b 56 20), vxu t (fld b 24 32), fab t (fld b 0 24), ctl t (fld b 104 24)]

end Bundle

namespace Chip

/-! ### The end of a cycle -/

/-- A losing access of a tile in CHECK mode (R166). -/
def noteConflict (c : Chip) (t : TileId) (bank : Nat) : Chip :=
  if (c.tile t).check then
    (c.onTile t fun x => { x with conflict := true, conflictCnt := satInc x.conflictCnt }).logFault 0x200B (tileEid t)
      t.toNat bank
  else c

/-- The planned accesses of this cycle take their banks (R161, R165). -/
def bankPhase (c : Chip) (t : TileId) : Chip :=
  let ms := (c.tile t).micro.filter fun m => m.cycle ≤ c.now
  let c := c.onTile t fun x => { x with micro := x.micro.filter fun m => c.now < m.cycle }
  ms.zipIdx.foldl
    (fun c mi =>
      let m := mi.1
      let lost := Tile.loses m mi.2 ms
      let l : Line := if lost then 0 else (c.tile t).sramLine m.addr
      let c := c.onTile t fun x => x.serve m (!lost)
      let c := if lost then c.noteConflict t (Tile.bankOf m.addr) else c
      match m.what with
      | .sendPayload h => c.send (tileEid t) { h with payload := l }
      | .arrival _ _ notify => if lost then c else c.notifyNext (tileEid t) notify
      | _ => c)
    c

/-- A VC0 packet that could have gone on this cycle and did not is late, once at each place (R271). -/
def noteStalls (c : Chip) : Chip :=
  let waits (fs : List Flit) : List Packet := (fs.filter fun f => f.ready = c.now && f.pkt.vc = 0).map fun f => f.pkt
  let atRouters := c.fab.routers.flatMap fun (kr : Nat × Router) =>
    kr.2.bufs.flatMap fun (kb : Nat × List Flit) => (waits kb.2).map fun p => (BitVec.ofNat 9 kr.1, p)
  let atSources := c.fab.ends.flatMap fun (ke : Nat × Endp) => (waits ke.2.outq).map fun p => (BitVec.ofNat 9 ke.1, p)
  (atRouters ++ atSources).foldl (fun c x => c.vc0Late x.1 x.2) c

/-- The endpoints that have something to send. -/
def senders (c : Chip) : List Eid := c.fab.ends.map fun (ke : Nat × Endp) => BitVec.ofNat 9 ke.1

/-- Every engine's part of a cycle. -/
def engines (c : Chip) : Chip :=
  let c := c.tmes.foldl (fun c kt => c.tmeCycle (BitVec.ofNat 4 kt.1)) c
  let c := c.kvw.foldl (fun c kw => c.kvMoveCycle (BitVec.ofNat 4 kw.1)) c
  ((c.fhCopyCycle 0).fhCopyCycle 1).hostReadCycle.loaderCycle

/-- Vector 6, once no copy is under way any more (R580). -/
def fhVector (c : Chip) : Chip :=
  if c.fhe.wrote && c.fhe.rings.all fun kr => kr.2.copying.isNone then
    ({ c with fhe := { c.fhe with wrote := false } }).vector 6
  else c

/-- The internal audio instants of this cycle: instant k of a day falls k / SPD of the nominal day into it, and a day that
ends before its last has those left on its last cycle, so that every day moves SPD samples (R478, R479; log 37). -/
def audioCycle (c : Chip) : Chip :=
  let c := (List.finRange 8).foldl audComing c
  if c.alm.running then
    let from_ := if c.alm.cycle = 0 then 0 else c.aud.instant
    let upto := if c.alm.dayEnded then c.spd else min c.spd (c.alm.cycle * c.spd / max 1 c.alm.dayLen.toNat + 1)
    let c := ((List.range upto).filter fun k => from_ ≤ k).foldl
      (fun c k => (List.finRange 8).foldl (fun c p => c.audInstant p k) c) c
    { c with aud := { c.aud with instant := max from_ upto } }
  else c

/-- Everything that moves with the clock on this cycle. -/
def endOfCycle (c : Chip) : Chip :=
  let c := c.tiles.foldl (fun c kt => c.bankPhase (BitVec.ofNat 8 kt.1)) c
  let c := c.engines.fhVector.audioCycle
  let c := (List.finRange 6).foldl umlComing c
  let c := c.senders.foldl pushOut c
  let c := c.noteStalls
  (c.senders.filter isEdgeEid).foldl throttle c

/-- The next cycle begins: results due become readable (R173). -/
def nextCycle (c : Chip) : Chip :=
  let c := { c with now := c.now + 1, part := 0 }
  let c := (c.onGlb fun g => { g with uptime := g.uptime + 1 }).onAlm fun a =>
    { a with cycle := if a.running then a.cycle + 1 else a.cycle }
  c.everyTile fun t => t.land c.now

/-! ### The rows that fall due -/

/-- A row when a condition holds. -/
def whenRow (b : Bool) (i : Instr) : List Instr := if b then [i] else []

/-- Numbers of table entries that a test selects. -/
def keysOf {α : Type} (t : Table α) (p : α → Bool) : List Nat := (t.filter fun kx => p kx.2).map fun kx => kx.1

/-- The processor reads the next descriptor of the PCIe ring (R581): once the one before it has started, no command is in
progress and the completion ring has room (R586, R620), in a Feast too (R51). It then waits to start. -/
def readRing (c : Chip) : Chip :=
  let h := c.hif
  if h.cmdEn && !h.resync && !h.halted && ringLog h.cmdSize.toNat 4 12 && h.cmdProd ≠ h.cmdCons && !c.procBusy &&
      c.cplRoom .pcie && !(h.waiting.any fun w => portCode w.1 = 0) then
    let bs := mread c.hostMem (h.cmdBase.toNat + 64 * (h.cmdCons.toNat % 2 ^ h.cmdSize.toNat)) 64
    (c.onHif fun h => { h with cmdCons := h.cmdCons + 1 }).wait .pcie (BitVec.ofNat 512 (leNat bs))
  else c

/-- The command processor's next command (R581, R584): the ports in turn after the one served last, each with its
oldest waiting command. -/
def nextCommand (c : Chip) : Option (Src × Desc) × Chip :=
  let c := c.readRing
  let ofPort (k : Nat) : Option (Src × Desc) := c.hif.waiting.find? fun w => (portCode w.1).toNat = k
  let ready (k : Nat) : Bool := match ofPort k with | some w => c.mayStart w.1 | none => false
  let order := (List.range 4).map fun i => (c.hif.lastPort.toNat + 1 + i) % 4
  ((order.find? ready).bind ofPort, c)

/-- The row of a command (R589 Table 5). HARNESS_REGION has two, by its CANCEL flag (R147). -/
def commandRow (src : Src) (d : Desc) : Instr :=
  match (dOpcode d).toNat with
  | 0x01 => .nop src d
  | 0x02 => .reckon src d
  | 0x03 => .census src d
  | 0x10 => .harnessLoad src d
  | 0x11 => if flag (dFlags d) 0 then .harnessRegionCancel src d else .harnessRegion src d
  | 0x12 => .harnessSeal src d
  | 0x20 => .sessionOpen src d
  | 0x21 => .sessionClose src d
  | 0x22 => .sessionAdapt src d
  | 0x30 => .buckleSet src d
  | 0x31 => .buckleFasten src d
  | 0x38 => .settingsWrite src d
  | 0x40 => .streamRingBind src d
  | 0x50 => .faultAck src d
  | 0x60 => .epochSet src d
  | 0x7F => .resetSoft src d
  | _ => .badOpcode src d

/-- The rows of an entry's issue j on channel k (R349). What MR4 reads comes from the device and is free. -/
def planRow (c : Chip) (k : BitVec 3) (e : Img.PlanEntry) (j : Nat) : Option Instr × Chip :=
  let bank : BitVec 5 := BitVec.ofNat 5 e.bank
  let rank := decide (16 ≤ e.bank)
  let step := j * Img.width e.op
  let col : BitVec 6 := BitVec.ofNat 6 (e.col + step)
  let tile : TileId := BitVec.ofNat 8 e.tile
  let line : BitVec 14 := BitVec.ofNat 14 (e.line + step)
  let slot : BitVec 6 := BitVec.ofNat 6 (e.tile + step)
  match e.op with
  | 0x1 => (some (.act k bank (BitVec.ofNat 18 e.row)), c)
  | 0x2 => (some (.rd32 k bank col tile line), c)
  | 0x3 => (some (.rd64 k bank col tile line), c)
  | 0x4 => (some (.wr32 k bank col slot), c)
  | 0x5 => (some (.wr64 k bank col slot), c)
  | 0x6 => (some (.pre k bank), c)
  | 0x7 => (some (.prea k rank), c)
  | 0x8 => (some (.refpb k bank), c)
  | 0x9 => (some (.refab k rank), c)
  | 0xA =>
    let (rate, c) := c.drawBits 3
    let (hot, c) := c.drawBool
    (some (.mrr4 k rank rate hot), c)
  | 0xB => (some (.zqlat k rank), c)
  | 0xC => (some (.gap k (BitVec.ofNat 32 e.row) (BitVec.ofNat 16 e.line)), c)
  | _ => (none, c)

/-- The planned issues of this cycle on channel k (R348, R349). -/
def planRows (c : Chip) (k : BitVec 3) : List Instr × Chip :=
  match c.dramPlan k with
  | none => ([], c)
  | some b =>
    if !(c.planLive k) then ([], c)
    else
      let due := (Img.planEntries b).flatMap fun e =>
        ((List.range e.run).filter fun j => e.cycle + j * e.period = c.alm.cycle).map fun j => (e, j)
      due.foldl
        (fun rc x =>
          let (i, c) := rc.2.planRow k x.1 x.2
          (rc.1 ++ i.toList, c))
        ([], c)

/-- The emergency refreshes that begin on this cycle: before any planned issue of it, which they skip (R356, R357). -/
def emergencyRows (c : Chip) (k : BitVec 3) : List Instr :=
  [false, true].flatMap fun r =>
    whenRow (c.planLive k && tget 0 (c.chan k).emergUntil (b1 r) = 0 && decide (128 ≤ c.debtOf k (b1 r)))
      (.emergencyRefresh k r)

/-- The rows of channel k's own clockwork: refresh, back-off, the arbiter (R355, R363, R364, R740). The arbiter's comes last
and looks at the cycle as it then stands: a GAP that opens on it is open. -/
def chanRows (c : Chip) (k : BitVec 3) : List Instr :=
  let x := c.chan k
  whenRow (c.trained k && 0 < c.trefi k && decide (x.trefiAt ≤ c.now)) (.refreshAccrual k) ++
    [false, true].flatMap (fun r =>
      whenRow (!c.alm.running && c.trained k && decide (16 ≤ c.debtOf k (b1 r)) && !(c.rankBusy k (b1 r)))
        (.stoppedRefresh k r)) ++
    ((List.range 4).filter fun cl => let u := (c.arbClass k cl).backUntil; 0 < u && u ≤ c.now).map
      (fun cl => Instr.backoffExpiry k (BitVec.ofNat 2 cl)) ++
    whenRow (c.mayGrant k && (List.range 4).any fun cl => !(c.arbClass k cl).queue.isEmpty) (.arbiterGrant k)

/-- The rows of cycle 0 (R460, R491, R494, R517). -/
def dayRows (c : Chip) : List Instr :=
  if c.alm.running && c.alm.cycle = 0 then
    (keysOf c.sfe.sessions fun x => x.state = 3 && x.closeDay = c.today32).map
      (fun i => Instr.sessionCloseDay (BitVec.ofNat 10 i)) ++
    (keysOf c.sfe.sessions fun x => (x.state = 1 || x.state = 3) && x.bindDay = c.today32).map
      (fun i => Instr.sessionBind (BitVec.ofNat 10 i))
  else []

/-- The notices of degraded ring links: at once on the day of detection, then once on each day (R460). -/
def noticeRows (c : Chip) : List Instr :=
  if c.alm.running then
    ((List.range 16).map fun w => (BitVec.ofNat 4 w : BitVec 4)).flatMap fun w =>
      let bad := c.badRings w
      let known := (c.walker w).degraded
      whenRow ((bad.any fun r => !(known.any fun k => k.1 = r.target && k.2.2 = c.today48)) ||
        known.any fun k => !(bad.any fun r => r.target = k.1)) (.noticeResend w)
  else []

/-- The rows of the Vigil (R85). -/
def vigilRows (c : Chip) : List Instr :=
  let streams : List (BitVec 12) := (keysOf c.sfe.streams fun x => x.startDay.isSome).map fun s => BitVec.ofNat 12 s
  let rings : List (BitVec 3) := (List.range 8).map fun r => BitVec.ofNat 3 r
  let tiles : List TileId := (keysOf c.tiles fun x => x.winOpen).map fun t => BitVec.ofNat 8 t
  if !c.alm.running || c.alm.cycle < c.vigilStart then []
  else
    match c.vigilCycle with
    | 0 =>
      [.vigilStart] ++ streams.map (fun s => Instr.outputBlockTake (.stream s)) ++
        ((List.finRange 8).filter fun p => (c.audPort p).startDay.isSome).map (fun p => Instr.outputBlockTake (.i2s p)) ++
        (rings.filter fun r => (c.fhRing r).copying.isSome).map (fun r => Instr.fhOutLate r) ++
        ((List.range 16).filter fun w => !(c.ringClasses (BitVec.ofNat 4 w)).isEmpty).map fun w =>
          Instr.modeSwitch (BitVec.ofNat 4 w)
    | 16 =>
      streams.map (fun s => Instr.outputBlockWrite s) ++ [.outputRelease] ++
        (rings.filter fun r => (c.fhOutput r).isSome).map (fun r => Instr.fhOutputCopy r) ++
        (tiles.filter c.closesNow).map fun t => Instr.statWindowClose t
    | 768 => [.planLatch]
    | 896 => [.settingsStage]
    | k => whenRow (k = 64 || (64 < k && k ≤ 767 && c.applying.isSome)) .regionApply

/-- The rows of streams, ports and sessions (R482, R503, R518, R593). -/
def voiceRows (c : Chip) : List Instr :=
  let all : List (BitVec 12) := c.sfe.streams.map fun (kx : Nat × Stream) => BitVec.ofNat 12 kx.1
  let starts (s : BitVec 12) : Bool :=
    match c.streamPlan s with
    | some (e, _) => !(isOutput e) && (c.stream s).startDay.isSome && c.alm.cycle = numAt e 12 4
    | none => false
  let ports (p : Fin 8) : Bool :=
    match c.audCfg p with
    | some (b, _) => (c.audPort p).whole.isSome && c.alm.cycle = numAt b 16 4
    | none => false
  whenRow (!c.sfe.holdq.isEmpty && c.adaptRoom) .heldAdaptStart ++
    (all.filter c.fetchDue).map (fun s => Instr.streamDescriptorFetch s) ++
    (if c.alm.running then
      (all.filter starts).map (fun s => Instr.inputBlockDelivery (.stream s)) ++
        ((List.finRange 8).filter ports).map fun p => Instr.inputBlockDelivery (.i2s p)
     else []) ++
    whenRow (c.aud.armed && c.alm.running && c.lts = c.aud.startAt) .i2sArmedStart

/-- The rows of the tensor move engines and walkers (R369, R371, R453 to R455). -/
def engineRows (c : Chip) : List Instr :=
  (c.tmes.flatMap fun (kt : Nat × Tme) =>
    let t : BitVec 4 := BitVec.ofNat 4 kt.1
    whenRow (c.tmeFinished t) (.tmeComplete t) ++
      whenRow (kt.2.job.isNone && !kt.2.queue.isEmpty) (.tmeDescriptorStart t)) ++
  c.kvw.flatMap fun (kw : Nat × Walker) =>
    let w : BitVec 4 := BitVec.ofNat 4 kw.1
    whenRow (c.kvMoveBad w) (.moveFail w) ++
      whenRow (match kw.2.moves with | m :: _ => !m.started | [] => false) (.moveStart w)

/-- The rows of the fronthaul clock (R550, R551, R552). -/
def fhRows (c : Chip) : List Instr :=
  ([0, 1] : List (Fin 2)).flatMap fun q =>
    (match c.fhRecFor q c.alm.dayCount.toNat with
     | some r => whenRow (c.alm.running && Fh.enabled r.body && c.alm.cycle = Fh.lateWin r.body + 1) (.recordClose q)
     | none => []) ++
      whenRow (c.nextLine q).isSome (.groupWrite q)

/-- The rows of the census unit's own clock (R627, R639). -/
def censusRows (c : Chip) : List Instr :=
  (armSlots.filter fun a => (c.armDue (c.arm a)).isSome).map (fun a => Instr.censusArmedTrigger a) ++
    (match c.cns.spilling with
     | some b => whenRow c.spillDone (.censusSpill b)
     | none => []) ++
    match c.spillNext with
    | some b => [.censusSpill b]
    | none => []

/-- The rows of routers and response slots (R269, R278). -/
def fabricRows (c : Chip) : List Instr :=
  (c.fab.routers.flatMap fun (kr : Nat × Router) =>
    let r : Eid := BitVec.ofNat 9 kr.1
    (inputs.filter fun i => (c.headOf r i.1 i.2).isSome).map fun i => Instr.packetRoute r i.1 i.2) ++
  c.fab.ends.flatMap fun (ke : Nat × Endp) =>
    let e : Eid := BitVec.ofNat 9 ke.1
    (keysOf ke.2.slots c.slotExpired).map fun k => Instr.rspTimeout e (BitVec.ofNat 5 k)

/-- The rows of the VC1 sources, once every other packet of the cycle has had its link (R269, R271) and the throttle its
cycle: a level falls before the head of a queue goes (R272). -/
def sourceRows (c : Chip) : List Instr :=
  c.fab.ends.flatMap fun (ke : Nat × Endp) =>
    let e : Eid := BitVec.ofNat 9 ke.1
    whenRow (isEdgeEid e && decide (256 ≤ ke.2.quiet)) (.vc1LevelDown e) ++
      whenRow (isEdgeEid e && !ke.2.queue.isEmpty) (.vc1Inject e)

/-- The rows of the Umaed links' frame clock (R299). -/
def linkRows (c : Chip) : List Instr :=
  ((List.finRange 6).filter fun n =>
    let l := c.link n
    3 ≤ l.state.toNat && l.state.toNat ≤ 5 && l.nextFrame ≤ c.now).map fun n => Instr.frameSend n

/-- The rows of the loader (R136, R137, R142). -/
def loaderRows (c : Chip) : List Instr :=
  match c.hns.jobs with
  | [] => []
  | j :: _ =>
    if !c.hns.busy || c.hns.left ≠ 0 then []
    else if isFull j then whenRow (c.jobVerdict j ≠ Img.pass) .fullLoadFailed
    else [.regionVerifyDone]

/-- The rows with which this cycle begins on the tiles: sections, and stalls that end (R172, R181, R185, R188). -/
def wakeRows (c : Chip) : List Instr :=
  (c.tiles.flatMap fun (kt : Nat × Tile) =>
    let t : TileId := BitVec.ofNat 8 kt.1
    match kt.2.hold with
    | .idle upto => whenRow (decide (upto < c.now)) (.idleExpiry t)
    | .pad upto => whenRow (decide (upto < c.now)) (.loopbPlannedEnd t)
    | .wait _ _ (some r) => whenRow (decide (r ≤ c.now)) (.waitResume t)
    | _ => []) ++
  (match c.plan with
   | some p =>
     if c.alm.running && c.alm.cycle < c.vigilStart then
       (p.sections.filter fun x => x.first = c.alm.cycle).map fun x => Instr.sectionStart x.tile
     else []
   | none => [])

/-- The rows of the first part of a cycle: the day's own, so that what follows sees the Feast and the Vigil as they stand. -/
def edgeRows (c : Chip) : List Instr :=
  let feast := c.alm.running && c.feastAt c.alm.cycle
  whenRow (feast && !c.alm.inFeast) .feastStart ++ whenRow (c.alm.inFeast && !feast) .feastEnd ++
    c.dayRows ++ c.noticeRows ++ c.vigilRows

/-- The rows of the second part of a cycle, and the chip with what their giving reads. -/
def openingRows (c : Chip) : List Instr × Chip :=
  let plan := ((List.range 8).map fun k => (BitVec.ofNat 3 k : BitVec 3)).foldl
    (fun (rc : List Instr × Chip) k =>
      let (is, c) := rc.2.planRows k
      (rc.1 ++ c.emergencyRows k ++ is ++ c.chanRows k, c)) ([], c)
  let c := plan.2
  let (cmd, c) := c.noteFull.nextCommand
  (c.wakeRows ++ plan.1 ++ c.voiceRows ++ c.engineRows ++ c.fhRows ++ c.censusRows ++ c.fabricRows ++ c.linkRows ++
    c.loaderRows ++
    (match cmd with | some (src, d) => [commandRow src d] | none => []), c)

/-! ### The third part: bundles and unscheduled accesses -/

/-- The bundle that a tile issues on this cycle: the one at ENTRY of a section that starts, the next one of a section that
runs, or a stalled RECV that goes on (R172, R179). -/
def bundleRows (c : Chip) (t : TileId) : List Instr × Chip :=
  let x := c.tile t
  if !x.inSection || !(c.tileLive t) then ([], c)
  else if (c.alm.running && (c.sectionAt t).isSome) then (Bundle.rows t (tget 0 x.imem x.pc.toNat), c)
  else
    match x.hold, x.recvWait with
    | .none, none => (Bundle.rows t (tget 0 x.imem x.nextPc.toNat), c.onTile t fun x => x.issue c.now)
    | _, some _ => (whenRow (!x.rxq.isEmpty) (.recvResume t), c)
    | _, none => ([], c)

/-- Unscheduled accesses of a tile: a write first, then one read for each bank that a read waits for (R161, R167, R168, R201);
each row sees which banks the ones before it have taken. -/
def idleBankRows (t : TileId) (x : Tile) : List Instr :=
  whenRow (!x.ingress.isEmpty) (.ingressWrite t) ++
    ((x.reads.map readBank).eraseDups.map fun _ => .unscheduledReadServe t)

/-- The rows of the third part. -/
def tileRows (c : Chip) : List Instr × Chip :=
  let ts := c.tiles.map fun (kt : Nat × Tile) => (BitVec.ofNat 8 kt.1 : TileId)
  let bundles := ts.foldl
    (fun (rc : List Instr × Chip) t =>
      let (is, c) := rc.2.bundleRows t
      (rc.1 ++ is, c)) ([], c)
  (bundles.1 ++ ts.flatMap (fun t => idleBankRows t (c.tile t)), bundles.2)

/-! ### The fourth part: the end of a day -/

/-- The rows that end a day on this cycle, after any tick on it (R73, R75, R79). -/
def dayEndRows (c : Chip) : List Instr :=
  if !c.alm.running || c.alm.dayEnded && !c.alm.hdOpen then []
  else
    let n := c.nominalEnd
    let t := c.alm.tickTol.toNat
    let k := c.alm.cycle
    whenRow (k = n && (c.alm.tickSrc = 3 || c.alm.holdover)) .dayEndNominal ++
      whenRow (k = n + t && c.alm.tickSrc ≠ 3 && !c.alm.holdover) .dayEndLate ++
      whenRow (if t = 0 then k = n && c.alm.holdover else c.alm.hdOpen && k + 1 = t) .holdoverJudgement

/-- The rows of a day's last cycle, with what its end does to the I2S ports (R237, R456, R513). -/
def lastCycle (c : Chip) : List Instr × Chip :=
  let tiles : List TileId := (keysOf c.tiles fun x => x.winOpen).map fun t => BitVec.ofNat 8 t
  let late := ((List.range 16).map fun w => (BitVec.ofNat 4 w : BitVec 4)).filter fun w => !(c.lateFetches w).isEmpty
  (late.map (fun w => Instr.fetchLate w) ++ (tiles.filter c.closesNow).map fun t => Instr.statWindowClose t,
   ((List.finRange 8).foldl (fun c p => c.audDayEnd p (c.alm.cycle + 1)) c).onAlm fun a => { a with lastDone := true })

/-! ### The clock -/

/-- What a day's first cycle does to the I2S ports: blocks begin, and ports asked to run start after it (R480, R517). -/
def dayPorts (c : Chip) : Chip :=
  if c.alm.running && c.alm.cycle = 0 then
    (List.finRange 8).foldl
      (fun c p =>
        let c := c.audDayStart p
        if (c.audPort p).run && !(c.audPort p).running then c.post 1 (.i2sPortStart p) else c) c
  else c

/-- The cycle passes. The next one begins with the day's start or the almanac's stop where this one was a day's last, and with
the page moves whose last line has gone, before any packet arrives (R467). -/
def pass (c : Chip) : List Instr × Chip :=
  let c := c.nextCycle
  ((if c.alm.running && c.alm.dayEnded then [if c.alm.stopReq then .almanacStopped else .dayStart] else []) ++
    (c.kvw.filter fun kw => c.kvMoveWritten (BitVec.ofNat 4 kw.1)).map fun kw => Instr.moveComplete (BitVec.ofNat 4 kw.1), c)

/-- The block's next rows when no command waits, and the chip that gave them. Until READY only time passes (R671, R675). -/
def clock (c : Chip) : List Instr × Chip :=
  if !c.glb.porN then ([], c)
  else if !c.ready then
    let due := match c.glb.phase with | .starting => decide (c.glb.readyAt ≤ c.now) | _ => false
    if due then ([.ready], c)
    else ([], ({ c with now := c.now + 1 }).onGlb fun g => { g with uptime := g.uptime + 1 })
  else
    let due := c.agenda.filter fun a => a.1 ≤ c.now
    if !due.isEmpty then (due.map fun a => a.2, { c with agenda := c.agenda.filter fun a => c.now < a.1 })
    else
      match c.part with
      | 0 =>
        let c := c.dayPorts
        (c.edgeRows, { c with part := 1 })
      | 1 =>
        let (is, c) := c.openingRows
        (is, { c with part := 2 })
      | 2 =>
        let (is, c) := c.tileRows
        (is, { c with part := 3 })
      | 3 => (c.dayEndRows, { c with part := 4 })
      | 4 =>
        if c.alm.dayEnded && !c.alm.lastDone then c.lastCycle
        else
          let c := c.endOfCycle
          (c.sourceRows, { c with part := 5 })
      | _ => c.pass

end Chip

end Sys2Proof.Machine
end

