-- ==== Sys2Proof/Machine/Dispatch.lean ====
section
/-!
DEFINITION. Machine/Dispatch.lean: what each command of the table does, one arm per constructor of Instr.
-/
namespace Sys2Proof.Machine
open Sys2Proof

/-- A command's effect on everything but the queue. -/
def exec (i : Instr) (s : State) : Host.Outcome State Fault Refusal :=
  match i with
  | .rcRead p off size => Sys2Proof.Machine.execRcRead p off size s
  | .loHalfRead p off size => Sys2Proof.Machine.execLoHalfRead p off size s
  | .registerWrite p off size v => Sys2Proof.Machine.execRegisterWrite p off size v s
  | .start mode stop => Sys2Proof.Machine.execStart mode stop s
  | .stop mode => Sys2Proof.Machine.execStop mode s
  | .tickSrcWrite v => Sys2Proof.Machine.execTickSrcWrite v s
  | .spiRetry => Sys2Proof.Machine.execSpiRetry s
  | .memTmeSubmit t => Sys2Proof.Machine.execMemTmeSubmit t s
  | .retrain n enable => Sys2Proof.Machine.execRetrain n enable s
  | .linkEnable n enable => Sys2Proof.Machine.execLinkEnable n enable s
  | .resync v => Sys2Proof.Machine.execResync v s
  | .hifCmdProdWrite v => Sys2Proof.Machine.execHifCmdProdWrite v s
  | .audRun p run => Sys2Proof.Machine.execAudRun p run s
  | .audArmGo mask => Sys2Proof.Machine.execAudArmGo mask s
  | .cnsRelease mask => Sys2Proof.Machine.execCnsRelease mask s
  | .freeze c v => Sys2Proof.Machine.execFreeze c v s
  | .nop src d => Sys2Proof.Machine.execNop src d s
  | .reckon src d => Sys2Proof.Machine.execReckon src d s
  | .census src d => Sys2Proof.Machine.execCensus src d s
  | .harnessLoad src d => Sys2Proof.Machine.execHarnessLoad src d s
  | .harnessRegion src d => Sys2Proof.Machine.execHarnessRegion src d s
  | .harnessRegionCancel src d => Sys2Proof.Machine.execHarnessRegionCancel src d s
  | .harnessSeal src d => Sys2Proof.Machine.execHarnessSeal src d s
  | .sessionOpen src d => Sys2Proof.Machine.execSessionOpen src d s
  | .sessionClose src d => Sys2Proof.Machine.execSessionClose src d s
  | .sessionAdapt src d => Sys2Proof.Machine.execSessionAdapt src d s
  | .buckleSet src d => Sys2Proof.Machine.execBuckleSet src d s
  | .buckleFasten src d => Sys2Proof.Machine.execBuckleFasten src d s
  | .settingsWrite src d => Sys2Proof.Machine.execSettingsWrite src d s
  | .streamRingBind src d => Sys2Proof.Machine.execStreamRingBind src d s
  | .faultAck src d => Sys2Proof.Machine.execFaultAck src d s
  | .epochSet src d => Sys2Proof.Machine.execEpochSet src d s
  | .resetSoft src d => Sys2Proof.Machine.execResetSoft src d s
  | .badOpcode src d => Sys2Proof.Machine.execBadOpcode src d s
  | .i3cCommandWrite bytes => Sys2Proof.Machine.execI3cCommandWrite bytes s
  | .i3cCompletionRead => Sys2Proof.Machine.execI3cCompletionRead s
  | .i3cStatusRead => Sys2Proof.Machine.execI3cStatusRead s
  | .i3cReckoningRead count => Sys2Proof.Machine.execI3cReckoningRead count s
  | .i3cDynamicAddress a => Sys2Proof.Machine.execI3cDynamicAddress a s
  | .jtagCmd d => Sys2Proof.Machine.execJtagCmd d s
  | .jtagCpl => Sys2Proof.Machine.execJtagCpl s
  | .jtagRecord => Sys2Proof.Machine.execJtagRecord s
  | .dbgAddr v => Sys2Proof.Machine.execDbgAddr v s
  | .dbgData v => Sys2Proof.Machine.execDbgData v s
  | .idcode => Sys2Proof.Machine.execIdcode s
  | .extest => Sys2Proof.Machine.execExtest s
  | .samplePreload => Sys2Proof.Machine.execSamplePreload s
  | .bypass code => Sys2Proof.Machine.execBypass code s
  | .barTlp t => Sys2Proof.Machine.execBarTlp t s
  | .pcieConfigRequest off write => Sys2Proof.Machine.execPcieConfigRequest off write s
  | .dlUp width speed => Sys2Proof.Machine.execDlUp width speed s
  | .dlDownTimeout => Sys2Proof.Machine.execDlDownTimeout s
  | .flr => Sys2Proof.Machine.execFlr s
  | .sectionStart t => Sys2Proof.Machine.execSectionStart t s
  | .ctlNop t => Sys2Proof.Machine.execCtlNop t s
  | .amovi t d imm => Sys2Proof.Machine.execAmovi t d imm s
  | .aaddi t d imm => Sys2Proof.Machine.execAaddi t d imm s
  | .aadd t d a b => Sys2Proof.Machine.execAadd t d a b s
  | .amovv t d va lane => Sys2Proof.Machine.execAmovv t d va lane s
  | .loopi t k n len => Sys2Proof.Machine.execLoopi t k n len s
  | .loopb t k a b len => Sys2Proof.Machine.execLoopb t k a b len s
  | .loopbPlannedEnd t => Sys2Proof.Machine.execLoopbPlannedEnd t s
  | .idle t n => Sys2Proof.Machine.execIdle t n s
  | .idleExpiry t => Sys2Proof.Machine.execIdleExpiry t s
  | .wait t buckle a => Sys2Proof.Machine.execWait t buckle a s
  | .waitResume t => Sys2Proof.Machine.execWaitResume t s
  | .halt t => Sys2Proof.Machine.execHalt t s
  | .haltv t => Sys2Proof.Machine.execHaltv t s
  | .lnop t => Sys2Proof.Machine.execLnop t s
  | .ldb t r a p off => Sys2Proof.Machine.execLdb t r a p off s
  | .stb t r a p off => Sys2Proof.Machine.execStb t r a p off s
  | .ldw t r a p off => Sys2Proof.Machine.execLdw t r a p off s
  | .stw t r a p off => Sys2Proof.Machine.execStw t r a p off s
  | .lde t a p off => Sys2Proof.Machine.execLde t a p off s
  | .lda t r a p off => Sys2Proof.Machine.execLda t r a p off s
  | .ldt t k a p off => Sys2Proof.Machine.execLdt t k a p off s
  | .mnop t => Sys2Proof.Machine.execMnop t s
  | .mzp t imm => Sys2Proof.Machine.execMzp t imm s
  | .mwld t a p => Sys2Proof.Machine.execMwld t a p s
  | .mswap t => Sys2Proof.Machine.execMswap t s
  | .mmac t a p => Sys2Proof.Machine.execMmac t a p s
  | .mmacg t a p f => Sys2Proof.Machine.execMmacg t a p f s
  | .mout t vd f => Sys2Proof.Machine.execMout t vd f s
  | .mclr t => Sys2Proof.Machine.execMclr t s
  | .vnop t => Sys2Proof.Machine.execVnop t s
  | .vadd t d a b => Sys2Proof.Machine.execVadd t d a b s
  | .vsub t d a b => Sys2Proof.Machine.execVsub t d a b s
  | .vmul t d a b => Sys2Proof.Machine.execVmul t d a b s
  | .vshl t d a imm => Sys2Proof.Machine.execVshl t d a imm s
  | .vshr t d a imm => Sys2Proof.Machine.execVshr t d a imm s
  | .vmax t d a b => Sys2Proof.Machine.execVmax t d a b s
  | .vmin t d a b => Sys2Proof.Machine.execVmin t d a b s
  | .vcmp t d a b imm => Sys2Proof.Machine.execVcmp t d a b imm s
  | .vclamp t d a imm => Sys2Proof.Machine.execVclamp t d a imm s
  | .vmovi t d imm => Sys2Proof.Machine.execVmovi t d imm s
  | .vlut t d a imm => Sys2Proof.Machine.execVlut t d a imm s
  | .vrq t d a imm => Sys2Proof.Machine.execVrq t d a imm s
  | .vstat t a imm => Sys2Proof.Machine.execVstat t a imm s
  | .vtopk t d a imm => Sys2Proof.Machine.execVtopk t d a imm s
  | .fnop t => Sys2Proof.Machine.execFnop t s
  | .send t k a p => Sys2Proof.Machine.execSend t k a p s
  | .recv t a p => Sys2Proof.Machine.execRecv t a p s
  | .recvResume t => Sys2Proof.Machine.execRecvResume t s
  | .reservedOpcode t slot => Sys2Proof.Machine.execReservedOpcode t slot s
  | .ingressWrite t => Sys2Proof.Machine.execIngressWrite t s
  | .unscheduledReadServe t => Sys2Proof.Machine.execUnscheduledReadServe t s
  | .day0Start => Sys2Proof.Machine.execDay0Start s
  | .tickIn src => Sys2Proof.Machine.execTickIn src s
  | .dayEndNominal => Sys2Proof.Machine.execDayEndNominal s
  | .dayEndLate => Sys2Proof.Machine.execDayEndLate s
  | .holdoverJudgement => Sys2Proof.Machine.execHoldoverJudgement s
  | .dayStart => Sys2Proof.Machine.execDayStart s
  | .feastStart => Sys2Proof.Machine.execFeastStart s
  | .feastEnd => Sys2Proof.Machine.execFeastEnd s
  | .vigilStart => Sys2Proof.Machine.execVigilStart s
  | .outputRelease => Sys2Proof.Machine.execOutputRelease s
  | .regionApply => Sys2Proof.Machine.execRegionApply s
  | .planLatch => Sys2Proof.Machine.execPlanLatch s
  | .settingsStage => Sys2Proof.Machine.execSettingsStage s
  | .almanacStopped => Sys2Proof.Machine.execAlmanacStopped s
  | .statWindowClose t => Sys2Proof.Machine.execStatWindowClose t s
  | .harnessLoadComplete => Sys2Proof.Machine.execHarnessLoadComplete s
  | .ddrTraining fail => Sys2Proof.Machine.execDdrTraining fail s
  | .regionVerifyDone => Sys2Proof.Machine.execRegionVerifyDone s
  | .boot => Sys2Proof.Machine.execBoot s
  | .packetRoute r p vc => Sys2Proof.Machine.execPacketRoute r p vc s
  | .vc1Inject e => Sys2Proof.Machine.execVc1Inject e s
  | .vc1LevelDown e => Sys2Proof.Machine.execVc1LevelDown e s
  | .rspTimeout e slot => Sys2Proof.Machine.execRspTimeout e slot s
  | .dataWr e p inPort => Sys2Proof.Machine.execDataWr e p inPort s
  | .dataWrNotify e p inPort => Sys2Proof.Machine.execDataWrNotify e p inPort s
  | .readReq e p => Sys2Proof.Machine.execReadReq e p s
  | .readRsp e p => Sys2Proof.Machine.execReadRsp e p s
  | .cmd e p => Sys2Proof.Machine.execCmd e p s
  | .cmdRsp e p => Sys2Proof.Machine.execCmdRsp e p s
  | .censusTrig e p link => Sys2Proof.Machine.execCensusTrig e p link s
  | .fault e p => Sys2Proof.Machine.execFault e p s
  | .memWinWrite c p => Sys2Proof.Machine.execMemWinWrite c p s
  | .scoreWrite w p => Sys2Proof.Machine.execScoreWrite w p s
  | .ringNotice w p => Sys2Proof.Machine.execRingNotice w p s
  | .tmeDescriptorPacket t p => Sys2Proof.Machine.execTmeDescriptorPacket t p s
  | .fasten p => Sys2Proof.Machine.execFasten p s
  | .fastenN p => Sys2Proof.Machine.execFastenN p s
  | .unfasten p => Sys2Proof.Machine.execUnfasten p s
  | .set p => Sys2Proof.Machine.execSet p s
  | .reservedBuckleOp p => Sys2Proof.Machine.execReservedBuckleOp p s
  | .frameSend n => Sys2Proof.Machine.execFrameSend n s
  | .dataFrame n f fec => Sys2Proof.Machine.execDataFrame n f fec s
  | .idleTrain n r => Sys2Proof.Machine.execIdleTrain n r s
  | .ident n body r => Sys2Proof.Machine.execIdent n body r s
  | .echoReq nr => Sys2Proof.Machine.execEchoReq nr s
  | .echoRspSend n => Sys2Proof.Machine.execEchoRspSend n s
  | .echoRsp nr roundTrip => Sys2Proof.Machine.execEchoRsp nr roundTrip s
  | .reservedFrame n => Sys2Proof.Machine.execReservedFrame n s
  | .markRegister n markDay skew => Sys2Proof.Machine.execMarkRegister n markDay skew s
  | .laneSignalDetect n lanes => Sys2Proof.Machine.execLaneSignalDetect n lanes s
  | .adaptDone n lanes => Sys2Proof.Machine.execAdaptDone n lanes s
  | .adaptTimeout n => Sys2Proof.Machine.execAdaptTimeout n s
  | .identEnd n => Sys2Proof.Machine.execIdentEnd n s
  | .alignDone n => Sys2Proof.Machine.execAlignDone n s
  | .laneFail n lane => Sys2Proof.Machine.execLaneFail n lane s
  | .linkDown n => Sys2Proof.Machine.execLinkDown n s
  | .act c bank row => Sys2Proof.Machine.execAct c bank row s
  | .rd32 c bank col tile line => Sys2Proof.Machine.execRd32 c bank col tile line s
  | .rd64 c bank col tile line => Sys2Proof.Machine.execRd64 c bank col tile line s
  | .wr32 c bank col slot => Sys2Proof.Machine.execWr32 c bank col slot s
  | .wr64 c bank col slot => Sys2Proof.Machine.execWr64 c bank col slot s
  | .pre c bank => Sys2Proof.Machine.execPre c bank s
  | .prea c rank => Sys2Proof.Machine.execPrea c rank s
  | .refpb c bank => Sys2Proof.Machine.execRefpb c bank s
  | .refab c rank => Sys2Proof.Machine.execRefab c rank s
  | .mrr4 c rank rate hot => Sys2Proof.Machine.execMrr4 c rank rate hot s
  | .zqlat c rank => Sys2Proof.Machine.execZqlat c rank s
  | .gap c mask len => Sys2Proof.Machine.execGap c mask len s
  | .refreshAccrual c => Sys2Proof.Machine.execRefreshAccrual c s
  | .emergencyRefresh c rank => Sys2Proof.Machine.execEmergencyRefresh c rank s
  | .stoppedRefresh c rank => Sys2Proof.Machine.execStoppedRefresh c rank s
  | .arbiterGrant c => Sys2Proof.Machine.execArbiterGrant c s
  | .backoffExpiry c k => Sys2Proof.Machine.execBackoffExpiry c k s
  | .withdraw c k => Sys2Proof.Machine.execWithdraw c k s
  | .transactionComplete c => Sys2Proof.Machine.execTransactionComplete c s
  | .tmeDescriptorStart t => Sys2Proof.Machine.execTmeDescriptorStart t s
  | .tmeComplete t => Sys2Proof.Machine.execTmeComplete t s
  | .skiveEncode t => Sys2Proof.Machine.execSkiveEncode t s
  | .skiveDecode t => Sys2Proof.Machine.execSkiveDecode t s
  | .resolve w p => Sys2Proof.Machine.execResolve w p s
  | .append w p => Sys2Proof.Machine.execAppend w p s
  | .evict w p => Sys2Proof.Machine.execEvict w p s
  | .truncate w p => Sys2Proof.Machine.execTruncate w p s
  | .pin w p => Sys2Proof.Machine.execPin w p s
  | .spill w p => Sys2Proof.Machine.execSpill w p s
  | .fetch w p => Sys2Proof.Machine.execFetch w p s
  | .badOp w p => Sys2Proof.Machine.execBadOp w p s
  | .kvResult w => Sys2Proof.Machine.execKvResult w s
  | .moveStart w => Sys2Proof.Machine.execMoveStart w s
  | .moveComplete w => Sys2Proof.Machine.execMoveComplete w s
  | .moveFail w => Sys2Proof.Machine.execMoveFail w s
  | .fetchLate w => Sys2Proof.Machine.execFetchLate w s
  | .noticeResend w => Sys2Proof.Machine.execNoticeResend w s
  | .modeSwitch w => Sys2Proof.Machine.execModeSwitch w s
  | .sessionBind n => Sys2Proof.Machine.execSessionBind n s
  | .sessionCloseDay n => Sys2Proof.Machine.execSessionCloseDay n s
  | .heldAdaptStart => Sys2Proof.Machine.execHeldAdaptStart s
  | .streamDescriptorFetch k => Sys2Proof.Machine.execStreamDescriptorFetch k s
  | .inputBlockDelivery v => Sys2Proof.Machine.execInputBlockDelivery v s
  | .outputBlockTake v => Sys2Proof.Machine.execOutputBlockTake v s
  | .outputBlockWrite k => Sys2Proof.Machine.execOutputBlockWrite k s
  | .i2sFrame p left right => Sys2Proof.Machine.execI2sFrame p left right s
  | .i2sPortStart p => Sys2Proof.Machine.execI2sPortStart p s
  | .i2sArmedStart => Sys2Proof.Machine.execI2sArmedStart s
  | .i2sPortStop p => Sys2Proof.Machine.execI2sPortStop p s
  | .fhFrame q bytes fcsOk => Sys2Proof.Machine.execFhFrame q bytes fcsOk s
  | .macControl q => Sys2Proof.Machine.execMacControl q s
  | .iqData q => Sys2Proof.Machine.execIqData q s
  | .delayMeasurementRequest q => Sys2Proof.Machine.execDelayMeasurementRequest q s
  | .delayMeasurementReply q => Sys2Proof.Machine.execDelayMeasurementReply q s
  | .groupWrite q => Sys2Proof.Machine.execGroupWrite q s
  | .recordClose q => Sys2Proof.Machine.execRecordClose q s
  | .fhOutputCopy r => Sys2Proof.Machine.execFhOutputCopy r s
  | .fhOutLate r => Sys2Proof.Machine.execFhOutLate r s
  | .fhLinkDown q => Sys2Proof.Machine.execFhLinkDown q s
  | .censusPinEdge => Sys2Proof.Machine.execCensusPinEdge s
  | .censusArmedTrigger a => Sys2Proof.Machine.execCensusArmedTrigger a s
  | .censusLatch => Sys2Proof.Machine.execCensusLatch s
  | .censusRecordComplete b => Sys2Proof.Machine.execCensusRecordComplete b s
  | .censusSpill b => Sys2Proof.Machine.execCensusSpill b s
  | .porNAssert => Sys2Proof.Machine.execPorNAssert s
  | .porNRelease bootSel => Sys2Proof.Machine.execPorNRelease bootSel s
  | .sysRstNAssert => Sys2Proof.Machine.execSysRstNAssert s
  | .sysRstNRelease bootSel => Sys2Proof.Machine.execSysRstNRelease bootSel s
  | .resetSoftBegin => Sys2Proof.Machine.execResetSoftBegin s
  | .ready => Sys2Proof.Machine.execReady s
  | .testEn level => Sys2Proof.Machine.execTestEn level s
  | .pllUnlock k => Sys2Proof.Machine.execPllUnlock k s
  | .tempSample codes => Sys2Proof.Machine.execTempSample codes s
  | .fullLoadFailed => Sys2Proof.Machine.execFullLoadFailed s
  | .fhLinkUp q => Sys2Proof.Machine.execFhLinkUp q s
  | .pllRelock k => Sys2Proof.Machine.execPllRelock k s
  | .censusTrigRelease => Sys2Proof.Machine.execCensusTrigRelease s

end Sys2Proof.Machine
end

