-- ==== Sys2Proof/Safety.lean ====
section
/-!
DEFINITION. Safety.lean: the terms that the statements are in: frames (what a row leaves as it was), results of a tile on
their way, and the invariants of a run.
-/
namespace Sys2Proof.Machine
open Sys2Proof

/-! ### Frames -/

/-- The queue stands, and the chip is as it was once g has put back the parts that may have changed. -/
def keepsBut (g : Chip → Chip) (s t : State) : Prop := t.pending = s.pending ∧ g t.chip = s.chip

/-- Nothing but tile n differs. -/
def onlyTile (n : TileId) (s t : State) : Prop :=
  keepsBut (fun c => { c with tiles := s.chip.tiles }) s t ∧ ∀ m, m ≠ n → t.chip.tile m = s.chip.tile m

/-- Nothing but channel k differs. -/
def onlyChan (k : BitVec 3) (s t : State) : Prop :=
  keepsBut (fun c => { c with chans := s.chip.chans }) s t ∧ ∀ m, m ≠ k → t.chip.chan m = s.chip.chan m

/-- Nothing but TME k differs. -/
def onlyTme (k : BitVec 4) (s t : State) : Prop :=
  keepsBut (fun c => { c with tmes := s.chip.tmes }) s t ∧ ∀ m, m ≠ k → t.chip.tme m = s.chip.tme m

/-- Nothing but KV walker k differs. -/
def onlyWalker (k : BitVec 4) (s t : State) : Prop :=
  keepsBut (fun c => { c with kvw := s.chip.kvw }) s t ∧ ∀ m, m ≠ k → t.chip.walker m = s.chip.walker m

/-- Nothing but Umaed link n differs. -/
def onlyLink (n : Fin 6) (s t : State) : Prop :=
  keepsBut (fun c => { c with uml := { c.uml with links := s.chip.uml.links } }) s t ∧
    ∀ m, m ≠ n → t.chip.link m = s.chip.link m

/-- Nothing but fronthaul port q differs. -/
def onlyFh (q : Fin 2) (s t : State) : Prop :=
  keepsBut (fun c => { c with fhe := { c.fhe with ports := s.chip.fhe.ports } }) s t ∧
    ∀ m, m ≠ q → t.chip.fhPort m = s.chip.fhPort m

/-- Nothing but I2S port p differs. -/
def onlyAud (p : Fin 8) (s t : State) : Prop :=
  keepsBut (fun c => { c with aud := { c.aud with ports := s.chip.aud.ports } }) s t ∧
    ∀ m, m ≠ p → t.chip.audPort m = s.chip.audPort m

/-- Nothing but the almanac's registers differs. -/
def onlyAlm (s t : State) : Prop := keepsBut (fun c => { c with alm := s.chip.alm }) s t

/-- Nothing but the global block differs. -/
def onlyGlb (s t : State) : Prop := keepsBut (fun c => { c with glb := s.chip.glb }) s t

/-- Nothing but the host interface differs. -/
def onlyHif (s t : State) : Prop := keepsBut (fun c => { c with hif := s.chip.hif }) s t

/-- The parts that logging a fault may change (R645 to R653): the fault unit, a vector and an in-band interrupt, a forwarded
packet, a census trigger. -/
def faultParts (b c : Chip) : Chip :=
  { c with
    flt := b.flt, hif := b.hif, hostMem := b.hostMem, out := b.out, fab := b.fab, cns := b.cns, agenda := b.agenda }

/-- Nothing but what the ports have put out differs: x has been put out. -/
def onlyOut (x : Out) (s t : State) : Prop :=
  t.chip.out = s.chip.out ++ [x] ∧ keepsBut (fun c => { c with out := s.chip.out }) s t

/-! ### Results of a tile on their way (R173) -/

/-- No result for the register of this key (Tile.target) is on its way. -/
def quiet (x : Tile) (key : Nat) : Prop := ∀ w ∈ x.pend, Tile.target w.write ≠ key

/-- y is x with one more result on its way. -/
def oneMore (x y : Tile) : Prop := ∃ w, y = { x with pend := x.pend ++ [w] }

/-- Row i completes, touches tile n alone and adds one result there: A[d] keeps its value through this cycle and reads v
from the next one on. -/
def givesAddr (s : State) (n : TileId) (i : Instr) (d : BitVec 4) (v : BitVec 19) : Prop :=
  ∃ t, exec i s = .next t ∧ onlyTile n s t ∧ oneMore (s.chip.tile n) (t.chip.tile n) ∧
    (quiet (s.chip.tile n) (100 + d.toNat) →
      ((t.chip.tile n).land s.chip.now).areg d = (s.chip.tile n).areg d ∧
      ((t.chip.tile n).land (s.chip.now + 1)).areg d = v)

/-- Row i completes, touches tile n alone and adds one result there: the lanes of V[d] keep their values for the cycles
before `lat` and read v from then on. -/
def givesLanes (s : State) (n : TileId) (i : Instr) (d : BitVec 4) (lat : Nat) (v : Nat → BitVec 40) : Prop :=
  ∃ t, exec i s = .next t ∧ onlyTile n s t ∧ oneMore (s.chip.tile n) (t.chip.tile n) ∧
    (quiet (s.chip.tile n) (200 + d.toNat) → ∀ j, j < 32 →
      ((t.chip.tile n).land (s.chip.now + lat - 1)).lane d j = (s.chip.tile n).lane d j ∧
      ((t.chip.tile n).land (s.chip.now + lat)).lane d j = v j)

/-- An integer held to 40 signed bits. -/
def held40 (x : Int) : BitVec 40 := BitVec.ofInt 40 (max (-(2 ^ 39)) (min x (2 ^ 39 - 1)))

/-! ### Commands (R583 to R588) -/

/-- The processor may start this command of src now, its opcode is op, and src may give it: steps 1 and 2 of R588 pass. -/
def served (s : State) (src : Src) (d : Desc) (op : Nat) : Prop :=
  s.chip.mayStart src = true ∧ (dOpcode d).toNat = op ∧ s.chip.mayIssue src op = true

/-- Row i leaves its port's queue, has effect f and completes with this status, AUX and RESULT. -/
def answers (s : State) (i : Instr) (src : Src) (d : Desc) (status aux : Byte) (result : BitVec 64) (f : Chip → Chip) : Prop :=
  exec i s = .next { s with chip := (f (s.chip.take src d)).complete src (dTag d) (dOpcode d) status aux result }

/-- Row i completes with a failing status and no effect; where the manual states no RESULT, it is a free value. -/
def refuses (s : State) (i : Instr) (src : Src) (d : Desc) (status : Byte) : Prop :=
  ∃ (r : BitVec 64) (n : Nat), answers s i src d status 0 r fun c => { c with free := n }

/-- Opcode and row of every command of Table 5 for one descriptor; HARNESS_REGION's row follows its CANCEL flag. -/
def commandRows (src : Src) (d : Desc) : List (Nat × Instr) :=
  [(0x01, .nop src d), (0x02, .reckon src d), (0x03, .census src d), (0x10, .harnessLoad src d),
   (0x11, if flag (dFlags d) 0 then .harnessRegionCancel src d else .harnessRegion src d), (0x12, .harnessSeal src d),
   (0x20, .sessionOpen src d), (0x21, .sessionClose src d), (0x22, .sessionAdapt src d), (0x30, .buckleSet src d),
   (0x31, .buckleFasten src d), (0x38, .settingsWrite src d), (0x40, .streamRingBind src d), (0x50, .faultAck src d),
   (0x60, .epochSet src d), (0x7F, .resetSoft src d)]

/-! ### Invariants -/

/-- RUNNING and ARMED are not both set (R105: ARMED until day 0 begins, RUNNING from then on). -/
def oneAlmanacMode (s : State) : Prop := ¬(s.chip.alm.running = true ∧ s.chip.alm.armed = true)

/-- A row that resets the chip. -/
def isReset : Instr → Bool
  | .porNAssert => true
  | .sysRstNAssert => true
  | .resetSoftBegin => true
  | .testEn _ => true
  | _ => false

end Sys2Proof.Machine
end

