-- ==== Sys2Proof/Certificates/Slice0/Obligations.lean ====
section
/-!
DEFINITION. Certificates/Slice0/Obligations.lean: the statements for the provers, by family of the table. Where a row's
value is free or a choice of the model, the docstring names the log entry.
-/
open Sys2Proof Sys2Proof.Machine

/-! ### The tile: CTL slot and sequencer -/

/-- R187 Table 3 (04_tile): AMOVI, AADDI, AADD, AMOVV write one address register, readable on the next cycle; the CTL,
LS, MXU, VXU and FAB no-operations change nothing. -/
def Obligations.AddressRows : Prop :=
  ∀ (s : State) (n : TileId) (d a b : BitVec 4) (imm : BitVec 14) (k : BitVec 5),
    givesAddr s n (.amovi n d imm) d (BitVec.ofNat 19 (32 * imm.toNat)) ∧
    givesAddr s n (.aaddi n d imm) d (BitVec.ofInt 19 (((s.chip.tile n).areg d).toNat + 32 * imm.toInt)) ∧
    givesAddr s n (.aadd n d a b) d (BitVec.ofNat 19 (((s.chip.tile n).areg a).toNat + ((s.chip.tile n).areg b).toNat)) ∧
    givesAddr s n (.amovv n d a k) d (BitVec.ofNat 19 ((s.chip.tile n).lane a k.toNat).toNat) ∧
    (∀ i ∈ [Instr.ctlNop n, .lnop n, .mnop n, .vnop n, .fnop n], exec i s = .next s)

/-- R174 (04_tile): of two results for one register that become readable on one cycle, the one whose slot stands earlier in
the order is kept, whichever was issued first in the list; a result alone is kept. -/
def Obligations.SlotOrder : Prop :=
  ∀ (x : Tile) (now : Nat) (d : BitVec 4) (u v : BitVec 19) (p q k m : Nat), p < q →
    (∀ i j, ({ x with pend := [⟨now, i, p, .addr d u, k⟩, ⟨now, j, q, .addr d v, m⟩] }.land now).areg d = u) ∧
    (∀ i j, ({ x with pend := [⟨now, i, q, .addr d v, k⟩, ⟨now, j, p, .addr d u, m⟩] }.land now).areg d = u) ∧
    (∀ i e, ({ x with pend := [⟨now, i, q, .addr d v, k⟩] }.land now).areg e = if e = d then v else x.areg e)

/-- R180, R181, R182, R184, R205 (04_tile): LOOPI and LOOPB push their loop register when it is not active: LOOPI with N iterations
(0 for 1,024), LOOPB with min(count, bound) and the rest of the bound as gated cycles, CLIP and TILE_CLIP_CNT where the count
is above the bound.
Then: R181, R182, R205 (04_tile): a LOOPB that runs no iteration skips its body and gates the tile for the whole bound, and the
gating ends by LOOPB_PLANNED_END once its last cycle is past.
Then: R184 (04_tile): a loop whose register is already active changes nothing of the tile and logs LOOP_DEPTH. -/
def Obligations.LoopRows : Prop :=
  (∀ (s : State) (n : TileId) (k : BitVec 2) (cnt : BitVec 10) (a b : BitVec 4) (len : BitVec 6),
     let x := s.chip.tile n
     let body := if len = 0 then 64 else len.toNat
     let last := x.pc + BitVec.ofNat 11 body
     (∀ l ∈ x.loops, l.k ≠ k) →
       (∃ t, exec (.loopi n k cnt len) s = .next t ∧ onlyTile n s t ∧
         t.chip.tile n =
           { x with loops := ⟨k, x.pc + 1, last, (if cnt = 0 then 1024 else cnt.toNat) - 1, 0⟩ :: x.loops }) ∧
       (0 < (x.areg a).toNat → 0 < (x.areg b).toNat →
         ∃ t, exec (.loopb n k a b len) s = .next t ∧ onlyTile n s t ∧
           (t.chip.tile n).loops =
             ⟨k, x.pc + 1, last, min (x.areg a).toNat (x.areg b).toNat - 1,
               ((x.areg b).toNat - (x.areg a).toNat) * body⟩ :: x.loops ∧
           (t.chip.tile n).clip = (x.clip || decide ((x.areg b).toNat < (x.areg a).toNat)) ∧
           (t.chip.tile n).clipCnt = (if (x.areg b).toNat < (x.areg a).toNat then satInc x.clipCnt else x.clipCnt) ∧
           { t.chip.tile n with loops := x.loops, clip := x.clip, clipCnt := x.clipCnt } = x)) ∧
  (∀ (s : State) (n : TileId) (k : BitVec 2) (a b : BitVec 4) (len : BitVec 6) (upto : Nat),
     let x := s.chip.tile n
     let body := if len = 0 then 64 else len.toNat
     (x.loops = [] → (x.areg a).toNat = 0 → 0 < (x.areg b).toNat →
       ∃ t, exec (.loopb n k a b len) s = .next t ∧ onlyTile n s t ∧
         t.chip.tile n =
           { x with
             nextPc := x.pc + BitVec.ofNat 11 body + 1
             gated := true
             hold := .pad (s.chip.now + (x.areg b).toNat * body) }) ∧
     (x.loops = [] → 0 < (x.areg a).toNat → (x.areg b).toNat = 0 →
       ∃ t, exec (.loopb n k a b len) s = .next t ∧ onlyTile n s t ∧
         t.chip.tile n =
           { x with
             nextPc := x.pc + BitVec.ofNat 11 body + 1
             gated := false
             hold := .none
             clip := true
             clipCnt := satInc x.clipCnt }) ∧
     (x.hold = .pad upto → upto < s.chip.now →
       ∃ t, exec (.loopbPlannedEnd n) s = .next t ∧ onlyTile n s t ∧
         t.chip.tile n = { x with hold := .none, gated := false })) ∧
  (∀ (s : State) (n : TileId) (k : BitVec 2) (cnt : BitVec 10) (a b : BitVec 4) (len : BitVec 6),
     (∃ l ∈ (s.chip.tile n).loops, l.k = k) →
       ∀ i ∈ [Instr.loopi n k cnt len, .loopb n k a b len],
         exec i s = .next { s with chip := s.chip.logFault 0x200E (tileEid n) n.toNat (s.chip.tile n).pc.toNat })

/-- R175, R176, R185 (04_tile): IDLE gates the tile for N cycles (0 for 16,384), IDLE_EXPIRY lets it go on, HALT and HALTV
end the section, HALTV for the rest of the day. -/
def Obligations.GatingRows : Prop :=
  ∀ (s : State) (n : TileId) (cnt : BitVec 14) (upto : Nat),
    let x := s.chip.tile n
    (∃ t, exec (.idle n cnt) s = .next t ∧ onlyTile n s t ∧
      t.chip.tile n = { x with gated := true, hold := .idle (s.chip.now + if cnt.toNat = 0 then 16384 else cnt.toNat) }) ∧
    (x.hold = .idle upto → upto < s.chip.now →
      ∃ t, exec (.idleExpiry n) s = .next t ∧ onlyTile n s t ∧ t.chip.tile n = { x with hold := .none, gated := false }) ∧
    (∃ t, exec (.halt n) s = .next t ∧ onlyTile n s t ∧ (t.chip.tile n).skipDay = x.skipDay ∧
      (t.chip.tile n).inSection = false ∧ (t.chip.tile n).gated = true ∧ (t.chip.tile n).loops = [] ∧
      (t.chip.tile n).pend = x.pend ∧ (t.chip.tile n).micro = x.micro) ∧
    (∃ t u, exec (.haltv n) s = .next t ∧ exec (.halt n) s = .next u ∧ onlyTile n s t ∧
      t.chip.tile n = { u.chip.tile n with skipDay := true })

/-- R178, R188, R610 (04_tile, 13_host): in a loose section WAIT stalls the tile until its buckle's count has reached
A[a], 6 cycles after that, and WAIT_RESUME ends the stall; elsewhere WAIT changes nothing but logs LOOSE_VIOLATION. -/
def Obligations.WaitRows : Prop :=
  ∀ (s : State) (n : TileId) (b : BitVec 12) (a : BitVec 4),
    let x := s.chip.tile n
    (x.loose = true →
      ∃ t, exec (.wait n b a) s = .next t ∧ onlyTile n s t ∧
        ((x.areg a).toNat ≤ (s.chip.buckle b).count.toNat →
          t.chip.tile n = { x with hold := .wait b (x.areg a) (some (s.chip.now + 6)) }) ∧
        ((s.chip.buckle b).count.toNat < (x.areg a).toNat → t.chip.tile n = { x with hold := .wait b (x.areg a) none })) ∧
    (x.loose = false →
      exec (.wait n b a) s =
        .next { s with chip := s.chip.logFault 0x200D (tileEid n) n.toNat x.pc.toNat }) ∧
    (∀ (thr : BitVec 19) (r : Nat), x.hold = .wait b thr (some r) → r ≤ s.chip.now →
      ∃ t, exec (.waitResume n) s = .next t ∧ onlyTile n s t ∧ t.chip.tile n = { x with hold := .none })

/-- R172, R176, R177 (04_tile): at a section's START cycle an idle tile issues the bundle at ENTRY with no loop active;
a tile that HALTV stopped for the day counts the section as skipped.
Then: R88, R89, R177, R739 (02_almanac, 04_tile): a tile still in its section at another section's START halts: DAY_OVERRUN is
counted with the tile's number, its region's records are invalid for the day, and of what it has on the way only what an
earlier section issued goes on, beside the accesses of this cycle and the arrivals; the new section then starts. -/
def Obligations.SectionStart : Prop :=
  (∀ (s : State) (n : TileId) (x : Section), s.chip.sectionAt n = some x → s.chip.tileLive n = true →
     let y := s.chip.tile n
     (y.skipDay = false → y.inSection = false →
       ∃ t, exec (.sectionStart n) s = .next t ∧ onlyTile n s t ∧
         (t.chip.tile n).inSection = true ∧ (t.chip.tile n).gated = false ∧ (t.chip.tile n).pc = x.entry ∧
         (t.chip.tile n).nextPc = x.entry + 1 ∧ (t.chip.tile n).loops = [] ∧ (t.chip.tile n).loose = x.loose ∧
         (t.chip.tile n).region = x.region ∧ (t.chip.tile n).a = y.a ∧ (t.chip.tile n).v = y.v ∧
         (t.chip.tile n).acc = y.acc ∧ (t.chip.tile n).sram = y.sram ∧ (t.chip.tile n).pend = y.pend) ∧
     (y.skipDay = true →
       ∃ t, exec (.sectionStart n) s = .next t ∧ onlyTile n s t ∧ t.chip.tile n = { y with skipCnt := satInc y.skipCnt })) ∧
  (∀ (s : State) (n : TileId) (x : Section), s.chip.sectionAt n = some x → s.chip.tileLive n = true →
     (s.chip.tile n).skipDay = false → (s.chip.tile n).inSection = true →
       ∃ t, exec (.sectionStart n) s = .next t ∧
         keepsBut (fun c => faultParts s.chip { c with alm := s.chip.alm, tiles := s.chip.tiles }) s t ∧
         t.chip.alm.overCount = satInc s.chip.alm.overCount ∧ t.chip.alm.overTile = n ∧
         (s.chip.tile n).region ∈ t.chip.alm.invalid ∧
         { t.chip.alm with
           overCount := s.chip.alm.overCount, overTile := s.chip.alm.overTile, invalid := s.chip.alm.invalid } = s.chip.alm ∧
         (t.chip.tile n).pend = ((s.chip.tile n).pend.filter fun w => w.sec ≠ (s.chip.tile n).secNo) ∧
         (∀ m ∈ (t.chip.tile n).micro, m ∈ (s.chip.tile n).micro ∧
           (m.sec ≠ (s.chip.tile n).secNo ∨ m.prio < Tile.prioLs ∨ m.cycle ≤ s.chip.now)) ∧
         (∀ m ∈ (s.chip.tile n).micro, m.sec ≠ (s.chip.tile n).secNo ∨ m.prio < Tile.prioLs → m ∈ (t.chip.tile n).micro) ∧
         (t.chip.tile n).inSection = true ∧ (t.chip.tile n).pc = x.entry ∧
         (t.chip.tile n).sram = (s.chip.tile n).sram ∧ ∀ m, m ≠ n → t.chip.tile m = s.chip.tile m)

/-! ### The tile: LS slot and bank accesses -/

/-- R187 Table 4, R189, R174 (04_tile): with the LS port free, a load or store takes the address A[a] + OFF x U (A[a] with
P = 1, which then advances A[a] by OFF x U on the next cycle) and plans its accesses: LDB, LDE, LDA and LDT one read at
issue whose result can be read two cycles on, LDW eight lines from issue on, readable nine cycles on, STB the 32 low bytes
one cycle on, STW eight lines from one cycle on; LDW and STW hold the port for eight cycles.
Then: R189 (04_tile): while an LDW or STW holds the port every LS operation is discarded with ILLEGAL. -/
def Obligations.LoadStoreRows : Prop :=
  (∀ (s : State) (n : TileId) (r a : BitVec 4) (k : BitVec 3) (p : Bool) (off : BitVec 15),
     let x := s.chip.tile n
     let now := s.chip.now
     let move (u : Nat) : BitVec 19 := x.areg a + BitVec.ofInt 19 (off.toInt * u)
     let at_ (u : Nat) : BitVec 19 := if p then x.areg a else move u
     let does (i : Instr) (u : Nat) (held : Bool) (ms : List Micro) : Prop :=
       ∃ t, exec i s = .next t ∧ onlyTile n s t ∧
         t.chip.tile n =
           { x with
             lsUntil := if held then now + 8 else x.lsUntil
             lsSec := if held then x.secNo else x.lsSec
             micro := x.micro ++ ms
             pend := x.pend ++ if p then [⟨now + 1, now, Tile.rankLsA, .addr a (move u), x.secNo⟩] else [] }
     x.lsUntil ≤ now →
       does (.ldb n r a p off) 32 false [⟨now, at_ 32, Tile.prioLs, now + 2, .loadBytes r, x.secNo⟩] ∧
       does (.lde n a p off) 32 false [⟨now, at_ 32, Tile.prioLs, now + 2, .loadExp, x.secNo⟩] ∧
       does (.lda n r a p off) 4 false [⟨now, at_ 4, Tile.prioLs, now + 2, .loadAddr r, x.secNo⟩] ∧
       does (.ldt n k a p off) 16 false [⟨now, at_ 16, Tile.prioLs, now + 2, .loadTemplate k, x.secNo⟩] ∧
       does (.stb n r a p off) 32 false
         [⟨now + 1, at_ 32, Tile.prioLs, now + 1, .store (lineOf ((x.lanes r).map fun v => v.setWidth 8)), x.secNo⟩] ∧
       does (.ldw n r a p off) 32 true
         ((List.range 8).map fun i =>
           ⟨now + i, at_ 32 + BitVec.ofNat 19 (32 * i), Tile.prioLs, now + 9, .loadWide r i, x.secNo⟩) ∧
       does (.stw n r a p off) 32 true
         ((List.range 8).map fun i =>
           ⟨now + 1 + i, at_ 32 + BitVec.ofNat 19 (32 * i), Tile.prioLs, now + 1 + i, .store (x.wideLine r i),
             x.secNo⟩)) ∧
  (∀ (s : State) (n : TileId) (r a : BitVec 4) (k : BitVec 3) (p : Bool) (off : BitVec 15),
     s.chip.now < (s.chip.tile n).lsUntil →
       ∀ i ∈ [Instr.ldb n r a p off, .stb n r a p off, .ldw n r a p off, .stw n r a p off, .lde n a p off,
              .lda n r a p off, .ldt n k a p off],
         ∃ t, exec i s = .next t ∧ onlyTile n s t ∧ t.chip.tile n = { s.chip.tile n with illegal := true })

/-- R160, R165, R187 (04_tile): what a planned access does on its cycle. A load that wins its bank gives, from its due cycle
on, the bytes of the line that holds its address, and a load that loses gives zeros; a store that wins writes its 32 bytes
at the line of its address and no other byte, and one that loses writes nothing. -/
def Obligations.ServedAccess : Prop :=
  ∀ (x : Tile) (c due prio sec : Nat) (ad : BitVec 19) (d : BitVec 4) (win : Bool) (line : Line) (j : Nat), j < 32 →
    let base := ad.toNat / 32 * 32
    let y := x.serve ⟨c, ad, prio, due, .loadBytes d, sec⟩ win
    let z := x.serve ⟨c, ad, prio, due, .store line, sec⟩ win
    { y with pend := x.pend } = x ∧
    (quiet x (200 + d.toNat) → c < due →
      (y.land due).lane d j = (if win then mget x.sram (base + j) else (0 : Byte)).setWidth 40 ∧
      (y.land c).lane d j = x.lane d j) ∧
    { z with sram := x.sram } = x ∧
    mget z.sram (base + j) = (if win then line.extractLsb' (8 * j) 8 else mget x.sram (base + j)) ∧
    (∀ a, a < base ∨ base + 32 ≤ a → mget z.sram a = mget x.sram a)

/-! ### The tile: MXU slot -/

/-- R187 Table 5, R192, R193, R204 (04_tile), R211 (05_code): MZP, MSWAP and MCLR act on the MXU alone; MWLD plans the 32
rows of the shadow block, MMAC and MMACG one activation line each, with ZA as it stands at issue and MMACG with the
exponent at the head of EQ.
Then: R204 (04_tile), R211 (05_code): MZP and MSWAP take effect on the next cycle, not before: ZA reads the operand, and the
active and shadow blocks have changed places with their column sums. -/
def Obligations.MxuRows : Prop :=
  (∀ (s : State) (n : TileId) (a : BitVec 4) (p f : Bool),
     let x := s.chip.tile n
     let now := s.chip.now
     let adv (len : Nat) : List Pend :=
       if p then [⟨now + 1, now, Tile.rankMxuA, .addr a (x.areg a + BitVec.ofNat 19 len), x.secNo⟩] else []
     (∃ t, exec (.mwld n a p) s = .next t ∧ onlyTile n s t ∧
       t.chip.tile n =
         { x with
           micro := x.micro ++ (List.range 32).map fun i =>
             ⟨now + i, x.areg a + BitVec.ofNat 19 (32 * i), Tile.prioWeights, now + i + 1, .weightRow i, x.secNo⟩
           pend := x.pend ++ adv 1024 }) ∧
     (∃ t, exec (.mmac n a p) s = .next t ∧ onlyTile n s t ∧
       t.chip.tile n =
         { x with
           micro := x.micro ++ [⟨now, x.areg a, Tile.prioMac, now + 4, .mac 0 x.za, x.secNo⟩]
           pend := x.pend ++ adv 32 }) ∧
     (∀ e es, x.eq = e :: es →
       ∃ t, exec (.mmacg n a p f) s = .next t ∧ onlyTile n s t ∧
         t.chip.tile n =
           { x with
             eq := if f then es else e :: es
             micro := x.micro ++ [⟨now, x.areg a, Tile.prioMac, now + 4, .mac (e.toInt + 8).toNat x.za, x.secNo⟩]
             pend := x.pend ++ adv 32 }) ∧
     (x.eq = [] →
       ∃ t, exec (.mmacg n a p f) s = .next t ∧ onlyTile n s t ∧
         t.chip.tile n =
           { x with
             eqEmpty := true
             micro := x.micro ++ [⟨now, x.areg a, Tile.prioMac, now + 4, .mac 8 x.za, x.secNo⟩]
             pend := x.pend ++ adv 32 }) ∧
     (∃ t, exec (.mclr n) s = .next t ∧ onlyTile n s t ∧ { t.chip.tile n with acc := x.acc } = x ∧
       ∀ j, (t.chip.tile n).accum j = 0)) ∧
  (∀ (s : State) (n : TileId) (imm : Byte),
     let x := s.chip.tile n
     (∀ w ∈ x.pend, s.chip.now + 1 < w.due) →
       (∃ t, exec (.mzp n imm) s = .next t ∧ onlyTile n s t ∧
         ((t.chip.tile n).land s.chip.now).za = x.za ∧ ((t.chip.tile n).land (s.chip.now + 1)).za = imm) ∧
       (∃ t, exec (.mswap n) s = .next t ∧ onlyTile n s t ∧
         ((t.chip.tile n).land s.chip.now).wAct = x.wAct ∧ ((t.chip.tile n).land (s.chip.now + 1)).wAct = x.wShd ∧
         ((t.chip.tile n).land (s.chip.now + 1)).wShd = x.wAct ∧ ((t.chip.tile n).land (s.chip.now + 1)).csAct = x.csShd ∧
         ((t.chip.tile n).land (s.chip.now + 1)).csShd = x.csAct))

/-- R187 Table 5 (04_tile): MOUT gives the accumulators as they stand at issue to V[d], two cycles on; with F = 1 they are
zero from this cycle on.
Then: R192, R193 (04_tile): landing the sums of one MMAC adds each to its accumulator, held to 40 signed bits, and counts
nothing else. -/
def Obligations.AccumulatorRows : Prop :=
  (∀ (s : State) (n : TileId) (d : BitVec 4),
     givesLanes s n (.mout n d false) d 2 (fun j => (s.chip.tile n).accum j) ∧
     (∃ t, exec (.mout n d true) s = .next t ∧ onlyTile n s t ∧ (∀ j, (t.chip.tile n).accum j = 0) ∧
       (∃ u, exec (.mout n d false) s = .next u ∧ { t.chip.tile n with acc := (u.chip.tile n).acc } = u.chip.tile n))) ∧
  (∀ (x : Tile) (l : Line) (za : Byte) (sh j : Nat), j < 32 →
     let sums := (x.products l za).map fun q => q * 2 ^ sh
     (x.landOne (.macc sums)).accum j = held40 ((x.accum j).toInt + sums.getD j 0) ∧
     { x.landOne (.macc sums) with acc := x.acc, satAcc := x.satAcc } = x)

/-! ### The tile: VXU slot -/

/-- R187 Table 6, R223 (04_tile, 05_code): the lane-by-lane operations, each with its latency, on signed 40-bit lanes held
to 40 bits.
Then: R187 Table 6 (04_tile): VCMP, VCLAMP and VLUT with a legal IMM. -/
def Obligations.VectorRows : Prop :=
  (∀ (s : State) (n : TileId) (d a b : BitVec 4) (imm : BitVec 14),
     let va (j : Nat) : Int := ((s.chip.tile n).lane a j).toInt
     let vb (j : Nat) : Int := ((s.chip.tile n).lane b j).toInt
     let sh : Nat := imm.toNat % 64
     givesLanes s n (.vadd n d a b) d 1 (fun j => held40 (va j + vb j)) ∧
     givesLanes s n (.vsub n d a b) d 1 (fun j => held40 (va j - vb j)) ∧
     givesLanes s n (.vmul n d a b) d 3 (fun j => held40 ((((s.chip.tile n).lane a j).extractLsb' 0 16).toInt * vb j)) ∧
     givesLanes s n (.vshl n d a imm) d 1 (fun j => held40 (va j * 2 ^ sh)) ∧
     givesLanes s n (.vshr n d a imm) d 1 (fun j => BitVec.ofInt 40 (va j / 2 ^ min sh 39)) ∧
     givesLanes s n (.vmax n d a b) d 1 (fun j => BitVec.ofInt 40 (max (va j) (vb j))) ∧
     givesLanes s n (.vmin n d a b) d 1 (fun j => BitVec.ofInt 40 (min (va j) (vb j))) ∧
     givesLanes s n (.vmovi n d imm) d 1 (fun _ => BitVec.ofInt 40 imm.toInt)) ∧
  (∀ (s : State) (n : TileId) (d a b : BitVec 4) (imm : BitVec 14),
     let va (j : Nat) : Int := ((s.chip.tile n).lane a j).toInt
     let vb (j : Nat) : Int := ((s.chip.tile n).lane b j).toInt
     let bits : Nat := imm.toNat % 64
     (imm.toNat % 4 = 0 → givesLanes s n (.vcmp n d a b imm) d 1 (fun j => if va j > vb j then 1 else 0)) ∧
     (imm.toNat % 4 = 1 → givesLanes s n (.vcmp n d a b imm) d 1 (fun j => if va j ≥ vb j then 1 else 0)) ∧
     (imm.toNat % 4 = 2 → givesLanes s n (.vcmp n d a b imm) d 1 (fun j => if va j = vb j then 1 else 0)) ∧
     (1 ≤ bits → bits ≤ 40 →
       givesLanes s n (.vclamp n d a imm) d 1
         (fun j => BitVec.ofInt 40 (max (-(2 ^ (bits - 1))) (min (va j) (2 ^ (bits - 1) - 1))))) ∧
     givesLanes s n (.vlut n d a imm) d 2
       (fun j => (tget 0 (s.chip.tile n).lut (256 * (imm.toNat % 16) + ((s.chip.tile n).lane a j).toNat % 256)).setWidth 40))

/-- R195, R222, R224 (04_tile, 05_code): VRQ rounds each lane by its channel's SHIFT to the nearest, ties away from zero, adds
ZP, clamps to LO and HI and, where the entry says so, maps the code through a LUT; the result is there three cycles on.
Then: R222 (05_code): the rounding of a division by 2^k goes to the nearest integer, ties away from zero. -/
def Obligations.Requantise : Prop :=
  (∀ (s : State) (n : TileId) (d a : BitVec 4) (imm : BitVec 14),
     let x := s.chip.tile n
     let entry (j : Nat) : BitVec 64 := tget 0 x.ct ((imm.toNat % 1024 + j) % 1024)
     let code (j : Nat) : Byte :=
       let e := entry j
       let t := roundHaz (x.lane a j).toInt (e.extractLsb' 0 5).toNat + (e.extractLsb' 8 8).toNat
       BitVec.ofInt 8 (min (max t (e.extractLsb' 24 8).toNat) (e.extractLsb' 32 8).toNat)
     ∃ t, exec (.vrq n d a imm) s = .next t ∧ onlyTile n s t ∧
       { t.chip.tile n with pend := x.pend, satRq := x.satRq, livePre := x.livePre, livePost := x.livePost } = x ∧
       (quiet x (200 + d.toNat) → ∀ j, j < 32 →
         ((t.chip.tile n).land (s.chip.now + 3)).lane d j =
           (if (entry j).getLsbD 20 then tget 0 x.lut (256 * ((entry j).extractLsb' 16 4).toNat + (code j).toNat)
            else code j).setWidth 40 ∧
         ((t.chip.tile n).land (s.chip.now + 2)).lane d j = x.lane d j)) ∧
  (∀ (v : Int) (k : Nat), 0 < k →
     let m := roundHaz v k
     2 * |v - m * 2 ^ k| ≤ 2 ^ k ∧ (2 * |v - m * 2 ^ k| = 2 ^ k → |v| < |m * 2 ^ k|))

/-- R187 Table 6, R229 (04_tile, 05_code): VSTAT raises the live PRE of the 32 channels from IMM[9:0] on, modulo 1,024, to the
magnitude of the lanes, two cycles on and not before, and changes nothing else.
Then: R231, R232, R238 (05_code): a stat window closes on Vigil cycle 16 of its last day: the live values become the record and
are cleared, with the time, the generation, the days and SHORT, and the record's sequence number counts. -/
def Obligations.StatRows : Prop :=
  (∀ (s : State) (n : TileId) (a : BitVec 4) (imm : BitVec 14),
     let x := s.chip.tile n
     ∃ t, exec (.vstat n a imm) s = .next t ∧ onlyTile n s t ∧ oneMore x (t.chip.tile n) ∧
       ((∀ w ∈ x.pend, s.chip.now + 2 < w.due) →
         let y := (t.chip.tile n).land (s.chip.now + 2)
         ((t.chip.tile n).land (s.chip.now + 1)).livePre = x.livePre ∧ { y with livePre := x.livePre } = x ∧
         (∀ j, j < 32 →
           (tget 0 y.livePre ((imm.toNat % 1024 + j) % 1024)).toNat =
             max (tget 0 x.livePre ((imm.toNat % 1024 + j) % 1024)).toNat (x.lane a j).toInt.natAbs) ∧
         (∀ k, (∀ j, j < 32 → k ≠ (imm.toNat % 1024 + j) % 1024) → tget 0 y.livePre k = tget 0 x.livePre k))) ∧
  (∀ (s : State) (n : TileId),
     let a := s.chip.alm
     let x := s.chip.tile n
     let vigil := a.dayLen.toNat - a.vigilLen.toNat
     a.running = true → a.inVigil = true → a.cycle = vigil + 16 → x.winOpen = true → x.winLen ≤ x.winDays →
       ∃ t, exec (.statWindowClose n) s = .next t ∧ onlyTile n s t ∧
         t.chip.tile n =
           { x with
             recPre := x.livePre, recPost := x.livePost, livePre := [], livePost := []
             statLts := (a.dayCount.setWidth 42).append (BitVec.ofNat 22 (vigil + 16))
             statGen := a.gen, statDays := BitVec.ofNat 9 x.winDays, statShort := decide (x.winDays < x.winLen)
             statOvr := x.winOvr, statMixed := x.winMixed, statValid := true, statSeq := x.statSeq + 1, winOpen := false })

/-- R194 (04_tile): VTOPK without a held list puts every lane that fewer than K lanes precede (a larger value, or an equal
one of a lower lane) at the place of its rank: its value in lane rank, its index in lane 16 + rank; four cycles on. -/
def Obligations.TopK : Prop :=
  ∀ (s : State) (n : TileId) (d a : BitVec 4) (imm : BitVec 14), imm.toNat / 16 % 2 = 0 →
    let x := s.chip.tile n
    let v (j : Nat) : Int := (x.lane a j).toInt
    let k := if imm.toNat % 16 = 0 then 16 else imm.toNat % 16
    let rank (j : Nat) : Nat := ((List.range 32).filter fun i => v j < v i || (v j = v i && i < j)).length
    ∃ t, exec (.vtopk n d a imm) s = .next t ∧ onlyTile n s t ∧ oneMore x (t.chip.tile n) ∧
      (quiet x (200 + d.toNat) → ∀ j, j < 32 → rank j < k →
        ((t.chip.tile n).land (s.chip.now + 4)).lane d (rank j) = x.lane a j ∧
        ((t.chip.tile n).land (s.chip.now + 4)).lane d (16 + rank j) = BitVec.ofNat 40 (imm.toNat / 32 * 32 + j))

/-- R187 Tables 3 to 7 (04_tile): a reserved opcode and an illegal IMM of VCMP or VCLAMP set ILLEGAL and log ILLEGAL_OP with
the tile's PC; VCMP gives 0 there and VCLAMP passes its operand. -/
def Obligations.IllegalForms : Prop :=
  ∀ (s : State) (n : TileId) (slot : Slot) (d a b : BitVec 4) (imm : BitVec 14),
    let illegal (c : Chip) : Chip :=
      (c.onTile n fun x => { x with illegal := true }).logFault 0x200C (tileEid n) n.toNat (s.chip.tile n).pc.toNat
    exec (.reservedOpcode n slot) s = .next { s with chip := illegal s.chip } ∧
    (imm.toNat % 4 = 3 →
      exec (.vcmp n d a b imm) s =
        .next { s with chip := illegal (s.chip.onTile n fun x => x.vxu s.chip.now 1 d fun _ => 0) }) ∧
    ((imm.toNat % 64 = 0 ∨ 40 < imm.toNat % 64) →
      exec (.vclamp n d a imm) s =
        .next { s with chip := illegal (s.chip.onTile n fun x => x.vxu s.chip.now 1 d fun j => x.lane a j) })

/-! ### The tile: FAB slot and unscheduled access -/

/-- R174, R187 Table 7, R191 (04_tile): a SEND of a VC0 template plans the read of its payload line on this cycle, and with
P = 1 advances A[a] and the template's ADDR by 32 from the next cycle on; a template of another VC sends nothing and
logs ILLEGAL_OP. -/
def Obligations.SendRow : Prop :=
  ∀ (s : State) (n : TileId) (k : BitVec 3) (a : BitVec 4) (p : Bool),
    let x := s.chip.tile n
    let now := s.chip.now
    let h := headerOf (tget 0 x.tmpl k.toNat)
    (h.vc = 0 →
      ∃ t, exec (.send n k a p) s = .next t ∧ onlyTile n s t ∧
        t.chip.tile n =
          { x with
            micro := x.micro ++ [⟨now, x.areg a, Tile.prioSend, now, .sendPayload h, x.secNo⟩]
            pend := x.pend ++ if p then
                [⟨now + 1, now, Tile.rankFabA, .addr a (x.areg a + 32), x.secNo⟩,
                 ⟨now + 1, now, Tile.rankFabT, .templateAddr k (h.addr + 32), x.secNo⟩] else [] }) ∧
    (h.vc ≠ 0 →
      exec (.send n k a p) s = .next { s with chip := s.chip.logFault 0x200C (tileEid n) n.toNat x.pc.toNat })

/-- R171, R178, R179 (04_tile): in a loose section RECV takes the oldest payload of the receive queue, to be written two
cycles on, or stalls with its address while the queue is empty, and RECV_RESUME goes on with it (P = 1 then advances A[a] from
that address, log 111); elsewhere RECV takes nothing and logs LOOSE_VIOLATION. -/
def Obligations.RecvRows : Prop :=
  ∀ (s : State) (n : TileId) (a : BitVec 4) (p : Bool) (l : Line) (ls : List Line) (ad : BitVec 19),
    let x := s.chip.tile n
    let now := s.chip.now
    let took (ad : BitVec 19) : Tile :=
      { x with
        rxq := ls
        recvWait := none
        micro := x.micro ++ [⟨now + 2, ad, Tile.prioRecv, now + 2, .store l, x.secNo⟩]
        pend := x.pend ++ if p then [⟨now + 1, now, Tile.rankFabA, .addr a (ad + 32), x.secNo⟩] else [] }
    (x.loose = true → x.rxq = l :: ls →
      ∃ t, exec (.recv n a p) s = .next t ∧ onlyTile n s t ∧ t.chip.tile n = took (x.areg a)) ∧
    (x.loose = true → x.rxq = [] →
      ∃ t, exec (.recv n a p) s = .next t ∧ onlyTile n s t ∧ t.chip.tile n = { x with recvWait := some (x.areg a, a, p) }) ∧
    (x.recvWait = some (ad, a, p) → x.rxq = l :: ls →
      ∃ t, exec (.recvResume n) s = .next t ∧ onlyTile n s t ∧ t.chip.tile n = took ad) ∧
    (x.loose = false →
      exec (.recv n a p) s = .next { s with chip := s.chip.logFault 0x200D (tileEid n) n.toNat x.pc.toNat })

/-- R161, R167 (04_tile): the oldest entry of the ingress buffer is written when its bank has no planned access on this cycle
and no other unscheduled one, and no byte outside it changes; while its bank is taken it waits.
Then: R161, R168 (04_tile): of the waiting reads whose bank has no access on this cycle the oldest is answered with the bytes at
its address; the tile's memory stands; while every one's bank is taken, all wait. -/
def Obligations.UnscheduledAccess : Prop :=
  (∀ (s : State) (n : TileId) (g : Ingress) (gs : List Ingress), (s.chip.tile n).ingress = g :: gs →
     let x := s.chip.tile n
     let len := (lineBytes g.data g.len).length
     let taken : Prop :=
       (∃ m ∈ x.micro, m.cycle = s.chip.now ∧ Tile.bankOf m.addr = Tile.bankOf g.addr) ∨
         (x.took.1 = s.chip.now ∧ Tile.bankOf g.addr ∈ x.took.2)
     (¬taken → g.notify = none →
       ∃ t, exec (.ingressWrite n) s = .next t ∧ onlyTile n s t ∧
         (t.chip.tile n).ingress = gs ∧ { t.chip.tile n with ingress := x.ingress, sram := x.sram, took := x.took } = x ∧
         (t.chip.tile n).bankFree s.chip.now (Tile.bankOf g.addr) = false ∧
         (∀ j, j < len → mget (t.chip.tile n).sram (g.addr.toNat + j) = (lineBytes g.data g.len).getD j 0) ∧
         (∀ b, b < g.addr.toNat ∨ g.addr.toNat + len ≤ b → mget (t.chip.tile n).sram b = mget x.sram b)) ∧
     (taken → exec (.ingressWrite n) s = .next s)) ∧
  (∀ (s : State) (n : TileId),
     let x := s.chip.tile n
     let bank (p : Packet) : Nat := Tile.bankOf (p.addr.setWidth 19)
     let taken (p : Packet) : Prop :=
       (∃ m ∈ x.micro, m.cycle = s.chip.now ∧ Tile.bankOf m.addr = bank p) ∨ (x.took.1 = s.chip.now ∧ bank p ∈ x.took.2)
     (∀ (qs : List Packet) (p : Packet) (ps : List Packet), x.reads = qs ++ p :: ps → (∀ q ∈ qs, taken q) → ¬taken p →
       let data : Line := lineOf (mread x.sram (p.addr.toNat % 2 ^ 19) (pktLen p))
       ∃ t, exec (.unscheduledReadServe n) s = .next t ∧ (t.chip.tile n).reads = qs ++ ps ∧
         { t.chip.tile n with reads := x.reads, took := x.took } = x ∧
         t.chip.fab = (s.chip.send (tileEid n) (response p (pktLen p) data (p.flags &&& 0b00100))).fab ∧
         keepsBut (fun c => { c with tiles := s.chip.tiles, fab := s.chip.fab }) s t ∧
         ∀ m, m ≠ n → t.chip.tile m = s.chip.tile m) ∧
     ((∀ p ∈ x.reads, taken p) → exec (.unscheduledReadServe n) s = .next s))

/-! ### The almanac -/

/-- R54, R55, R65, R66, R737 (02_almanac): START, with STOP or without, on a stopped almanac that is not armed, with a verified
harness, the parameters in their ranges, no failed channel and a legal START_MODE: it arms the almanac with the counters of
R66 cleared and the year's first plan latched; START_MODE 0 has day 0 begin 64 cycles on, START_MODE 1 with an outside source waits for
a tick; the stat records lose VALID. -/
def Obligations.StartArms : Prop :=
  ∀ (s : State) (mode : BitVec 2) (stop : Bool),
    let a := s.chip.alm
    s.chip.glb.phase = .up → a.running = false → a.armed = false → s.chip.hns.loaded = true → s.chip.glb.ddrFail = 0 →
    50000 ≤ a.dayLen.toNat → a.dayLen.toNat ≤ 2500000 → 1024 ≤ a.vigilLen.toNat → a.vigilLen.toNat ≤ 65536 →
    a.tickTol.toNat + 1024 ≤ a.vigilLen.toNat → a.vigilLen.toNat + 1024 ≤ a.dayLen.toNat →
    1 ≤ a.yearLen.toNat → a.yearLen.toNat ≤ 4096 → a.yearLen.toNat ≤ s.chip.hns.year.length →
    mode ≠ 3 → ¬(mode = 2 ∧ s.chip.uml.root = true ∧ a.tickSrc = 2) →
      ∃ t, exec (.start mode stop) s = .next t ∧
        keepsBut (fun c => { c with alm := a, tiles := s.chip.tiles, agenda := s.chip.agenda }) s t ∧
        t.chip.alm.armed = true ∧ t.chip.alm.running = false ∧ t.chip.alm.startMode = mode ∧
        t.chip.alm.dayCount = 0 ∧ t.chip.alm.yearPos = 0 ∧ t.chip.alm.early = 0 ∧ t.chip.alm.late = 0 ∧
        t.chip.alm.holdCnt = 0 ∧ t.chip.alm.overCount = 0 ∧ t.chip.alm.tickOffset = 0x80000000 ∧
        t.chip.alm.holdover = false ∧ t.chip.alm.offRun = 0 ∧ t.chip.alm.relock = 0 ∧ t.chip.alm.gen = a.gen ∧
        t.chip.alm.cfgErr = a.cfgErr ∧ t.chip.alm.nextPlan = some (s.chip.hns.year.getD 0 0) ∧
        (mode = 0 → t.chip.alm.day0At = some (s.chip.now + 64) ∧
          t.chip.agenda = s.chip.agenda ++ [(s.chip.now + 64, .day0Start)]) ∧
        (mode = 1 → a.tickSrc ≠ 3 → t.chip.alm.day0At = none ∧ t.chip.agenda = s.chip.agenda) ∧
        ∀ n, t.chip.tile n = { s.chip.tile n with statValid := false }

/-- R65, R67 (02_almanac): a START while the almanac runs or is armed changes START_MODE alone, and one with no verified
harness, START_MODE 3, or a failed channel sets CFG_ERR beside it.
Then: R68, R69, R237 (02_almanac, 05_code): STOP on a running almanac asks that no further day start; on an armed one it cancels
the start, and the pending day 0 with it. -/
def Obligations.StopAndRefusedStart : Prop :=
  (∀ (s : State) (mode : BitVec 2),
     let a := s.chip.alm
     s.chip.glb.phase = .up →
       ((a.running = true ∨ a.armed = true) →
         ∃ t, exec (.start mode false) s = .next t ∧ onlyAlm s t ∧ t.chip.alm = { a with startMode := mode }) ∧
       (a.running = false → a.armed = false →
         (s.chip.hns.loaded = false ∨ mode = 3 ∨ s.chip.glb.ddrFail ≠ 0) →
         ∃ t, exec (.start mode false) s = .next t ∧ onlyAlm s t ∧
           t.chip.alm = { a with startMode := mode, cfgErr := true })) ∧
  (∀ (s : State) (mode : BitVec 2),
     let a := s.chip.alm
     s.chip.glb.phase = .up →
       (a.running = true →
         ∃ t, exec (.stop mode) s = .next t ∧ onlyAlm s t ∧ t.chip.alm.stopReq = true ∧
           { t.chip.alm with startMode := a.startMode, stopReq := a.stopReq, stopAtVigil16 := a.stopAtVigil16 } = a ∧
           t.chip.alm.startMode = mode) ∧
       (a.running = false → a.armed = true →
         ∃ t, exec (.stop mode) s = .next t ∧
           keepsBut (fun c => { c with alm := a, agenda := s.chip.agenda }) s t ∧
           t.chip.alm = { a with startMode := mode, armed := false, day0At := none } ∧
           (∀ e ∈ t.chip.agenda, e.2 ≠ .day0Start) ∧
           (∀ e ∈ s.chip.agenda, e.2 ≠ .day0Start → e ∈ t.chip.agenda)))

/-- R83, R84 (02_almanac): a write of ALM_TICK_SRC acts at once while the almanac does not run and at the next day while it
does; one that selects a fronthaul port or an Umaed link that does not exist, or that the profile disables, is ignored and
sets CFG_ERR. -/
def Obligations.TickSrcRow : Prop :=
  ∀ (s : State) (v : Word),
    let a := s.chip.alm
    let src := v.extractLsb' 0 2
    let sub := v.extractLsb' 2 3
    let bad : Prop := (src = 1 ∧ (1 < sub.toNat ∨ s.chip.glb.profile = 2)) ∨ (src = 2 ∧ (5 < sub.toNat ∨ s.chip.glb.profile = 2))
    s.chip.glb.phase = .up →
      (¬bad → a.running = false →
        ∃ t, exec (.tickSrcWrite v) s = .next t ∧ onlyAlm s t ∧ t.chip.alm = { a with tickSrc := src, tickSub := sub }) ∧
      (¬bad → a.running = true →
        ∃ t, exec (.tickSrcWrite v) s = .next t ∧ onlyAlm s t ∧
          t.chip.alm = { a with nextSrc := some (v.extractLsb' 0 5) }) ∧
      (bad →
        ∃ t, exec (.tickSrcWrite v) s = .next t ∧ onlyAlm s t ∧ t.chip.alm = { a with cfgErr := true })

/-- R65, R230 (02_almanac, 05_code): on the cycle set for it an armed almanac begins day 0: RUNNING sets and ARMED clears, the
cycle is 0, the plan latched at START is in force, and a stat window opens on every tile that is not off. -/
def Obligations.Day0Begins : Prop :=
  ∀ (s : State), s.chip.alm.armed = true → s.chip.alm.day0At = some s.chip.now →
    ∃ t, exec .day0Start s = .next t ∧ t.pending = s.pending ∧
      t.chip.alm.running = true ∧ t.chip.alm.armed = false ∧ t.chip.alm.cycle = 0 ∧
      t.chip.alm.dayCount = s.chip.alm.dayCount ∧ t.chip.alm.day0At = none ∧
      t.chip.alm.planCur = BitVec.ofNat 9 (s.chip.alm.nextPlan.getD 0) ∧ t.chip.alm.inVigil = false ∧
      t.chip.glb = s.chip.glb ∧ { t.chip.hns with skvOld := s.chip.hns.skvOld } = s.chip.hns ∧
      t.chip.hostMem = s.chip.hostMem ∧ t.chip.bkl = s.chip.bkl ∧
      ∀ n, s.chip.tileOff n = false →
        (t.chip.tile n).winOpen = true ∧ (t.chip.tile n).winDays = 1 ∧ (t.chip.tile n).skipDay = false ∧
        (t.chip.tile n).winLen = (if (s.chip.tile n).statCtl = 0 then 256 else (s.chip.tile n).statCtl.toNat) ∧
        (t.chip.tile n).sram = (s.chip.tile n).sram

/-- R71, R72, R74, R76, R82 (02_almanac): a rising edge at the ball is a tick three cycles on. A tick of the selected source while a locked day runs takes its offset c - N; before the
window it is early and is counted; the first one in the window ends the day on its cycle, every UP link is to send its mark,
and an on-time day clears OFF_RUN.
Then: R65 Table 3, R71, R79 (02_almanac): a tick of another source than the selected one changes nothing; one of the selected
source on an armed almanac in START_MODE 1 that waits for it has day 0 begin on the next cycle; one in the first T cycles
after a Holdover day counts for that day with offset c + 1. -/
def Obligations.TickRow : Prop :=
  (∀ (s : State) (src : TickFrom),
     let a := s.chip.alm
     let n := a.dayLen.toNat - 1
     let day : BitVec 16 := a.dayCount.setWidth 16
     ((src = .pin ∧ a.tickSrc = 0) ∨ (∃ p, src = .fronthaul p ∧ a.tickSrc = 1 ∧ a.tickSub.toNat = p.val) ∨
       (∃ m, src = .peer m ∧ a.tickSrc = 2 ∧ a.tickSub.toNat = m.val)) →
     a.running = true → a.holdover = false → a.hdOpen = false → a.dayEnded = false →
       (a.cycle < n - a.tickTol.toNat →
         ∃ t, exec (.tickIn src) s = .next t ∧ onlyAlm s t ∧
           t.chip.alm =
             { a with
               tickOffset := BitVec.ofInt 32 (a.cycle - n), early := satInc a.early, earlyTicks := a.earlyTicks + 1 }) ∧
       (n - a.tickTol.toNat ≤ a.cycle → a.earlyTicks = 0 → (∀ m ∈ s.chip.uml.early, m.2.1 ≠ day) →
         ∃ t, exec (.tickIn src) s = .next t ∧ keepsBut (fun c => { c with alm := a, uml := s.chip.uml }) s t ∧
           t.chip.alm =
             { a with
               tickOffset := BitVec.ofInt 32 (a.cycle - n), winTicks := a.winTicks + 1, dayEnded := true, offRun := 0 } ∧
           ∀ m, (t.chip.link m).markDue =
             if (s.chip.link m).state = 5 then some (s.chip.now, day) else (s.chip.link m).markDue)) ∧
  (∀ (s : State), s.chip.glb.phase = .up →
     ∃ t, exec (.tickIn .edge) s = .next t ∧ keepsBut (fun c => { c with agenda := s.chip.agenda }) s t ∧
       t.chip.agenda = s.chip.agenda ++ [(s.chip.now + 3, .tickIn .pin)]) ∧
  (∀ (s : State) (src : TickFrom), src ≠ .edge →
     let a := s.chip.alm
     (s.chip.tickSelected src = false → exec (.tickIn src) s = .next s) ∧
     (s.chip.tickSelected src = true → a.running = false → a.armed = true → a.day0At = none → a.startMode = 1 →
       ∃ t, exec (.tickIn src) s = .next t ∧ keepsBut (fun c => { c with alm := a, agenda := s.chip.agenda }) s t ∧
         t.chip.alm = { a with day0At := some (s.chip.now + 1) } ∧
         t.chip.agenda = s.chip.agenda ++ [(s.chip.now + 1, .day0Start)]) ∧
     (s.chip.tickSelected src = true → a.running = true → a.hdOpen = true → a.cycle < a.tickTol.toNat →
       ∃ t, exec (.tickIn src) s = .next t ∧ onlyAlm s t ∧
         t.chip.alm = { a with tickOffset := BitVec.ofInt 32 (a.cycle + 1), hdWin := a.hdWin + 1 }))

/-- R73, R75, R78, R79, R81 (02_almanac): a day with the internal source ends at N; a Holdover day ends at N too, is counted
and waits for its judgement; a locked day without a tick ends at N + T, is counted late, and is an off day; each end puts the
day's mark before every UP link.
Then: R78 (02_almanac): the third off day in a row enters Holdover and logs TICK_LOST. -/
def Obligations.DayEnds : Prop :=
  ∀ (s : State),
    let a := s.chip.alm
    let n := a.dayLen.toNat - 1
    let day : BitVec 16 := a.dayCount.setWidth 16
    let ends (c : Chip) (b : Alm) : Prop :=
      keepsBut (fun c => { c with alm := a, uml := s.chip.uml }) s { s with chip := c } ∧ c.alm = b ∧
        ∀ m, (c.link m).markDue = if (s.chip.link m).state = 5 then some (s.chip.now, day) else (s.chip.link m).markDue
    a.running = true → a.dayEnded = false → (∀ m ∈ s.chip.uml.early, m.2.1 ≠ day) →
      (a.cycle = n → a.tickSrc = 3 →
        ∃ c, exec .dayEndNominal s = .next { s with chip := c } ∧ ends c { a with dayEnded := true }) ∧
      (a.cycle = n → a.tickSrc ≠ 3 → a.holdover = true →
        ∃ c, exec .dayEndNominal s = .next { s with chip := c } ∧
          ends c { a with
            dayEnded := true, holdCnt := satInc a.holdCnt, hdWin := a.winTicks, hdEarly := a.earlyTicks, hdOpen := true }) ∧
      (a.cycle = n + a.tickTol.toNat → a.tickSrc ≠ 3 → a.holdover = false → a.winTicks = 0 → a.offRun.toNat < 2 →
        ∃ c, exec .dayEndLate s = .next { s with chip := c } ∧
          ends c { a with dayEnded := true, late := satInc a.late, offRun := a.offRun + 1 }) ∧
      (a.cycle = n + a.tickTol.toNat → a.tickSrc ≠ 3 → a.holdover = false → a.winTicks = 0 → a.offRun = 2 →
        ∃ c, exec .dayEndLate s = .next { s with
            chip := c.logFault 0x3005 Config.almanacEid (a.tickSub.toNat * 4 + a.tickSrc.toNat) 0 } ∧
          ends c { a with dayEnded := true, late := satInc a.late, offRun := 0, relock := 0, holdover := true })

/-- R79, R80 (02_almanac): at the end of its window a Holdover day with exactly one tick in its window and none early counts
towards relock, the eighth in a row leaves Holdover; any other starts the count again. -/
def Obligations.HoldoverJudged : Prop :=
  ∀ (s : State),
    let a := s.chip.alm
    a.running = true → a.hdOpen = true → a.tickTol ≠ 0 → a.cycle + 1 = a.tickTol.toNat →
      (a.hdWin = 1 → a.hdEarly = 0 → a.relock.toNat ≠ 7 →
        ∃ t, exec .holdoverJudgement s = .next t ∧ onlyAlm s t ∧
          t.chip.alm = { a with hdOpen := false, relock := a.relock + 1 }) ∧
      (a.hdWin = 1 → a.hdEarly = 0 → a.relock = 7 →
        ∃ t, exec .holdoverJudgement s = .next t ∧ onlyAlm s t ∧
          t.chip.alm = { a with hdOpen := false, holdover := false, relock := 0, offRun := 0 }) ∧
      ((a.hdWin ≠ 1 ∨ a.hdEarly ≠ 0) →
        ∃ t, exec .holdoverJudgement s = .next t ∧ onlyAlm s t ∧ t.chip.alm = { a with hdOpen := false, relock := 0 })

/-- R63, R93 (02_almanac): the day after a day's end, where no STOP waits, no setting is staged, no record is invalid and no tick
source waits: ALM_DAYCOUNT counts it, the year position follows R63, the plan latched in the Vigil is in force, and the day's
flags are clear. -/
def Obligations.DayStarts : Prop :=
  ∀ (s : State),
    let a := s.chip.alm
    a.running = true → a.dayEnded = true → a.stopReq = false → a.staged = [] → a.invalid = [] → a.nextSrc = none →
      ∃ t, exec .dayStart s = .next t ∧
        keepsBut (fun c => { c with
          alm := a, tiles := s.chip.tiles, chans := s.chip.chans, hns := { c.hns with skvOld := s.chip.hns.skvOld } }) s t ∧
        t.chip.alm =
          { a with
            cycle := 0, dayEnded := false, lastDone := false, dayCount := a.dayCount + 1
            yearPos := if a.yearPos.toNat + 1 < a.yearLen.toNat then a.yearPos + 1 else 0
            planCur := match a.nextPlan with | some p => BitVec.ofNat 9 p | none => a.planCur
            nextPlan := none, winTicks := 0, earlyTicks := 0, inVigil := false, inFeast := false, genToday := false } ∧
        ∀ n, (t.chip.tile n).sram = (s.chip.tile n).sram ∧
          (s.chip.tileOff n = false → (t.chip.tile n).skipDay = false ∧ (t.chip.tile n).winOpen = true)

/-- R57, R63, R85, R88, R98, R280 (02_almanac, 06_stitch): the rows of a day's cycles. A Feast of the plan in force sets IN_FEAST
and its end clears it; the Vigil's first cycle sets IN_VIGIL and empties the receive queues, counting what it discards, and a
tile still in its section halts on it; Vigil cycle 768 latches the next day's plan and Vigil cycle 896 stages the settings
due. -/
def Obligations.DayCycleRows : Prop :=
  ∀ (s : State),
    let a := s.chip.alm
    let vigil := a.dayLen.toNat - a.vigilLen.toNat
    let left := (s.chip.tileKeys.map fun n => (s.chip.tile n).rxq.length).sum
    a.running = true →
      (s.chip.feastAt a.cycle = true →
        ∃ t, exec .feastStart s = .next t ∧ onlyAlm s t ∧ t.chip.alm = { a with inFeast := true }) ∧
      (s.chip.feastAt a.cycle = false →
        ∃ t, exec .feastEnd s = .next t ∧ onlyAlm s t ∧ t.chip.alm = { a with inFeast := false }) ∧
      (a.inVigil = false → a.cycle = vigil → (∀ n, (s.chip.tile n).inSection = false) →
        ∃ t, exec .vigilStart s = .next t ∧
          keepsBut (fun c => { c with alm := a, tiles := s.chip.tiles, fab := { c.fab with rxqDrop := s.chip.fab.rxqDrop } }) s t ∧
          t.chip.alm = { a with inVigil := true } ∧ t.chip.fab.rxqDrop = satAdd s.chip.fab.rxqDrop left ∧
          ∀ n, t.chip.tile n = { s.chip.tile n with rxq := [] }) ∧
      (a.inVigil = false → a.cycle = vigil →
        ∃ t, exec .vigilStart s = .next t ∧
          keepsBut (fun c => faultParts s.chip { c with alm := a, tiles := s.chip.tiles }) s t ∧ t.chip.alm.inVigil = true ∧
          ∀ n, (t.chip.tile n).rxq = [] ∧ (t.chip.tile n).inSection = false ∧
            ((s.chip.tile n).inSection = true → (s.chip.tile n).region ∈ t.chip.alm.invalid)) ∧
      (a.inVigil = true → a.cycle = vigil + 768 →
        ∃ t, exec .planLatch s = .next t ∧ onlyAlm s t ∧
          t.chip.alm =
            { a with
              nextPlan := some (s.chip.hns.year.getD
                (if a.yearPos.toNat + 1 < a.yearLen.toNat then a.yearPos.toNat + 1 else 0) 0) }) ∧
      (a.inVigil = true → a.cycle = vigil + 896 →
        ∃ t, exec .settingsStage s = .next t ∧ onlyAlm s t ∧
          { t.chip.alm with settings := a.settings, staged := a.staged } = a ∧
          (∀ w, w ∈ t.chip.alm.staged ↔ w ∈ a.settings ∧ w.day.toNat ≤ a.dayCount.toNat + 1) ∧
          (∀ w, w ∈ t.chip.alm.settings ↔ w ∈ a.settings ∧ a.dayCount.toNat + 1 < w.day.toNat))

/-- R68, R102, R237 (02_almanac, 05_code): the cycle after the last day's end with a STOP waiting: the almanac stands still, a stat
window still open closes, and every setting not yet in force comes into force, in the order of the generations, the last one
of which ALM_GEN takes. Stated where no region waits and no session or census slot is held. -/
def Obligations.AlmanacStops : Prop :=
  ∀ (s : State),
    let a := s.chip.alm
    let ws := a.staged ++ a.settings
    a.running = true → a.dayEnded = true → a.stopReq = true → s.chip.hns.regions = [] → s.chip.sfe.sessions = [] →
    s.chip.cns.arms = [] →
      ∃ t c, exec .almanacStopped s = .next t ∧
        c = (((s.chip.tileKeys.filter fun n => (s.chip.tile n).winOpen).foldl Chip.closeWindow s.chip).onAlm fun b =>
          { b with running := false }) ∧
        keepsBut (fun d => { d with
          alm := a, tiles := s.chip.tiles, hns := { d.hns with skvOld := s.chip.hns.skvOld }, aud := s.chip.aud
          sfe := { d.sfe with streams := s.chip.sfe.streams, gens := s.chip.sfe.gens }
          fhe := { d.fhe with ports := s.chip.fhe.ports } }) s t ∧
        t.chip.alm =
          { a with
            running := false, stopReq := false, stopAtVigil16 := false, inVigil := false, inFeast := false, hdOpen := false
            staged := [], settings := [], nextPlan := none, nextSrc := none
            tickSrc := match a.nextSrc with | some v => v.extractLsb' 0 2 | none => a.tickSrc
            tickSub := match a.nextSrc with | some v => v.extractLsb' 2 3 | none => a.tickSub
            gen := match ws.getLast? with | some w => w.gen | none => a.gen } ∧
        t.chip.tiles = (ws.foldl Chip.applySetting c).tiles ∧ t.chip.aud = (ws.foldl Chip.applySetting c).aud ∧
        t.chip.sfe.streams = (ws.foldl Chip.applySetting c).sfe.streams ∧
        (∀ q, (t.chip.fhPort q).dayOfs = ((ws.foldl Chip.applySetting c).fhPort q).dayOfs) ∧
        (ws = [] → ∀ n, (s.chip.tile n).winOpen = true → (t.chip.tile n).winOpen = false ∧ (t.chip.tile n).statValid = true)

/-! ### Registers -/

/-- R12, R16, R17, R677 (01_system, 15_bringup): every BAR0 read answers and leaves the almanac, the harness, host memory, tile memories
and everything of a tile but its RC counters as they were; before READY it reads 0 but at three offsets; a fault counter
reads and clears; the low half of a pair snapshots the high half for the port that read it. -/
def Obligations.RegisterReads : Prop :=
  ∀ (s : State) (p : Port) (off : BitVec 25) (size : BitVec 4) (k : Nat),
    (∀ i ∈ [Instr.rcRead p off size, .loHalfRead p off size],
      ∃ t v, exec i s = .next t ∧ t.pending = s.pending ∧ t.chip.out = s.chip.out ++ [.bar0 p off v] ∧
        t.chip.alm = s.chip.alm ∧ t.chip.glb = s.chip.glb ∧ t.chip.hns = s.chip.hns ∧ t.chip.hostMem = s.chip.hostMem ∧
        t.chip.agenda = s.chip.agenda ∧ ∀ n, (let x := s.chip.tile n
          { t.chip.tile n with
            satAcc := x.satAcc, satRq := x.satRq, conflictCnt := x.conflictCnt, clipCnt := x.clipCnt, skipCnt := x.skipCnt } = x)) ∧
    (s.chip.ready = false → off.toNat % 4 = 0 → 8 < off.toNat →
      ∃ t, exec (.rcRead p off 4) s = .next t ∧ onlyOut (.bar0 p off 0) s t) ∧
    (s.chip.ready = true → 1 ≤ k → k ≤ 5 →
      ∃ t, exec (.rcRead p (BitVec.ofNat 25 (0xD0000C + 4 * k)) 4) s = .next t ∧
        t.chip.out = s.chip.out ++
          [.bar0 p (BitVec.ofNat 25 (0xD0000C + 4 * k)) ((tget 0 s.chip.flt.counts k).setWidth 64)] ∧
        keepsBut (fun c => { c with flt := s.chip.flt, out := s.chip.out }) s t ∧
        ∀ j, tget 0 t.chip.flt.counts j = if j = k then 0 else tget 0 s.chip.flt.counts j) ∧
    (s.chip.ready = true →
      ∃ t, exec (.loHalfRead p 0xA00010 4) s = .next t ∧
        t.chip.out = s.chip.out ++ [.bar0 p 0xA00010 ((s.chip.hif.cmdBase.extractLsb' 0 32).setWidth 64)] ∧
        ∀ u : State, u.chip.ready = true → u.chip.hif.snaps = t.chip.hif.snaps →
          ∃ w, exec (.loHalfRead p 0xA00014 4) u = .next w ∧
            w.chip.out = u.chip.out ++ [.bar0 p 0xA00014 ((s.chip.hif.cmdBase.extractLsb' 32 32).setWidth 64)])

/-- R12, R13, R16, R103, R151, R677 (01_system, 02_almanac, 03_harness, 15_bringup): a BAR0 write is ignored before READY, with another size
than 4 or 8, and where it is not 4-byte aligned; one of 8 bytes is two of 4, the low half first; the seal locks its registers; ALM_DAY_LEN takes its field on a stopped almanac only; a buckle's
notify word clears the flags written with 1. -/
def Obligations.RegisterWrites : Prop :=
  ∀ (s : State) (p : Port) (off : BitVec 25) (size : BitVec 4) (v : BitVec 64) (n : BitVec 12),
    let row (o : Nat) : Instr := .registerWrite p (BitVec.ofNat 25 o) 4 v
    ((s.chip.ready = false ∨ (size ≠ 4 ∧ size ≠ 8) ∨ off.toNat % 4 ≠ 0) →
      exec (.registerWrite p off size v) s = .next s) ∧
    (s.chip.ready = true → off.toNat % 4 = 0 → off.toNat + 4 < 2 ^ 25 →
      ∃ t, exec (.registerWrite p off 4 ((v.extractLsb' 0 32).setWidth 64)) s = .next t ∧
        (t.chip.ready = true →
          exec (.registerWrite p off 8 v) s = exec (.registerWrite p (off + 4) 4 ((v.extractLsb' 32 32).setWidth 64)) t)) ∧
    (s.chip.ready = true → s.chip.hns.sealed = true →
      ∀ o ∈ [0x000060, 0x100008, 0x10000C, 0x100014, 0x100018, 0x400008, 0x40000C], exec (row o) s = .next s) ∧
    (s.chip.ready = true → s.chip.hns.sealed = false →
      ((s.chip.alm.running = true ∨ s.chip.alm.armed = true) → exec (row 0x100008) s = .next s) ∧
      (s.chip.alm.running = false → s.chip.alm.armed = false →
        ∃ t, exec (row 0x100008) s = .next t ∧ onlyAlm s t ∧
          t.chip.alm = { s.chip.alm with dayLen := v.extractLsb' 0 22 })) ∧
    (s.chip.ready = true →
      ∃ t, exec (row (0x300004 + 8 * n.toNat)) s = .next t ∧
        keepsBut (fun c => { c with bkl := { c.bkl with file := s.chip.bkl.file } }) s t ∧
        t.chip.buckle n =
          { s.chip.buckle n with
            under := (s.chip.buckle n).under && !(v.getLsbD 17)
            sat := (s.chip.buckle n).sat && !(v.getLsbD 16)
            vector := v.extractLsb' 8 6
            notify := v.getLsbD 0 } ∧
        ∀ m, m ≠ n → t.chip.buckle m = s.chip.buckle m)

/-- R138, R314, R333, R366, R367, R517, R518, R519, R581, R603, R632 (the register tables of their chapters): the rows of registers with
an effect of their own: SPI_RETRY, TME_SUBMIT, UML_CTL, ARB_FREEZE, AUD_CTL.RUN, AUD_ARM, HIF_CTL, HIF_CMD_PROD, CNS_RELEASE. -/
def Obligations.ControlRows : Prop :=
  ∀ (s : State), s.chip.ready = true →
    (∀ (k : BitVec 3) (v : Bool), s.chip.chanOn k = true →
      ∃ t, exec (.freeze k v) s = .next t ∧ onlyChan k s t ∧ t.chip.chan k = { s.chip.chan k with freeze := v }) ∧
    (∀ (p : Fin 8) (v : Bool), s.chip.audOn p = true →
      ∃ t, exec (.audRun p v) s = .next t ∧ onlyAud p s t ∧ t.chip.audPort p = { s.chip.audPort p with run := v }) ∧
    (∀ mask : Byte,
      ∃ t, exec (.audArmGo mask) s = .next t ∧ keepsBut (fun c => { c with aud := s.chip.aud }) s t ∧
        (64 ≤ s.chip.cyclesTo s.chip.aud.startAt →
          t.chip.aud = { s.chip.aud with mask := mask, latched := mask, armed := true }) ∧
        (s.chip.cyclesTo s.chip.aud.startAt < 64 →
          t.chip.aud = { s.chip.aud with mask := mask, latched := mask, armed := false, missed := true })) ∧
    (∀ (n : Fin 6) (v : Bool), s.chip.satchel = false → s.chip.hns.sealed = false → (s.chip.link n).state = 0 →
      ∃ t, exec (.linkEnable n v) s = .next t ∧
        keepsBut (fun c => { c with uml := { c.uml with links := s.chip.uml.links }, agenda := s.chip.agenda }) s t ∧
        (t.chip.link n).enable = v ∧ (t.chip.link n).state = (if v then 1 else 0) ∧
        ∀ m, m ≠ n → t.chip.link m = s.chip.link m) ∧
    (∀ (n : Fin 6) (v : Bool), s.chip.satchel = false → s.chip.hns.sealed = true → (s.chip.link n).state ≠ 0 →
      (s.chip.link n).state ≠ 5 →
      ∃ t, exec (.retrain n v) s = .next t ∧
        keepsBut (fun c => { c with uml := { c.uml with links := s.chip.uml.links }, agenda := s.chip.agenda }) s t ∧
        (t.chip.link n).state = 1 ∧ (t.chip.link n).enable = (s.chip.link n).enable ∧
        ∀ m, m ≠ n → t.chip.link m = s.chip.link m) ∧
    (∀ mask : BitVec 4,
      ∃ t, exec (.cnsRelease mask) s = .next t ∧
        keepsBut (fun c => { c with cns := { c.cns with banks := s.chip.cns.banks } }) s t ∧
        ∀ b, t.chip.cnsBank b =
          if mask.getLsbD b.toNat ∧ (s.chip.cnsBank b).valid then { s.chip.cnsBank b with full := false, valid := false }
          else s.chip.cnsBank b) ∧
    (∀ v : BitVec 16, 4 ≤ s.chip.hif.cmdSize.toNat → s.chip.hif.cmdSize.toNat ≤ 12 →
      ∃ t, exec (.hifCmdProdWrite v) s = .next t ∧ onlyHif s t ∧
        ((v - s.chip.hif.cmdCons).toNat ≤ 2 ^ s.chip.hif.cmdSize.toNat → t.chip.hif = { s.chip.hif with cmdProd := v }) ∧
        (2 ^ s.chip.hif.cmdSize.toNat < (v - s.chip.hif.cmdCons).toNat →
          t.chip.hif = { s.chip.hif with cmdProd := v, prodErr := true, halted := true })) ∧
    (∀ v : BitVec 3, s.chip.hif.resync = true → v.getLsbD 0 = false → v.getLsbD 1 = false →
      4 ≤ s.chip.hif.cmdSize.toNat → s.chip.hif.cmdSize.toNat ≤ 12 →
      let far : Bool := decide (2 ^ s.chip.hif.cmdSize.toNat < (s.chip.hif.cmdProd - s.chip.hif.cmdCons).toNat)
      ∃ t, exec (.resync v) s = .next t ∧ onlyHif s t ∧
        t.chip.hif =
          { s.chip.hif with cmdEn := false, resync := false, dayIrq := v.getLsbD 2, prodErr := far, halted := far }) ∧
    (∀ k : BitVec 4, s.chip.clusterOn k = true →
      ∃ t, exec (.memTmeSubmit k) s = .next t ∧ onlyTme k s t ∧
        (s.chip.tmeUsed k < 32 →
          (t.chip.tme k).result = 1 ∧ ∃ q, (t.chip.tme k).queue = (s.chip.tme k).queue ++ [(s.chip.tmeSlot k, q)] ∧
            ∀ j, j < 16 → dNum q (4 * j) 4 = (tget 0 (s.chip.tme k).regs j).toNat) ∧
        (32 ≤ s.chip.tmeUsed k → t.chip.tme k = { s.chip.tme k with result := 2 })) ∧
    (s.chip.hns.loaded = false → s.chip.hns.jobs = [] → s.chip.alm.running = false → s.chip.alm.armed = false →
      s.chip.hns.sealed = false →
      ∃ t, exec .spiRetry s = .next t ∧
        keepsBut (fun c => { c with hns := s.chip.hns, glb := s.chip.glb, bkl := s.chip.bkl }) s t ∧
        t.chip.hns.busy = true ∧ t.chip.hns.loaded = false ∧
        ∃ j, t.chip.hns.jobs = [j] ∧ j.fromFlash = true ∧ j.fromBoot = true ∧ j.place = 0)

/-! ### Commands -/

/-- R584, R586, R588, R589, R595 (13_host): a command that may not start yet waits; a row of another opcode changes nothing; a
command that its port may not give is refused with REFUSED_PORT, and one with a bit in a reserved byte with BAD_FIELD; an
unlisted opcode is BAD_OPCODE; and the default matrix of ports and opcodes. -/
def Obligations.CommandChecks : Prop :=
  ∀ (s : State) (src : Src) (d : Desc),
    (∀ r ∈ commandRows src d,
      ((dOpcode d).toNat ≠ r.1 → exec r.2 s = .next s) ∧
      ((dOpcode d).toNat = r.1 → s.chip.mayStart src = false → (src, d) ∉ s.chip.hif.waiting →
        ∃ t, exec r.2 s = .next t ∧ onlyHif s t ∧
          t.chip.hif = { s.chip.hif with waiting := s.chip.hif.waiting ++ [(src, d)] }) ∧
      ((dOpcode d).toNat = r.1 → s.chip.mayStart src = true → s.chip.mayIssue src r.1 = false → refuses s r.2 src d 0x03) ∧
      (served s src d r.1 → (∃ k, 32 ≤ k ∧ k < 64 ∧ dByte d k ≠ 0) → refuses s r.2 src d 0x04)) ∧
    ((∀ r ∈ commandRows src d, (dOpcode d).toNat ≠ r.1) → s.chip.mayStart src = true →
      answers s (.badOpcode src d) src d 0x09 0 0 id) ∧
    (s.chip.hns.authority = [] → s.chip.hns.sealed = false →
      (∀ op, s.chip.mayIssue .pcie op = true) ∧
      (∀ op, s.chip.mayIssue .jtag op = true ↔ op ∈ [0x01, 0x02, 0x03]) ∧
      (∀ op, s.chip.mayIssue .i3c op = true ↔
        op ∈ [0x01, 0x02, 0x03, 0x50, 0x60, 0x7F] ∨ (s.chip.glb.hostAbsent = true ∧ op ∈ [0x10, 0x11, 0x12])) ∧
      (∀ (chip : BitVec 16) (e : Eid) (tag : BitVec 16) (op : Nat), s.chip.isHere chip = false →
        (s.chip.mayIssue (.umaed chip e tag) op = true ↔
          op ∈ [0x01, 0x02, 0x03, 0x20, 0x21, 0x22, 0x30, 0x31, 0x60])))

/-- R95, R97, R98, R101, R150, R589, R591, R592, R650 (02_almanac, 03_harness, 13_host, 14_census): what NOP, EPOCH_SET, HARNESS_SEAL,
FAULT_ACK, STREAM_RING_BIND, SETTINGS_WRITE and RESET_SOFT do and answer. -/
def Obligations.CommandResults : Prop :=
  ∀ (s : State) (src : Src) (d : Desc),
    (served s src d 0x01 → dClean d [] = true → answers s (.nop src d) src d 0 0 s.chip.lts id) ∧
    (served s src d 0x60 → dClean d [(8, 8)] = true →
      answers s (.epochSet src d) src d 0 0 s.chip.glb.epoch fun c => c.onGlb fun g => { g with epoch := d.extractLsb' 64 64 }) ∧
    (served s src d 0x12 → dClean d [] = true →
      (s.chip.hns.loaded = true →
        answers s (.harnessSeal src d) src d 0 0 0 fun c => c.onHns fun h => { h with sealed := true }) ∧
      (s.chip.hns.loaded = false → answers s (.harnessSeal src d) src d 0x04 0 0 id)) ∧
    (served s src d 0x50 → dClean d [(8, 1)] = true →
      (1 ≤ dNum d 8 1 → dNum d 8 1 ≤ s.chip.unacked →
        answers s (.faultAck src d) src d 0 0 (BitVec.ofNat 64 (s.chip.unacked - dNum d 8 1)) fun c =>
          c.onFlt fun f => { f with head := f.head + BitVec.ofNat 16 (dNum d 8 1) }) ∧
      (dNum d 8 1 = 0 ∨ s.chip.unacked < dNum d 8 1 → refuses s (.faultAck src d) src d 0x04)) ∧
    (served s src d 0x40 → dClean d [(8, 2), (10, 1), (16, 8)] = true → 4 ≤ dNum d 10 1 → dNum d 10 1 ≤ 12 →
      dNum d 16 8 % 64 = 0 → dNum d 8 2 < 4096 →
      s.chip.streamPlan (BitVec.ofNat 12 (dNum d 8 2)) ≠ none → s.chip.sessionOf (BitVec.ofNat 12 (dNum d 8 2)) = none →
        answers s (.streamRingBind src d) src d 0 0 0 fun c => c.onStream (BitVec.ofNat 12 (dNum d 8 2)) fun x =>
          { x with
            base := d.extractLsb' 128 64, size := d.extractLsb' 80 5
            prod := 0, cons := 0, fetchIx := 0, ahead := [], backs := [] }) ∧
    (served s src d 0x38 → s.chip.settingsFields d = true →
      let a := s.chip.alm
      let w (day : BitVec 64) : Setting :=
        { gen := a.genLast + 1, day := day, kind := dByte d 8, unit := d.extractLsb' 80 16, index := dNum d 12 4
          value := d.extractLsb' 128 64
          mask := d.extractLsb' 192 64 &&& BitVec.ofNat 64 (Chip.settingSpace (dNum d 8 1)).2.2 }
      let result (day : BitVec 64) : BitVec 64 := (day.extractLsb' 0 32).append ((a.genLast + 1).setWidth 32)
      (a.running = true →
        answers s (.settingsWrite src d) src d 0 0 (result (a.dayCount + 2)) fun c =>
          c.onAlm fun a => { a with genLast := a.genLast + 1, settings := a.settings ++ [w (a.dayCount + 2)] }) ∧
      (a.running = false →
        answers s (.settingsWrite src d) src d 0 1 (result a.dayCount) fun c =>
          (c.onAlm fun a => { a with genLast := a.genLast + 1 }).applySettings [w a.dayCount])) ∧
    (served s src d 0x7F → dClean d [(8, 4)] = true → dNum d 8 4 = 0xA55A →
      exec (.resetSoft src d) s =
        .next { s with
          chip := (((s.chip.take src d).complete src (dTag d) (dOpcode d) 0 0 0).onGlb fun g =>
            { g with softAt := some (s.chip.now + 1024), softFlr := false }).post 1024 .resetSoftBegin })

/-- R492, R493, R494, R497, R498, R593, R655 (11_voices, 13_host, 14_census): SESSION_OPEN takes the lowest free slot of its class and
binds it two days on; SESSION_CLOSE closes two days on; SESSION_ADAPT starts two days on while there is room. -/
def Obligations.SessionCommands : Prop :=
  ∀ (s : State) (src : Src) (d : Desc) (b : List Byte) (k : Nat),
    let today : Word := s.chip.alm.dayCount.setWidth 32
    let i : BitVec 10 := d.extractLsb' 64 10
    let slot (j : Nat) : BitVec 10 := BitVec.ofNat 10 (Chip.slotFirst b + j)
    (served s src d 0x20 → dClean d [(8, 2), (12, 4)] = true →
      (s.chip.alm.running = false → refuses s (.sessionOpen src d) src d 0x02) ∧
      (s.chip.alm.running = true → s.chip.sesClass (d.extractLsb' 64 16) = none → refuses s (.sessionOpen src d) src d 0x04) ∧
      (s.chip.alm.running = true → s.chip.sesClass (d.extractLsb' 64 16) = some b → k < Chip.slotCount b →
        (∀ j, j < k → (s.chip.session (slot j)).state ≠ 0) → (s.chip.session (slot k)).state = 0 →
          answers s (.sessionOpen src d) src d 0 0 (BitVec.ofNat 64 (Chip.slotFirst b + k + (today + 2).toNat * 2 ^ 32))
            fun c => c.onSession (slot k) fun _ =>
              { Session.init with
                state := 1, cls := d.extractLsb' 64 16, bindDay := today + 2, cookie := d.extractLsb' 96 32 })) ∧
    (served s src d 0x21 → dClean d [(8, 2)] = true →
      (dNum d 8 2 < 1024 → (s.chip.session i).state = 1 ∨ (s.chip.session i).state = 2 →
        answers s (.sessionClose src d) src d 0 0 (s.chip.alm.dayCount + 2) fun c =>
          let c := c.onSession i fun x => { x with state := 3, closeDay := today + 2 }
          { c with sfe := { c.sfe with holdq := c.sfe.holdq.filter fun j => j ≠ i } }) ∧
      (1024 ≤ dNum d 8 2 ∨ ((s.chip.session i).state ≠ 1 ∧ (s.chip.session i).state ≠ 2) →
        refuses s (.sessionClose src d) src d 0x04)) ∧
    (served s src d 0x22 → dClean d [(8, 2)] = true → dNum d 8 2 < 1024 → (s.chip.session i).state = 2 →
      (s.chip.session i).adapt = false → i ∉ s.chip.sfe.holdq →
      s.chip.sesClass (s.chip.session i).cls = some b → Chip.sesAdaptOk b = true →
      let room := if s.chip.satchel then 1 else 16
      (s.chip.adaptations < room →
        answers s (.sessionAdapt src d) src d 0 0 (s.chip.alm.dayCount + 2) fun c =>
          c.onSession i fun x => { x with adapt := true, adaptDay := s.chip.alm.dayCount + 2 }) ∧
      (room ≤ s.chip.adaptations → s.chip.sfe.holdq.length < 64 →
        ∃ (r : BitVec 64) (n : Nat),
          answers s (.sessionAdapt src d) src d 0x01 (BitVec.ofNat 8 (s.chip.sfe.holdq.length + 1)) r fun c =>
            { c with sfe := { c.sfe with holdq := c.sfe.holdq ++ [i] }, free := n }))

/-- R133, R135, R139, R140, R147, R589, R594, R602, R606, R617, R633, R634 (03_harness, 13_host, 14_census): HARNESS_LOAD and
HARNESS_REGION start a job of the loader, CANCEL takes back a pending region, RECKON delivers the record, CENSUS triggers or arms,
and a buckle command sends its operation and waits for the buckle file. -/
def Obligations.LoaderCommands : Prop :=
  ∀ (s : State) (src : Src) (d : Desc) (r : BitVec 6),
    let c := s.chip.take src d
    (served s src d 0x10 → dClean d (Chip.imageOps src) = true → Chip.imageOk src d = true →
      (s.chip.alm.running = true ∨ s.chip.alm.armed = true → refuses s (.harnessLoad src d) src d 0x0A) ∧
      (s.chip.alm.running = false → s.chip.alm.armed = false → s.chip.hns.jobs = [] →
        ∃ t, exec (.harnessLoad src d) s = .next t ∧
          keepsBut (fun c => { c with hns := s.chip.hns, glb := s.chip.glb, bkl := s.chip.bkl, hif := s.chip.hif }) s t ∧
          t.chip.hif = c.hif ∧ t.chip.hns.jobs = [Chip.jobOf src d 0] ∧ t.chip.hns.busy = true ∧
          t.chip.hns.loaded = false ∧ t.chip.hns.records = [] ∧ t.chip.glb.profile = 3 ∧
          t.chip.glb.epoch = s.chip.glb.epoch ∧ ∀ n, (t.chip.buckle n).count = 0)) ∧
    (served s src d 0x11 → flag (dFlags d) 0 = false → dClean d ((20, 1) :: Chip.imageOps src) = true →
      Chip.imageOk src d = true → s.chip.namedRegion d = some r →
      ((s.chip.region r).state ≠ 0 → refuses s (.harnessRegion src d) src d 0x05) ∧
      ((s.chip.region r).state = 0 → s.chip.hns.jobs = [] →
        ∃ t, exec (.harnessRegion src d) s = .next t ∧
          keepsBut (fun c => { c with hns := s.chip.hns, hif := s.chip.hif }) s t ∧ t.chip.hif = c.hif ∧
          t.chip.hns.jobs = [Chip.jobOf src d r] ∧ t.chip.hns.loaded = s.chip.hns.loaded ∧
          t.chip.region r = { s.chip.region r with state := 1 } ∧ ∀ q, q ≠ r → t.chip.region q = s.chip.region q)) ∧
    (served s src d 0x11 → dFlags d = 1 → dClean d [(1, 1), (20, 1)] = true → s.chip.namedRegion d = some r →
      (s.chip.region r).state = 2 →
      (s.chip.alm.running = false ∨ s.chip.alm.dayCount.toNat < (s.chip.region r).applyDay.toNat →
        ∃ (v : BitVec 64) (n : Nat), answers s (.harnessRegionCancel src d) src d 0 0 v fun c =>
          { c.onRegion r fun y => { y with state := 0, image := none } with free := n }) ∧
      (s.chip.alm.running = true → (s.chip.region r).applyDay.toNat ≤ s.chip.alm.dayCount.toNat →
        refuses s (.harnessRegionCancel src d) src d 0x05)) ∧
    (served s src d 0x02 → s.chip.reckonFields src d = true →
      (src = .i3c →
        answers s (.reckon src d) src d 0 0 s.chip.lts fun e => e.onI3c fun x => { x with buf := c.reckoning 1 (dNum d 16 1) }) ∧
      (src = .jtag →
        answers s (.reckon src d) src d 0 0 s.chip.lts fun e =>
          e.onJtag fun x => { x with buf := c.reckoning 2 (dNum d 16 1) }) ∧
      (src = .pcie →
        answers s (.reckon src d) src d 0 0 s.chip.lts fun e => e.hostWrite (dNum d 8 8) (c.reckoning 0 (dNum d 16 1))) ∧
      (∀ (chip : BitVec 16) (e : Eid) (tag : BitVec 16), src = .umaed chip e tag →
        ∃ t, exec (.reckon src d) s = .next t ∧
          t.chip.bkl = { s.chip.bkl with remote := s.chip.bkl.remote ++ [⟨src, dTag d, dOpcode d, s.chip.lts⟩] } ∧
          (t.chip.endp eidCmd).queue.length = (s.chip.endp eidCmd).queue.length + 128 ∧
          keepsBut (fun c => { c with bkl := s.chip.bkl, fab := s.chip.fab, hif := s.chip.hif }) s t)) ∧
    (served s src d 0x03 → dClean d [(8, 1), (16, 8)] = true →
      (dNum d 8 1 = 0 → s.chip.cns.pending = [] → s.chip.cns.made = [] → s.chip.cns.drive = false →
        ∃ t, exec (.census src d) s = .next t ∧
          t.chip.cns = { s.chip.cns with pending := [⟨s.chip.now + 16, 2, 0, 0, 0, some (src, dTag d)⟩] } ∧
          t.chip.agenda = s.chip.agenda ++ [(s.chip.now + 16, .censusLatch)] ∧
          keepsBut (fun c => { c with cns := s.chip.cns, agenda := s.chip.agenda, hif := s.chip.hif }) s t) ∧
      (dNum d 8 1 = 1 → s.chip.alm.running = true → 64 ≤ s.chip.cyclesTo (d.extractLsb' 128 64) →
        (s.chip.arm 0).state = 0 →
        ∃ t, exec (.census src d) s = .next t ∧ t.chip.arm 0 = ⟨1, d.extractLsb' 128 64, 0⟩ ∧
          ∀ a, a ≠ 0 → t.chip.arm a = s.chip.arm a)) ∧
    (served s src d 0x30 → dClean d Chip.buckleOps = true → dNum d 10 2 < 4096 → dNum d 15 1 = 0 →
      s.chip.isHere (d.extractLsb' 64 16) = true →
        ∃ t, exec (.buckleSet src d) s = .next t ∧
          t.chip.bkl = { s.chip.bkl with waits := s.chip.bkl.waits ++ [⟨src, dTag d, dOpcode d, 0⟩] } ∧
          t.chip.fab = (c.send eidCmd (packet 0xFFFF tBuckleOp 3 eidBuckle 4 0 (BitVec.ofNat 16 (3 * 4096 + dNum d 10 2))
            ((d.extractLsb' 96 24).setWidth 256))).fab ∧
          keepsBut (fun c => { c with bkl := s.chip.bkl, fab := s.chip.fab, hif := s.chip.hif }) s t) ∧
    (served s src d 0x31 → dClean d Chip.buckleOps = true → dNum d 10 2 < 4096 → dNum d 12 4 = 1 →
      s.chip.isHere (d.extractLsb' 64 16) = false →
        ∃ t, exec (.buckleFasten src d) s = .next t ∧
          t.chip.bkl = { s.chip.bkl with remote := s.chip.bkl.remote ++ [⟨src, dTag d, dOpcode d, 0⟩] } ∧
          t.chip.fab = (c.send eidCmd (packet (d.extractLsb' 64 16) tBuckleOp 1 eidBuckle 4 0
            (BitVec.ofNat 16 (dNum d 10 2)) 0)).fab ∧
          keepsBut (fun c => { c with bkl := s.chip.bkl, fab := s.chip.fab, hif := s.chip.hif }) s t)

/-- R583, R587, R598, R601, R618 (13_host): where a completion goes, by its port, with its 16 bytes. -/
def Obligations.CompletionPorts : Prop :=
  ∀ (c : Chip) (tag : Word) (op st aux : Byte) (r : BitVec 64), st ≠ 0x03 →
    let bytes (port : Nat) : List Byte :=
      leBytes 4 tag.toNat ++ [op, st, BitVec.ofNat 8 port, aux] ++ leBytes 8 r.toNat
    let done (src : Src) : Chip := c.complete src tag op st aux r
    (done .i3c).hif = { c.hif with i3c := { c.hif.i3c with cpls := c.hif.i3c.cpls ++ [⟨tag, op, st, 1, aux, r⟩] } } ∧
    (done .i3c).out = c.out ++ [.ibi c.i3cAddress 0x01] ∧
    (done .jtag).hif = { c.hif with jtag := { c.hif.jtag with cpls := c.hif.jtag.cpls ++ [⟨tag, op, st, 2, aux, r⟩] } } ∧
    (done .jtag).out = c.out ∧
    (∀ (chip : BitVec 16) (e : Eid) (t : BitVec 16),
      ∃ q, ((done (.umaed chip e t)).endp eidCmd).outq = (c.endp eidCmd).outq ++ [⟨q, c.now⟩] ∧ q.type = tCmdRsp ∧
        q.vc = 2 ∧ q.dchip = chip ∧ q.deid = e ∧ q.aux = t ∧ lineBytes q.payload 16 = bytes 3) ∧
    (flag (tget Chip.msixMasked c.hif.msix 0) 96 = true →
      (done .pcie).hif.cplProd = c.hif.cplProd + 1 ∧ (done .pcie).hif.pba = c.hif.pba ||| 1 ∧
      (∀ j, j < 16 →
        mget (done .pcie).hostMem (c.hif.cplBase.toNat + 16 * (c.hif.cplProd.toNat % 2 ^ c.hif.cplSize.toNat) + j) =
          (bytes (if c.hif.cplProd.toNat / 2 ^ c.hif.cplSize.toNat % 2 = 0 then 0x80 else 0)).getD j 0) ∧
      (∀ a, (∀ j, j < 16 → a ≠ c.hif.cplBase.toNat + 16 * (c.hif.cplProd.toNat % 2 ^ c.hif.cplSize.toNat) + j) →
        mget (done .pcie).hostMem a = mget c.hostMem a))

/-! ### Host ports -/

/-- R587, R597, R598, R599, R600, R602 (13_host): the I3C pointers and the JTAG instructions on a chip that is not held in reset: the
command register, the completion queue, the status, the record, the debug address and data, IDCODE, BYPASS, and the
boundary scan instructions, whose captured bits are a free value (log 115); a chip held in reset has dead ports. -/
def Obligations.HostPortRows : Prop :=
  ∀ (s : State) (bytes : List Byte) (n : BitVec 13) (a : BitVec 7) (d : Desc) (v : BitVec 64) (w : Line) (code : Byte),
    let i3c := s.chip.hif.i3c
    let jtag := s.chip.hif.jtag
    let put (i : Instr) (h : Hif) (out : List Out) : Prop :=
      ∃ t, exec i s = .next t ∧ keepsBut (fun c => { c with hif := s.chip.hif, out := s.chip.out }) s t ∧
        t.chip.hif = h ∧ t.chip.out = s.chip.out ++ out
    let i3cIs (x : I3c) : Hif := { s.chip.hif with i3c := x }
    let jtagIs (x : Jtag) : Hif := { s.chip.hif with jtag := x }
    let scans (i : Instr) (c : Byte) : Prop :=
      exec i s =
        .next { s with
          chip := { s.chip with
            hif := jtagIs { jtag with ir := c }, free := s.chip.free + 1
            out := s.chip.out ++ [.jtag Config.boundaryBits (Config.freeBits Config.boundaryBits s.chip.free).toNat] } }
    (s.chip.glb.phase = .held →
      ∀ i ∈ [Instr.i3cCommandWrite bytes, .i3cCompletionRead, .i3cStatusRead, .i3cReckoningRead n, .i3cDynamicAddress a,
             .jtagCmd d, .jtagCpl, .jtagRecord, .dbgAddr v, .dbgData w, .idcode, .extest, .samplePreload, .bypass code],
        exec i s = .next s) ∧
    (s.chip.glb.phase ≠ .held →
      (bytes.length ≠ 64 → put (.i3cCommandWrite bytes) (i3cIs { i3c with ptr := 0x00 }) []) ∧
      (bytes.length = 64 → i3c.busy = true →
        put (.i3cCommandWrite bytes) (i3cIs { i3c with ptr := 0x00, dropped := true }) []) ∧
      (bytes.length = 64 → i3c.busy = false →
        put (.i3cCommandWrite bytes)
          { i3cIs { i3c with ptr := 0x00, busy := true } with waiting := s.chip.hif.waiting ++ [(.i3c, descOf bytes)] } []) ∧
      (i3c.cpls = [] → put .i3cCompletionRead (i3cIs { i3c with ptr := 0x40 }) [.i3c (List.replicate 16 0)]) ∧
      (∀ k ks, i3c.cpls = k :: ks →
        put .i3cCompletionRead (i3cIs { i3c with ptr := 0x40, cpls := ks }) [.i3c (Chip.completionBytes k false)]) ∧
      put .i3cStatusRead (i3cIs { i3c with ptr := 0x50, dropped := false })
        [.i3c (leBytes 4 (b1 i3c.busy + 2 * b1 (decide (i3c.cpls ≠ [])) + 4 * b1 s.chip.glb.hostAbsent + 8 * b1 i3c.dropped))] ∧
      put (.i3cReckoningRead n) (i3cIs { i3c with ptr := 0x80 }) [.i3c (bytesAt i3c.buf 0 (min 4096 n.toNat))] ∧
      put (.i3cDynamicAddress a) (i3cIs { i3c with dyn := some a }) [] ∧
      (jtag.pendingCmd = true → put (.jtagCmd d) (jtagIs { jtag with ir := 0x10, busy := true }) []) ∧
      (jtag.pendingCmd = false →
        put (.jtagCmd d)
          { jtagIs { jtag with ir := 0x10, pendingCmd := true, busy := false } with
            waiting := s.chip.hif.waiting ++ [(.jtag, d)] } []) ∧
      (jtag.cpls = [] → put .jtagCpl (jtagIs { jtag with ir := 0x11 }) [.jtag 128 0]) ∧
      (∀ k ks, jtag.cpls = k :: ks →
        put .jtagCpl (jtagIs { jtag with ir := 0x11, cpls := ks }) [.jtag 128 (leNat (Chip.completionBytes k false))]) ∧
      put .jtagRecord (jtagIs { jtag with ir := 0x12 }) [.jtag 32768 (leNat (bytesAt jtag.buf 0 4096))] ∧
      put (.dbgAddr v) (jtagIs { jtag with ir := 0x18, dbgAddr := v }) [] ∧
      (s.chip.glb.debugLock = true →
        put (.dbgData w) { jtagIs { jtag with ir := 0x19 } with refused := satInc s.chip.hif.refused } [.jtag 256 0]) ∧
      (s.chip.glb.debugLock = false → s.chip.hns.authority = [] → jtag.dbgAddr.getLsbD 51 = true →
        ∃ t, exec (.dbgData w) s = .next t ∧
          keepsBut (fun c => { c with hif := s.chip.hif, out := s.chip.out, fab := s.chip.fab }) s t ∧
          t.chip.out = s.chip.out ++ [.jtag 256 jtag.dbgData.toNat] ∧
          ∃ p, (t.chip.endp eidCmd).queue = (s.chip.endp eidCmd).queue ++ [p] ∧ p.debug = true ∧ p.type = tDataWr ∧
            p.dchip = jtag.dbgAddr.extractLsb' 0 16 ∧ p.deid = jtag.dbgAddr.extractLsb' 16 9 ∧
            p.addr = jtag.dbgAddr.extractLsb' 25 24 ∧ p.payload = w) ∧
      put .idcode (jtagIs { jtag with ir := 0x02 }) [.jtag 32 s.chip.idcode] ∧
      scans .extest 0x00 ∧
      scans .samplePreload 0x01 ∧
      put (.bypass code) (jtagIs { jtag with ir := code }) [.jtag 1 0])

/-- R570, R571, R573, R576, R596, R672, R676, R677 (13_host, 15_bringup): the PCIe rows. A BAR2 write of one aligned line goes out as one
VC1 packet to the EID and address of its offset, a partial one is counted, a read waits for its pieces, and before READY
reads answer with EP; the link's two edges and HOST_ABSENT; FLR; the configuration space, which keeps what is written and
whose reads answer what Tables 1 and 2 fix (a BAR reads its written address above its size and its type, a capability the
fields of Table 1; the layout is log 17's) and a free value in every other bit. -/
def Obligations.PcieRows : Prop :=
  ∀ (s : State) (tlp : Tlp) (off : BitVec 12) (v : Word) (width : BitVec 4) (speed : BitVec 3),
    (tlp.bar4 = false → tlp.off.toNat < 2 ^ 27 →
      (tlp.write = true → s.chip.ready = true → tlp.data.length = 32 → tlp.off.toNat % 32 = 0 →
        (tlp.firstBe = 0xF → tlp.lastBe = 0xF →
          ∃ t, exec (.barTlp tlp) s = .next t ∧ keepsBut (fun c => { c with fab := s.chip.fab }) s t ∧
            ∃ p, (t.chip.endp eidHost).queue = (s.chip.endp eidHost).queue ++ [p] ∧ p.type = tDataWr ∧ p.vc = 1 ∧
              p.deid = BitVec.ofNat 9 (tlp.off.toNat / 524288) ∧ p.addr = BitVec.ofNat 24 (tlp.off.toNat % 524288) ∧
              lineBytes p.payload = tlp.data) ∧
        (tlp.firstBe ≠ 0xF ∨ tlp.lastBe ≠ 0xF →
          ∃ t, exec (.barTlp tlp) s = .next t ∧ onlyHif s t ∧
            t.chip.hif = { s.chip.hif with badTlp := satInc s.chip.hif.badTlp })) ∧
      (tlp.write = true → s.chip.ready = false → exec (.barTlp tlp) s = .next s) ∧
      (tlp.write = false → s.chip.ready = false →
        ∃ t, exec (.barTlp tlp) s = .next t ∧ onlyOut (.tlp tlp.id true (List.replicate tlp.count 0xFF)) s t) ∧
      (tlp.write = false → s.chip.ready = true →
        ∃ t r, exec (.barTlp tlp) s = .next t ∧ onlyHif s t ∧
          t.chip.hif = { s.chip.hif with reads := s.chip.hif.reads ++ [r] } ∧ r.id = tlp.id ∧ r.base = tlp.off.toNat ∧
          r.count = tlp.count ∧ r.got = [])) ∧
    (s.chip.ready = true →
      ∃ t, exec (.dlUp width speed) s = .next t ∧
        keepsBut (fun c => { c with hif := s.chip.hif, glb := s.chip.glb }) s t ∧
        t.chip.hif = { s.chip.hif with linkUp := true, width := width, speed := speed } ∧
        t.chip.glb = { s.chip.glb with hostAbsent := false }) ∧
    (∃ t, exec .dlDownTimeout s = .next t ∧
      keepsBut (fun c => { c with hif := s.chip.hif, glb := s.chip.glb }) s t ∧
      t.chip.hif = { s.chip.hif with linkUp := false, width := 0, speed := 0 } ∧
      t.chip.glb = { s.chip.glb with hostAbsent := true }) ∧
    (s.chip.glb.phase ≠ .held →
      (∃ t, exec .flr s = .next t ∧ keepsBut (fun c => { c with glb := s.chip.glb, agenda := s.chip.agenda }) s t ∧
        t.chip.glb = { s.chip.glb with softAt := some s.chip.now, softFlr := true } ∧
        t.chip.agenda = s.chip.agenda ++ [(s.chip.now, .resetSoftBegin)]) ∧
      (∃ t, exec (.pcieConfigRequest off (some v)) s = .next t ∧ t.chip.out = s.chip.out ++ [.config 0] ∧
        keepsBut (fun c => { c with hif := s.chip.hif, out := s.chip.out }) s t ∧
        tget 0 t.chip.hif.cfg (off.toNat / 4) = v) ∧
      (∃ t, exec (.pcieConfigRequest off none) s = .next t ∧
        t.chip = { s.chip with
          free := s.chip.free + 1
          out := s.chip.out ++ [.config (s.chip.cfgRead off.toNat (Config.freeBits 32 s.chip.free))] }) ∧
      (let bar (k : Nat) : Word := tget 0 s.chip.hif.cfg (4 + k)
       ∀ w : Word,
        s.chip.cfgRead 0x10 w = bar 0 &&& 0xFE000000 ∧ s.chip.cfgRead 0x14 w = 0 ∧
        s.chip.cfgRead 0x18 w = (bar 2 &&& 0xF8000000) ||| 0x4 ∧ s.chip.cfgRead 0x1C w = bar 3 ∧
        s.chip.cfgRead 0x20 w = 0xC ∧ s.chip.cfgRead 0x24 w = bar 5 &&& 0xFFFFFFFC ∧ s.chip.cfgRead 0x30 w = 0))

/-! ### The harness and the Vigil's releases -/

/-- R129, R136, R137, R138, R142, R143, R149, R678, R681 (03_harness, 15_bringup): the loader's rows. The boot that BOOT_SEL
selects; a full image that fails names its step and status; one that passes waits for DDR training, whose failures set
their bits; then LOADED sets; a region image that fails leaves its region IDLE. -/
def Obligations.HarnessRows : Prop :=
  ∀ (s : State) (fail : Byte) (j : LoadJob) (id : BitVec 64) (digest : BitVec 256) (signed : Bool),
    let h := s.chip.hns
    let ports (c : Chip) : Chip := { c with hif := s.chip.hif, hostMem := s.chip.hostMem, out := s.chip.out, fab := s.chip.fab }
    (s.chip.ready = true → h.loaded = false → h.jobs = [] → h.bootTry = 0 →
      (s.chip.glb.bootSel = 0 → exec .boot s = .next s) ∧
      (s.chip.glb.bootSel = 3 →
        ∃ t, exec .boot s = .next t ∧ onlyGlb s t ∧ t.chip.glb = { s.chip.glb with bootSelErr := true }) ∧
      (s.chip.glb.bootSel = 1 ∨ s.chip.glb.bootSel = 2 → s.chip.alm.running = false → s.chip.alm.armed = false →
        h.sealed = false →
        ∃ t b, exec .boot s = .next t ∧
          keepsBut (fun c => { c with hns := h, glb := s.chip.glb, bkl := s.chip.bkl }) s t ∧
          t.chip.hns.jobs = [b] ∧ b.fromBoot = true ∧ b.fromFlash = true ∧ b.place = 0 ∧ t.chip.hns.busy = true)) ∧
    (h.jobs = [j] → Chip.isFull j = true → h.left = 0 → h.waitDdr = none →
      (∀ n st, s.chip.jobVerdict j = ⟨n, st⟩ → n ≠ 0 → j.fromBoot = false → s.chip.alm.running = false →
        s.chip.alm.armed = false → h.sealed = false →
        ∃ t, exec .fullLoadFailed s = .next t ∧ keepsBut (fun c => ports { c with hns := h }) s t ∧
          t.chip.hns = { h with failStep := BitVec.ofNat 8 n, failStatus := st, jobs := [], busy := false, read := [] } ∧
          t.chip.out = (s.chip.complete j.src j.tag j.opcode st (BitVec.ofNat 8 n)
            (Img.harnessId h.read)).out) ∧
      (s.chip.jobVerdict j = Img.pass →
        exec .fullLoadFailed s = .next s ∧
        ∃ t, exec (.ddrTraining fail) s = .next t ∧ t.pending = s.pending ∧ t.chip.hns.busy = false ∧
          t.chip.hns.loaded = h.loaded ∧ (t.chip.hns.waitDdr).isSome = true ∧
          (s.chip.now, .harnessLoadComplete) ∈ t.chip.agenda ∧
          t.chip.glb.ddrFail &&& ~~~fail = 0 ∧ t.chip.glb.ddrReady &&& fail = 0 ∧ t.chip.flash = s.chip.flash)) ∧
    (h.jobs = [j] → h.waitDdr = some (id, digest, signed) →
      ∃ t, exec .harnessLoadComplete s = .next t ∧ keepsBut (fun c => ports { c with hns := h }) s t ∧
        (s.chip.alm.running = false → s.chip.alm.armed = false → h.sealed = false →
          t.chip.hns =
            { h with
              loaded := true, id := id, digest := digest, signed := signed, waitDdr := none
              source := if j.fromFlash then 2 else 1
              jobs := [], busy := false, left := 0, read := [] })) ∧
    (h.jobs = [j] → Chip.isFull j = false → h.left = 0 → s.chip.jobVerdict j ≠ Img.pass → j.fromBoot = false →
      s.chip.alm.running = false → s.chip.alm.armed = false → h.sealed = false → (s.chip.jobVerdict j).step ≠ 0 →
      ∃ t, exec .regionVerifyDone s = .next t ∧ keepsBut (fun c => ports { c with hns := h, free := s.chip.free }) s t ∧
        (t.chip.region j.region).state = 0 ∧ t.chip.hns.jobs = [] ∧
        t.chip.hns.failStep = BitVec.ofNat 8 (s.chip.jobVerdict j).step ∧ t.chip.hns.records = h.records ∧
        t.chip.hns.loaded = h.loaded) ∧
    (h.jobs = [j] → Chip.isFull j = false → h.left = 0 → s.chip.jobVerdict j = Img.pass → s.chip.alm.running = true →
      ∃ t, exec .regionVerifyDone s = .next t ∧ t.pending = s.pending ∧ (t.chip.region j.region).state = 2 ∧
        (t.chip.region j.region).image.isSome = true ∧
        t.chip.hns.jobs = [] ∧ t.chip.hns.records = h.records ∧ t.chip.alm = s.chip.alm ∧ t.chip.glb = s.chip.glb)

/-- R86, R144, R145, R470, R502, R579, R580 (02_almanac, 03_harness, 10_kvcache, 13_host): at Vigil cycle 16 DAY_IRQ raises vector 3, and a
walker's one event of the day goes to its ring; on Vigil cycle 64 a pending region whose day has come enters APPLYING,
another stays as it is, and up to Vigil cycle 767 a region that is APPLYING switches its copy and becomes IDLE (the cycle
after 64 is the model's, log 60). On every other cycle neither row changes anything. -/
def Obligations.VigilReleases : Prop :=
  ∀ (s : State) (r : BitVec 6) (image : RegionImage) (w : BitVec 4) (e : KvEvent),
    (s.chip.vigilAt 16 = false → exec .outputRelease s = .next s) ∧
    (s.chip.alm.running = false ∨ s.chip.alm.inVigil = false ∨ s.chip.alm.cycle < s.chip.vigilStart + 64 ∨
      s.chip.vigilStart + 767 < s.chip.alm.cycle → exec .regionApply s = .next s) ∧
    (s.chip.vigilAt 16 = true → s.chip.sfe.streams = [] → s.chip.sfe.wrote = false → s.chip.kvw = [] →
      exec .outputRelease s = .next { s with chip := if s.chip.hif.dayIrq then s.chip.vector 3 else s.chip }) ∧
    (s.chip.vigilAt 16 = true → s.chip.sfe.streams = [] → s.chip.sfe.wrote = false → s.chip.hif.dayIrq = false →
      (let x := s.chip.walker w
       let size := 2 ^ x.evtSize.toNat
       s.chip.kvw = [(w.toNat, x)] → x.events = [e] → 4 ≤ x.evtSize.toNat → x.evtSize.toNat < 16 → x.evtProd.toNat < size →
       x.evtCons.toNat < size → (x.evtProd.toNat + 1) % size ≠ x.evtCons.toNat →
        ∃ t, exec .outputRelease s = .next t ∧
          t.chip.walker w = { x with events := [], evtProd := BitVec.ofNat 16 ((x.evtProd.toNat + 1) % size) } ∧
          keepsBut (fun c => { c with kvw := s.chip.kvw, hostMem := s.chip.hostMem, hif := s.chip.hif }) s t ∧
          t.chip.hostMem =
            (({ s.chip with
                hostMem := mwrite s.chip.hostMem (x.evtBase.toNat + 16 * x.evtProd.toNat) (Chip.eventBytes w e) } : Chip).vector
              4).hostMem)) ∧
    (let x : Region := s.chip.region r
     s.chip.hns.regions = [(r.toNat, x)] →
      (s.chip.vigilAt 64 = true → x.state = 2 → x.applyDay.toNat ≤ s.chip.alm.dayCount.toNat →
        exec .regionApply s =
          .next { s with
            chip := { s.chip with hns := { s.chip.hns with regions := [(r.toNat, { x with state := 3 })] } } }) ∧
      (s.chip.vigilAt 64 = true → x.state ≠ 2 ∨ s.chip.alm.dayCount.toNat < x.applyDay.toNat →
        exec .regionApply s = .next s) ∧
      (s.chip.alm.running = true → s.chip.alm.inVigil = true → s.chip.vigilStart + 64 < s.chip.alm.cycle →
       s.chip.alm.cycle ≤ s.chip.vigilStart + 767 → x.state ≠ 3 → exec .regionApply s = .next s) ∧
      (s.chip.alm.running = true → s.chip.alm.inVigil = true → s.chip.vigilStart + 64 < s.chip.alm.cycle →
       s.chip.alm.cycle ≤ s.chip.vigilStart + 767 → x.state = 3 → x.image = some image →
        ∃ t, exec .regionApply s = .next t ∧ t.pending = s.pending ∧
          t.chip.region r = { x with state := 0, id16 := image.id.setWidth 16, copy := !x.copy, image := none } ∧
          t.chip.hns.records = Chip.mergeRecs s.chip.hns.records (r, image) ∧
          t.chip.hns.plans = Chip.mergePlans s.chip.hns.plans (r, image) ∧ t.chip.alm = s.chip.alm ∧ t.chip.glb = s.chip.glb ∧ t.chip.hif = s.chip.hif ∧
          t.chip.hostMem = s.chip.hostMem))

/-! ### The fabric -/

/-- R258, R262, R268, R269, R272, R278, R454 (06_stitch, 10_kvcache): PACKET_ROUTE delivers a VC0 packet to its tile on the next cycle, drops one
whose EID its table does not know, and does nothing with an empty buffer; VC1_INJECT moves the head of a queue into the
router, and of a walker's page move it counts a line as written (R454); VC1_LEVEL_DOWN and RSP_TIMEOUT. An EID that Table 1
leaves unassigned is no unit (log 1). -/
def Obligations.FabricRows : Prop :=
  ∀ (s : State) (e : Eid) (p : RPort) (vc : BitVec 2) (k : Packet) (slot : BitVec 5) (w : BitVec 4),
    (isEid e = false →
      (∃ f, exec (.packetRoute e p vc) s = .fault f) ∧ (∃ f, exec (.rspTimeout e slot) s = .fault f)) ∧
    (isEdgeEid e = false → (∃ f, exec (.vc1Inject e) s = .fault f) ∧ (∃ f, exec (.vc1LevelDown e) s = .fault f)) ∧
    (isEid e = true → s.chip.headOf e p vc = none → exec (.packetRoute e p vc) s = .next s) ∧
    (isTileEid e = true → p ≠ .loc → k.vc = 0 → k.type = tDataWr → s.chip.headOf e p 0 = some k →
      s.chip.routeOf e p k = .ways [.port .loc] →
      ∃ t, exec (.packetRoute e p 0) s = .next t ∧
        keepsBut (fun c => { c with fab := s.chip.fab, agenda := s.chip.agenda }) s t ∧
        t.chip.agenda = s.chip.agenda ++ [(s.chip.now + 1, .dataWr e k p)] ∧
        tget [] (t.chip.router e).bufs (Chip.bufKey p 0) = (tget [] (s.chip.router e).bufs (Chip.bufKey p 0)).tail ∧
        t.chip.fab.ends = s.chip.fab.ends) ∧
    (isEid e = true → s.chip.headOf e p vc = some k → s.chip.routeOf e p k = .noEid →
      ∃ t, exec (.packetRoute e p vc) s = .next t ∧ keepsBut (faultParts s.chip) s t ∧ t.chip.fab.drop = true ∧
        t.chip.fab.dropEid = satInc s.chip.fab.dropEid ∧ t.chip.fab.dropChip = s.chip.fab.dropChip ∧
        t.chip.fab.lastDrop = BitVec.ofNat 128 (leNat (headerBytes k)) ∧
        tget 0 t.chip.flt.counts 2 = satInc (tget 0 s.chip.flt.counts 2)) ∧
    (isEdgeEid e = true → s.chip.mayInject e = false → exec (.vc1Inject e) s = .next s) ∧
    (∀ ks, isEdgeEid e = true → s.chip.mayInject e = true → Chip.umaedOf e = none → s.chip.bkl.remote = [] → k.vc = 1 →
      isRequest k = false → (s.chip.endp e).queue = k :: ks →
      ∃ t q, exec (.vc1Inject e) s = .next t ∧ keepsBut (fun c => { c with fab := s.chip.fab, kvw := s.chip.kvw }) s t ∧
        (k.type ≠ tDataWr ∨ k.len ≠ 3 ∨ e.toNat < 0x118 ∨ 0x128 ≤ e.toNat → t.chip.kvw = s.chip.kvw) ∧
        (k.type = tDataWr → k.len = 3 → e = eidWalker w → ∀ m ms, (s.chip.walker w).moves = m :: ms →
          t.chip.walker w = { s.chip.walker w with moves := { m with wrote := m.wrote + 1 } :: ms } ∧
          ∀ v, v ≠ w → t.chip.walker v = s.chip.walker v) ∧
        (t.chip.endp e).queue = ks ∧ (t.chip.endp e).lastInject = some s.chip.now ∧
        tget [] (t.chip.router e).bufs (Chip.bufKey .loc 1) =
          tget [] (s.chip.router e).bufs (Chip.bufKey .loc 1) ++ [⟨q, s.chip.now + 1⟩] ∧
        q.schip = s.chip.glb.chipId ∧ q.seid = e ∧ q.seq = tget 0 (s.chip.endp e).seq 1 ∧ q.crc = packetCrc q) ∧
    (isEdgeEid e = true →
      (256 ≤ (s.chip.endp e).quiet →
        ∃ t, exec (.vc1LevelDown e) s = .next t ∧ keepsBut (fun c => { c with fab := s.chip.fab }) s t ∧
          t.chip.endp e =
            { s.chip.endp e with
              level := if (s.chip.endp e).level = 0 then 0 else (s.chip.endp e).level - 1, quiet := 0 }) ∧
      ((s.chip.endp e).quiet < 256 → exec (.vc1LevelDown e) s = .next s)) ∧
    (let x := tget RspSlot.init (s.chip.endp e).slots slot.toNat
     isEid e = true → s.chip.unassigned e = false →
      (s.chip.slotExpired x = false → exec (.rspTimeout e slot) s = .next s) ∧
      (s.chip.slotExpired x = true → x.use = .other →
        ∃ t, exec (.rspTimeout e slot) s = .next t ∧ keepsBut (faultParts s.chip) s t ∧ t.chip.fab.rspTimeout = true ∧
          tget RspSlot.init (t.chip.endp e).slots slot.toNat = ⟨false, x.inc + 1, none, 0, .other⟩))

/-- R167, R168, R259, R275, R279, R345, R367, R432, R451, R483, R587, R601 (06_stitch and the blocks' chapters): what a packet does
where it arrives: writes and reads at a tile (whose buffer of 8 takes no more when it is full, log 65), window words, descriptors, scores, notices, responses, commands; and an
EID that Table 1 leaves unassigned is no endpoint (log 1). -/
def Obligations.Arrivals : Prop :=
  ∀ (s : State) (e : Eid) (p : Packet) (port : RPort) (n : TileId) (k : BitVec 3) (w : BitVec 4),
    let slot := tget RspSlot.init (s.chip.endp e).slots (tagSlot p.aux).toNat
    (isEid e = false →
      ∀ i ∈ [Instr.dataWr e p port, .dataWrNotify e p port, .readReq e p, .readRsp e p, .cmd e p, .cmdRsp e p],
        exec i s = .fault (.noSuchUnit e)) ∧
    (isEid e = true → s.chip.unassigned e = true →
      ∀ i ∈ [Instr.dataWr e p port, .dataWrNotify e p port, .readReq e p, .readRsp e p, .cmd e p, .cmdRsp e p],
        exec i s = .next s) ∧
    (s.chip.tileOff n = false → p.addr.toNat < 0x080000 → p.addr.toNat % pktLen p = 0 →
      (p.vc ≠ 0 → 8 ≤ (s.chip.tile n).ingress.length →
        exec (.dataWr (tileEid n) p port) s = .next s ∧ exec (.dataWrNotify (tileEid n) p port) s = .next s) ∧
      (p.vc ≠ 0 → (s.chip.tile n).ingress.length < 8 →
        (∃ t, exec (.dataWr (tileEid n) p port) s = .next t ∧ onlyTile n s t ∧
          t.chip.tile n =
            { s.chip.tile n with
              ingress := (s.chip.tile n).ingress ++ [⟨p.addr.setWidth 19, pktLen p, p.payload, none⟩] }) ∧
        (∃ t, exec (.dataWrNotify (tileEid n) p port) s = .next t ∧ onlyTile n s t ∧
          t.chip.tile n =
            { s.chip.tile n with
              ingress := (s.chip.tile n).ingress ++ [⟨p.addr.setWidth 19, pktLen p, p.payload, some p⟩] })) ∧
      (∃ t, exec (.readReq (tileEid n) p) s = .next t ∧ onlyTile n s t ∧
        t.chip.tile n = { s.chip.tile n with reads := (s.chip.tile n).reads ++ [p] })) ∧
    (isEid e = true → s.chip.unassigned e = false → Chip.addrAligned p = true → slot.busy = false ∨ slot.inc ≠ tagInc p.aux →
      ∀ i ∈ [Instr.readRsp e p, .cmdRsp e p],
        ∃ t, exec i s = .next t ∧ keepsBut (fun c => { c with fab := s.chip.fab }) s t ∧
          t.chip.fab = { s.chip.fab with lateRsp := satInc s.chip.fab.lateRsp }) ∧
    (isEid e = true → s.chip.unassigned e = false → Chip.addrAligned p = true → slot.busy = true → slot.inc = tagInc p.aux → slot.use = .other →
      ∀ i ∈ [Instr.readRsp e p, .cmdRsp e p],
        ∃ t, exec i s = .next t ∧ keepsBut (fun c => { c with fab := s.chip.fab }) s t ∧
          tget RspSlot.init (t.chip.endp e).slots (tagSlot p.aux).toNat = ⟨false, slot.inc, none, 0, .other⟩) ∧
    (s.chip.satchel = false → p.len = 3 → p.addr = 0 →
      ∃ t, exec (.cmd eidCmd p) s = .next t ∧ onlyHif s t ∧
        t.chip.hif =
          { s.chip.hif with
            waiting := s.chip.hif.waiting ++ [(.umaed p.schip p.seid p.aux, p.payload.setWidth 512)] }) ∧
    (s.chip.isHere p.schip = true →
      ∃ t, exec (.memWinWrite k p) s = .next t ∧ onlyChan k s t ∧
        { t.chip.chan k with win := (s.chip.chan k).win } = s.chip.chan k ∧
        ∀ j, tget 0 (t.chip.chan k).win j = if j = p.seid.toNat then p.payload.extractLsb' 0 9 else tget 0 (s.chip.chan k).win j) ∧
    (s.chip.clusterOn w = true → p.vc = 1 → p.len = 3 → p.addr = 0 →
      ∃ t, exec (.tmeDescriptorPacket w p) s = .next t ∧ onlyTme w s t ∧
        t.chip.tme w = { s.chip.tme w with half := some p.payload }) ∧
    (s.chip.clusterOn w = false → exec (.tmeDescriptorPacket w p) s = .next s) ∧
    (∀ lo, s.chip.clusterOn w = true → p.vc = 1 → p.len = 3 → p.addr = 0x20 → (s.chip.tme w).half = some lo →
      ∃ t q, exec (.tmeDescriptorPacket w p) s = .next t ∧ onlyTme w s t ∧
        t.chip.tme w =
          { s.chip.tme w with half := none, queue := (s.chip.tme w).queue ++ [(q, p.payload ++ lo)] }) ∧
    (∀ (d j : Nat), d < 256 → j < 0x400 → p.vc ≠ 2 → p.type = tDataWr → p.len = 0 → j % 4 = 0 →
      p.addr.toNat = 0x100000 + 0x400 * d + j →
      ((s.chip.kvDesc w d).isOpen = false → exec (.scoreWrite w p) s = .next s) ∧
      ((s.chip.kvDesc w d).isOpen = true → j + 4 ≤ (s.chip.kvDesc w d).pages.length →
        ∃ t, exec (.scoreWrite w p) s = .next t ∧ onlyWalker w s t ∧
          (t.chip.kvDesc w d).pages.length = (s.chip.kvDesc w d).pages.length ∧
          ∀ i, (t.chip.kvDesc w d).pages[i]? =
            if j ≤ i ∧ i < j + 4 then
              ((s.chip.kvDesc w d).pages[i]?).map fun q => { q with score := lineByte p.payload (i - j) }
            else (s.chip.kvDesc w d).pages[i]?)) ∧
    (∀ r, p.vc = 1 → p.len = 1 → (s.chip.ringClasses w).find? (fun r => r.target = p.payload.extractLsb' 0 16) = some r →
      s.chip.heldNotice w (p.payload.extractLsb' 0 16) = none →
      ∃ t, exec (.ringNotice w p) s = .next t ∧
        keepsBut (fun c => { c with kvw := s.chip.kvw, fab := s.chip.fab }) s t ∧
        t.chip.heldNotice w (p.payload.extractLsb' 0 16) = some (p.payload.extractLsb' 16 48) ∧
        ∃ q, (t.chip.endp (eidWalker w)).queue = (s.chip.endp (eidWalker w)).queue ++ [q] ∧ q.addr = 0x200000 ∧
          q.dchip = if p.schip = Kv.prevChip r.body then Kv.nextChip r.body else Kv.prevChip r.body)

/-- R606, R607, R608, R613 (13_host): FASTEN, FASTEN_N, UNFASTEN and SET on one buckle, from a tile or a peer, without a notice; a
reserved operation is counted and logged.
Then: R643, R645, R647, R651 (14_census): a FAULT packet of another chip, aligned (R259), is counted in its class and written as a REMOTE entry, or
merged into an entry of its day with its CODE, SOURCE, UNIT and CHIP; one whose class is none is counted as dropped; with
no room a new one overflows. -/
def Obligations.BuckleAndFault : Prop :=
  (∀ (s : State) (p : Packet), p.addr = 0 →
     let n : BitVec 12 := p.aux.extractLsb' 0 12
     let b := s.chip.buckle n
     let arg := (p.payload.extractLsb' 0 24).toNat
     let gives (i : Instr) (y : Buckle) : Prop :=
       ∃ t, exec i s = .next t ∧ t.chip.buckle n = y ∧ (∀ m, m ≠ n → t.chip.buckle m = s.chip.buckle m) ∧
         keepsBut (fun c => { c with bkl := s.chip.bkl, tiles := s.chip.tiles }) s t
     let fastened (k : Nat) : Buckle :=
       if b.count.toNat + k < 2 ^ 24 then { b with count := BitVec.ofNat 24 (b.count.toNat + k) }
       else { b with count := 0xFFFFFF, sat := true }
     (b.notify = false → s.chip.fromCommand p = false →
       gives (.fasten p) (fastened 1) ∧ gives (.fastenN p) (fastened arg) ∧
       gives (.unfasten p) (if b.count = 0 then { b with under := true } else { b with count := b.count - 1 }) ∧
       gives (.set p) { b with count := BitVec.ofNat 24 arg }) ∧
     (∃ t, exec (.reservedBuckleOp p) s = .next t ∧
       keepsBut (fun c => faultParts s.chip { c with bkl := s.chip.bkl }) s t ∧
       t.chip.bkl = { s.chip.bkl with badOp := satInc s.chip.bkl.badOp } ∧
       tget 0 t.chip.flt.counts 2 = satInc (tget 0 s.chip.flt.counts 2))) ∧
  (∀ (s : State) (p : Packet),
     let x := Chip.remoteEntry p
     let k := Chip.faultClass x.code
     let f := s.chip.flt
     (Chip.addrAligned p = true → (k = 0 ∨ 5 < k) →
       ∃ t, exec (.fault eidFault p) s = .next t ∧ keepsBut (fun c => { c with flt := f }) s t ∧
         t.chip.flt = { f with fwdDrop := satInc f.fwdDrop }) ∧
     (Chip.addrAligned p = true → 1 ≤ k → k ≤ 5 →
       ∃ t, exec (.fault eidFault p) s = .next t ∧ keepsBut (faultParts s.chip) s t ∧
         tget 0 t.chip.flt.counts k = satInc (tget 0 f.counts k) ∧ t.chip.flt.fatal = f.fatal ∧
         (∀ i, s.chip.mergePlace x = some i →
           t.chip.flt.tail = f.tail ∧
           tget FltEntry.init t.chip.flt.log i =
             { tget FltEntry.init f.log i with count := satInc (tget FltEntry.init f.log i).count }) ∧
         (s.chip.mergePlace x = none → s.chip.unacked < 256 →
           t.chip.flt.tail = f.tail + 1 ∧
           tget FltEntry.init t.chip.flt.log (f.tail.toNat % 256) = { x with seq := f.tail }) ∧
         (s.chip.mergePlace x = none → 256 ≤ s.chip.unacked → k ≠ 5 →
           t.chip.flt = { f with counts := tput 0 f.counts k (satInc (tget 0 f.counts k)), overflow := satInc f.overflow })))

/-! ### Umaed -/

/-- R297, R302, R303, R304, R305, R306, R307, R308, R312, R315, R324 (07_umaed): frames. A received codeword that can be corrected is
counted as such if it had wrong symbols, and its frame takes the sender's counts of its VC, counts as lost what did not
come, and outside UP gives the egress queues no credit; one that cannot be corrected counts and logs and takes nothing,
and a link that sends no frames receives none. A DATA frame in UP hands a packet of a right CRC on, and one of a wrong
CRC is dropped and counted; a reserved WIDTH or FTYPE is a bad frame. FRAME_SEND starts IDENT, ECHO_REQ, IDLE_TRAIN or DATA
by the state, each with its control field, scrambled and spread over the active lanes; a day mark goes with the first
DATA frame after its day's last cycle. -/
def Obligations.UmaedFrames : Prop :=
  ∀ (s : State) (n : Fin 6) (f : Frame) (fec : Fec) (body : Ident) (trip : BitVec 16),
    let l := s.chip.link n
    let v := f.fseq.toNat % 4
    let rows := [Instr.dataFrame n f fec, .idleTrain n ⟨f, fec⟩, .ident n body ⟨f, fec⟩, .echoReq (n, ⟨f, fec⟩),
      .echoRsp (n, ⟨f, fec⟩) trip]
    let linkOnly (t : State) : Prop :=
      keepsBut (fun c => { c with uml := { c.uml with links := s.chip.uml.links }, agenda := s.chip.agenda }) s t ∧
        ∀ m, m ≠ n → t.chip.link m = s.chip.link m
    let counts (t : State) : Prop :=
      (t.chip.link n).fecCorr = (if Uml.wrong fec = [] then l.fecCorr else satInc l.fecCorr) ∧
      (t.chip.link n).lost =
        satAdd (satAdd l.lost (f.sentA - tget 0 l.rcvd (2 * v)).toNat) (f.sentB - tget 0 l.rcvd (2 * v + 1)).toNat ∧
      ∀ k, k < 8 →
        tget 0 (t.chip.link n).rcvd k = (if k = 2 * v then f.sentA else if k = 2 * v + 1 then f.sentB else tget 0 l.rcvd k) ∧
        tget 0 (t.chip.link n).retSeen k =
          (if l.state ≠ 5 then tget 0 l.retSeen k
           else if k = 2 * v then f.retA else if k = 2 * v + 1 then f.retB else tget 0 l.retSeen k) ∧
        tget 0 (t.chip.link n).freed k =
          (if k = 2 * v then tget 0 l.freed k + (f.sentA - tget 0 l.rcvd k)
           else if k = 2 * v + 1 then tget 0 l.freed k + (f.sentB - tget 0 l.rcvd k) else tget 0 l.freed k)
    let sends (t : State) (ftype : BitVec 4) (g : Frame) (i : Option Ident) : Prop :=
      let sent := Uml.scramble l.scr (Uml.frameBits ftype g i)
      t.chip.out = s.chip.out ++
        [.umaed n ftype g i (Uml.spread (Uml.activeLanes l.lanesOk l.width) (Uml.codeword sent.1))] ∧
      keepsBut (fun c => { c with uml := { c.uml with links := s.chip.uml.links }, out := s.chip.out }) s t ∧
      (∀ m, m ≠ n → t.chip.link m = s.chip.link m) ∧ (t.chip.link n).scr = sent.2 ∧ (t.chip.link n).fseq = l.fseq + 1 ∧
      g.fseq = l.fseq ∧ g.width = l.width ∧ g.skew = s.chip.uml.skew ∧
      g.sentA = tget 0 (t.chip.link n).sentCum (2 * (l.fseq.toNat % 4)) ∧
      g.sentB = tget 0 (t.chip.link n).sentCum (2 * (l.fseq.toNat % 4) + 1) ∧
      g.retA = tget 0 l.freed (2 * (l.fseq.toNat % 4)) ∧ g.retB = tget 0 l.freed (2 * (l.fseq.toNat % 4) + 1)
    (l.state.toNat < 3 ∨ 5 < l.state.toNat → ∀ i ∈ rows, exec i s = .next s) ∧
    (3 ≤ l.state.toNat → l.state.toNat ≤ 5 → 15 < (Uml.wrong fec).length →
      ∀ i ∈ rows,
        ∃ t, exec i s = .next t ∧
          keepsBut (fun c => faultParts s.chip { c with uml := { c.uml with links := s.chip.uml.links } }) s t ∧
          { t.chip.link n with received := l.received, badFrames := l.badFrames } =
            { l with fecUncorr := satInc l.fecUncorr } ∧
          (∀ m, m ≠ n → t.chip.link m = s.chip.link m) ∧
          tget 0 t.chip.flt.counts 4 = satInc (tget 0 s.chip.flt.counts 4)) ∧
    (3 ≤ l.state.toNat → l.state.toNat ≤ 5 → (Uml.wrong fec).length ≤ 15 →
      (f.width = 3 → ∀ i ∈ rows,
        ∃ t, exec i s = .next t ∧ linkOnly t ∧ (t.chip.link n).badFrame = satInc l.badFrame ∧
          (t.chip.link n).rcvd = l.rcvd) ∧
      (f.width ≠ 3 →
        (∃ t, exec (.idleTrain n ⟨f, fec⟩) s = .next t ∧ linkOnly t ∧ counts t ∧ (t.chip.link n).state = l.state) ∧
        (∃ t, exec (.ident n body ⟨f, fec⟩) s = .next t ∧ linkOnly t ∧ counts t ∧ (t.chip.link n).state = l.state ∧
          (l.state = 3 → (t.chip.link n).peer = body.chip ∧ (t.chip.link n).peerWidths = body.widths ∧
            (t.chip.link n).gotIdent = true) ∧
          (l.state ≠ 3 → (t.chip.link n).peer = l.peer ∧ (t.chip.link n).gotIdent = l.gotIdent)) ∧
        (∃ t, exec (.echoReq (n, ⟨f, fec⟩)) s = .next t ∧ linkOnly t ∧ counts t ∧ (t.chip.link n).state = l.state ∧
          (l.state = 4 → t.chip.agenda = s.chip.agenda ++ [(s.chip.now + 64, .echoRspSend n)])) ∧
        (∃ t, exec (.echoRsp (n, ⟨f, fec⟩) trip) s = .next t ∧ linkOnly t ∧ counts t ∧ (t.chip.link n).state = l.state ∧
          (l.state = 4 → l.echoWait = true → l.echoes < 16 →
            (t.chip.link n).echoes = l.echoes + 1 ∧ (t.chip.link n).echoWait = false ∧
            (t.chip.link n).rounds = trip.toNat - 64 ∧
            (l.echoes = 15 → (s.chip.now + 256 * Uml.period l.width, .alignDone n) ∈ t.chip.agenda)) ∧
          (l.state ≠ 4 ∨ l.echoWait = false → (t.chip.link n).echoes = l.echoes)) ∧
        (∃ t, exec (.dataFrame n f fec) s = .next t ∧ t.pending = s.pending ∧
          tget 0 (t.chip.link n).rcvd (2 * v) = f.sentA ∧ tget 0 (t.chip.link n).rcvd (2 * v + 1) = f.sentB ∧
          (l.state ≠ 5 ∨ (f.packets = [] ∧ f.mark = false) → linkOnly t ∧ counts t ∧ (t.chip.link n).state = l.state) ∧
          (∀ (i : Nat) (p : Packet), l.state = 5 → f.packets = [(i, p)] →
            (p.crc ≠ packetCrc p →
              (t.chip.link n).crcDrop = satInc l.crcDrop ∧
              tget 0 t.chip.flt.counts 4 = satInc (tget 0 s.chip.flt.counts 4)) ∧
            (p.crc = packetCrc p → p.mc = false → s.chip.isHere p.dchip = true →
              (p.vc = 1 → (t.chip.link n).coming = l.coming ++ [⟨p, s.chip.now + i⟩]) ∧
              (p.vc ≠ 1 → (t.chip.endp (eidUmaed n)).outq = (s.chip.endp (eidUmaed n)).outq ++ [⟨p, s.chip.now + i⟩])))))) ∧
    (∃ t, exec (.reservedFrame n) s = .next t ∧ onlyLink n s t ∧ t.chip.link n = { l with badFrame := satInc l.badFrame }) ∧
    (l.state ≠ 4 → exec (.echoRspSend n) s = .next s) ∧
    (l.state = 4 → ∃ t g, exec (.echoRspSend n) s = .next t ∧ sends t 4 g none ∧ g.packets = [] ∧ g.mark = false) ∧
    (s.chip.now < l.nextFrame ∨ l.state.toNat < 3 ∨ 5 < l.state.toNat → exec (.frameSend n) s = .next s) ∧
    (l.nextFrame ≤ s.chip.now →
      (l.state = 3 →
        ∃ t g i, exec (.frameSend n) s = .next t ∧ sends t 2 g (some i) ∧ g.packets = [] ∧ g.mark = false ∧
          i.chip = s.chip.glb.chipId ∧ i.link = n.val ∧ i.widths = s.chip.umlOffer n ∧
          (t.chip.link n).nextFrame = s.chip.now + Uml.period l.width) ∧
      (l.state = 4 → l.echoes < 16 → l.echoWait = false →
        ∃ t g, exec (.frameSend n) s = .next t ∧ sends t 3 g none ∧ g.packets = [] ∧ g.mark = false ∧
          (t.chip.link n).echoWait = true ∧ (t.chip.link n).nextFrame = s.chip.now + Uml.period l.width) ∧
      (l.state = 4 → l.echoes = 16 →
        ∃ t g, exec (.frameSend n) s = .next t ∧ sends t 1 g none ∧ g.packets = [] ∧ g.mark = false ∧
          (t.chip.link n).nextFrame = s.chip.now + Uml.period l.width) ∧
      (l.state = 5 → (∀ q ∈ l.egress, q.pkt.vc ≠ 0) →
        ∃ t g, exec (.frameSend n) s = .next t ∧ sends t 0 g none ∧
          g.packets = ((Chip.fillSlots s.chip.now 13 l).1.zipIdx).map (fun p => (p.2, p.1)) ∧
          (t.chip.link n).egress = (Chip.fillSlots s.chip.now 13 l).2.egress ∧
          (t.chip.link n).nextFrame = s.chip.now + Uml.period l.width ∧
          (l.markDue = none → g.mark = false) ∧
          (∀ k d, l.markDue = some (k, d) →
            (s.chip.now ≤ k → g.mark = false ∧ (t.chip.link n).markDue = l.markDue) ∧
            (k < s.chip.now → g.mark = true ∧ g.markOfs = BitVec.ofNat 7 (s.chip.now - k - 1) ∧ g.markDay = d ∧
              (t.chip.link n).markDue = none))))

/-- R309, R310, R311, R312, R313, R314, R316 (07_umaed): the states of a link: DETECT to ADAPT on enough lanes, ADAPT to IDENT, IDENT
to ALIGN on a common width and the expected peer, else back to DETECT with UMAED_TRAIN logged; ALIGN to UP on a small
delay; a failed lane narrows the link, which no width above it returns to before RETRAIN, or, where no width is left,
brings LINK_DOWN; that enters DOWN and drops and counts what waits.
Then: R325, R326, R329 (07_umaed): a mark that registers on the parent link sets UML_SKEW; on an armed almanac the root's start mark
brings the muster, and day 0 begins on the next cycle; on a stopped almanac that is not armed it changes nothing else. -/
def Obligations.UmaedTraining : Prop :=
  (∀ (s : State) (n : Fin 6) (lanes : BitVec 4) (lane : BitVec 2),
     let l := s.chip.link n
     let trains (t : State) (st : BitVec 3) : Prop :=
       keepsBut (fun c => { c with uml := { c.uml with links := s.chip.uml.links }, agenda := s.chip.agenda }) s t ∧
         (∀ m, m ≠ n → t.chip.link m = s.chip.link m) ∧ (t.chip.link n).state = st
     let fails (t : State) : Prop :=
       keepsBut (fun c => faultParts s.chip { c with uml := { c.uml with links := s.chip.uml.links } }) s t ∧
         (∀ m, m ≠ n → t.chip.link m = s.chip.link m) ∧ (t.chip.link n).state = 1 ∧ (t.chip.link n).cause = l.state ∧
         (t.chip.link n).trainCnt = satInc l.trainCnt ∧ tget 0 t.chip.flt.counts 4 = satInc (tget 0 s.chip.flt.counts 4)
     (l.state = 1 → s.chip.minWidth n ≤ Uml.laneCount lanes →
       ∃ t, exec (.laneSignalDetect n lanes) s = .next t ∧ trains t 2 ∧ (t.chip.link n).lanesOk = lanes ∧
         (s.chip.now + 1250000, .adaptTimeout n) ∈ t.chip.agenda) ∧
     (l.state = 2 → s.chip.minWidth n ≤ Uml.laneCount (l.lanesOk &&& lanes) →
       ∃ t, exec (.adaptDone n lanes) s = .next t ∧ trains t 3 ∧ (t.chip.link n).lanesOk = l.lanesOk &&& lanes ∧
         (t.chip.link n).gotIdent = false) ∧
     (l.state = 2 → ∃ t, exec (.adaptTimeout n) s = .next t ∧ fails t) ∧
     (l.state = 3 →
       (∀ w, Uml.widest (s.chip.umlOffer n &&& l.peerWidths) = some w → l.gotIdent = true → l.peer = s.chip.peerChip n →
         ∃ t, exec (.identEnd n) s = .next t ∧ trains t 4 ∧ (t.chip.link n).width = w ∧ (t.chip.link n).echoes = 0) ∧
       (Uml.widest (s.chip.umlOffer n &&& l.peerWidths) = none ∨ l.gotIdent = false ∨ l.peer ≠ s.chip.peerChip n →
         ∃ t, exec (.identEnd n) s = .next t ∧ fails t)) ∧
     (l.state = 4 → l.echoes = 16 →
       (l.rounds / 2 ≤ 16 →
         ∃ t, exec (.alignDone n) s = .next t ∧ trains t 5 ∧ (t.chip.link n).delay = BitVec.ofNat 32 (l.rounds / 2) ∧
           (t.chip.link n).downed = false) ∧
       (16 < l.rounds / 2 → ∃ t, exec (.alignDone n) s = .next t ∧ fails t)) ∧
     (l.state ≠ 1 → exec (.laneSignalDetect n lanes) s = .next s) ∧
     (l.state ≠ 2 → exec (.adaptDone n lanes) s = .next s ∧ exec (.adaptTimeout n) s = .next s) ∧
     (l.state ≠ 3 → exec (.identEnd n) s = .next s) ∧
     (l.state ≠ 4 → exec (.alignDone n) s = .next s) ∧
     (l.state ≠ 5 →
       exec (.laneFail n lane) s = .next s ∧ exec (.linkDown n) s = .next s) ∧
     (l.state = 5 →
       let left := l.lanesOk &&& ~~~((1 : BitVec 4) <<< lane.toNat)
       let width := Uml.widest (Uml.offered left (s.chip.minWidth n) &&& Uml.noWider l.cap &&& l.peerWidths &&&
         Uml.noWider l.width)
       (l.lanesOk.getLsbD lane.toNat = false → exec (.laneFail n lane) s = .next s) ∧
       (l.lanesOk.getLsbD lane.toNat = true → width = none →
         ∃ t, exec (.laneFail n lane) s = .next t ∧
           keepsBut
             (fun c => { faultParts s.chip { c with uml := { c.uml with links := s.chip.uml.links } } with
               free := s.chip.free }) s t ∧
           t.chip.link n = { l with lanesOk := left, degraded := true } ∧ (s.chip.now, .linkDown n) ∈ t.chip.agenda ∧
           tget 0 t.chip.flt.counts 4 = satInc (tget 0 s.chip.flt.counts 4)) ∧
       (∀ w, l.lanesOk.getLsbD lane.toNat = true → width = some w →
         ∃ t, exec (.laneFail n lane) s = .next t ∧
           keepsBut (fun c => faultParts s.chip { c with uml := { c.uml with links := s.chip.uml.links } }) s t ∧
           (t.chip.link n).state = 4 ∧ (t.chip.link n).width = w ∧ (t.chip.link n).degraded = true ∧
           (t.chip.link n).cap = w ∧ (t.chip.link n).lanesOk = left) ∧
       (Uml.widest (s.chip.umlOffer n &&& l.peerWidths) ≠ none → exec (.linkDown n) s = .next s) ∧
       (Uml.widest (s.chip.umlOffer n &&& l.peerWidths) = none →
         ∃ t, exec (.linkDown n) s = .next t ∧
           keepsBut (fun c => faultParts s.chip { c with uml := { c.uml with links := s.chip.uml.links } }) s t ∧
           (t.chip.link n).state = 6 ∧ (t.chip.link n).downed = true ∧ (t.chip.link n).egress = [] ∧
           (t.chip.link n).downDrop = satAdd l.downDrop l.egress.length))) ∧
  (∀ (s : State) (n : Fin 6) (d skew : BitVec 16),
     let sk : BitVec 16 := skew + BitVec.ofNat 16 (Uml.lag (s.chip.link n).width)
     (s.chip.umlParent n = false → s.chip.alm.running = false → exec (.markRegister n d skew) s = .next s) ∧
     (s.chip.umlParent n = true → s.chip.alm.running = false → s.chip.alm.armed = false →
       ∃ t, exec (.markRegister n d skew) s = .next t ∧ keepsBut (fun c => { c with uml := s.chip.uml }) s t ∧
         t.chip.uml = { s.chip.uml with skew := sk }) ∧
     (s.chip.umlParent n = true → s.chip.alm.armed = true → s.chip.alm.day0At = none → d = 0xFFFF →
       ∃ t, exec (.markRegister n d skew) s = .next t ∧
         keepsBut (fun c => { c with uml := s.chip.uml, alm := s.chip.alm, agenda := s.chip.agenda }) s t ∧
         t.chip.uml.skew = sk ∧ t.chip.link n = { s.chip.link n with markOffset := 0 } ∧
         t.chip.alm = { s.chip.alm with day0At := some (s.chip.now + 1) } ∧
         t.chip.agenda = s.chip.agenda ++ [(s.chip.now + 1, .day0Start)]))

/-! ### LPDDR5X -/

/-- R342, R347, R349, R351, R352, R354, R355, R357, R358 (08_memory): the planned commands of a channel. With no window open: rows
opened with their check area in the bank's buffer and closed, a buffer that a write changed going back at PRE, refresh
debt, MR4, GAPs beside those open, a planned write from the slot's value of four cycles before, and a planned read's
packets; with no row open a write does nothing and a read's data is free (log 23). In an emergency window of the bank's rank
an issue is skipped and counted, and a read's packet is POISON. In a stopped almanac a plan issues nothing. -/
def Obligations.DramPlanned : Prop :=
  ∀ (s : State) (k : BitVec 3) (b : BitVec 5) (row : BitVec 18) (col : BitVec 6) (slot : BitVec 6) (n : TileId) (line : BitVec 14)
    (rank : Bool) (rate : BitVec 3) (mask : Word) (len : BitVec 16) (hot : Bool),
    let x := s.chip.chan k
    let bank (t : State) (j : Nat) : Bank := t.chip.bank k j
    let closed (y : Bank) : Bank := { y with row := none, check := [], dirty := false }
    let place (r : BitVec 18) (c : Nat) : Nat := s.chip.lineAddr k b.toNat r.toNat c
    let q (j : Nat) (l : Line) (flags : BitVec 5) : Packet :=
      packet 0xFFFF tDataWr 0 (tileEid n) 32 (BitVec.ofNat 24 ((line.toNat + j) * 32)) 0 l flags
    (s.chip.alm.running = false →
      ∀ i ∈ [Instr.act k b row, .rd32 k b col n line, .rd64 k b col n line, .wr32 k b col slot, .wr64 k b col slot, .pre k b,
             .prea k rank, .refpb k b, .refab k rank, .mrr4 k rank rate hot, .zqlat k rank, .gap k mask len],
        exec i s = .next s) ∧
    (s.chip.alm.running = true → s.chip.trained k = true → s.chip.inEmergency k (b.toNat / 16) = true →
      (let y : Chan :=
         { x with
           skipCnt := satInc x.skipCnt
           emergSkip := tput 0 x.emergSkip (b.toNat / 16) (tget 0 x.emergSkip (b.toNat / 16) + 1) }
       (∀ i ∈ [Instr.act k b row, .wr32 k b col slot, .wr64 k b col slot, .pre k b, .refpb k b],
         ∃ t, exec i s = .next t ∧ onlyChan k s t ∧ t.chip.chan k = y) ∧
       ∃ t, exec (.rd32 k b col n line) s = .next t ∧
         keepsBut (fun c => { c with chans := s.chip.chans, fab := s.chip.fab }) s t ∧ t.chip.chan k = y ∧
         t.chip.fab = (s.chip.send (eidChannel k) (q 0 0 0b00010) (s.chip.rdLat k)).fab)) ∧
    (s.chip.alm.running = true → s.chip.trained k = true → x.emergUntil = [] → x.dbg = [] →
      (∃ t, exec (.act k b row) s = .next t ∧ onlyChan k s t ∧ { t.chip.chan k with banks := x.banks } = x ∧
        { bank t b.toNat with check := (bank s b.toNat).check } = { bank s b.toNat with row := some row, dirty := false } ∧
        (∀ c, c < 60 → tget Ecc.clean (bank t b.toNat).check c = tget Ecc.clean x.ecc (place row c / 32)) ∧
        ∀ j, j ≠ b.toNat → bank t j = bank s j) ∧
      (∃ t, exec (.pre k b) s = .next t ∧ onlyChan k s t ∧ { t.chip.chan k with banks := x.banks, ecc := x.ecc } = x ∧
        bank t b.toNat = closed (bank s b.toNat) ∧ (∀ j, j ≠ b.toNat → bank t j = bank s j) ∧
        ((bank s b.toNat).dirty = false ∨ (bank s b.toNat).row = none → (t.chip.chan k).ecc = x.ecc) ∧
        (∀ r, (bank s b.toNat).dirty = true → (bank s b.toNat).row = some r →
          (∀ c, c < 60 →
            tget Ecc.clean (t.chip.chan k).ecc (place r c / 32) = tget Ecc.clean (bank s b.toNat).check c) ∧
          (∀ i, (∀ c, c < 60 → i ≠ place r c / 32) →
            tget Ecc.clean (t.chip.chan k).ecc i = tget Ecc.clean x.ecc i))) ∧
      (∃ t, exec (.prea k rank) s = .next t ∧ onlyChan k s t ∧ { t.chip.chan k with banks := x.banks, ecc := x.ecc } = x ∧
        (∀ j, bank t j = if 16 * b1 rank ≤ j ∧ j < 16 * b1 rank + 16 then closed (bank s j) else bank s j) ∧
        ((∀ j ∈ Chip.rankBanks (b1 rank), (bank s j).dirty = false) → (t.chip.chan k).ecc = x.ecc)) ∧
      (∃ t, exec (.refpb k b) s = .next t ∧ onlyChan k s t ∧ { t.chip.chan k with debt := x.debt } = x ∧
        t.chip.debtOf k (b.toNat / 16) = max (-128) (min 128 (s.chip.debtOf k (b.toNat / 16) - 1)) ∧
        ∀ j, j ≠ b.toNat / 16 → t.chip.debtOf k j = s.chip.debtOf k j) ∧
      (∃ t, exec (.refab k rank) s = .next t ∧ onlyChan k s t ∧ { t.chip.chan k with debt := x.debt } = x ∧
        t.chip.debtOf k (b1 rank) = max (-128) (min 128 (s.chip.debtOf k (b1 rank) - 16)) ∧
        ∀ j, j ≠ b1 rank → t.chip.debtOf k j = s.chip.debtOf k j) ∧
      (∃ t, exec (.mrr4 k rank rate false) s = .next t ∧ onlyChan k s t ∧
        t.chip.chan k = { x with derate := if rate.toNat ≤ 1 then 1 else if rate.toNat < 4 then 2 else 4 }) ∧
      (∃ t, exec (.mrr4 k rank rate true) s = .next t ∧
        keepsBut (fun c => faultParts s.chip { c with chans := s.chip.chans }) s t ∧ t.chip.chan k = { x with derate := 4 } ∧
        tget 0 t.chip.flt.counts 1 = satInc (tget 0 s.chip.flt.counts 1)) ∧
      exec (.zqlat k rank) s = .next s ∧
      (∃ t, exec (.gap k mask len) s = .next t ∧ onlyChan k s t ∧ { t.chip.chan k with banks := x.banks } = x ∧
        ∀ j, bank t j =
          if j < 32 ∧ mask.getLsbD j = true then
            { bank s j with gaps := ((bank s j).gaps.filter fun g => s.chip.now < g) ++ [s.chip.now + len.toNat] }
          else bank s j) ∧
      ((bank s b.toNat).row = none →
        exec (.wr32 k b col slot) s = .next s ∧ exec (.wr64 k b col slot) s = .next s ∧
        exec (.rd32 k b col n line) s =
          .next { s with
            chip := ({ s.chip with free := s.chip.free + 1 } : Chip).send (eidChannel k)
              (q 0 (Config.freeBits 256 s.chip.free) 0) (s.chip.rdLat k) }) ∧
      (∀ r, (bank s b.toNat).row = some r →
        (∃ t, exec (.wr32 k b col slot) s = .next t ∧ onlyChan k s t ∧
          { t.chip.chan k with cells := x.cells, banks := x.banks } = x ∧
          (∀ j, j < 32 →
            mget (t.chip.chan k).cells (place r col.toNat + j) = (s.chip.slotBefore k slot.toNat).extractLsb' (8 * j) 8) ∧
          (∀ j, j < place r col.toNat ∨ place r col.toNat + 32 ≤ j → mget (t.chip.chan k).cells j = mget x.cells j) ∧
          { bank t b.toNat with check := (bank s b.toNat).check } = { bank s b.toNat with dirty := true } ∧
          (∀ c, tget Ecc.clean (bank t b.toNat).check c =
            if c = col.toNat then .clean else tget Ecc.clean (bank s b.toNat).check c) ∧
          ∀ j, j ≠ b.toNat → bank t j = bank s j) ∧
        (∃ t u, exec (.wr64 k b col slot) s = .next t ∧ onlyChan k s t ∧ exec (.wr32 k b col slot) s = .next u ∧
          { t.chip.chan k with cells := x.cells, banks := x.banks } = x ∧
          (∀ j, j < 32 →
            mget (t.chip.chan k).cells (place r (col.toNat + 1) + j) =
              (s.chip.slotBefore k (slot.toNat + 1)).extractLsb' (8 * j) 8) ∧
          (∀ j, j < place r (col.toNat + 1) ∨ place r (col.toNat + 1) + 32 ≤ j →
            mget (t.chip.chan k).cells j = mget (u.chip.chan k).cells j)) ∧
        (let got (c : Nat) : Line := mline x.cells (place r c)
         let clean (c : Nat) : Prop := tget Ecc.clean (bank s b.toNat).check c = .clean
         (clean col.toNat →
           exec (.rd32 k b col n line) s =
             .next { s with chip := s.chip.send (eidChannel k) (q 0 (got col.toNat) 0) (s.chip.rdLat k) }) ∧
         (clean col.toNat → clean (col.toNat + 1) →
           exec (.rd64 k b col n line) s =
             .next { s with
               chip := (s.chip.send (eidChannel k) (q 0 (got col.toNat) 0) (s.chip.rdLat k)).send (eidChannel k)
                 (q 1 (got (col.toNat + 1)) 0) (s.chip.rdLat k + 1) }))))

/-- R355, R356, R357, R363, R364, R365, R366, R376, R740 (08_memory): what the controller does on its own: debt accrues per TREFI,
an emergency refresh pays 16 at debt 128, a stopped rank refreshes at debt 16; the arbiter grants the one eligible head
and posts its end; a back-off runs out; a withdrawn read is answered POISON; a finished write is in memory, a finished read of a line without
an error is answered with it. -/
def Obligations.DramUnscheduled : Prop :=
  ∀ (s : State) (k : BitVec 3) (rank : Bool) (cl : BitVec 2) (t0 : Txn) (ts : List Txn),
    let x := s.chip.chan k
    (s.chip.trained k = true → 0 < s.chip.trefi k → x.trefiAt ≤ s.chip.now →
      ∃ t, exec (.refreshAccrual k) s = .next t ∧ onlyChan k s t ∧
        t.chip.debtOf k 0 = max (-128) (min 128 (s.chip.debtOf k 0 + 16 * (s.chip.derateNow k : Int))) ∧
        (t.chip.chan k).trefiAt = s.chip.now + s.chip.trefi k ∧
        { t.chip.chan k with debt := x.debt, trefiAt := x.trefiAt } = x) ∧
    (s.chip.alm.running = true → s.chip.trained k = true → tget 0 x.emergUntil (b1 rank) = 0 → 128 ≤ s.chip.debtOf k (b1 rank) →
      x.inFlight = [] →
      ∃ t, exec (.emergencyRefresh k rank) s = .next t ∧
        keepsBut (fun c => { c with chans := s.chip.chans, agenda := s.chip.agenda }) s t ∧
        t.chip.debtOf k (b1 rank) = max (-128) (min 128 (s.chip.debtOf k (b1 rank) - 16)) ∧
        (t.chip.chan k).emergCnt = satInc x.emergCnt ∧
        tget 0 (t.chip.chan k).emergUntil (b1 rank) = s.chip.now + s.chip.emergLen k ∧
        t.chip.agenda = s.chip.agenda ++ [(s.chip.now + s.chip.emergLen k, .emergencyRefresh k rank)]) ∧
    (s.chip.alm.running = false → s.chip.trained k = true → 16 ≤ s.chip.debtOf k (b1 rank) → s.chip.debtOf k (b1 rank) ≤ 128 →
      s.chip.rankBusy k (b1 rank) = false →
      ∃ t, exec (.stoppedRefresh k rank) s = .next t ∧ onlyChan k s t ∧
        t.chip.debtOf k (b1 rank) = s.chip.debtOf k (b1 rank) - 16 ∧
        ∀ b, b ∈ Chip.rankBanks (b1 rank) → (t.chip.bank k b).row = none) ∧
    (s.chip.arbWinner k = some cl.toNat → (∀ j, j < 4 → j ≠ cl.toNat → s.chip.eligible k j = false) →
      (s.chip.arbClass k cl.toNat).queue = t0 :: ts →
      ∃ t, exec (.arbiterGrant k) s = .next t ∧
        keepsBut (fun c => { c with chans := s.chip.chans, agenda := s.chip.agenda }) s t ∧
        (t.chip.arbClass k cl.toNat).queue = ts ∧
        (t.chip.chan k).inFlight = x.inFlight ++ [(s.chip.now + s.chip.txnLen k, t0)] ∧
        (t.chip.chan k).lastGrant = some s.chip.now ∧
        (t.chip.bank k (s.chip.bankOfAddr k t0.addr)).busyUntil = s.chip.now + s.chip.txnLen k ∧
        t.chip.agenda = s.chip.agenda ++ [(s.chip.now + s.chip.txnLen k, .transactionComplete k)] ∧
        ∀ j, j ≠ cl.toNat → t.chip.arbClass k j = s.chip.arbClass k j) ∧
    (s.chip.arbWinner k = none → exec (.arbiterGrant k) s = .next s) ∧
    ((s.chip.arbClass k cl.toNat).backUntil ≤ s.chip.now →
      ∃ t, exec (.backoffExpiry k cl) s = .next t ∧ onlyChan k s t ∧
        t.chip.arbClass k cl.toNat = { s.chip.arbClass k cl.toNat with backUntil := 0 } ∧
        ∀ j, j ≠ cl.toNat → t.chip.arbClass k j = s.chip.arbClass k j) ∧
    ((s.chip.arbClass k cl.toNat).queue = t0 :: ts → t0.pkt.type = tReadReq →
      ∃ t, exec (.withdraw k cl) s = .next t ∧
        keepsBut (fun c => { c with chans := s.chip.chans, fab := s.chip.fab }) s t ∧
        (t.chip.arbClass k cl.toNat).queue = ts ∧
        t.chip.fab = (s.chip.send (eidChannel k) (poisonResponse t0.pkt)).fab ∧
        (s.chip.arbWinner k = some cl.toNat → (t.chip.chan k).dead = some s.chip.now)) ∧
    (∀ u, x.inFlight = [(u, t0)] → u ≤ s.chip.now → t0.debug = false → t0.pkt.type = tReadReq →
      tget Ecc.clean x.ecc (t0.addr / 32) = .clean →
      (let l := lineOf (((lineBytes (mline x.cells (t0.addr / 32 * 32))).drop (t0.addr % 32)).take (pktLen t0.pkt))
       ∃ t, exec (.transactionComplete k) s = .next t ∧
        keepsBut (fun c => { c with chans := s.chip.chans, fab := s.chip.fab }) s t ∧
        t.chip.chan k = { x with inFlight := [] } ∧ (∀ m, m ≠ k → t.chip.chan m = s.chip.chan m) ∧
        t.chip.fab = (s.chip.send (eidChannel k)
          (response t0.pkt (pktLen t0.pkt) l (t0.pkt.flags &&& 0b00100)) (s.chip.rspExtra k)).fab)) ∧
    (∀ u, x.inFlight = [(u, t0)] → u ≤ s.chip.now → t0.debug = false → t0.pkt.type = tDataWr → t0.pkt.len = 3 →
      ∃ t, exec (.transactionComplete k) s = .next t ∧ onlyChan k s t ∧ (t.chip.chan k).inFlight = [] ∧
        (let a := t0.addr / 32 * 32
         (∀ j, j < 32 → mget (t.chip.chan k).cells (a + j) = t0.pkt.payload.extractLsb' (8 * j) 8) ∧
         (∀ j, j < a ∨ a + 32 ≤ j → mget (t.chip.chan k).cells j = mget x.cells j)))

/-! ### Tensor Move Engines -/

/-- R368, R369, R371, R373, R392, R398, R400, R403 (08_memory, 09_skive): a descriptor starts, checked; it ends with its buckle and
its counters, or, stopped, with its error logged and its error buckle; a block of eight lines is encoded, without a table
raw, and a whole block decoded, each to lines that wait for their cycle, or the decode fails and stops the descriptor. -/
def Obligations.TmeRows : Prop :=
  ∀ (s : State) (k : BitVec 4) (j : TmeJob) (q : BitVec 5) (d : Desc) (rest : List (BitVec 5 × Desc)),
    let x := s.chip.tme k
    (s.chip.clusterOn k = true → x.job = none → x.queue = (q, d) :: rest →
      ∃ t y, exec (.tmeDescriptorStart k) s = .next t ∧ onlyTme k s t ∧
        t.chip.tme k = { x with queue := rest, job := some y } ∧ y.slot = q ∧ y.desc = d ∧ y.issued = 0 ∧
        y.status = s.chip.tmeCheck k d ∧ (y.stopped = true ↔ s.chip.tmeCheck k d ≠ 0)) ∧
    (s.chip.clusterOn k = false ∨ x.job ≠ none ∨ x.queue = [] → exec (.tmeDescriptorStart k) s = .next s) ∧
    (x.job = none → exec (.skiveEncode k) s = .next s ∧ exec (.skiveDecode k) s = .next s) ∧
    (s.chip.tmeFinished k = false → exec (.tmeComplete k) s = .next s) ∧
    (s.chip.tmeFinished k = true → x.job = some j → j.stopped = false →
      (dNum j.desc 2 2 < 2 ^ 15 →
        ∃ t, exec (.tmeComplete k) s = .next t ∧ onlyTme k s t ∧
          t.chip.tme k = { x with job := none, done := satInc x.done }) ∧
      (2 ^ 15 ≤ dNum j.desc 2 2 →
        ∃ t, exec (.tmeComplete k) s = .next t ∧
          keepsBut (fun c => { c with tmes := s.chip.tmes, fab := s.chip.fab }) s t ∧
          t.chip.tme k = { x with job := none, done := satInc x.done } ∧
          t.chip.fab = (s.chip.send (eidTme k)
            (packet 0xFFFF tBuckleOp 3 eidBuckle 4 0 (BitVec.ofNat 16 (dNum j.desc 2 2 % 4096)) 0)).fab)) ∧
    (s.chip.tmeFinished k = true → x.job = some j → j.stopped = true →
      ∃ t, exec (.tmeComplete k) s = .next t ∧ keepsBut (fun c => faultParts s.chip { c with tmes := s.chip.tmes }) s t ∧
        t.chip.tme k = { x with job := none, done := satInc x.done, errSlot := j.slot, errStatus := j.status } ∧
        tget 0 t.chip.flt.counts 2 = satInc (tget 0 s.chip.flt.counts 2) ∧
        (2 ^ 15 ≤ dNum j.desc 36 2 →
          (t.chip.endp (eidTme k)).outq = ((s.chip.send (eidTme k)
            (packet 0xFFFF tBuckleOp 3 eidBuckle 4 0 (BitVec.ofNat 16 (dNum j.desc 36 2 % 4096)) 0)).endp (eidTme k)).outq)) ∧
    (x.job = some j → j.stopped = false → Tmd.enc j.desc = true → j.buf.length = 8 →
      let codes := Chip.blockBytes { j with need := 8 }
      let made : List Byte × Bool :=
        match s.chip.skvBody k (Tmd.tableId j.desc) with
        | some b => Skv.encode (Skv.table b) (Tmd.tableId j.desc) codes
        | none => (Skv.header 256 true (Tmd.tableId j.desc) ++ codes, true)
      ∃ t y, exec (.skiveEncode k) s = .next t ∧ onlyTme k s t ∧ (t.chip.tme k).job = some y ∧ y.block = j.block + 1 ∧
        y.issued = 0 ∧ y.buf = [] ∧ y.outl = j.outl ++ Chip.blockOut j true (s.chip.now + 9) made.1 ∧
        (t.chip.tme k).blkEnc = satInc x.blkEnc ∧
        (t.chip.tme k).blkRaw = (if made.2 then satInc x.blkRaw else x.blkRaw) ∧
        (t.chip.tme k).bytesOut = satAdd x.bytesOut made.1.length) ∧
    (x.job = some j → j.stopped = false → Tmd.dec j.desc = true → j.buf.length = j.need →
      (let bs := Chip.blockBytes j
       let table := (s.chip.skvBody k (Skv.hdrTable (numAt bs 0 2))).map Skv.table
       (∀ qs, Skv.decode table bs = .ok qs →
        ∃ t y, exec (.skiveDecode k) s = .next t ∧ onlyTme k s t ∧ (t.chip.tme k).job = some y ∧ y.block = j.block + 1 ∧
          y.stopped = false ∧ (t.chip.tme k).blkDec = satInc x.blkDec ∧
          y.outl = j.outl ++ Chip.blockOut j false (s.chip.now + 5) qs) ∧
       (∀ e, Skv.decode table bs = .error e →
        ∃ t y, exec (.skiveDecode k) s = .next t ∧ onlyTme k s t ∧ (t.chip.tme k).job = some y ∧ y.stopped = true ∧
          y.status = 4 ∧ y.outl = [] ∧ (t.chip.tme k).errTable = BitVec.ofNat 4 (Skv.hdrTable (numAt bs 0 2)) ∧
          (t.chip.tme k).decErr = satInc x.decErr ∧ (t.chip.tme k).errCause = e)))

/-- R390, R391, R392, R402 (09_skive): decoding the encoded form of any 256 codes gives them back, for every table whose nine codes
are distinct and none of which begins another. -/
def Obligations.SkiveRoundTrip : Prop :=
  ∀ (t : SkvTable) (tid : Nat) (codes : List Byte),
    t.codes.length = 9 → t.zero < 256 → tid < 16 → codes.length = 256 →
    (∀ c ∈ t.codes, 1 ≤ c.1 ∧ c.1 ≤ 6 ∧ c.2 < 2 ^ c.1) →
    (∀ i j, i < 9 → j < 9 → i ≠ j →
      (t.codes.getD i (0, 0)).1 ≤ (t.codes.getD j (0, 0)).1 →
      (t.codes.getD j (0, 0)).2 / 2 ^ ((t.codes.getD j (0, 0)).1 - (t.codes.getD i (0, 0)).1) ≠ (t.codes.getD i (0, 0)).2) →
      Skv.decode (some t) (Skv.encode t tid codes).1 = .ok codes

/-! ### Conversation memory -/

/-- R426, R429, R432, R433, R434, R435, R436, R445, R448, R452, R454 (10_kvcache): a descriptor operation, planned (VC0) or not,
takes effect on its arrival cycle and its result leaves its cost later, from the first engine to free where all four are
busy, which of a planned one is counted and logged. On an open descriptor of a class the new descriptor, its moves and
its events are what the operation gives, then pressure, which a failing operation does not bring; the response shows them.
BAD_DESC on a closed descriptor and BAD_OP change no descriptor, and show it. -/
def Obligations.KvOperations : Prop :=
  ∀ (s : State) (w : BitVec 4) (p : Packet),
    let d := p.payload.extractLsb' 16 16
    let op : Byte := p.payload.extractLsb' 0 8
    let arg0 := (p.payload.extractLsb' 32 32).toNat
    let x := s.chip.kvDesc w d.toNat
    let y := s.chip.walker w
    let busy := (if p.vc = 0 then y.plannedBusy else y.unschedBusy).filter fun u => s.chip.now < u
    let start := if busy.length < 4 then s.chip.now else busy.foldl min (busy.headD s.chip.now)
    let rows (bp : Nat) : List (Instr × Nat) :=
      [(.append w p, 32 + bp), (.evict w p, 24 + bp), (.truncate w p, 32), (.pin w p, 24), (.spill w p, 24),
       (.fetch w p, 24 + bp), (.resolve w p, 24)]
    let answered (t : State) (cost : Nat) (bs : List Byte) : Prop :=
      (t.chip.walker w).ops = satInc y.ops ∧
        (∃ q, (t.chip.walker w).results = y.results ++ [(start + cost, q)] ∧ q = Chip.kvReply p bs ∧ q.dchip = p.schip ∧
          q.deid = p.seid ∧ (p.vc ≠ 0 → q.vc = 2 ∧ q.aux = p.aux) ∧ (p.vc = 0 → q.vc = 0 ∧ q.type = tDataWr)) ∧
        (∀ m, m ≠ w → t.chip.walker m = s.chip.walker m) ∧
        (∀ e, e ≠ d.toNat → t.chip.kvDesc w e = s.chip.kvDesc w e) ∧
        (busy.length < 4 ∨ p.vc ≠ 0 →
          keepsBut (fun c => { c with kvw := s.chip.kvw, agenda := s.chip.agenda }) s t ∧
          (t.chip.walker w).planLate = y.planLate ∧
          t.chip.agenda = s.chip.agenda ++ [(start + cost, .kvResult w)]) ∧
        (4 ≤ busy.length → p.vc = 0 →
          keepsBut (fun c => faultParts s.chip { c with kvw := s.chip.kvw }) s t ∧
          (t.chip.walker w).planLate = satInc y.planLate ∧ (start + cost, .kvResult w) ∈ t.chip.agenda ∧
          tget 0 t.chip.flt.counts 3 = satInc (tget 0 s.chip.flt.counts 3))
    let refused (i : Instr) (cost : Nat) (status : Byte) (bs : List Byte) : Prop :=
      ∃ t, exec i s = .next t ∧ answered t cost bs ∧ bs.getD 0 0 = status ∧ t.chip.kvDesc w d.toNat = x
    (∀ r, s.chip.kvClassOf w d.toNat = some r → x.isOpen = true → d.toNat < 256 →
      let b := r.body
      let gives (i : Instr) (cost : Nat) (o : Kv.KvOut) (bs : Kv.KvOut → List Byte) : Prop :=
        let o' :=
          if flag o.status 7 then o else Kv.pressure b o (s.chip.kvPlaces w) (d.setWidth 8) s.chip.alm.dayCount
        ∃ t, exec i s = .next t ∧ answered t cost (bs o') ∧ t.chip.kvDesc w d.toNat = o'.d ∧
          (flag o.status 7 = true → t.chip.kvDesc w d.toNat = x) ∧
          (t.chip.walker w).moves = y.moves ++ o'.moves ∧
          (t.chip.walker w).events = y.events ++ o'.events.map fun e => ⟨s.chip.lts, d, e.1, e.2⟩
      let table6 (o : Kv.KvOut) : List Byte := Kv.responseBytes op d.toNat o (s.chip.kvMode b x)
      let shown := (List.range 4).map fun i => Kv.shown x.pages[arg0 + i]?
      gives (.append w p) (32 + Kv.bp b) (Kv.append b x arg0) table6 ∧
      gives (.evict w p) (24 + Kv.bp b) (Kv.evict b x) table6 ∧
      gives (.truncate w p) 32 (Kv.truncate b x arg0) table6 ∧
      gives (.pin w p) 24 (Kv.pin b x arg0 (p.payload.getLsbD 64)) table6 ∧
      gives (.spill w p) 24 (Kv.spill b x arg0 (s.chip.kvPlaces w) (d.setWidth 8) s.chip.alm.dayCount) table6 ∧
      gives (.fetch w p) (24 + Kv.bp b) (Kv.fetch b x arg0 (s.chip.kvPlaces w) (d.setWidth 8) s.chip.alm.dayCount) table6 ∧
      gives (.resolve w p) 24 { status := 0, d := x } (fun _ =>
        if p.payload.getLsbD 64 then Kv.descBytes b x
        else (shown.flatMap fun e => leBytes 4 e.1.toNat) ++ shown.flatMap fun e => leBytes 4 e.2.toNat)) ∧
    (∀ r, s.chip.kvClassOf w d.toNat = some r → x.isOpen = false ∨ 256 ≤ d.toNat →
      ∀ ic ∈ rows (Kv.bp r.body),
        refused ic.1 ic.2 0x82 (Kv.responseBytes op d.toNat { status := 0x82, d := x } (s.chip.kvMode r.body x))) ∧
    (s.chip.kvClassOf w d.toNat = none → ∀ ic ∈ rows 0, ∃ bs, refused ic.1 ic.2 0x82 bs) ∧
    (let status : Byte := if s.chip.clusterOn w then 0x81 else 0x82
     (∃ bs, refused (.badOp w p) 24 status bs) ∧
      ∀ r, s.chip.kvClassOf w d.toNat = some r →
        refused (.badOp w p) 24 status (Kv.responseBytes op d.toNat { status := status, d := x } (s.chip.kvMode r.body x)))

/-- R426, R433, R453, R454, R455, R456, R460, R462 (10_kvcache): results leave when their cycle has come; a move starts, and its page
then lies at its new place or, failed, is ABSENT with MOVE_FAIL; a fetch not over on its second day is FETCH_LATE; a
CHIP_RING class with a degraded link is told to both neighbours once a day, with the day of its detection, and one whose
switch day it is falls back from the next day on; none of these rows does anything where its condition does not hold. -/
def Obligations.KvMoves : Prop :=
  ∀ (s : State) (w : BitVec 4) (u : Nat) (q : Packet) (m : Move) (ms : List Move) (k : Nat) (g : Page),
    let x := s.chip.walker w
    let d := m.desc.toNat
    (x.results = [(u, q)] → u ≤ s.chip.now →
      ∃ t, exec (.kvResult w) s = .next t ∧ keepsBut (fun c => { c with kvw := s.chip.kvw, fab := s.chip.fab }) s t ∧
        t.chip.walker w = { x with results := [] } ∧ t.chip.fab = (s.chip.send (eidWalker w) q).fab) ∧
    (x.moves = m :: ms →
      ∃ t, exec (.moveStart w) s = .next t ∧ onlyWalker w s t ∧
        t.chip.walker w = { x with moves := { m with started := true } :: ms }) ∧
    (x.moves = m :: ms → m.started = true → Chip.moveEntry (s.chip.kvDesc w d) m = some k →
      (s.chip.kvDesc w d).pages[k]? = some g →
      (s.chip.kvMoveWritten w = true →
        ∃ t, exec (.moveComplete w) s = .next t ∧
          keepsBut (fun c => { c with kvw := s.chip.kvw, fab := s.chip.fab }) s t ∧
          (t.chip.walker w).moves = ms ∧ (t.chip.walker w).movesDone = satInc x.movesDone ∧
          (t.chip.kvDesc w d).pages[k]? =
            some (if m.toSram then { g with loc := Kv.locSram, frame := BitVec.ofNat 20 m.frame }
              else { g with loc := Kv.locLpddr, frame := g.home.setWidth 20 })) ∧
      (m.failed = true →
        ∃ t, exec (.moveFail w) s = .next t ∧
          keepsBut (fun c => { c with kvw := s.chip.kvw, fab := s.chip.fab }) s t ∧
          (t.chip.walker w).moves = ms ∧
          (t.chip.kvDesc w d).pages[k]? = some { g with loc := Kv.locAbsent, frame := 0xFFFFF } ∧
          ∃ e, (t.chip.walker w).events = x.events ++ [e] ∧ e.event = 6 ∧ e.desc = m.desc.setWidth 16 ∧
            e.lts = s.chip.lts)) ∧
    (x.moves = [] → ∀ i ∈ [Instr.moveComplete w, .moveFail w, .fetchLate w], exec i s = .next s) ∧
    (s.chip.alm.running = true → s.chip.alm.dayEnded = true → x.moves = [m] → m.toSram = true →
      m.day.toNat + 1 = s.chip.alm.dayCount.toNat →
      ∃ t, exec (.fetchLate w) s = .next t ∧ onlyWalker w s t ∧
        ∃ e, t.chip.walker w = { x with events := x.events ++ [e] } ∧ e.event = 5 ∧ e.desc = m.desc.setWidth 16) ∧
    (s.chip.alm.running = false ∨ s.chip.alm.dayEnded = false → exec (.fetchLate w) s = .next s) ∧
    ((∀ r ∈ s.chip.ringClasses w, s.chip.ringDegraded r.body = false) →
      ∃ t, exec (.noticeResend w) s = .next t ∧ onlyWalker w s t ∧ t.chip.walker w = { x with degraded := [] }) ∧
    (∀ r, s.chip.ringClasses w = [r] → s.chip.ringDegraded r.body = true →
      (x.degraded = [] → s.chip.heldNotice w r.target = none →
        ∃ t, exec (.noticeResend w) s = .next t ∧
          keepsBut (fun c => { c with kvw := s.chip.kvw, fab := s.chip.fab }) s t ∧
          (t.chip.walker w).degraded = [(r.target, s.chip.today48, s.chip.today48)] ∧
          t.chip.heldNotice w r.target = some s.chip.today48 ∧
          t.chip.fab = (s.chip.tellRing w r s.chip.today48).fab) ∧
      (∀ d0 d1, x.degraded = [(r.target, d0, d1)] →
        (d1 = s.chip.today48 → ∃ t, exec (.noticeResend w) s = .next t ∧ onlyWalker w s t ∧ t.chip.walker w = x) ∧
        (d1 ≠ s.chip.today48 →
          ∃ t, exec (.noticeResend w) s = .next t ∧
            keepsBut (fun c => { c with kvw := s.chip.kvw, fab := s.chip.fab }) s t ∧
            t.chip.walker w = { x with degraded := [(r.target, d0, s.chip.today48)] } ∧
            t.chip.fab = (s.chip.tellRing w r d0).fab))) ∧
    ((∀ r ∈ s.chip.ringClasses w, s.chip.switchesNow w r = false) → exec (.modeSwitch w) s = .next s) ∧
    (∀ r, s.chip.ringClasses w = [r] → s.chip.switchesNow w r = true →
      ∃ t e, exec (.modeSwitch w) s = .next t ∧
        keepsBut (fun c => { c with kvw := s.chip.kvw, free := s.chip.free }) s t ∧
        (∀ j, j < Kv.descCount r.body →
          (t.chip.kvDesc w (Kv.descFirst r.body + j)).fallFrom = some (s.chip.alm.dayCount + 1)) ∧
        (t.chip.walker w).events = x.events ++ [e] ∧ e.event = 8)

/-! ### Voice -/

/-- R482, R484, R491, R494, R495, R502, R503, R504, R505, R506, R523, R593 (11_voices, 13_host): a session binds and closes on its
days, a held adaptation starts, a descriptor with its PCM is fetched; an input block is delivered on its day, of a stream
with a descriptor that goes back, or, with nothing fetched, silent and counted, of an I2S port with its level; an output
block is taken, silent and counted where its SEQ is not due, and written to the next posted descriptor, or, without one,
dropped. -/
def Obligations.VoiceRows : Prop :=
  ∀ (s : State) (i : BitVec 10) (is : List (BitVec 10)) (k : BitVec 12) (e : List Byte) (g : BitVec 6) (blk : Block) (n : Nat)
    (p : Fin 8),
    let x := s.chip.session i
    let y := s.chip.stream k
    let today : Word := s.chip.alm.dayCount.setWidth 32
    let port := s.chip.audPort p
    (s.chip.alm.running = true → s.chip.alm.cycle = 0 →
      (x.state = 1 → x.bindDay = today → s.chip.sesClass x.cls = none →
        ∃ t, exec (.sessionBind i) s = .next t ∧ keepsBut (fun c => { c with sfe := s.chip.sfe }) s t ∧
          t.chip.session i = { x with state := 2 } ∧ ∀ j, j ≠ i → t.chip.session j = s.chip.session j) ∧
      (∀ b, x.state = 1 → x.bindDay = today → s.chip.sesClass x.cls = some b →
        ∃ t, exec (.sessionBind i) s = .next t ∧
          keepsBut (fun c => { c with sfe := s.chip.sfe, kvw := s.chip.kvw }) s t ∧
          t.chip.session i = { x with state := 2 } ∧
          ∀ q ∈ Chip.sesStreams b i.toNat, (t.chip.stream q).startDay = some s.chip.alm.dayCount ∧
            (t.chip.stream q).drops = (s.chip.stream q).drops) ∧
      (x.state = 3 → x.closeDay = today →
        ∃ t, exec (.sessionCloseDay i) s = .next t ∧
          keepsBut (fun c => { c with sfe := s.chip.sfe, kvw := s.chip.kvw, fab := s.chip.fab }) s t ∧
          t.chip.session i = Session.init ∧ i ∉ t.chip.sfe.holdq)) ∧
    (s.chip.sfe.holdq = i :: is → s.chip.adaptRoom = true →
      ∃ t, exec .heldAdaptStart s = .next t ∧ keepsBut (fun c => { c with sfe := s.chip.sfe }) s t ∧
        t.chip.sfe.holdq = is ∧ t.chip.session i = { x with adapt := true, adaptDay := s.chip.alm.dayCount + 2 }) ∧
    (s.chip.fetchDue k = true → s.chip.streamPlan k = some (e, g) →
      (let d := mread s.chip.hostMem (y.base.toNat + 64 * (y.fetchIx.toNat % 2 ^ y.size.toNat)) 64
       ∃ t f, exec (.streamDescriptorFetch k) s = .next t ∧ keepsBut (fun c => { c with sfe := s.chip.sfe }) s t ∧
        t.chip.stream k = { y with fetchIx := y.fetchIx + 1, ahead := y.ahead ++ [f] } ∧ f.index = y.fetchIx ∧
        (f.ok = true ↔ numAt d 8 2 = Pcm.bytes (numAt e 3 1)) ∧
        (f.ok = true → f.pcm = Pcm.ofBytes (mread s.chip.hostMem (numAt d 0 8) (Pcm.bytes (numAt e 3 1)))))) ∧
    (s.chip.fetchDue k = false → exec (.streamDescriptorFetch k) s = .next s) ∧
    (s.chip.streamPlan k = some (e, g) → Chip.isOutput e = false → s.chip.sinceStart y.startDay = some (s.chip.blockDays 160 * n) →
      s.chip.alm.running = true → s.chip.alm.cycle = numAt e 12 4 → y.ahead = [] →
      ∃ t, exec (.inputBlockDelivery (.stream k)) s = .next t ∧
        keepsBut (fun c => { c with sfe := s.chip.sfe, fab := s.chip.fab }) s t ∧
        t.chip.stream k = { y with missed := satInc y.missed } ∧
        (t.chip.endp (eidSfe (k.toNat / 1024))).outq.length =
          (s.chip.endp (eidSfe (k.toNat / 1024))).outq.length + 7) ∧
    (∀ (f : Fetched) (fs : List Fetched), s.chip.streamPlan k = some (e, g) → Chip.isOutput e = false →
      s.chip.sinceStart y.startDay = some (s.chip.blockDays 160 * n) →
      s.chip.alm.running = true → s.chip.alm.cycle = numAt e 12 4 → y.ahead = f :: fs →
      ∃ t bs, exec (.inputBlockDelivery (.stream k)) s = .next t ∧
        keepsBut (fun c => { c with sfe := s.chip.sfe, fab := s.chip.fab }) s t ∧
        (t.chip.stream k).ahead = fs ∧ (t.chip.stream k).missed = y.missed ∧
        (t.chip.stream k).backs = y.backs ++ [(f.index, bs)] ∧ numAt bs 0 4 = n % 2 ^ 32 ∧
        numAt bs 15 1 = (if f.ok then 0 else 1)) ∧
    (∀ (b : List Byte) (fs : List (Int × Int)) (fl : Byte), s.chip.audCfg p = some (b, g) → Chip.inEn b = true →
      s.chip.sinceStart port.startDay = some (s.chip.blockDays 64 * (n + 1)) → port.whole = some (fs, fl) →
      s.chip.alm.running = true → s.chip.alm.cycle = numAt b 16 4 →
      ∃ t, exec (.inputBlockDelivery (.i2s p)) s = .next t ∧
        keepsBut (fun c => { c with aud := s.chip.aud, fab := s.chip.fab }) s t ∧
        t.chip.audPort p =
          { port with
            whole := none, levelSeq := BitVec.ofNat 16 n
            levelPeak := BitVec.ofNat 16 (Pcm.peak (fs.flatMap fun f => [f.1, f.2])) } ∧
        (s.chip.endp eidAudio).outq.length + 2 ≤ (t.chip.endp eidAudio).outq.length) ∧
    (∀ (b : List Byte), s.chip.audCfg p = some (b, g) → Chip.outEn b = true →
      s.chip.sinceStart port.startDay = some (s.chip.blockDays 64 * n + (s.chip.blockDays 64 - 1)) →
      s.chip.vigilAt 0 = true →
      let due : Bool := decide (numAt (mread s.chip.aud.egress (256 * p.val) 256) 8 4 = n)
      ∃ t k, exec (.outputBlockTake (.i2s p)) s = .next t ∧ onlyAud p s t ∧
        t.chip.audPort p =
          { port with
            taken := some k, underrun := port.underrun || !due
            underCnt := if due then port.underCnt else satInc port.underCnt } ∧ k.n = n) ∧
    (s.chip.streamPlan k = some (e, g) → Chip.isOutput e = true →
      s.chip.sinceStart y.startDay = some (s.chip.blockDays 160 * n + (s.chip.blockDays 160 - 1)) → s.chip.vigilAt 0 = true →
      ∃ t, exec (.outputBlockTake (.stream k)) s = .next t ∧ keepsBut (fun c => { c with sfe := s.chip.sfe }) s t ∧
        (t.chip.stream k).taken.isSome = true ∧
        (numAt (mread s.chip.sfe.egress (256 * k.toNat) 256) 8 4 = n →
          (t.chip.stream k).outUnder = y.outUnder) ∧
        (numAt (mread s.chip.sfe.egress (256 * k.toNat) 256) 8 4 ≠ n →
          (t.chip.stream k).outUnder = satInc y.outUnder)) ∧
    (s.chip.streamPlan k = some (e, g) → y.taken = some blk → s.chip.vigilAt 16 = true → y.prod = y.cons →
      ∃ t, exec (.outputBlockWrite k) s = .next t ∧ keepsBut (fun c => { c with sfe := s.chip.sfe }) s t ∧
        (t.chip.stream k).taken = none ∧ (t.chip.stream k).missed = satInc y.missed ∧
        (t.chip.stream k).drops = satInc y.drops ∧ (t.chip.stream k).cons = y.cons) ∧
    (s.chip.streamPlan k = some (e, g) → y.taken = some blk → s.chip.vigilAt 16 = true → y.prod ≠ y.cons →
      4 ≤ y.size.toNat → y.size.toNat ≤ 12 →
      (let at_ := y.base.toNat + 64 * (y.cons.toNat % 2 ^ y.size.toNat)
       ∃ t bs, exec (.outputBlockWrite k) s = .next t ∧
        keepsBut (fun c => { c with sfe := s.chip.sfe, hostMem := s.chip.hostMem }) s t ∧
        (t.chip.stream k).taken = none ∧ (t.chip.stream k).missed = y.missed ∧ (t.chip.stream k).drops = 0 ∧
        (t.chip.stream k).cons = y.cons + 1 ∧ mread t.chip.hostMem (at_ + 12) 20 = bs ∧
        numAt bs 0 4 = blk.n % 2 ^ 32 ∧ numAt bs 18 2 = y.drops.toNat % 2 ^ 16 ∧
        (numAt (mread s.chip.hostMem at_ 64) 8 2 ≠ Pcm.bytes (numAt e 3 1) →
          ∀ a, a < at_ + 12 ∨ at_ + 32 ≤ a → mget t.chip.hostMem a = mget s.chip.hostMem a)))

/-- R507, R508, R511, R513, R515, R517, R518, R520 (11_voices): an I2S port starts while RUN is set, at once or with the armed
ports at AUD_START_LTS, its FIFOs half full of idle frames (log 37); a frame that comes in reaches the input FIFO 40
cycles on, where a full one drops it and counts, and one leaves the output FIFO, an empty one filling and counting, on
the pins bit by bit; a port whose RUN fell stops at the end of its frame. -/
def Obligations.I2sRows : Prop :=
  ∀ (s : State) (p : Fin 8) (b : List Byte) (g : BitVec 6) (left right : Word),
    let x := s.chip.audPort p
    s.chip.audCfg p = some (b, g) → s.chip.audOn p = true →
      (s.chip.alm.running = true → x.run = true → x.running = false →
        ∃ t, exec (.i2sPortStart p) s = .next t ∧ onlyAud p s t ∧ (t.chip.audPort p).running = true ∧
          (t.chip.audPort p).startDay = some (s.chip.alm.dayCount + 1) ∧ (t.chip.audPort p).fifoIn = List.replicate 16 (0, 0) ∧
          (t.chip.audPort p).fifoOut = List.replicate 16 (0, 0) ∧ (t.chip.audPort p).gain = x.gain) ∧
      (x.run = false → exec (.i2sPortStart p) s = .next s) ∧
      (s.chip.aud.armed = true → s.chip.alm.running = true → s.chip.lts = s.chip.aud.startAt →
        s.chip.aud.latched.getLsbD p.val = true →
        ∃ t, exec .i2sArmedStart s = .next t ∧ keepsBut (fun c => { c with aud := s.chip.aud }) s t ∧
          t.chip.aud.armed = false ∧ (t.chip.audPort p).run = true ∧ (t.chip.audPort p).running = true ∧
          ∀ q, s.chip.aud.latched.getLsbD q.val = false → t.chip.audPort q = s.chip.audPort q) ∧
      (s.chip.aud.armed = false → exec .i2sArmedStart s = .next s) ∧
      (x.running = true → x.run = false →
        ∃ t, exec (.i2sPortStop p) s = .next t ∧ onlyAud p s t ∧ (t.chip.audPort p).running = false ∧
          (t.chip.audPort p).fifoIn = [] ∧ (t.chip.audPort p).fifoOut = [] ∧ (t.chip.audPort p).gain = x.gain) ∧
      (x.running = false → exec (.i2sFrame p left right) s = .next s ∧ exec (.i2sPortStop p) s = .next s) ∧
      (∀ u f, x.coming = [(u, f)] → u ≤ s.chip.now →
        (s.chip.audComing p).audPort p =
          if x.fifoIn.length < 32 then { x with coming := [], fifoIn := x.fifoIn ++ [f] }
          else Chip.gapIn { x with coming := [] }) ∧
      (x.running = true →
        let w := Chip.i2sWidth b
        let f := if Chip.outEn b then x.fifoOut.headD (0, 0) else (0, 0)
        let bits := Chip.frameBits x.div.toNat x.frac.toNat x.phase.toNat x.lastBit (Chip.slotWord w f.1) (Chip.slotWord w f.2)
        let y :=
          { x with
            frames := x.frames + 1, frameAt := s.chip.now, frameLen := s.chip.now - x.frameAt
            coming :=
              if Chip.inEn b then x.coming ++ [(s.chip.now + 40, (Chip.slotSample w left, Chip.slotSample w right))]
              else x.coming }
        let z :=
          if Chip.outEn b then (if x.fifoOut = [] then Chip.gapOut y else { y with fifoOut := x.fifoOut.tail }) else y
        ∃ t, exec (.i2sFrame p left right) s = .next t ∧
          keepsBut (fun c => { c with
            aud := { c.aud with ports := s.chip.aud.ports }, out := s.chip.out, agenda := s.chip.agenda }) s t ∧
          (∀ q, q ≠ p → t.chip.audPort q = s.chip.audPort q) ∧
          t.chip.audPort p =
            { z with
              phase := BitVec.ofNat 24 (x.phase.toNat + 64 * x.frac.toNat)
              lastBit := (Chip.slotWord w f.2).testBit 0 } ∧
          t.chip.out = s.chip.out ++ [.i2s p bits] ∧
          t.chip.agenda = s.chip.agenda ++ (if x.run then [] else [(s.chip.now + 1, .i2sPortStop p)]))

/-! ### Fronthaul -/

/-- R532, R533, R535, R544, R550, R551, R554, R555, R558, R559, R562, R563 (12_fronthaul): a frame is judged, counted, dropped or queued;
control frames and foreign message types are counted; a type 0 message is counted late, early or in its window, where
its section's groups wait for their cycle; a delay request waits for its reply; of the waiting lines one of the earliest
day goes as VC2; a day's open records close INCOMPLETE; an output's copy begins, or, with no posted descriptor, is
dropped, and one that lasts to the next Vigil stops; the link's edges. -/
def Obligations.FronthaulRows : Prop :=
  ∀ (s : State) (q : Fin 2) (f : List Byte) (fcsOk : Bool) (r : Rec) (l : FhLine) (lts : Lts) (at_ : Nat) (k : BitVec 3),
    let x := s.chip.fhPort q
    let counted (t : State) (i : Nat) : Prop :=
      onlyFh q s t ∧ { t.chip.fhPort q with counters := x.counters, fifo := x.fifo } = x ∧
        tget 0 (t.chip.fhPort q).counters i = satInc (tget 0 x.counters i) ∧
        ∀ j, j ≠ i → tget 0 (t.chip.fhPort q).counters j = tget 0 x.counters j
    let plan : Option Rec :=
      if Fh.etherType f = 0xAEFE ∧ Fh.msgType f = 0 ∧ s.chip.alm.running = true then
        (s.chip.fhRecFor q (s.chip.fhTarget q (Fh.msgPayload f) s.chip.lts)).filter fun r => Fh.enabled r.body
      else s.chip.fhRec q
    (plan = none → exec (.fhFrame q f fcsOk) s = .next s) ∧
    (∀ r, plan = some r →
      (∀ i, Fh.judge r.body f fcsOk = some i → i ≠ 9 → ∃ t, exec (.fhFrame q f fcsOk) s = .next t ∧ counted t i) ∧
      (Fh.judge r.body f fcsOk = some 9 →
        exec (.fhFrame q f fcsOk) s =
          .next { s with chip := { s.chip with agenda := s.chip.agenda ++ [(s.chip.now, .macControl q)] } }) ∧
      (Fh.judge r.body f fcsOk = none → 262144 < (x.fifo.map fun y => y.1.length).sum + f.length →
        ∃ t, exec (.fhFrame q f fcsOk) s = .next t ∧ counted t 8) ∧
      (Fh.judge r.body f fcsOk = none → (x.fifo.map fun y => y.1.length).sum + f.length ≤ 262144 →
        ∃ t, exec (.fhFrame q f fcsOk) s = .next t ∧
          keepsBut (fun c => { c with fhe := { c.fhe with ports := s.chip.fhe.ports }, agenda := s.chip.agenda }) s t ∧
          t.chip.fhPort q = { x with fifo := x.fifo ++ [(f, s.chip.lts, s.chip.now)] } ∧
          t.chip.agenda = s.chip.agenda ++
            [(s.chip.now, if Fh.msgType f = 5 then .delayMeasurementRequest q else .iqData q)])) ∧
    (s.chip.fhRec q = none → ∀ i ∈ [Instr.macControl q, .fhLinkUp q], exec i s = .next s) ∧
    (s.chip.fhRec q = some r →
      (∃ t, exec (.macControl q) s = .next t ∧ counted t 9) ∧
      (x.fifo = [(f, lts, at_)] → Fh.headerOk f = true →
        (Fh.msgType f ≠ 0 → Fh.msgType f ≠ 5 →
          ∃ t, exec (.iqData q) s = .next t ∧ counted t 5 ∧ (t.chip.fhPort q).fifo = []) ∧
        (Fh.msgType f = 0 → s.chip.fhNew q = none → Fh.iqOk (2 ^ Fh.spsLog2 r.body) (Fh.msgPayload f) = false →
          ∃ t, exec (.iqData q) s = .next t ∧ counted t 6 ∧ (t.chip.fhPort q).fifo = []) ∧
        (Fh.msgType f = 5 → Fh.dlyEn r.body = true → lts.extractLsb' 0 22 ≠ 0x3FFFFF → 2 ≤ (Fh.msgPayload f).length →
          Fh.beAt (Fh.msgPayload f) 1 1 = 0 →
          ∃ t y, exec (.delayMeasurementRequest q) s = .next t ∧
            keepsBut (fun c => { c with fhe := { c.fhe with ports := s.chip.fhe.ports }, agenda := s.chip.agenda }) s t ∧
            (t.chip.fhPort q).replies = x.replies ++ [y] ∧ y.lts = lts ∧ y.measId = (Fh.msgPayload f).getD 0 0 ∧
            tget 0 (t.chip.fhPort q).counters 10 = satInc (tget 0 x.counters 10) ∧ (t.chip.fhPort q).fifo = [] ∧
            t.chip.agenda = s.chip.agenda ++ [(at_ + 2048, .delayMeasurementReply q)]) ∧
        (Fh.msgType f = 5 → Fh.dlyEn r.body = false ∨ lts.extractLsb' 0 22 = 0x3FFFFF ∨ (Fh.msgPayload f).length < 2 ∨
            Fh.beAt (Fh.msgPayload f) 1 1 ≠ 0 →
          ∃ t, exec (.delayMeasurementRequest q) s = .next t ∧ counted t 5 ∧ (t.chip.fhPort q).fifo = []) ∧
        (∀ e, Fh.msgType f = 0 → s.chip.fhNew q = none → Fh.iqOk (2 ^ Fh.spsLog2 r.body) (Fh.msgPayload f) = true →
          lts.extractLsb' 0 22 ≠ 0x3FFFFF → Chip.fhEntry r.body (Fh.msgPayload f) = some e →
          let d : Int := s.chip.fhDay lts
          let t0 := s.chip.fhTarget q (Fh.msgPayload f) lts
          let at0 : Int := (lts.extractLsb' 0 22).toNat
          let secs := Fh.sections (Fh.staticComp r.body) (Fh.msgPayload f).length ((Fh.msgPayload f).drop 8)
          (t0 < d ∨ (t0 = d ∧ (Fh.lateWin r.body : Int) < at0) → ∃ t, exec (.iqData q) s = .next t ∧ counted t 2) ∧
          (d + 2 ≤ t0 ∨ (t0 = d + 1 ∧ at0 - s.chip.alm.dayLen.toNat < -(Fh.earlyWin r.body : Int)) →
            ∃ t, exec (.iqData q) s = .next t ∧ counted t 1) ∧
          ((t0 = d ∧ at0 ≤ (Fh.lateWin r.body : Int)) ∨
              (t0 = d + 1 ∧ -(Fh.earlyWin r.body : Int) ≤ at0 - s.chip.alm.dayLen.toNat ∧
                at0 - s.chip.alm.dayLen.toNat ≤ (Fh.lateWin r.body : Int)) →
            ∃ t, exec (.iqData q) s = .next t ∧
              keepsBut (fun c => { c with fhe := { c.fhe with ports := s.chip.fhe.ports }, agenda := s.chip.agenda }) s t ∧
              tget 0 (t.chip.fhPort q).counters 0 = satInc (tget 0 x.counters 0) ∧ (t.chip.fhPort q).fifo = [] ∧
              (∀ sec, secs = [sec] → sec.values.isSome = true → Fh.placed e sec = true → x.recs = [] →
                (Fh.secGroups e sec).1.length ≠ Fh.groups e →
                (t.chip.fhPort q).lines = x.lines ++
                  Fh.groupLines e (BitVec.ofInt 64 t0).toNat (Fh.symbolId (Fh.msgPayload f)) (at_ + 120)
                    (Fh.secGroups e sec).1)))) ∧
      (∀ y ys, x.replies = y :: ys →
        ∃ t, exec (.delayMeasurementReply q) s = .next t ∧
          keepsBut (fun c => { c with fhe := { c.fhe with ports := s.chip.fhe.ports }, out := s.chip.out }) s t ∧
          t.chip.fhPort q = { x with replies := ys } ∧
          t.chip.out = s.chip.out ++ [.ethernet q
            (Fh.reply r.body y s.chip.fhe.tsS.toNat s.chip.fhe.tsNs.toNat s.chip.alm.dayLen.toNat)]) ∧
      (∃ t, exec (.fhLinkUp q) s = .next t ∧ onlyFh q s t ∧ t.chip.fhPort q = { x with linkUp := true })) ∧
    (s.chip.nextLine q = none → exec (.groupWrite q) s = .next s) ∧
    ((∀ m ∈ x.lines, s.chip.now < m.due) → s.chip.nextLine q = none) ∧
    (s.chip.nextLine q = some l →
      l ∈ x.lines ∧ l.due ≤ s.chip.now ∧ (∀ m ∈ x.lines, m.due ≤ s.chip.now → l.day ≤ m.day) ∧
      ∃ t, exec (.groupWrite q) s = .next t ∧
        keepsBut (fun c => { c with fhe := { c.fhe with ports := s.chip.fhe.ports }, fab := s.chip.fab }) s t ∧
        t.chip.fhPort q = { x with lines := x.lines.erase l } ∧
        t.chip.fab = (s.chip.send (eidFronthaul q)
          (packet 0xFFFF (if l.notify.isSome then tDataWrNotify else tDataWr) 2 (tileEid l.tile) 32
            (BitVec.ofNat 24 (32 * l.line.toNat)) (l.notify.getD 0) l.data)).fab) ∧
    (s.chip.fhRecFor q s.chip.alm.dayCount.toNat = some r →
      (s.chip.alm.running = true → Fh.enabled r.body = true → s.chip.alm.cycle = Fh.lateWin r.body + 1 →
        ∃ t, exec (.recordClose q) s = .next t ∧ onlyFh q s t ∧
          (Fh.entryCount r.body = 0 →
            t.chip.fhPort q =
              { x with recs := x.recs.filter fun y => s.chip.alm.dayCount.toNat < y.day.toNat + 2 }) ∧
          ∀ e ∈ Fh.entries r.body, ∀ sym, sym < 14 →
            (t.chip.symRec q e s.chip.alm.dayCount sym).closed = true ∧
            ((s.chip.symRec q e s.chip.alm.dayCount sym).closed = false →
              (t.chip.symRec q e s.chip.alm.dayCount sym).incomplete = true)) ∧
      (s.chip.alm.running = false ∨ Fh.enabled r.body = false ∨ s.chip.alm.cycle ≠ Fh.lateWin r.body + 1 → exec (.recordClose q) s = .next s)) ∧
    (∀ g o, s.chip.fhOutput k = some (q, g, o) → s.chip.vigilAt 16 = true → (s.chip.fhRing k).prod = (s.chip.fhRing k).cons →
      ∃ t, exec (.fhOutputCopy k) s = .next t ∧ counted t 13) ∧
    (∀ g o, s.chip.fhOutput k = some (q, g, o) → s.chip.vigilAt 16 = true →
      (s.chip.fhRing k).prod ≠ (s.chip.fhRing k).cons → 4 ≤ (s.chip.fhRing k).size.toNat →
      (s.chip.fhRing k).size.toNat ≤ 12 → (s.chip.fhRing k).copying = none →
      Chip.fhPayload o s.chip.alm.dayCount.toNat ≠ [] → numAt (mread s.chip.hostMem (s.chip.fhDescAt k) 12) 8 4 ≠ 0 →
      ∃ t, exec (.fhOutputCopy k) s = .next t ∧ keepsBut (fun c => { c with fhe := s.chip.fhe }) s t ∧
        t.chip.fhRing k =
          { s.chip.fhRing k with
            copying := some ⟨s.chip.alm.dayCount, q, s.chip.alm.gen, s.chip.badOn g s.chip.alm.dayCount,
              s.chip.fhMask q (k.toNat / 2) s.chip.alm.dayCount, Chip.fhPayload o s.chip.alm.dayCount.toNat, 0, 0⟩ }) ∧
    (s.chip.vigilAt 16 = false → exec (.fhOutputCopy k) s = .next s) ∧
    ((s.chip.fhRing k).copying = none ∨ s.chip.vigilAt 0 = false → exec (.fhOutLate k) s = .next s) ∧
    (∀ y, (s.chip.fhRing k).copying = some y → s.chip.vigilAt 0 = true → y.day.toNat < s.chip.alm.dayCount.toNat →
      ∃ t, exec (.fhOutLate k) s = .next t ∧
        keepsBut (fun c => faultParts s.chip { c with fhe := s.chip.fhe }) s t ∧
        t.chip.fhRing k = { s.chip.fhRing k with cons := (s.chip.fhRing k).cons + 1, copying := none } ∧
        tget 0 t.chip.flt.counts 3 = satInc (tget 0 s.chip.flt.counts 3)) ∧
    (x.linkUp = true →
      ∃ t, exec (.fhLinkDown q) s = .next t ∧
        keepsBut (fun c => faultParts s.chip { c with fhe := { c.fhe with ports := s.chip.fhe.ports } }) s t ∧
        t.chip.fhPort q = { x with linkUp := false } ∧ tget 0 t.chip.flt.counts 4 = satInc (tget 0 s.chip.flt.counts 4)) ∧
    (x.linkUp = false → exec (.fhLinkDown q) s = .next s)

/-! ### Census -/

/-- R627, R628, R629, R630, R631, R632, R635, R636, R637, R640 (14_census): a pin edge and an armed slot trigger a latch 16 cycles on; a
latch of this cycle takes its triggers and counts one missed where no bank is free; a complete record becomes VALID and
raises vector 2; a spill takes 2,048 lines and then advances PROD and frees its bank; a broadcast is ignored without
BCAST_EN and dropped when known; the pin is let go. -/
def Obligations.CensusRows : Prop :=
  ∀ (s : State) (a b : BitVec 2) (l : Latch) (p : Packet) (link : Option (Fin 6)),
    let k := s.chip.cns
    let due (x : Latch) (t : State) : Prop :=
      t.chip.cns = { k with pending := [{ x with at_ := s.chip.now + 16 }] } ∧
        t.chip.agenda = s.chip.agenda ++ [(s.chip.now + 16, .censusLatch)] ∧
        keepsBut (fun c => { c with cns := k, agenda := s.chip.agenda }) s t
    (s.chip.ready = true → k.pinEn = true → k.driveUntil ≤ s.chip.now → k.pending = [] → k.made = [] →
      ∃ t, exec .censusPinEdge s = .next t ∧ due ⟨0, 1, 0, 0, 0, none⟩ t) ∧
    (k.pinEn = false → exec .censusPinEdge s = .next s) ∧
    (s.chip.armDue (s.chip.arm a) = none → exec (.censusArmedTrigger a) s = .next s) ∧
    (s.chip.armDue (s.chip.arm a) = some 16 → (s.chip.arm a).state = 1 → k.pending = [] → k.made = [] → k.drive = false →
      ∃ t, exec (.censusArmedTrigger a) s = .next t ∧
        due ⟨0, 3, (s.chip.arm a).target, (s.chip.arm a).origin, 0, none⟩ t) ∧
    ((∀ x ∈ k.pending, s.chip.now < x.at_) → exec .censusLatch s = .next s) ∧
    (k.pending = [l] → l.at_ ≤ s.chip.now → l.answer = none → (∀ c, (s.chip.arm c).state = 0) →
      (s.chip.nextBank = none →
        ∃ t, exec .censusLatch s = .next t ∧ keepsBut (fun c => { c with cns := k }) s t ∧
          t.chip.cns.pending = [] ∧ t.chip.cns.missed = satInc k.missed ∧ t.chip.cns.seq = k.seq ∧
          t.chip.cns.banks = k.banks) ∧
      (s.chip.nextBank = some b →
        ∃ t, exec .censusLatch s = .next t ∧ keepsBut (fun c => { c with cns := k, agenda := s.chip.agenda }) s t ∧
          t.chip.cns.pending = [] ∧ t.chip.cns.missed = k.missed ∧ t.chip.cns.seq = k.seq + 1 ∧ t.chip.cns.last = b ∧
          (t.chip.cnsBank b).full = true ∧ (t.chip.cnsBank b).valid = false ∧
          t.chip.agenda = s.chip.agenda ++ [(s.chip.now + 4096, .censusRecordComplete b)])) ∧
    ((s.chip.cnsBank b).full = true → (s.chip.cnsBank b).valid = false → flag (tget Chip.msixMasked s.chip.hif.msix 2) 96 = true →
      ∃ t, exec (.censusRecordComplete b) s = .next t ∧ keepsBut (fun c => { c with cns := k, hif := s.chip.hif }) s t ∧
        (t.chip.cnsBank b).valid = true ∧ (∀ c, c ≠ b → t.chip.cnsBank c = s.chip.cnsBank c) ∧
        (∀ i, i ≠ 5 → tget 0 (t.chip.cnsBank b).words i = tget 0 (s.chip.cnsBank b).words i) ∧
        t.chip.hif = { s.chip.hif with pba := s.chip.hif.pba ||| 4 }) ∧
    (k.spilling = none → s.chip.spillNext = some b →
      ∃ t, exec (.censusSpill b) s = .next t ∧ keepsBut (fun c => { c with cns := k, fab := s.chip.fab }) s t ∧
        t.chip.cns.spilling = some b ∧ t.chip.cns.spillProd = k.spillProd ∧
        (s.chip.endp eidCensus).queue.length + 2048 ≤ (t.chip.endp eidCensus).queue.length) ∧
    (k.spilling = some b → (s.chip.endp eidCensus).queue = [] →
      ∃ t, exec (.censusSpill b) s = .next t ∧ keepsBut (fun c => { c with cns := k }) s t ∧
        t.chip.cns.spilling = none ∧ t.chip.cns.spillProd = k.spillProd + 1 ∧
        ((s.chip.cnsBank b).valid = true → (t.chip.cnsBank b).full = false ∧ (t.chip.cnsBank b).valid = false)) ∧
    (Chip.addrAligned p = true → k.bcastEn = false → exec (.censusTrig eidCensus p link) s = .next s) ∧
    (Chip.addrAligned p = true → k.bcastEn = true → s.chip.cenKnown (p.payload.extractLsb' 0 64) (p.payload.extractLsb' 64 16) = true →
      ∃ t, exec (.censusTrig eidCensus p link) s = .next t ∧ keepsBut (fun c => { c with cns := k }) s t ∧
        t.chip.cns = { k with dup := satInc k.dup }) ∧
    (Chip.addrAligned p = true → k.bcastEn = true → s.chip.cenKnown (p.payload.extractLsb' 0 64) (p.payload.extractLsb' 64 16) = false →
      s.chip.alm.running = true → 64 ≤ s.chip.cyclesTo (s.chip.localLts (p.payload.extractLsb' 0 64)) →
      p.aux.extractLsb' 0 8 = 0 → (s.chip.arm 0).state = 0 →
      ∃ t, exec (.censusTrig eidCensus p link) s = .next t ∧
        keepsBut (fun c => { c with cns := k, agenda := s.chip.agenda }) s t ∧
        t.chip.arm 0 = ⟨2, p.payload.extractLsb' 0 64, p.payload.extractLsb' 64 16⟩ ∧ t.chip.cns.pending = k.pending) ∧
    (k.driveUntil ≤ s.chip.now → ∃ t, exec .censusTrigRelease s = .next t ∧ onlyOut (.trigPin true) s t) ∧
    (s.chip.now < k.driveUntil → exec .censusTrigRelease s = .next s)

/-! ### Reset, clocks, the queue -/

/-- R591, R670, R671, R672, R673, R674, R675, R678, R686, R687, R688, R689 (15_bringup): the resets and what they keep, the start sequence, the
PLLs and the temperature sensors. -/
def Obligations.ResetRows : Prop :=
  ∀ (s : State) (boot : BitVec 2) (k : BitVec 2) (codes : BitVec 128),
    let g := s.chip.glb
    let part (t : State) : Prop :=
      t.chip.glb.stepping = g.stepping ∧ t.chip.glb.secureBoot = g.secureBoot ∧ t.chip.glb.keyDigest = g.keyDigest ∧
        t.chip.flash = s.chip.flash ∧ t.chip.hostMem = s.chip.hostMem ∧ t.pending = s.pending ∧
        t.chip.alm.running = false ∧ t.chip.alm.armed = false ∧ t.chip.hns.loaded = false ∧ t.chip.hns.sealed = false ∧
        ∀ n, t.chip.tile n = Tile.init
    let idle : Prop := g.holdDdr = true → ∀ kx ∈ s.chip.chans, kx.2.inFlight = []
    let warm (t : State) : Prop :=
      part t ∧ t.chip.glb.epoch = g.epoch ∧ t.chip.glb.uptime = g.uptime ∧
        t.chip.alm.dayCount = s.chip.alm.dayCount ∧ t.chip.cns.seq = s.chip.cns.seq ∧ t.chip.flt.tail = s.chip.flt.tail ∧
        t.chip.flt.fatal = false
    (g.porN = true →
      ∃ t, exec .porNAssert s = .next t ∧ part t ∧ t.chip.glb.phase = .held ∧ t.chip.glb.porN = false ∧
        t.chip.glb.uptime = 0 ∧ t.chip.glb.epoch = 0 ∧ t.chip.glb.cause = 0 ∧ t.chip.flt = Flt.init) ∧
    (g.sysRstN = true → g.phase ≠ .held → idle →
      ∃ t, exec .sysRstNAssert s = .next t ∧ warm t ∧ t.chip.glb.phase = .held ∧ t.chip.glb.sysRstN = false ∧
        t.chip.glb.cause = 1) ∧
    (g.testEn = false → g.phase ≠ .held → idle →
      ∃ t, exec (.testEn true) s = .next t ∧ warm t ∧ t.chip.glb.phase = .held ∧ t.chip.glb.testEn = true) ∧
    (∀ n, g.phase ≠ .held → g.softAt = some n → n ≤ s.chip.now → idle →
      ∃ t, exec .resetSoftBegin s = .next t ∧ warm t ∧ t.chip.glb.phase = .starting ∧
        t.chip.glb.readyAt = s.chip.now + 12500 ∧ t.chip.glb.cause = (if g.softFlr then 3 else 2)) ∧
    (g.porN = false → g.sysRstN = true → g.testEn = false →
      ∃ t, exec (.porNRelease boot) s = .next t ∧ onlyGlb s t ∧
        t.chip.glb = { g with porN := true, bootSel := boot, phase := .starting, readyAt := s.chip.now + 312500 }) ∧
    (g.sysRstN = false → g.porN = true → g.testEn = false →
      ∃ t, exec (.sysRstNRelease boot) s = .next t ∧ onlyGlb s t ∧
        t.chip.glb = { g with sysRstN := true, bootSel := boot, phase := .starting, readyAt := s.chip.now + 312500 }) ∧
    (g.phase = .starting →
      (g.readyAt ≤ s.chip.now →
        ∃ t, exec .ready s = .next t ∧ keepsBut (fun c => { c with glb := g, agenda := s.chip.agenda }) s t ∧
          t.chip.glb = { g with phase := .up } ∧ t.chip.agenda = s.chip.agenda ++ [(s.chip.now, .boot)]) ∧
      (s.chip.now < g.readyAt → exec .ready s = .next s)) ∧
    (g.phase ≠ .held → g.unlocked.getLsbD k.toNat = false →
      ∃ t, exec (.pllUnlock k) s = .next t ∧ keepsBut (fun c => faultParts s.chip { c with glb := g }) s t ∧
        t.chip.glb = { g with unlocked := g.unlocked ||| ((1 : BitVec 4) <<< k.toNat) } ∧ t.chip.flt.fatal = true ∧
        tget 0 t.chip.flt.counts 5 = satInc (tget 0 s.chip.flt.counts 5)) ∧
    (∃ t, exec (.pllRelock k) s = .next t ∧ onlyGlb s t ∧
      t.chip.glb = { g with unlocked := g.unlocked &&& ~~~((1 : BitVec 4) <<< k.toNat) }) ∧
    (g.phase ≠ .held → (∀ n, n < 8 → (codes.extractLsb' (16 * n) 16).toInt < 460) →
      ∃ t, exec (.tempSample codes) s = .next t ∧ onlyGlb s t ∧
        { t.chip.glb with temp := g.temp, thermWarn := g.thermWarn } = g ∧
        (∀ n, n < 8 → tget 0 t.chip.glb.temp n = codes.extractLsb' (16 * n) 16) ∧
        ((∃ n, n < 8 ∧ (4 * g.derateAt.toNat : Int) ≤ (codes.extractLsb' (16 * n) 16).toInt) → t.chip.glb.thermWarn = true) ∧
        ((∀ n, n < 8 → (codes.extractLsb' (16 * n) 16).toInt ≤ (4 * g.derateAt.toNat : Int) - 20) →
          t.chip.glb.thermWarn = false)) ∧
    (g.phase = .held →
      ∀ i ∈ [Instr.resetSoftBegin, .ready, .pllUnlock k, .tempSample codes], exec i s = .next s)

/-- A step takes the command at the front of the queue and runs it with the queue's rest; no command changes that rest; with
none waiting the clock goes on (log 2). -/
def Obligations.StepRunsTheFront : Prop :=
  ∀ (s : State) (i : Instr) (is : List Instr),
    step { s with pending := i :: is } = exec i { s with pending := is } ∧
    (∀ t, exec i s = .next t → t.pending = s.pending) ∧
    (s.chip.glb.porN = false → step { s with pending := [] } = .next { s with pending := [] }) ∧
    (s.chip.glb.porN = true → s.chip.glb.phase = .held →
      step { s with pending := [] } =
        .next ⟨[], { s.chip with
          now := s.chip.now + 1, glb := { s.chip.glb with uptime := s.chip.glb.uptime + 1 } }⟩)

/-- R65, R66, R105, R674, R690, R697 (02_almanac, 15_bringup, 16_regmap): the machine right after reset: nothing waits, the almanac is stopped,
no harness is in force, and the memories the manual clears are clear. Host memory is empty by the model's choice (log 5). -/
def Obligations.AfterReset : Prop :=
  oneAlmanacMode State.reset ∧ State.reset.pending = [] ∧ State.reset.chip.alm.running = false ∧
    State.reset.chip.alm.armed = false ∧ State.reset.chip.hns.loaded = false ∧ State.reset.chip.hns.sealed = false ∧
    State.reset.chip.glb.profile = 3 ∧ State.reset.chip.glb.chipId = 0xFFFF ∧ State.reset.chip.glb.ddrReady = 0 ∧
    State.reset.chip.hostMem = [] ∧ (∀ n a, mget (State.reset.chip.tile n).sram a = 0) ∧
    (∀ n, (State.reset.chip.buckle n).count = 0)

/-- R65, R69, R105 (02_almanac): ALM_STATUS.RUNNING and ALM_STATUS.ARMED are never both set: every step keeps it. -/
def Obligations.AlmanacModeKept : Prop :=
  ∀ s t, oneAlmanacMode s → step s = .next t → oneAlmanacMode t

/-- R150, R151, R690, R699 (03_harness, 15_bringup, 16_regmap): what no command and no cycle changes: the part's stepping, its fuses and its
flash; and once sealed, a chip stays sealed through every row but a reset. -/
def Obligations.PartAndSealKept : Prop :=
  (∀ s t, step s = .next t →
    t.chip.glb.stepping = s.chip.glb.stepping ∧ t.chip.glb.secureBoot = s.chip.glb.secureBoot ∧
      t.chip.glb.debugLock = s.chip.glb.debugLock ∧ t.chip.glb.profileLimit = s.chip.glb.profileLimit ∧
      t.chip.glb.keyDigest = s.chip.glb.keyDigest ∧ t.chip.flash = s.chip.flash) ∧
  (∀ s t, step s = .next t → s.chip.hns.sealed = true → (∀ i, s.pending.head? = some i → isReset i = false) →
    t.chip.hns.sealed = true)
end

