-- ==== Sys2Proof/Laws/Exec.lean ====
section
/-!
SUPPORT. Laws/Exec.lean: exec of each command is the meaning that its arm names.
-/
namespace Sys2Proof.Machine
open Sys2Proof

@[simp] theorem State.run_eq (s : State) (f : Chip → Chip) : s.run f = .next { s with chip := f s.chip } := rfl

@[simp] theorem exec_rcRead (p off size s) : exec (.rcRead p off size) s = execRcRead p off size s := rfl
@[simp] theorem exec_loHalfRead (p off size s) : exec (.loHalfRead p off size) s = execLoHalfRead p off size s := rfl
@[simp] theorem exec_registerWrite (p off size v s) : exec (.registerWrite p off size v) s = execRegisterWrite p off size v s := rfl
@[simp] theorem exec_start (mode stop s) : exec (.start mode stop) s = execStart mode stop s := rfl
@[simp] theorem exec_stop (mode s) : exec (.stop mode) s = execStop mode s := rfl
@[simp] theorem exec_tickSrcWrite (v s) : exec (.tickSrcWrite v) s = execTickSrcWrite v s := rfl
@[simp] theorem exec_spiRetry (s) : exec .spiRetry s = execSpiRetry s := rfl
@[simp] theorem exec_memTmeSubmit (t s) : exec (.memTmeSubmit t) s = execMemTmeSubmit t s := rfl
@[simp] theorem exec_retrain (n enable s) : exec (.retrain n enable) s = execRetrain n enable s := rfl
@[simp] theorem exec_linkEnable (n enable s) : exec (.linkEnable n enable) s = execLinkEnable n enable s := rfl
@[simp] theorem exec_resync (v s) : exec (.resync v) s = execResync v s := rfl
@[simp] theorem exec_hifCmdProdWrite (v s) : exec (.hifCmdProdWrite v) s = execHifCmdProdWrite v s := rfl
@[simp] theorem exec_audRun (p run s) : exec (.audRun p run) s = execAudRun p run s := rfl
@[simp] theorem exec_audArmGo (mask s) : exec (.audArmGo mask) s = execAudArmGo mask s := rfl
@[simp] theorem exec_cnsRelease (mask s) : exec (.cnsRelease mask) s = execCnsRelease mask s := rfl
@[simp] theorem exec_freeze (c v s) : exec (.freeze c v) s = execFreeze c v s := rfl
@[simp] theorem exec_nop (src d s) : exec (.nop src d) s = execNop src d s := rfl
@[simp] theorem exec_reckon (src d s) : exec (.reckon src d) s = execReckon src d s := rfl
@[simp] theorem exec_census (src d s) : exec (.census src d) s = execCensus src d s := rfl
@[simp] theorem exec_harnessLoad (src d s) : exec (.harnessLoad src d) s = execHarnessLoad src d s := rfl
@[simp] theorem exec_harnessRegion (src d s) : exec (.harnessRegion src d) s = execHarnessRegion src d s := rfl
@[simp] theorem exec_harnessRegionCancel (src d s) : exec (.harnessRegionCancel src d) s = execHarnessRegionCancel src d s := rfl
@[simp] theorem exec_harnessSeal (src d s) : exec (.harnessSeal src d) s = execHarnessSeal src d s := rfl
@[simp] theorem exec_sessionOpen (src d s) : exec (.sessionOpen src d) s = execSessionOpen src d s := rfl
@[simp] theorem exec_sessionClose (src d s) : exec (.sessionClose src d) s = execSessionClose src d s := rfl
@[simp] theorem exec_sessionAdapt (src d s) : exec (.sessionAdapt src d) s = execSessionAdapt src d s := rfl
@[simp] theorem exec_buckleSet (src d s) : exec (.buckleSet src d) s = execBuckleSet src d s := rfl
@[simp] theorem exec_buckleFasten (src d s) : exec (.buckleFasten src d) s = execBuckleFasten src d s := rfl
@[simp] theorem exec_settingsWrite (src d s) : exec (.settingsWrite src d) s = execSettingsWrite src d s := rfl
@[simp] theorem exec_streamRingBind (src d s) : exec (.streamRingBind src d) s = execStreamRingBind src d s := rfl
@[simp] theorem exec_faultAck (src d s) : exec (.faultAck src d) s = execFaultAck src d s := rfl
@[simp] theorem exec_epochSet (src d s) : exec (.epochSet src d) s = execEpochSet src d s := rfl
@[simp] theorem exec_resetSoft (src d s) : exec (.resetSoft src d) s = execResetSoft src d s := rfl
@[simp] theorem exec_badOpcode (src d s) : exec (.badOpcode src d) s = execBadOpcode src d s := rfl
@[simp] theorem exec_i3cCommandWrite (bytes s) : exec (.i3cCommandWrite bytes) s = execI3cCommandWrite bytes s := rfl
@[simp] theorem exec_i3cCompletionRead (s) : exec .i3cCompletionRead s = execI3cCompletionRead s := rfl
@[simp] theorem exec_i3cStatusRead (s) : exec .i3cStatusRead s = execI3cStatusRead s := rfl
@[simp] theorem exec_i3cReckoningRead (count s) : exec (.i3cReckoningRead count) s = execI3cReckoningRead count s := rfl
@[simp] theorem exec_i3cDynamicAddress (a s) : exec (.i3cDynamicAddress a) s = execI3cDynamicAddress a s := rfl
@[simp] theorem exec_jtagCmd (d s) : exec (.jtagCmd d) s = execJtagCmd d s := rfl
@[simp] theorem exec_jtagCpl (s) : exec .jtagCpl s = execJtagCpl s := rfl
@[simp] theorem exec_jtagRecord (s) : exec .jtagRecord s = execJtagRecord s := rfl
@[simp] theorem exec_dbgAddr (v s) : exec (.dbgAddr v) s = execDbgAddr v s := rfl
@[simp] theorem exec_dbgData (v s) : exec (.dbgData v) s = execDbgData v s := rfl
@[simp] theorem exec_idcode (s) : exec .idcode s = execIdcode s := rfl
@[simp] theorem exec_extest (s) : exec .extest s = execExtest s := rfl
@[simp] theorem exec_samplePreload (s) : exec .samplePreload s = execSamplePreload s := rfl
@[simp] theorem exec_bypass (code s) : exec (.bypass code) s = execBypass code s := rfl
@[simp] theorem exec_barTlp (t s) : exec (.barTlp t) s = execBarTlp t s := rfl
@[simp] theorem exec_pcieConfigRequest (off write s) : exec (.pcieConfigRequest off write) s = execPcieConfigRequest off write s := rfl
@[simp] theorem exec_dlUp (width speed s) : exec (.dlUp width speed) s = execDlUp width speed s := rfl
@[simp] theorem exec_dlDownTimeout (s) : exec .dlDownTimeout s = execDlDownTimeout s := rfl
@[simp] theorem exec_flr (s) : exec .flr s = execFlr s := rfl
@[simp] theorem exec_sectionStart (t s) : exec (.sectionStart t) s = execSectionStart t s := rfl
@[simp] theorem exec_ctlNop (t s) : exec (.ctlNop t) s = execCtlNop t s := rfl
@[simp] theorem exec_amovi (t d imm s) : exec (.amovi t d imm) s = execAmovi t d imm s := rfl
@[simp] theorem exec_aaddi (t d imm s) : exec (.aaddi t d imm) s = execAaddi t d imm s := rfl
@[simp] theorem exec_aadd (t d a b s) : exec (.aadd t d a b) s = execAadd t d a b s := rfl
@[simp] theorem exec_amovv (t d va lane s) : exec (.amovv t d va lane) s = execAmovv t d va lane s := rfl
@[simp] theorem exec_loopi (t k n len s) : exec (.loopi t k n len) s = execLoopi t k n len s := rfl
@[simp] theorem exec_loopb (t k a b len s) : exec (.loopb t k a b len) s = execLoopb t k a b len s := rfl
@[simp] theorem exec_loopbPlannedEnd (t s) : exec (.loopbPlannedEnd t) s = execLoopbPlannedEnd t s := rfl
@[simp] theorem exec_idle (t n s) : exec (.idle t n) s = execIdle t n s := rfl
@[simp] theorem exec_idleExpiry (t s) : exec (.idleExpiry t) s = execIdleExpiry t s := rfl
@[simp] theorem exec_wait (t buckle a s) : exec (.wait t buckle a) s = execWait t buckle a s := rfl
@[simp] theorem exec_waitResume (t s) : exec (.waitResume t) s = execWaitResume t s := rfl
@[simp] theorem exec_halt (t s) : exec (.halt t) s = execHalt t s := rfl
@[simp] theorem exec_haltv (t s) : exec (.haltv t) s = execHaltv t s := rfl
@[simp] theorem exec_lnop (t s) : exec (.lnop t) s = execLnop t s := rfl
@[simp] theorem exec_ldb (t r a p off s) : exec (.ldb t r a p off) s = execLdb t r a p off s := rfl
@[simp] theorem exec_stb (t r a p off s) : exec (.stb t r a p off) s = execStb t r a p off s := rfl
@[simp] theorem exec_ldw (t r a p off s) : exec (.ldw t r a p off) s = execLdw t r a p off s := rfl
@[simp] theorem exec_stw (t r a p off s) : exec (.stw t r a p off) s = execStw t r a p off s := rfl
@[simp] theorem exec_lde (t a p off s) : exec (.lde t a p off) s = execLde t a p off s := rfl
@[simp] theorem exec_lda (t r a p off s) : exec (.lda t r a p off) s = execLda t r a p off s := rfl
@[simp] theorem exec_ldt (t k a p off s) : exec (.ldt t k a p off) s = execLdt t k a p off s := rfl
@[simp] theorem exec_mnop (t s) : exec (.mnop t) s = execMnop t s := rfl
@[simp] theorem exec_mzp (t imm s) : exec (.mzp t imm) s = execMzp t imm s := rfl
@[simp] theorem exec_mwld (t a p s) : exec (.mwld t a p) s = execMwld t a p s := rfl
@[simp] theorem exec_mswap (t s) : exec (.mswap t) s = execMswap t s := rfl
@[simp] theorem exec_mmac (t a p s) : exec (.mmac t a p) s = execMmac t a p s := rfl
@[simp] theorem exec_mmacg (t a p f s) : exec (.mmacg t a p f) s = execMmacg t a p f s := rfl
@[simp] theorem exec_mout (t vd f s) : exec (.mout t vd f) s = execMout t vd f s := rfl
@[simp] theorem exec_mclr (t s) : exec (.mclr t) s = execMclr t s := rfl
@[simp] theorem exec_vnop (t s) : exec (.vnop t) s = execVnop t s := rfl
@[simp] theorem exec_vadd (t d a b s) : exec (.vadd t d a b) s = execVadd t d a b s := rfl
@[simp] theorem exec_vsub (t d a b s) : exec (.vsub t d a b) s = execVsub t d a b s := rfl
@[simp] theorem exec_vmul (t d a b s) : exec (.vmul t d a b) s = execVmul t d a b s := rfl
@[simp] theorem exec_vshl (t d a imm s) : exec (.vshl t d a imm) s = execVshl t d a imm s := rfl
@[simp] theorem exec_vshr (t d a imm s) : exec (.vshr t d a imm) s = execVshr t d a imm s := rfl
@[simp] theorem exec_vmax (t d a b s) : exec (.vmax t d a b) s = execVmax t d a b s := rfl
@[simp] theorem exec_vmin (t d a b s) : exec (.vmin t d a b) s = execVmin t d a b s := rfl
@[simp] theorem exec_vcmp (t d a b imm s) : exec (.vcmp t d a b imm) s = execVcmp t d a b imm s := rfl
@[simp] theorem exec_vclamp (t d a imm s) : exec (.vclamp t d a imm) s = execVclamp t d a imm s := rfl
@[simp] theorem exec_vmovi (t d imm s) : exec (.vmovi t d imm) s = execVmovi t d imm s := rfl
@[simp] theorem exec_vlut (t d a imm s) : exec (.vlut t d a imm) s = execVlut t d a imm s := rfl
@[simp] theorem exec_vrq (t d a imm s) : exec (.vrq t d a imm) s = execVrq t d a imm s := rfl
@[simp] theorem exec_vstat (t a imm s) : exec (.vstat t a imm) s = execVstat t a imm s := rfl
@[simp] theorem exec_vtopk (t d a imm s) : exec (.vtopk t d a imm) s = execVtopk t d a imm s := rfl
@[simp] theorem exec_fnop (t s) : exec (.fnop t) s = execFnop t s := rfl
@[simp] theorem exec_send (t k a p s) : exec (.send t k a p) s = execSend t k a p s := rfl
@[simp] theorem exec_recv (t a p s) : exec (.recv t a p) s = execRecv t a p s := rfl
@[simp] theorem exec_recvResume (t s) : exec (.recvResume t) s = execRecvResume t s := rfl
@[simp] theorem exec_reservedOpcode (t slot s) : exec (.reservedOpcode t slot) s = execReservedOpcode t slot s := rfl
@[simp] theorem exec_ingressWrite (t s) : exec (.ingressWrite t) s = execIngressWrite t s := rfl
@[simp] theorem exec_unscheduledReadServe (t s) : exec (.unscheduledReadServe t) s = execUnscheduledReadServe t s := rfl
@[simp] theorem exec_day0Start (s) : exec .day0Start s = execDay0Start s := rfl
@[simp] theorem exec_tickIn (src s) : exec (.tickIn src) s = execTickIn src s := rfl
@[simp] theorem exec_dayEndNominal (s) : exec .dayEndNominal s = execDayEndNominal s := rfl
@[simp] theorem exec_dayEndLate (s) : exec .dayEndLate s = execDayEndLate s := rfl
@[simp] theorem exec_holdoverJudgement (s) : exec .holdoverJudgement s = execHoldoverJudgement s := rfl
@[simp] theorem exec_dayStart (s) : exec .dayStart s = execDayStart s := rfl
@[simp] theorem exec_feastStart (s) : exec .feastStart s = execFeastStart s := rfl
@[simp] theorem exec_feastEnd (s) : exec .feastEnd s = execFeastEnd s := rfl
@[simp] theorem exec_vigilStart (s) : exec .vigilStart s = execVigilStart s := rfl
@[simp] theorem exec_outputRelease (s) : exec .outputRelease s = execOutputRelease s := rfl
@[simp] theorem exec_regionApply (s) : exec .regionApply s = execRegionApply s := rfl
@[simp] theorem exec_planLatch (s) : exec .planLatch s = execPlanLatch s := rfl
@[simp] theorem exec_settingsStage (s) : exec .settingsStage s = execSettingsStage s := rfl
@[simp] theorem exec_almanacStopped (s) : exec .almanacStopped s = execAlmanacStopped s := rfl
@[simp] theorem exec_statWindowClose (t s) : exec (.statWindowClose t) s = execStatWindowClose t s := rfl
@[simp] theorem exec_harnessLoadComplete (s) : exec .harnessLoadComplete s = execHarnessLoadComplete s := rfl
@[simp] theorem exec_ddrTraining (fail s) : exec (.ddrTraining fail) s = execDdrTraining fail s := rfl
@[simp] theorem exec_regionVerifyDone (s) : exec .regionVerifyDone s = execRegionVerifyDone s := rfl
@[simp] theorem exec_boot (s) : exec .boot s = execBoot s := rfl
@[simp] theorem exec_packetRoute (r p vc s) : exec (.packetRoute r p vc) s = execPacketRoute r p vc s := rfl
@[simp] theorem exec_vc1Inject (e s) : exec (.vc1Inject e) s = execVc1Inject e s := rfl
@[simp] theorem exec_vc1LevelDown (e s) : exec (.vc1LevelDown e) s = execVc1LevelDown e s := rfl
@[simp] theorem exec_rspTimeout (e slot s) : exec (.rspTimeout e slot) s = execRspTimeout e slot s := rfl
@[simp] theorem exec_dataWr (e p inPort s) : exec (.dataWr e p inPort) s = execDataWr e p inPort s := rfl
@[simp] theorem exec_dataWrNotify (e p inPort s) : exec (.dataWrNotify e p inPort) s = execDataWrNotify e p inPort s := rfl
@[simp] theorem exec_readReq (e p s) : exec (.readReq e p) s = execReadReq e p s := rfl
@[simp] theorem exec_readRsp (e p s) : exec (.readRsp e p) s = execReadRsp e p s := rfl
@[simp] theorem exec_cmd (e p s) : exec (.cmd e p) s = execCmd e p s := rfl
@[simp] theorem exec_cmdRsp (e p s) : exec (.cmdRsp e p) s = execCmdRsp e p s := rfl
@[simp] theorem exec_censusTrig (e p link s) : exec (.censusTrig e p link) s = execCensusTrig e p link s := rfl
@[simp] theorem exec_fault (e p s) : exec (.fault e p) s = execFault e p s := rfl
@[simp] theorem exec_memWinWrite (c p s) : exec (.memWinWrite c p) s = execMemWinWrite c p s := rfl
@[simp] theorem exec_scoreWrite (w p s) : exec (.scoreWrite w p) s = execScoreWrite w p s := rfl
@[simp] theorem exec_ringNotice (w p s) : exec (.ringNotice w p) s = execRingNotice w p s := rfl
@[simp] theorem exec_tmeDescriptorPacket (t p s) : exec (.tmeDescriptorPacket t p) s = execTmeDescriptorPacket t p s := rfl
@[simp] theorem exec_fasten (p s) : exec (.fasten p) s = execFasten p s := rfl
@[simp] theorem exec_fastenN (p s) : exec (.fastenN p) s = execFastenN p s := rfl
@[simp] theorem exec_unfasten (p s) : exec (.unfasten p) s = execUnfasten p s := rfl
@[simp] theorem exec_set (p s) : exec (.set p) s = execSet p s := rfl
@[simp] theorem exec_reservedBuckleOp (p s) : exec (.reservedBuckleOp p) s = execReservedBuckleOp p s := rfl
@[simp] theorem exec_frameSend (n s) : exec (.frameSend n) s = execFrameSend n s := rfl
@[simp] theorem exec_dataFrame (n f fec s) : exec (.dataFrame n f fec) s = execDataFrame n f fec s := rfl
@[simp] theorem exec_idleTrain (n f s) : exec (.idleTrain n f) s = execIdleTrain n f s := rfl
@[simp] theorem exec_ident (n chip widths s) : exec (.ident n chip widths) s = execIdent n chip widths s := rfl
@[simp] theorem exec_echoReq (n s) : exec (.echoReq n) s = execEchoReq n s := rfl
@[simp] theorem exec_echoRspSend (n s) : exec (.echoRspSend n) s = execEchoRspSend n s := rfl
@[simp] theorem exec_echoRsp (n roundTrip s) : exec (.echoRsp n roundTrip) s = execEchoRsp n roundTrip s := rfl
@[simp] theorem exec_reservedFrame (n s) : exec (.reservedFrame n) s = execReservedFrame n s := rfl
@[simp] theorem exec_markRegister (n markDay skew s) : exec (.markRegister n markDay skew) s = execMarkRegister n markDay skew s := rfl
@[simp] theorem exec_laneSignalDetect (n lanes s) : exec (.laneSignalDetect n lanes) s = execLaneSignalDetect n lanes s := rfl
@[simp] theorem exec_adaptDone (n lanes s) : exec (.adaptDone n lanes) s = execAdaptDone n lanes s := rfl
@[simp] theorem exec_adaptTimeout (n s) : exec (.adaptTimeout n) s = execAdaptTimeout n s := rfl
@[simp] theorem exec_identEnd (n s) : exec (.identEnd n) s = execIdentEnd n s := rfl
@[simp] theorem exec_alignDone (n s) : exec (.alignDone n) s = execAlignDone n s := rfl
@[simp] theorem exec_laneFail (n lane s) : exec (.laneFail n lane) s = execLaneFail n lane s := rfl
@[simp] theorem exec_linkDown (n s) : exec (.linkDown n) s = execLinkDown n s := rfl
@[simp] theorem exec_act (c bank row s) : exec (.act c bank row) s = execAct c bank row s := rfl
@[simp] theorem exec_rd32 (c bank col tile line s) : exec (.rd32 c bank col tile line) s = execRd32 c bank col tile line s := rfl
@[simp] theorem exec_rd64 (c bank col tile line s) : exec (.rd64 c bank col tile line) s = execRd64 c bank col tile line s := rfl
@[simp] theorem exec_wr32 (c bank col slot s) : exec (.wr32 c bank col slot) s = execWr32 c bank col slot s := rfl
@[simp] theorem exec_wr64 (c bank col slot s) : exec (.wr64 c bank col slot) s = execWr64 c bank col slot s := rfl
@[simp] theorem exec_pre (c bank s) : exec (.pre c bank) s = execPre c bank s := rfl
@[simp] theorem exec_prea (c rank s) : exec (.prea c rank) s = execPrea c rank s := rfl
@[simp] theorem exec_refpb (c bank s) : exec (.refpb c bank) s = execRefpb c bank s := rfl
@[simp] theorem exec_refab (c rank s) : exec (.refab c rank) s = execRefab c rank s := rfl
@[simp] theorem exec_mrr4 (c rank rate hot s) : exec (.mrr4 c rank rate hot) s = execMrr4 c rank rate hot s := rfl
@[simp] theorem exec_zqlat (c rank s) : exec (.zqlat c rank) s = execZqlat c rank s := rfl
@[simp] theorem exec_gap (c mask len s) : exec (.gap c mask len) s = execGap c mask len s := rfl
@[simp] theorem exec_refreshAccrual (c s) : exec (.refreshAccrual c) s = execRefreshAccrual c s := rfl
@[simp] theorem exec_emergencyRefresh (c rank s) : exec (.emergencyRefresh c rank) s = execEmergencyRefresh c rank s := rfl
@[simp] theorem exec_stoppedRefresh (c rank s) : exec (.stoppedRefresh c rank) s = execStoppedRefresh c rank s := rfl
@[simp] theorem exec_arbiterGrant (c s) : exec (.arbiterGrant c) s = execArbiterGrant c s := rfl
@[simp] theorem exec_backoffExpiry (c k s) : exec (.backoffExpiry c k) s = execBackoffExpiry c k s := rfl
@[simp] theorem exec_withdraw (c k s) : exec (.withdraw c k) s = execWithdraw c k s := rfl
@[simp] theorem exec_transactionComplete (c s) : exec (.transactionComplete c) s = execTransactionComplete c s := rfl
@[simp] theorem exec_tmeDescriptorStart (t s) : exec (.tmeDescriptorStart t) s = execTmeDescriptorStart t s := rfl
@[simp] theorem exec_tmeComplete (t s) : exec (.tmeComplete t) s = execTmeComplete t s := rfl
@[simp] theorem exec_skiveEncode (t s) : exec (.skiveEncode t) s = execSkiveEncode t s := rfl
@[simp] theorem exec_skiveDecode (t s) : exec (.skiveDecode t) s = execSkiveDecode t s := rfl
@[simp] theorem exec_resolve (w p s) : exec (.resolve w p) s = execResolve w p s := rfl
@[simp] theorem exec_append (w p s) : exec (.append w p) s = execAppend w p s := rfl
@[simp] theorem exec_evict (w p s) : exec (.evict w p) s = execEvict w p s := rfl
@[simp] theorem exec_truncate (w p s) : exec (.truncate w p) s = execTruncate w p s := rfl
@[simp] theorem exec_pin (w p s) : exec (.pin w p) s = execPin w p s := rfl
@[simp] theorem exec_spill (w p s) : exec (.spill w p) s = execSpill w p s := rfl
@[simp] theorem exec_fetch (w p s) : exec (.fetch w p) s = execFetch w p s := rfl
@[simp] theorem exec_badOp (w p s) : exec (.badOp w p) s = execBadOp w p s := rfl
@[simp] theorem exec_kvResult (w s) : exec (.kvResult w) s = execKvResult w s := rfl
@[simp] theorem exec_moveStart (w s) : exec (.moveStart w) s = execMoveStart w s := rfl
@[simp] theorem exec_moveComplete (w s) : exec (.moveComplete w) s = execMoveComplete w s := rfl
@[simp] theorem exec_moveFail (w s) : exec (.moveFail w) s = execMoveFail w s := rfl
@[simp] theorem exec_fetchLate (w s) : exec (.fetchLate w) s = execFetchLate w s := rfl
@[simp] theorem exec_noticeResend (w s) : exec (.noticeResend w) s = execNoticeResend w s := rfl
@[simp] theorem exec_modeSwitch (w s) : exec (.modeSwitch w) s = execModeSwitch w s := rfl
@[simp] theorem exec_sessionBind (i s) : exec (.sessionBind i) s = execSessionBind i s := rfl
@[simp] theorem exec_sessionCloseDay (i s) : exec (.sessionCloseDay i) s = execSessionCloseDay i s := rfl
@[simp] theorem exec_heldAdaptStart (s) : exec .heldAdaptStart s = execHeldAdaptStart s := rfl
@[simp] theorem exec_streamDescriptorFetch (k s) : exec (.streamDescriptorFetch k) s = execStreamDescriptorFetch k s := rfl
@[simp] theorem exec_inputBlockDelivery (v s) : exec (.inputBlockDelivery v) s = execInputBlockDelivery v s := rfl
@[simp] theorem exec_outputBlockTake (v s) : exec (.outputBlockTake v) s = execOutputBlockTake v s := rfl
@[simp] theorem exec_outputBlockWrite (k s) : exec (.outputBlockWrite k) s = execOutputBlockWrite k s := rfl
@[simp] theorem exec_i2sFrame (p left right s) : exec (.i2sFrame p left right) s = execI2sFrame p left right s := rfl
@[simp] theorem exec_i2sPortStart (p s) : exec (.i2sPortStart p) s = execI2sPortStart p s := rfl
@[simp] theorem exec_i2sArmedStart (s) : exec .i2sArmedStart s = execI2sArmedStart s := rfl
@[simp] theorem exec_i2sPortStop (p s) : exec (.i2sPortStop p) s = execI2sPortStop p s := rfl
@[simp] theorem exec_fhFrame (q bytes fcsOk s) : exec (.fhFrame q bytes fcsOk) s = execFhFrame q bytes fcsOk s := rfl
@[simp] theorem exec_macControl (q s) : exec (.macControl q) s = execMacControl q s := rfl
@[simp] theorem exec_iqData (q s) : exec (.iqData q) s = execIqData q s := rfl
@[simp] theorem exec_delayMeasurementRequest (q s) : exec (.delayMeasurementRequest q) s = execDelayMeasurementRequest q s := rfl
@[simp] theorem exec_delayMeasurementReply (q s) : exec (.delayMeasurementReply q) s = execDelayMeasurementReply q s := rfl
@[simp] theorem exec_groupWrite (q s) : exec (.groupWrite q) s = execGroupWrite q s := rfl
@[simp] theorem exec_recordClose (q s) : exec (.recordClose q) s = execRecordClose q s := rfl
@[simp] theorem exec_fhOutputCopy (r s) : exec (.fhOutputCopy r) s = execFhOutputCopy r s := rfl
@[simp] theorem exec_fhOutLate (r s) : exec (.fhOutLate r) s = execFhOutLate r s := rfl
@[simp] theorem exec_fhLinkDown (q s) : exec (.fhLinkDown q) s = execFhLinkDown q s := rfl
@[simp] theorem exec_censusPinEdge (s) : exec .censusPinEdge s = execCensusPinEdge s := rfl
@[simp] theorem exec_censusArmedTrigger (a s) : exec (.censusArmedTrigger a) s = execCensusArmedTrigger a s := rfl
@[simp] theorem exec_censusLatch (s) : exec .censusLatch s = execCensusLatch s := rfl
@[simp] theorem exec_censusRecordComplete (b s) : exec (.censusRecordComplete b) s = execCensusRecordComplete b s := rfl
@[simp] theorem exec_censusSpill (b s) : exec (.censusSpill b) s = execCensusSpill b s := rfl
@[simp] theorem exec_porNAssert (s) : exec .porNAssert s = execPorNAssert s := rfl
@[simp] theorem exec_porNRelease (bootSel s) : exec (.porNRelease bootSel) s = execPorNRelease bootSel s := rfl
@[simp] theorem exec_sysRstNAssert (s) : exec .sysRstNAssert s = execSysRstNAssert s := rfl
@[simp] theorem exec_sysRstNRelease (bootSel s) : exec (.sysRstNRelease bootSel) s = execSysRstNRelease bootSel s := rfl
@[simp] theorem exec_resetSoftBegin (s) : exec .resetSoftBegin s = execResetSoftBegin s := rfl
@[simp] theorem exec_ready (s) : exec .ready s = execReady s := rfl
@[simp] theorem exec_testEn (level s) : exec (.testEn level) s = execTestEn level s := rfl
@[simp] theorem exec_pllUnlock (k s) : exec (.pllUnlock k) s = execPllUnlock k s := rfl
@[simp] theorem exec_tempSample (codes s) : exec (.tempSample codes) s = execTempSample codes s := rfl
@[simp] theorem exec_fullLoadFailed (s) : exec .fullLoadFailed s = execFullLoadFailed s := rfl
@[simp] theorem exec_fhLinkUp (q s) : exec (.fhLinkUp q) s = execFhLinkUp q s := rfl
@[simp] theorem exec_pllRelock (k s) : exec (.pllRelock k) s = execPllRelock k s := rfl
@[simp] theorem exec_censusTrigRelease (s) : exec .censusTrigRelease s = execCensusTrigRelease s := rfl

end Sys2Proof.Machine
end

