-- ==== Sys2Proof/Laws/FixedChip.lean ====
section
/-!
SUPPORT. Laws/FixedChip.lean: the part of a chip that only START, STOP, the seal and the resets change, and the shared operations that leave it.
-/
namespace Sys2Proof.Machine
open Sys2Proof

/-! ### The fixed part -/

/-- What a part is sold with. -/
structure PartId where
  stepping : Stepping
  secureBoot : Bool
  debugLock : Bool
  profileLimit : BitVec 2
  keyDigest : BitVec 256

/-- The part that a global block belongs to. -/
def Glb.sold (g : Glb) : PartId := ⟨g.stepping, g.secureBoot, g.debugLock, g.profileLimit, g.keyDigest⟩

/-- What only START, STOP, the seal and the resets change: the part, its flash, RUNNING and ARMED, the seal. -/
structure Fixed where
  sold : PartId
  flash : List Host.Cell
  run : Bool × Bool
  locked : Bool

/-- RUNNING and ARMED. -/
def Alm.run (a : Alm) : Bool × Bool := (a.running, a.armed)
/-- The fixed part of a chip. -/
def Chip.fixed (c : Chip) : Fixed := ⟨c.glb.sold, c.flash, c.alm.run, c.hns.sealed⟩

@[simp] theorem Chip.fixed_mk (part agenda now free glb alm hns tiles fab uml chans tmes kvw sfe aud fhe hif bkl cns
    flt hostMem flash out) :
    (Chip.mk part agenda now free glb alm hns tiles fab uml chans tmes kvw sfe aud fhe hif bkl cns flt hostMem flash
    out).fixed =
      ⟨glb.sold, flash, alm.run, hns.sealed⟩ := rfl

@[simp] theorem Chip.fixed_eq (c : Chip) : Fixed.mk c.glb.sold c.flash c.alm.run c.hns.sealed = c.fixed := rfl

@[simp] theorem Chip.ite_fixed (p : Prop) [Decidable p] (c d : Chip) : (if p then c else d).fixed = if p then c.fixed
    else d.fixed := by
  split <;> rfl

@[simp] theorem Chip.foldl_fixed {α : Type} (f : Chip → α → Chip) (h : ∀ c x, (f c x).fixed = c.fixed) (l : List α)
    (c : Chip) :
    (l.foldl f c).fixed = c.fixed := by
  induction l generalizing c with
  | nil => rfl
  | cons x l ih => simp [ih, h]

@[simp] theorem Chip.onGlb_fixed (c : Chip) (f : Glb → Glb) : (c.onGlb f).fixed = ⟨(f c.glb).sold, c.flash,
    c.alm.run, c.hns.sealed⟩ := rfl
@[simp] theorem Chip.onAlm_fixed (c : Chip) (f : Alm → Alm) : (c.onAlm f).fixed = ⟨c.glb.sold, c.flash, (f
    c.alm).run, c.hns.sealed⟩ := rfl
@[simp] theorem Chip.onHns_fixed (c : Chip) (f : Hns → Hns) : (c.onHns f).fixed = ⟨c.glb.sold, c.flash, c.alm.run, (f
    c.hns).sealed⟩ := rfl
@[simp] theorem Hns.ite_sealed (p : Prop) [Decidable p] (c d : Hns) : (if p then c else d).sealed = if p then
    c.sealed else d.sealed := by
  split <;> rfl
theorem Chip.foldl_fixed_snd {α β : Type} (f : List α × Chip → β → List α × Chip) (h : ∀ c x, (f c x).2.fixed =
    c.2.fixed) (l : List β)
    (c : List α × Chip) : (l.foldl f c).2.fixed = c.2.fixed := by
  induction l generalizing c with
  | nil => rfl
  | cons x l ih => simp [ih, h]
@[simp] theorem Alm.ite_run (p : Prop) [Decidable p] (c d : Alm) : (if p then c else d).run = if p then c.run else
    d.run := by
  split <;> rfl
@[simp] theorem Glb.ite_sold (p : Prop) [Decidable p] (c d : Glb) : (if p then c else d).sold = if p then c.sold else
    d.sold := by
  split <;> rfl
@[simp] theorem Alm.run_mk (running armed holdover inVigil inFeast cfgErr relock offRun startMode dayLen vigilLen
    tickSub tickSrc tickTol yearLen yearPos dayCount early late holdCnt gen genLast tickOffset overCount overTile
    planCur cycle day0At stopReq stopAtVigil16 dayEnded winTicks earlyTicks hdWin hdEarly lastDone hdOpen nextSrc
    nextPlan settings staged invalid genToday) : (Alm.mk running armed holdover inVigil inFeast cfgErr relock offRun
    startMode dayLen vigilLen tickSub tickSrc tickTol yearLen yearPos dayCount early late holdCnt gen genLast
    tickOffset overCount overTile planCur cycle day0At stopReq stopAtVigil16 dayEnded winTicks earlyTicks hdWin
    hdEarly lastDone hdOpen nextSrc nextPlan settings staged invalid genToday).run = (running, armed) := rfl
@[simp] theorem Glb.sold_mk (stepping phase readyAt bootSel bootSelErr thermWarn cause hostAbsent ddrFail ddrReady
    holdDdr profile satCluster satChannel cclkMhz chipId roles secureBoot debugLock profileLimit keyDigest epoch temp
    derateAt tripped unlocked uptime porN sysRstN testEn softAt softFlr) : (Glb.mk stepping phase readyAt bootSel
    bootSelErr thermWarn cause hostAbsent ddrFail ddrReady holdDdr profile satCluster satChannel cclkMhz chipId roles
    secureBoot debugLock profileLimit keyDigest epoch temp derateAt tripped unlocked uptime porN sysRstN testEn
    softAt softFlr).sold = ⟨stepping, secureBoot, debugLock, profileLimit, keyDigest⟩ := rfl
@[simp] theorem Alm.run_eq (a : Alm) : (a.running, a.armed) = a.run := rfl
@[simp] theorem Glb.sold_eq (g : Glb) : PartId.mk g.stepping g.secureBoot g.debugLock g.profileLimit g.keyDigest =
    g.sold := rfl

/-! ### Ops -/

@[simp] theorem Chip.onTile_fixed (c : Chip) (t : TileId) (f : Tile → Tile) : (Chip.onTile c t f).fixed = c.fixed := by
  simp [Chip.onTile]
@[simp] theorem Chip.everyTile_fixed (c : Chip) (f : Tile → Tile) : (Chip.everyTile c f).fixed = c.fixed := by
  simp [Chip.everyTile]
@[simp] theorem Chip.onChan_fixed (c : Chip) (k : BitVec 3) (f : Chan → Chan) : (Chip.onChan c k f).fixed = c.fixed
    := by
  simp [Chip.onChan]
@[simp] theorem Chip.onTme_fixed (c : Chip) (k : BitVec 4) (f : Tme → Tme) : (Chip.onTme c k f).fixed = c.fixed := by
  simp [Chip.onTme]
@[simp] theorem Chip.onWalker_fixed (c : Chip) (k : BitVec 4) (f : Walker → Walker) : (Chip.onWalker c k f).fixed =
    c.fixed := by
  simp [Chip.onWalker]
@[simp] theorem Chip.onRouter_fixed (c : Chip) (r : Eid) (f : Router → Router) : (Chip.onRouter c r f).fixed =
    c.fixed := by
  simp [Chip.onRouter]
@[simp] theorem Chip.onEndp_fixed (c : Chip) (e : Eid) (f : Endp → Endp) : (Chip.onEndp c e f).fixed = c.fixed := by
  simp [Chip.onEndp]
@[simp] theorem Chip.onLink_fixed (c : Chip) (n : Fin 6) (f : Link → Link) : (Chip.onLink c n f).fixed = c.fixed := by
  simp [Chip.onLink]
@[simp] theorem Chip.onStream_fixed (c : Chip) (s : BitVec 12) (f : Stream → Stream) : (Chip.onStream c s f).fixed =
    c.fixed := by
  simp [Chip.onStream]
@[simp] theorem Chip.onSession_fixed (c : Chip) (i : BitVec 10) (f : Session → Session) : (Chip.onSession c i
    f).fixed = c.fixed := by
  simp [Chip.onSession]
@[simp] theorem Chip.onAud_fixed (c : Chip) (p : Fin 8) (f : AudPort → AudPort) : (Chip.onAud c p f).fixed = c.fixed
    := by
  simp [Chip.onAud]
@[simp] theorem Chip.onFh_fixed (c : Chip) (q : Fin 2) (f : FhPort → FhPort) : (Chip.onFh c q f).fixed = c.fixed := by
  simp [Chip.onFh]
@[simp] theorem Chip.onRing_fixed (c : Chip) (r : BitVec 3) (f : FhRing → FhRing) : (Chip.onRing c r f).fixed =
    c.fixed := by
  simp [Chip.onRing]
@[simp] theorem Chip.onBkl_fixed (c : Chip) (f : Bkl → Bkl) : (Chip.onBkl c f).fixed = c.fixed := by
  simp [Chip.onBkl]
@[simp] theorem Chip.onBuckle_fixed (c : Chip) (n : BitVec 12) (f : Buckle → Buckle) : (Chip.onBuckle c n f).fixed =
    c.fixed := by
  simp [Chip.onBuckle]
@[simp] theorem Chip.onRegion_fixed (c : Chip) (r : BitVec 6) (f : Region → Region) : (Chip.onRegion c r f).fixed =
    c.fixed := by
  simp [Chip.onRegion]
@[simp] theorem Chip.onFab_fixed (c : Chip) (f : Fab → Fab) : (Chip.onFab c f).fixed = c.fixed := by
  simp [Chip.onFab]
@[simp] theorem Chip.onHif_fixed (c : Chip) (f : Hif → Hif) : (Chip.onHif c f).fixed = c.fixed := by
  simp [Chip.onHif]
@[simp] theorem Chip.onI3c_fixed (c : Chip) (f : I3c → I3c) : (Chip.onI3c c f).fixed = c.fixed := by
  simp [Chip.onI3c]
@[simp] theorem Chip.onJtag_fixed (c : Chip) (f : Jtag → Jtag) : (Chip.onJtag c f).fixed = c.fixed := by
  simp [Chip.onJtag]
@[simp] theorem Chip.onCns_fixed (c : Chip) (f : Cns → Cns) : (Chip.onCns c f).fixed = c.fixed := by
  simp [Chip.onCns]
@[simp] theorem Chip.onFlt_fixed (c : Chip) (f : Flt → Flt) : (Chip.onFlt c f).fixed = c.fixed := by
  simp [Chip.onFlt]
@[simp] theorem Chip.post_fixed (c : Chip) (n : Nat) (i : Instr) : (Chip.post c n i).fixed = c.fixed := by
  simp [Chip.post]
@[simp] theorem Chip.postAt_fixed (c : Chip) (t : Nat) (i : Instr) : (Chip.postAt c t i).fixed = c.fixed := by
  simp [Chip.postAt]
@[simp] theorem Chip.unpost_fixed (c : Chip) (p : Instr → Bool) : (Chip.unpost c p).fixed = c.fixed := by
  simp [Chip.unpost]
@[simp] theorem Chip.emit_fixed (c : Chip) (o : Out) : (Chip.emit c o).fixed = c.fixed := by
  simp [Chip.emit]
@[simp] theorem Chip.drawBits_fixed (c : Chip) (w : Nat) : (Chip.drawBits c w).2.fixed = c.fixed := by
  simp [Chip.drawBits]
@[simp] theorem Chip.drawBool_fixed (c : Chip) : (Chip.drawBool c).2.fixed = c.fixed := by
  simp [Chip.drawBool]
@[simp] theorem Chip.drawNat_fixed (c : Chip) : (Chip.drawNat c).2.fixed = c.fixed := by
  simp [Chip.drawNat]
@[simp] theorem Chip.stamp_fixed (c : Chip) (e : Eid) (p : Packet) : (Chip.stamp c e p).2.fixed = c.fixed := by
  simp [Chip.stamp]
@[simp] theorem Chip.send_fixed (c : Chip) (e : Eid) (p : Packet) (delay : Nat ) : (Chip.send c e p delay).fixed =
    c.fixed := by
  simp [Chip.send]
@[simp] theorem Chip.sendRequest_fixed (c : Chip) (e : Eid) (p : Packet) (use : SlotUse) : (Chip.sendRequest c e p
    use).fixed = c.fixed := by
  unfold Chip.sendRequest
  split <;> simp
@[simp] theorem Chip.hostWrite_fixed (c : Chip) (a : Nat) (bs : List Byte) : (Chip.hostWrite c a bs).fixed = c.fixed
    := by
  simp [Chip.hostWrite]
@[simp] theorem Chip.vector_fixed (c : Chip) (v : Nat) : (Chip.vector c v).fixed = c.fixed := by
  simp [Chip.vector]
@[simp] theorem Chip.drivePin_fixed (c : Chip) : (Chip.drivePin c).fixed = c.fixed := by
  simp [Chip.drivePin]
@[simp] theorem Chip.trigger_fixed (c : Chip) (l : Latch) (lead : Nat ) : (Chip.trigger c l lead).fixed = c.fixed := by
  simp [Chip.trigger]
@[simp] theorem Chip.newEntry_fixed (c : Chip) (e : FltEntry) : (Chip.newEntry c e).fixed = c.fixed := by
  simp [Chip.newEntry]
@[simp] theorem Chip.takeFault_fixed (c : Chip) (e : FltEntry) : (Chip.takeFault c e).fixed = c.fixed := by
  unfold Chip.takeFault
  dsimp only
  (repeat' split) <;> simp
@[simp] theorem Chip.logFault_fixed (c : Chip) (code : BitVec 16) (source : Eid) (unit : Nat) (detail : Nat) (region
    : Option (BitVec 6) ) : (Chip.logFault c code source unit detail region).fixed = c.fixed := by
  simp [Chip.logFault]
@[simp] theorem Chip.complete_fixed (c : Chip) (src : Src) (tag : Word) (opcode status : Byte) (aux : Byte ) (result
    : BitVec 64 ) : (Chip.complete c src tag opcode status aux result).fixed = c.fixed := by
  unfold Chip.complete
  (repeat' split) <;> simp

end Sys2Proof.Machine
end

