-- ==== Sys2Proof/Laws/FixedTile.lean ====
section
/-!
SUPPORT. Laws/FixedTile.lean: operations of memory, fabric, tiles, settings, almanac and buckles that leave it.
-/
namespace Sys2Proof.Machine
open Sys2Proof

/-! ### Dram -/

@[simp] theorem Chip.eccCorrected_fixed (c : Chip) (k : BitVec 3) (a : Nat) : (Chip.eccCorrected c k a).fixed =
    c.fixed := by
  simp [Chip.eccCorrected]
@[simp] theorem Chip.eccFailed_fixed (c : Chip) (k : BitVec 3) (a : Nat) : (Chip.eccFailed c k a).fixed = c.fixed := by
  simp [Chip.eccFailed]
@[simp] theorem Chip.readChecked_fixed (c : Chip) (k : BitVec 3) (a : Nat) (e : Ecc) : (Chip.readChecked c k a
    e).2.fixed = c.fixed := by
  unfold Chip.readChecked
  dsimp only
  (repeat' split) <;> simp
@[simp] theorem Chip.readLine_fixed (c : Chip) (k : BitVec 3) (a : Nat) : (Chip.readLine c k a).2.fixed = c.fixed := by
  simp [Chip.readLine]
@[simp] theorem Chip.writeLine_fixed (c : Chip) (k : BitVec 3) (a : Nat) (l : Line) : (Chip.writeLine c k a l).fixed
    = c.fixed := by
  simp [Chip.writeLine]
@[simp] theorem Chip.writeBytes_fixed (c : Chip) (k : BitVec 3) (a n : Nat) (l : Line) : (Chip.writeBytes c k a n
    l).fixed = c.fixed := by
  unfold Chip.writeBytes
  dsimp only
  (repeat' split) <;> simp
@[simp] theorem Chip.fillSlot_fixed (c : Chip) (k : BitVec 3) (s : Nat) (l : Line) : (Chip.fillSlot c k s l).fixed =
    c.fixed := by
  simp [Chip.fillSlot]
@[simp] theorem Chip.onBank_fixed (c : Chip) (k : BitVec 3) (b : Nat) (f : Bank → Bank) : (Chip.onBank c k b f).fixed
    = c.fixed := by
  simp [Chip.onBank]
@[simp] theorem Chip.cutGaps_fixed (c : Chip) : (Chip.cutGaps c).fixed = c.fixed := by
  simp [Chip.cutGaps]
@[simp] theorem Chip.addDebt_fixed (c : Chip) (k : BitVec 3) (rank : Nat) (d : Int) : (Chip.addDebt c k rank d).fixed
    = c.fixed := by
  simp [Chip.addDebt]
@[simp] theorem Chip.loadCheck_fixed (c : Chip) (k : BitVec 3) (b : Nat) : (Chip.loadCheck c k b).fixed = c.fixed := by
  unfold Chip.loadCheck
  split <;> simp
@[simp] theorem Chip.storeCheck_fixed (c : Chip) (k : BitVec 3) (b : Nat) : (Chip.storeCheck c k b).fixed = c.fixed
    := by
  unfold Chip.storeCheck
  dsimp only
  (repeat' split) <;> simp
@[simp] theorem Chip.activate_fixed (c : Chip) (k : BitVec 3) (b : Nat) (row : BitVec 18) : (Chip.activate c k b
    row).fixed = c.fixed := by
  simp [Chip.activate]
@[simp] theorem Chip.countSkip_fixed (c : Chip) (k : BitVec 3) (w : SkipBy) : (Chip.countSkip c k w).fixed = c.fixed
    := by
  cases w <;> simp [Chip.countSkip]
@[simp] theorem Chip.abortTxns_fixed (c : Chip) (k : BitVec 3) (p : Nat → Bool) : (Chip.abortTxns c k p).fixed =
    c.fixed := by
  simp [Chip.abortTxns]
@[simp] theorem Chip.abortAll_fixed (c : Chip) : (Chip.abortAll c).fixed = c.fixed := by
  simp [Chip.abortAll]
@[simp] theorem Chip.onClass_fixed (c : Chip) (k : BitVec 3) (cl : Nat) (f : ArbClass → ArbClass) : (Chip.onClass c k
    cl f).fixed = c.fixed := by
  simp [Chip.onClass]
@[simp] theorem Chip.loseRound_fixed (c : Chip) (k : BitVec 3) (cl : Nat) : (Chip.loseRound c k cl).fixed = c.fixed
    := by
  simp [Chip.loseRound]
@[simp] theorem Chip.grantHead_fixed (c : Chip) (k : BitVec 3) (cl : Nat) : (Chip.grantHead c k cl).fixed = c.fixed
    := by
  unfold Chip.grantHead
  split <;> simp
@[simp] theorem Chip.arbRound_fixed (c : Chip) (k : BitVec 3) : (Chip.arbRound c k).fixed = c.fixed := by
  unfold Chip.arbRound
  split <;> simp
@[simp] theorem Chip.enqueueTxn_fixed (c : Chip) (k : BitVec 3) (t : Txn) : (Chip.enqueueTxn c k t).fixed = c.fixed
    := by
  simp [Chip.enqueueTxn]
@[simp] theorem Chip.debugPreempt_fixed (c : Chip) (k : BitVec 3) (t : Txn) : (Chip.debugPreempt c k t).fixed =
    c.fixed := by
  simp [Chip.debugPreempt]

/-! ### Fabric -/

@[simp] theorem Chip.reject_fixed (c : Chip) (e : Eid) (p : Packet) : (Chip.reject c e p).fixed = c.fixed := by
  simp [Chip.reject]
@[simp] theorem Chip.useCredit_fixed (c : Chip) (r : Eid) (key : Nat) : (Chip.useCredit c r key).fixed = c.fixed := by
  simp [Chip.useCredit]
@[simp] theorem Chip.returnCredit_fixed (c : Chip) (r : Eid) (p : RPort) (vc : BitVec 2) : (Chip.returnCredit c r p
    vc).fixed = c.fixed := by
  unfold Chip.returnCredit
  (repeat' split) <;> simp
@[simp] theorem Chip.vc0Late_fixed (c : Chip) (e : Eid) (p : Packet) : (Chip.vc0Late c e p).fixed = c.fixed := by
  simp [Chip.vc0Late]
@[simp] theorem Chip.egress_fixed (c : Chip) (n : Fin 6) (from_ : Option (Fin 6)) (p : Packet) (input
    delay : Nat) : (Chip.egress c n from_ input p delay).fixed = c.fixed := by
  simp [Chip.egress]
@[simp] theorem Chip.goWay_fixed (c : Chip) (r : Eid) (inPort : RPort) (k : Packet) (w : Way) : (Chip.goWay c r
    inPort k w).fixed = c.fixed := by
  unfold Chip.goWay
  (repeat' split) <;> simp
@[simp] theorem Chip.popHead_fixed (c : Chip) (r : Eid) (p : RPort) (vc : BitVec 2) : (Chip.popHead c r p vc).fixed =
    c.fixed := by
  simp [Chip.popHead]
@[simp] theorem Chip.markOut_fixed (c : Chip) (r : Eid) (p : RPort) (vc : BitVec 2) (o : RPort) : (Chip.markOut c r p
    vc o).fixed = c.fixed := by
  simp [Chip.markOut]
@[simp] theorem Chip.dropAt_fixed (c : Chip) (r : Eid) (k : Packet) (why : Route) : (Chip.dropAt c r k why).fixed =
    c.fixed := by
  unfold Chip.dropAt
  split <;> simp
@[simp] theorem Chip.routeHead_fixed (c : Chip) (r : Eid) (p : RPort) (vc : BitVec 2) : (Chip.routeHead c r p
    vc).fixed = c.fixed := by
  unfold Chip.routeHead
  (repeat' split) <;> simp
@[simp] theorem Chip.enterLocal_fixed (c : Chip) (e : Eid) (p : Packet) : (Chip.enterLocal c e p).fixed = c.fixed := by
  simp [Chip.enterLocal]
@[simp] theorem Chip.freePool_fixed (c : Chip) (n : Fin 6) (p : Packet) : (Chip.freePool c n p).fixed = c.fixed := by
  simp [Chip.freePool]
@[simp] theorem Chip.fromPool_fixed (c : Chip) (e : Eid) (p : Packet) : (Chip.fromPool c e p).2.fixed = c.fixed := by
  unfold Chip.fromPool
  (repeat' split) <;> simp
@[simp] theorem Chip.pushOut_fixed (c : Chip) (e : Eid) : (Chip.pushOut c e).fixed = c.fixed := by
  unfold Chip.pushOut
  (repeat' split) <;> simp
@[simp] theorem Chip.noteInjection_fixed (c : Chip) (e : Eid) (p : Packet) : (Chip.noteInjection c e p).fixed =
    c.fixed := by
  simp [Chip.noteInjection]
@[simp] theorem Chip.injectDone_fixed (c : Chip) (e : Eid) (p : Packet) : (Chip.injectDone c e p).fixed = c.fixed := by
  unfold Chip.injectDone
  split <;> simp
@[simp] theorem Chip.moveWrote_fixed (c : Chip) (e : Eid) (p : Packet) : (Chip.moveWrote c e p).fixed = c.fixed := by
  unfold Chip.moveWrote
  (repeat' split) <;> simp
@[simp] theorem Chip.noteFull_fixed (c : Chip) : (Chip.noteFull c).fixed = c.fixed := by
  simp [Chip.noteFull]
@[simp] theorem Chip.inject_fixed (c : Chip) (e : Eid) : (Chip.inject c e).fixed = c.fixed := by
  unfold Chip.inject
  (repeat' split) <;> simp
@[simp] theorem Chip.throttle_fixed (c : Chip) (e : Eid) : (Chip.throttle c e).fixed = c.fixed := by
  simp [Chip.throttle]
@[simp] theorem Chip.freeRsp_fixed (c : Chip) (e : Eid) (k : Nat) (timeout : Bool) : (Chip.freeRsp c e k
    timeout).fixed = c.fixed := by
  simp [Chip.freeRsp]

/-! ### TileRows -/

@[simp] theorem Chip.tileFault_fixed (c : Chip) (t : TileId) (code : BitVec 16) : (Chip.tileFault c t code).fixed =
    c.fixed := by
  simp [Chip.tileFault]
@[simp] theorem Chip.illegalOp_fixed (c : Chip) (t : TileId) : (Chip.illegalOp c t).fixed = c.fixed := by
  simp [Chip.illegalOp]
@[simp] theorem Chip.onTileNow_fixed (c : Chip) (t : TileId) (f : Nat → Tile → Tile) : (Chip.onTileNow c t f).fixed =
    c.fixed := by
  simp [Chip.onTileNow]
@[simp] theorem Chip.haltOverrun_fixed (c : Chip) (t : TileId) : (Chip.haltOverrun c t).fixed = c.fixed := by
  simp [Chip.haltOverrun]
@[simp] theorem Chip.startSection_fixed (c : Chip) (t : TileId) (x : Section) : (Chip.startSection c t x).fixed =
    c.fixed := by
  simp [Chip.startSection]
@[simp] theorem Chip.sectionStartAt_fixed (c : Chip) (t : TileId) : (Chip.sectionStartAt c t).fixed = c.fixed := by
  unfold Chip.sectionStartAt
  split <;> simp
@[simp] theorem Chip.looseViolation_fixed (c : Chip) (t : TileId) : (Chip.looseViolation c t).fixed = c.fixed := by
  simp [Chip.looseViolation]
@[simp] theorem Chip.takeRecv_fixed (c : Chip) (t : TileId) (addr : BitVec 19) (a : BitVec 4) (p : Bool) :
    (Chip.takeRecv c t addr a p).fixed = c.fixed := by
  simp [Chip.takeRecv]
@[simp] theorem Chip.wakeTiles_fixed (c : Chip) (n : BitVec 12) : (Chip.wakeTiles c n).fixed = c.fixed := by
  simp [Chip.wakeTiles]
@[simp] theorem Chip.loopFixed_fixed (c : Chip) (t : TileId) (k : BitVec 2) (n : BitVec 10) (len : BitVec 6) :
    (Chip.loopFixed c t k n len).fixed = c.fixed := by
  simp [Chip.loopFixed]
@[simp] theorem Chip.loopBounded_fixed (c : Chip) (t : TileId) (k : BitVec 2) (a b : BitVec 4) (len : BitVec 6) :
    (Chip.loopBounded c t k a b len).fixed = c.fixed := by
  simp [Chip.loopBounded]
@[simp] theorem Chip.sendFrom_fixed (c : Chip) (t : TileId) (k : BitVec 3) (a : BitVec 4) (p : Bool) : (Chip.sendFrom
    c t k a p).fixed = c.fixed := by
  simp [Chip.sendFrom]
@[simp] theorem Chip.notifyNext_fixed (c : Chip) (e : Eid) (p : Option Packet) : (Chip.notifyNext c e
    p).fixed = c.fixed := by
  unfold Chip.notifyNext
  split <;> simp
@[simp] theorem Chip.tileWrite_fixed (c : Chip) (t : TileId) (e : Eid) (p : Packet) (inPort : RPort) (notify : Option
    Packet) : (Chip.tileWrite c t e p inPort notify).fixed = c.fixed := by
  simp [Chip.tileWrite]
@[simp] theorem Chip.tileRead_fixed (c : Chip) (t : TileId) (e : Eid) (p : Packet) : (Chip.tileRead c t e p).fixed =
    c.fixed := by
  simp [Chip.tileRead]
@[simp] theorem Chip.ingressWriteAt_fixed (c : Chip) (t : TileId) : (Chip.ingressWriteAt c t).fixed = c.fixed := by
  unfold Chip.ingressWriteAt
  dsimp only
  (repeat' split) <;> simp
@[simp] theorem Chip.readServeAt_fixed (c : Chip) (t : TileId) : (Chip.readServeAt c t).fixed = c.fixed := by
  unfold Chip.readServeAt
  dsimp only
  (repeat' split) <;> simp

/-! ### Settings -/

@[simp] theorem Chip.applySetting_fixed (c : Chip) (w : Setting) : (Chip.applySetting c w).fixed = c.fixed := by
  unfold Chip.applySetting
  dsimp only
  (repeat' split) <;> simp
@[simp] theorem Chip.applySettings_fixed (c : Chip) (ws : List Setting) : (Chip.applySettings c ws).fixed = c.fixed
    := by
  unfold Chip.applySettings
  split <;> simp
@[simp] theorem Chip.closeWindow_fixed (c : Chip) (t : TileId) : (Chip.closeWindow c t).fixed = c.fixed := by
  simp [Chip.closeWindow]

/-! ### Almanac -/

@[simp] theorem Chip.day0In_fixed (c : Chip) (n : Nat) : (Chip.day0In c n).fixed = c.fixed := by
  simp [Chip.day0In]
@[simp] theorem Chip.setStartMode_fixed (c : Chip) (mode : BitVec 2) : (Chip.setStartMode c mode).fixed = c.fixed := by
  simp [Chip.setStartMode]
@[simp] theorem Chip.tickSrcWritten_fixed (c : Chip) (v : Word) : (Chip.tickSrcWritten c v).fixed = c.fixed := by
  simp [Chip.tickSrcWritten]
@[simp] theorem Chip.judgeMark_fixed (c : Chip) (n : Fin 6) (d : BitVec 16) (at_ : Nat) (e : Int) (k : Nat) :
    (Chip.judgeMark c n d at_ e k).fixed = c.fixed := by
  simp [Chip.judgeMark]
@[simp] theorem Chip.dueMarks_fixed (c : Chip) (k : Nat) (d : BitVec 16) : (Chip.dueMarks c k d).fixed = c.fixed := by
  simp [Chip.dueMarks]
@[simp] theorem Chip.endDay_fixed (c : Chip) : (Chip.endDay c).fixed = c.fixed := by
  simp [Chip.endDay]
@[simp] theorem Chip.judgeLocked_fixed (c : Chip) : (Chip.judgeLocked c).fixed = c.fixed := by
  simp [Chip.judgeLocked]
@[simp] theorem Chip.setOffset_fixed (c : Chip) (o : Int) : (Chip.setOffset c o).fixed = c.fixed := by
  simp [Chip.setOffset]
@[simp] theorem Chip.tickRunning_fixed (c : Chip) : (Chip.tickRunning c).fixed = c.fixed := by
  simp [Chip.tickRunning]
@[simp] theorem Chip.tickArmed_fixed (c : Chip) : (Chip.tickArmed c).fixed = c.fixed := by
  simp [Chip.tickArmed]
@[simp] theorem Chip.tick_fixed (c : Chip) (src : TickFrom) : (Chip.tick c src).fixed = c.fixed := by
  simp [Chip.tick]
@[simp] theorem Chip.nominalDayEnd_fixed (c : Chip) : (Chip.nominalDayEnd c).fixed = c.fixed := by
  simp [Chip.nominalDayEnd]
@[simp] theorem Chip.lateDayEnd_fixed (c : Chip) : (Chip.lateDayEnd c).fixed = c.fixed := by
  simp [Chip.lateDayEnd]
@[simp] theorem Chip.judgeHoldover_fixed (c : Chip) : (Chip.judgeHoldover c).fixed = c.fixed := by
  simp [Chip.judgeHoldover]
@[simp] theorem Chip.switchSrc_fixed (c : Chip) : (Chip.switchSrc c).fixed = c.fixed := by
  unfold Chip.switchSrc
  split <;> simp
@[simp] theorem Chip.beginDay_fixed (c : Chip) : (Chip.beginDay c).fixed = c.fixed := by
  simp [Chip.beginDay]
@[simp] theorem Chip.openVigil_fixed (c : Chip) : (Chip.openVigil c).fixed = c.fixed := by
  simp [Chip.openVigil]
@[simp] theorem Chip.latchPlan_fixed (c : Chip) : (Chip.latchPlan c).fixed = c.fixed := by
  simp [Chip.latchPlan]
@[simp] theorem Chip.stageSettings_fixed (c : Chip) : (Chip.stageSettings c).fixed = c.fixed := by
  simp [Chip.stageSettings]

/-! ### Buckles -/

@[simp] theorem Chip.bklNotify_fixed (c : Chip) (n : BitVec 12) (op : BklOp) : (Chip.bklNotify c n op).fixed =
    c.fixed := by
  unfold Chip.bklNotify
  split <;> simp
@[simp] theorem Chip.bklReport_fixed (c : Chip) (p : Packet) (op : BklOp) (before after : BitVec 24) :
    (Chip.bklReport c p op before after).fixed = c.fixed := by
  unfold Chip.bklReport
  (repeat' split) <;> simp
@[simp] theorem Chip.bklOp_fixed (c : Chip) (p : Packet) (op : BklOp) : (Chip.bklOp c p op).fixed = c.fixed := by
  simp [Chip.bklOp]
@[simp] theorem Chip.faultPacket_fixed (c : Chip) (e : Eid) (p : Packet) : (Chip.faultPacket c e p).fixed = c.fixed
    := by
  simp [Chip.faultPacket]

end Sys2Proof.Machine
end

