-- ==== Sys2Proof/Laws/FixedMemory.lean ====
section
/-!
SUPPORT. Laws/FixedMemory.lean: operations of the memory channels, Tensor Move Engines, walkers and voices that leave it.
-/
namespace Sys2Proof.Machine
open Sys2Proof

/-! ### DramRows -/

@[simp] theorem Chip.chanRequest_fixed (c : Chip) (k : BitVec 3) (p : Packet) : (Chip.chanRequest c k p).fixed =
    c.fixed := by
  simp [Chip.chanRequest]
@[simp] theorem Chip.chanPacket_fixed (c : Chip) (k : BitVec 3) (p : Packet) : (Chip.chanPacket c k p).fixed =
    c.fixed := by
  simp [Chip.chanPacket]
@[simp] theorem Chip.setWindow_fixed (c : Chip) (k : BitVec 3) (p : Packet) : (Chip.setWindow c k p).fixed = c.fixed
    := by
  simp [Chip.setWindow]
@[simp] theorem Chip.planned_fixed (c : Chip) (k : BitVec 3) (bs : List Nat) (skip : Chip → Chip) (f : Chip → Chip)
    (hskip : ∀ c , (skip c ).fixed = c.fixed) (hf : ∀ c , (f c ).fixed = c.fixed) : (Chip.planned c k bs skip
    f).fixed = c.fixed := by
  unfold Chip.planned
  (repeat' split) <;> simp [*]
@[simp] theorem Chip.planPacket_fixed (c : Chip) (k : BitVec 3) (tile : TileId) (line : Nat) (l : LineRead) (late :
    Nat) : (Chip.planPacket c k tile line l late).fixed = c.fixed := by
  simp [Chip.planPacket]
@[simp] theorem Chip.planRead_fixed (c : Chip) (k : BitVec 3) (b col : Nat) : (Chip.planRead c k b col).2.fixed =
    c.fixed := by
  unfold Chip.planRead
  split <;> simp
@[simp] theorem Chip.planReadTo_fixed (c : Chip) (k : BitVec 3) (b col : Nat) (tile : TileId) (line late : Nat) :
    (Chip.planReadTo c k b col tile line late).fixed = c.fixed := by
  simp [Chip.planReadTo]
@[simp] theorem Chip.planWrite_fixed (c : Chip) (k : BitVec 3) (b col slot : Nat) : (Chip.planWrite c k b col
    slot).fixed = c.fixed := by
  unfold Chip.planWrite
  split <;> simp
@[simp] theorem Chip.precharge_fixed (c : Chip) (k : BitVec 3) (b : Nat) : (Chip.precharge c k b).fixed = c.fixed := by
  simp [Chip.precharge]
@[simp] theorem Chip.readMr4_fixed (c : Chip) (k : BitVec 3) (rank : Bool) (rate : BitVec 3) (hot : Bool) :
    (Chip.readMr4 c k rank rate hot).fixed = c.fixed := by
  simp [Chip.readMr4]
@[simp] theorem Chip.accrue_fixed (c : Chip) (k : BitVec 3) : (Chip.accrue c k).fixed = c.fixed := by
  simp [Chip.accrue]
@[simp] theorem Chip.endEmergency_fixed (c : Chip) (k : BitVec 3) (rank : Nat) : (Chip.endEmergency c k rank).fixed =
    c.fixed := by
  simp [Chip.endEmergency]
@[simp] theorem Chip.beginEmergency_fixed (c : Chip) (k : BitVec 3) (rank : Nat) : (Chip.beginEmergency c k
    rank).fixed = c.fixed := by
  simp [Chip.beginEmergency]
@[simp] theorem Chip.emergency_fixed (c : Chip) (k : BitVec 3) (rank : Nat) : (Chip.emergency c k rank).fixed =
    c.fixed := by
  simp [Chip.emergency]
@[simp] theorem Chip.refreshStopped_fixed (c : Chip) (k : BitVec 3) (rank : Nat) : (Chip.refreshStopped c k
    rank).fixed = c.fixed := by
  simp [Chip.refreshStopped]
@[simp] theorem Chip.chanAnswer_fixed (c : Chip) (k : BitVec 3) (t : Txn) (late : Nat) : (Chip.chanAnswer c k t
    late).fixed = c.fixed := by
  unfold Chip.chanAnswer
  dsimp only
  (repeat' split) <;> simp
@[simp] theorem Chip.endDebug_fixed (c : Chip) (k : BitVec 3) : (Chip.endDebug c k).fixed = c.fixed := by
  unfold Chip.endDebug
  split <;> simp
@[simp] theorem Chip.doTxn_fixed (c : Chip) (k : BitVec 3) (t : Txn) : (Chip.doTxn c k t).fixed = c.fixed := by
  unfold Chip.doTxn
  dsimp only
  (repeat' split) <;> simp
@[simp] theorem Chip.openGap_fixed (c : Chip) (k : BitVec 3) (mask : Word) (n : Nat) : (Chip.openGap c k mask n).fixed
    = c.fixed := by
  unfold Chip.openGap
  dsimp only
  (repeat' split) <;> simp
@[simp] theorem Chip.endTxn_fixed (c : Chip) (k : BitVec 3) (t : Txn) : (Chip.endTxn c k t).fixed = c.fixed := by
  simp [Chip.endTxn]
@[simp] theorem Chip.endTxns_fixed (c : Chip) (k : BitVec 3) : (Chip.endTxns c k).fixed = c.fixed := by
  simp [Chip.endTxns]
@[simp] theorem Chip.withdrawHead_fixed (c : Chip) (k : BitVec 3) (cl : Nat) : (Chip.withdrawHead c k cl).fixed =
    c.fixed := by
  unfold Chip.withdrawHead
  split <;> simp
@[simp] theorem Chip.setFreeze_fixed (c : Chip) (k : BitVec 3) (v : Bool) : (Chip.setFreeze c k v).fixed = c.fixed := by
  simp [Chip.setFreeze]

/-! ### Tme -/

@[simp] theorem Chip.tmeAccept_fixed (c : Chip) (t : BitVec 4) (d : Desc) : (Chip.tmeAccept c t d).fixed = c.fixed := by
  simp [Chip.tmeAccept]
@[simp] theorem Chip.tmePacket_fixed (c : Chip) (t : BitVec 4) (p : Packet) : (Chip.tmePacket c t p).fixed = c.fixed
    := by
  unfold Chip.tmePacket
  (repeat' split) <;> simp
@[simp] theorem Chip.tmeSubmit_fixed (c : Chip) (t : BitVec 4) : (Chip.tmeSubmit c t).fixed = c.fixed := by
  simp [Chip.tmeSubmit]
@[simp] theorem Chip.tmeStart_fixed (c : Chip) (t : BitVec 4) : (Chip.tmeStart c t).fixed = c.fixed := by
  unfold Chip.tmeStart
  dsimp only
  (repeat' split) <;> simp
@[simp] theorem Chip.onJob_fixed (c : Chip) (t : BitVec 4) (f : TmeJob → TmeJob) : (Chip.onJob c t f).fixed = c.fixed
    := by
  simp [Chip.onJob]
@[simp] theorem Chip.tmeSend_fixed (c : Chip) (t : BitVec 4) (x : Tmd.Side) (a : Nat) (f : Chip → Chip) (hf : ∀ c ,
    (f c ).fixed = c.fixed) : (Chip.tmeSend c t x a f).1.fixed = c.fixed := by
  unfold Chip.tmeSend
  (repeat' split) <;> simp [*]
@[simp] theorem Chip.tmeRead_fixed (c : Chip) (t : BitVec 4) (j : TmeJob) : (Chip.tmeRead c t j).fixed = c.fixed := by
  simp [Chip.tmeRead]
@[simp] theorem Chip.tmeWrite_fixed (c : Chip) (t : BitVec 4) (j : TmeJob) : (Chip.tmeWrite c t j).fixed = c.fixed := by
  unfold Chip.tmeWrite
  split <;> simp
@[simp] theorem Chip.tmeCycle_fixed (c : Chip) (t : BitVec 4) : (Chip.tmeCycle c t).fixed = c.fixed := by
  unfold Chip.tmeCycle
  split <;> simp
@[simp] theorem Chip.tmeStop_fixed (c : Chip) (t : BitVec 4) (st : BitVec 3) : (Chip.tmeStop c t st).fixed = c.fixed
    := by
  simp [Chip.tmeStop]
@[simp] theorem Chip.tmeLine_fixed (c : Chip) (t : BitVec 4) (k : Nat) (l : LineRead) : (Chip.tmeLine c t k l).fixed
    = c.fixed := by
  unfold Chip.tmeLine
  (repeat' split) <;> simp
@[simp] theorem Chip.nextBlock_fixed (c : Chip) (t : BitVec 4) (out : List (Nat × Nat × Line)) : (Chip.nextBlock c t
    out).fixed = c.fixed := by
  simp [Chip.nextBlock]
@[simp] theorem Chip.skvEncode_fixed (c : Chip) (t : BitVec 4) : (Chip.skvEncode c t).fixed = c.fixed := by
  unfold Chip.skvEncode
  split <;> simp
@[simp] theorem Chip.skvDecode_fixed (c : Chip) (t : BitVec 4) : (Chip.skvDecode c t).fixed = c.fixed := by
  unfold Chip.skvDecode
  dsimp only
  (repeat' split) <;> simp
@[simp] theorem Chip.tmeFasten_fixed (c : Chip) (t : BitVec 4) (field : Nat) : (Chip.tmeFasten c t field).fixed =
    c.fixed := by
  simp [Chip.tmeFasten]
@[simp] theorem Chip.tmeEnd_fixed (c : Chip) (t : BitVec 4) : (Chip.tmeEnd c t).fixed = c.fixed := by
  unfold Chip.tmeEnd
  split <;> simp

/-! ### KvRows -/

@[simp] theorem Chip.onDesc_fixed (c : Chip) (w : BitVec 4) (d : Nat) (f : KvDesc → KvDesc) : (Chip.onDesc c w d
    f).fixed = c.fixed := by
  simp [Chip.onDesc]
@[simp] theorem Chip.kvEvent_fixed (c : Chip) (w : BitVec 4) (desc : BitVec 16) (event : Byte) (entry : Word) :
    (Chip.kvEvent c w desc event entry).fixed = c.fixed := by
  simp [Chip.kvEvent]
@[simp] theorem Chip.forgetMove_fixed (c : Chip) (w : BitVec 4) : (Chip.forgetMove c w).fixed = c.fixed := by
  simp [Chip.forgetMove]
@[simp] theorem Chip.dropMoves_fixed (c : Chip) (w : BitVec 4) (d : Nat) : (Chip.dropMoves c w d).fixed = c.fixed := by
  simp [Chip.dropMoves]
@[simp] theorem Chip.kvOpen_fixed (c : Chip) (w : BitVec 4) (d : Nat) (cls session : BitVec 16) : (Chip.kvOpen c w d
    cls session).fixed = c.fixed := by
  simp [Chip.kvOpen]
@[simp] theorem Chip.kvClose_fixed (c : Chip) (w : BitVec 4) (d : Nat) : (Chip.kvClose c w d).fixed = c.fixed := by
  simp [Chip.kvClose]
@[simp] theorem Chip.kvLook_fixed (c : Chip) (w : BitVec 4) (ls : List Nat) : (Chip.kvLook c w ls).fixed = c.fixed := by
  simp [Chip.kvLook]
@[simp] theorem Chip.kvEngine_fixed (c : Chip) (w : BitVec 4) (p : Packet) (cost : Nat) : (Chip.kvEngine c w p
    cost).2.fixed = c.fixed := by
  unfold Chip.kvEngine
  dsimp only
  (repeat' split) <;> simp
@[simp] theorem Chip.kvAnswer_fixed (c : Chip) (w : BitVec 4) (p : Packet) (cost : Nat) (bs : List Byte) :
    (Chip.kvAnswer c w p cost bs).fixed = c.fixed := by
  simp [Chip.kvAnswer]
@[simp] theorem Chip.kvRefuse_fixed (c : Chip) (w : BitVec 4) (p : Packet) (cost : Nat) (status : Byte) :
    (Chip.kvRefuse c w p cost status).fixed = c.fixed := by
  simp [Chip.kvRefuse]
@[simp] theorem Chip.kvApply_fixed (c : Chip) (w : BitVec 4) (b : List Byte) (d : Nat) (o : Kv.KvOut) : (Chip.kvApply
    c w b d o).2.fixed = c.fixed := by
  simp [Chip.kvApply]
@[simp] theorem Chip.kvOp_fixed (c : Chip) (w : BitVec 4) (p : Packet) (cost : Nat) (withBp : Bool) (uses : KvDesc →
    List Nat) (f : List Byte → KvDesc → Kv.KvOut) : (Chip.kvOp c w p cost withBp uses f).fixed = c.fixed := by
  unfold Chip.kvOp
  dsimp only
  (repeat' split) <;> simp
@[simp] theorem Chip.kvResolve_fixed (c : Chip) (w : BitVec 4) (p : Packet) : (Chip.kvResolve c w p).fixed = c.fixed
    := by
  unfold Chip.kvResolve
  dsimp only
  (repeat' split) <;> simp
@[simp] theorem Chip.kvResults_fixed (c : Chip) (w : BitVec 4) : (Chip.kvResults c w).fixed = c.fixed := by
  simp [Chip.kvResults]
@[simp] theorem Chip.kvScore_fixed (c : Chip) (w : BitVec 4) (p : Packet) : (Chip.kvScore c w p).fixed = c.fixed := by
  simp [Chip.kvScore]
@[simp] theorem Chip.onMove_fixed (c : Chip) (w : BitVec 4) (f : Move → Move) : (Chip.onMove c w f).fixed = c.fixed
    := by
  simp [Chip.onMove]
@[simp] theorem Chip.kvMoveStart_fixed (c : Chip) (w : BitVec 4) : (Chip.kvMoveStart c w).fixed = c.fixed := by
  simp [Chip.kvMoveStart]
@[simp] theorem Chip.kvSend_fixed (c : Chip) (w : BitVec 4) (k a : Nat) (f : Chip → Chip) (hf : ∀ c , (f c ).fixed =
    c.fixed) : (Chip.kvSend c w k a f).1.fixed = c.fixed := by
  unfold Chip.kvSend
  dsimp only
  repeat' first | (simp [*]; done) | split
@[simp] theorem Chip.kvLinePacket_fixed (c : Chip) (w : BitVec 4) (b : List Byte) (m : Move) (i : Nat) (sram : Bool)
    (f : Chip → Eid → Nat → Chip) (hf : ∀ c a_ b_, (f c a_ b_).fixed = c.fixed) : (Chip.kvLinePacket c w b m i sram
    f).1.fixed = c.fixed := by
  unfold Chip.kvLinePacket
  (repeat' split) <;> simp [*]
@[simp] theorem Chip.kvMoveCycle_fixed (c : Chip) (w : BitVec 4) : (Chip.kvMoveCycle c w).fixed = c.fixed := by
  unfold Chip.kvMoveCycle
  (repeat' split) <;> simp
@[simp] theorem Chip.kvMoveLine_fixed (c : Chip) (w : BitVec 4) (k : Nat) (l : Option Line) : (Chip.kvMoveLine c w k
    l).fixed = c.fixed := by
  simp [Chip.kvMoveLine]
@[simp] theorem Chip.kvMovePop_fixed (c : Chip) (w : BitVec 4) : (Chip.kvMovePop c w).fixed = c.fixed := by
  simp [Chip.kvMovePop]
@[simp] theorem Chip.kvMoveEnd_fixed (c : Chip) (w : BitVec 4) : (Chip.kvMoveEnd c w).fixed = c.fixed := by
  unfold Chip.kvMoveEnd
  dsimp only
  (repeat' split) <;> simp
@[simp] theorem Chip.kvMoveFail_fixed (c : Chip) (w : BitVec 4) : (Chip.kvMoveFail c w).fixed = c.fixed := by
  unfold Chip.kvMoveFail
  dsimp only
  (repeat' split) <;> simp
@[simp] theorem Chip.kvFetchLate_fixed (c : Chip) (w : BitVec 4) : (Chip.kvFetchLate c w).fixed = c.fixed := by
  simp [Chip.kvFetchLate]
@[simp] theorem Chip.sendNotice_fixed (c : Chip) (w : BitVec 4) (cls : BitVec 16) (d0 : BitVec 48) (to_ : BitVec 16)
    : (Chip.sendNotice c w cls d0 to_).fixed = c.fixed := by
  simp [Chip.sendNotice]
@[simp] theorem Chip.keepNotice_fixed (c : Chip) (w : BitVec 4) (cls : BitVec 16) (d0 : BitVec 48) : (Chip.keepNotice
    c w cls d0).fixed = c.fixed := by
  simp [Chip.keepNotice]
@[simp] theorem Chip.kvNotice_fixed (c : Chip) (w : BitVec 4) (p : Packet) : (Chip.kvNotice c w p).fixed = c.fixed := by
  unfold Chip.kvNotice
  dsimp only
  (repeat' split) <;> simp
@[simp] theorem Chip.tellRing_fixed (c : Chip) (w : BitVec 4) (r : Rec) (d0 : BitVec 48) : (Chip.tellRing c w r
    d0).fixed = c.fixed := by
  simp [Chip.tellRing]
@[simp] theorem Chip.forgetNotices_fixed (c : Chip) (w : BitVec 4) (cls : BitVec 16) : (Chip.forgetNotices c w
    cls).fixed = c.fixed := by
  simp [Chip.forgetNotices]
@[simp] theorem Chip.kvResend_fixed (c : Chip) (w : BitVec 4) : (Chip.kvResend c w).fixed = c.fixed := by
  unfold Chip.kvResend
  dsimp only
  repeat' first | (simp [*]; done) | split | (refine Chip.foldl_fixed _ ?_ _ _; intros)
@[simp] theorem Chip.kvSwitch_fixed (c : Chip) (w : BitVec 4) : (Chip.kvSwitch c w).fixed = c.fixed := by
  simp [Chip.kvSwitch]
@[simp] theorem Chip.writeEvent_fixed (c : Chip) (w : BitVec 4) (e : KvEvent) : (Chip.writeEvent c w e).fixed =
    c.fixed := by
  simp [Chip.writeEvent]
@[simp] theorem Chip.releaseEvents_fixed (c : Chip) (w : BitVec 4) : (Chip.releaseEvents c w).fixed = c.fixed := by
  simp [Chip.releaseEvents]
@[simp] theorem Chip.classRewritten_fixed (c : Chip) (cls : BitVec 16) (a b : List Byte) : (Chip.classRewritten c
    cls a b).fixed = c.fixed := by
  simp [Chip.classRewritten]

/-! ### Voice -/

@[simp] theorem Chip.startStream_fixed (c : Chip) (s : BitVec 12) : (Chip.startStream c s).fixed = c.fixed := by
  simp [Chip.startStream]
@[simp] theorem Chip.stopStream_fixed (c : Chip) (s : BitVec 12) : (Chip.stopStream c s).fixed = c.fixed := by
  simp [Chip.stopStream]
@[simp] theorem Chip.stopSession_fixed (c : Chip) (i : BitVec 10) : (Chip.stopSession c i).fixed = c.fixed := by
  unfold Chip.stopSession
  split <;> simp
@[simp] theorem Chip.freeSession_fixed (c : Chip) (i : BitVec 10) (byUpdate : Bool ) : (Chip.freeSession c i
    byUpdate).fixed = c.fixed := by
  simp [Chip.freeSession]
@[simp] theorem Chip.bindSession_fixed (c : Chip) (i : BitVec 10) : (Chip.bindSession c i).fixed = c.fixed := by
  unfold Chip.bindSession
  dsimp only
  (repeat' split) <;> simp
@[simp] theorem Chip.closeSession_fixed (c : Chip) (i : BitVec 10) : (Chip.closeSession c i).fixed = c.fixed := by
  simp [Chip.closeSession]
@[simp] theorem Chip.startAdapt_fixed (c : Chip) (i : BitVec 10) : (Chip.startAdapt c i).fixed = c.fixed := by
  simp [Chip.startAdapt]
@[simp] theorem Chip.startHeld_fixed (c : Chip) : (Chip.startHeld c).fixed = c.fixed := by
  unfold Chip.startHeld
  split <;> simp
@[simp] theorem Chip.fetchBlock_fixed (c : Chip) (s : BitVec 12) : (Chip.fetchBlock c s).fixed = c.fixed := by
  unfold Chip.fetchBlock
  (repeat' split) <;> simp
@[simp] theorem Chip.sendBlock_fixed (c : Chip) (e : Eid) (tile line : Nat) (header : Line) (body : List Line) :
    (Chip.sendBlock c e tile line header body).fixed = c.fixed := by
  simp [Chip.sendBlock]
@[simp] theorem Chip.deliverStream_fixed (c : Chip) (s : BitVec 12) : (Chip.deliverStream c s).fixed = c.fixed := by
  unfold Chip.deliverStream
  dsimp only
  (repeat' split) <;> simp
@[simp] theorem Chip.writeBacks_fixed (c : Chip) (s : BitVec 12) : (Chip.writeBacks c s).fixed = c.fixed := by
  simp [Chip.writeBacks]
@[simp] theorem Chip.takeStream_fixed (c : Chip) (s : BitVec 12) : (Chip.takeStream c s).fixed = c.fixed := by
  unfold Chip.takeStream
  split <;> simp
@[simp] theorem Chip.writeStream_fixed (c : Chip) (s : BitVec 12) : (Chip.writeStream c s).fixed = c.fixed := by
  unfold Chip.writeStream
  split <;> simp
@[simp] theorem Chip.runWritten_fixed (c : Chip) (p : Fin 8) (run : Bool) : (Chip.runWritten c p run).fixed = c.fixed
    := by
  simp [Chip.runWritten]
@[simp] theorem Chip.armGo_fixed (c : Chip) (mask : Byte) : (Chip.armGo c mask).fixed = c.fixed := by
  simp [Chip.armGo]
@[simp] theorem Chip.startPort_fixed (c : Chip) (p : Fin 8) : (Chip.startPort c p).fixed = c.fixed := by
  unfold Chip.startPort
  split <;> simp
@[simp] theorem Chip.portStart_fixed (c : Chip) (p : Fin 8) : (Chip.portStart c p).fixed = c.fixed := by
  simp [Chip.portStart]
@[simp] theorem Chip.armedStart_fixed (c : Chip) : (Chip.armedStart c).fixed = c.fixed := by
  simp [Chip.armedStart]
@[simp] theorem Chip.portStop_fixed (c : Chip) (p : Fin 8) : (Chip.portStop c p).fixed = c.fixed := by
  simp [Chip.portStop]
@[simp] theorem Chip.sendI2s_fixed (c : Chip) (p : Fin 8) (f : Int × Int) : (Chip.sendI2s c p f).fixed = c.fixed := by
  simp [Chip.sendI2s]
@[simp] theorem Chip.audComing_fixed (c : Chip) (p : Fin 8) : (Chip.audComing c p).fixed = c.fixed := by
  unfold Chip.audComing
  split <;> simp
@[simp] theorem Chip.i2sFrame_fixed (c : Chip) (p : Fin 8) (left right : Word) : (Chip.i2sFrame c p left right).fixed
    = c.fixed := by
  unfold Chip.i2sFrame
  dsimp only
  (repeat' split) <;> simp
@[simp] theorem Chip.audInstant_fixed (c : Chip) (p : Fin 8) (k : Nat) : (Chip.audInstant c p k).fixed = c.fixed := by
  unfold Chip.audInstant
  split <;> simp
@[simp] theorem Chip.audDayEnd_fixed (c : Chip) (p : Fin 8) (len : Nat) : (Chip.audDayEnd c p len).fixed = c.fixed := by
  unfold Chip.audDayEnd
  split <;> simp
@[simp] theorem Chip.audDayStart_fixed (c : Chip) (p : Fin 8) : (Chip.audDayStart c p).fixed = c.fixed := by
  unfold Chip.audDayStart
  dsimp only
  (repeat' split) <;> simp
@[simp] theorem Chip.deliverPort_fixed (c : Chip) (p : Fin 8) : (Chip.deliverPort c p).fixed = c.fixed := by
  unfold Chip.deliverPort
  split <;> simp
@[simp] theorem Chip.takePort_fixed (c : Chip) (p : Fin 8) : (Chip.takePort c p).fixed = c.fixed := by
  unfold Chip.takePort
  split <;> simp

end Sys2Proof.Machine
end

