-- ==== Sys2Proof/Laws/FixedPorts.lean ====
section
/-!
SUPPORT. Laws/FixedPorts.lean: operations of the ports and the census unit that leave it.
-/
namespace Sys2Proof.Machine
open Sys2Proof

/-! ### Fronthaul -/

@[simp] theorem Chip.fhCount_fixed (c : Chip) (q : Fin 2) (k : Nat) (n : Nat ) : (Chip.fhCount c q k n).fixed =
    c.fixed := by
  simp [Chip.fhCount]
@[simp] theorem Chip.fhFrame_fixed (c : Chip) (q : Fin 2) (f : List Byte) (fcsOk : Bool) : (Chip.fhFrame c q f
    fcsOk).fixed = c.fixed := by
  unfold Chip.fhFrame
  dsimp only
  (repeat' split) <;> simp
@[simp] theorem Chip.fhQueue_fixed (c : Chip) (q : Fin 2) (ls : List FhLine) : (Chip.fhQueue c q ls).fixed = c.fixed
    := by
  simp [Chip.fhQueue]
@[simp] theorem Chip.putRec_fixed (c : Chip) (q : Fin 2) (x : SymRec) : (Chip.putRec c q x).fixed = c.fixed := by
  simp [Chip.putRec]
@[simp] theorem Chip.fhSection_fixed (c : Chip) (q : Fin 2) (e : List Byte) (day : BitVec 64) (symbol due : Nat) (x :
    Fh.Sec) : (Chip.fhSection c q e day symbol due x).fixed = c.fixed := by
  simp [Chip.fhSection]
@[simp] theorem Chip.closeRec_fixed (c : Chip) (q : Fin 2) (e : List Byte) (day : BitVec 64) (symbol : Nat) :
    (Chip.closeRec c q e day symbol).fixed = c.fixed := by
  simp [Chip.closeRec]
@[simp] theorem Chip.fhClose_fixed (c : Chip) (q : Fin 2) : (Chip.fhClose c q).fixed = c.fixed := by
  unfold Chip.fhClose
  split <;> simp
@[simp] theorem Chip.fhWriteLine_fixed (c : Chip) (q : Fin 2) : (Chip.fhWriteLine c q).fixed = c.fixed := by
  unfold Chip.fhWriteLine
  (repeat' split) <;> simp
@[simp] theorem Chip.fhTick_fixed (c : Chip) (q : Fin 2) (b : List Byte) (at_ : Nat) : (Chip.fhTick c q b at_).fixed
    = c.fixed := by
  simp [Chip.fhTick]
@[simp] theorem Chip.fhAccept_fixed (c : Chip) (q : Fin 2) (b e p : List Byte) (day : BitVec 64) (at_ : Nat) :
    (Chip.fhAccept c q b e p day at_).fixed = c.fixed := by
  simp [Chip.fhAccept]
@[simp] theorem Chip.fhIq_fixed (c : Chip) (q : Fin 2) (p : List Byte) (lts : Lts) (at_ : Nat) : (Chip.fhIq c q p lts
    at_).fixed = c.fixed := by
  unfold Chip.fhIq
  dsimp only
  (repeat' split) <;> simp
@[simp] theorem Chip.fhHead_fixed (c : Chip) (q : Fin 2) (delay : Bool) (take_ : Chip → List Byte → Lts → Nat → Chip)
    (htake_ : ∀ c a_ b_ c_, (take_ c a_ b_ c_).fixed = c.fixed) : (Chip.fhHead c q delay take_).fixed = c.fixed := by
  unfold Chip.fhHead
  (repeat' split) <;> simp [*]
@[simp] theorem Chip.fhIqHead_fixed (c : Chip) (q : Fin 2) : (Chip.fhIqHead c q).fixed = c.fixed := by
  simp [Chip.fhIqHead]
@[simp] theorem Chip.fhDelayHead_fixed (c : Chip) (q : Fin 2) : (Chip.fhDelayHead c q).fixed = c.fixed := by
  unfold Chip.fhDelayHead
  repeat' first | (simp [*]; done) | split | (apply Chip.fhHead_fixed; intros)
@[simp] theorem Chip.fhReply_fixed (c : Chip) (q : Fin 2) : (Chip.fhReply c q).fixed = c.fixed := by
  unfold Chip.fhReply
  split <;> simp
@[simp] theorem Chip.fhCopyEnd_fixed (c : Chip) (r : BitVec 3) (x : FhCopy) (bytes : Nat) (trunc : Bool) :
    (Chip.fhCopyEnd c r x bytes trunc).fixed = c.fixed := by
  unfold Chip.fhCopyEnd
  extract_lets flags mask d e
  have hd : d.fixed = c.fixed := Chip.hostWrite_fixed _ _ _
  have he : e.fixed = d.fixed := Chip.onRing_fixed _ _ _
  clear_value flags mask
  clear_value d
  clear_value e
  rw [Chip.fixed_mk, Chip.fixed_eq]
  exact he.trans hd
@[simp] theorem Chip.fhCopyCheck_fixed (c : Chip) (r : BitVec 3) : (Chip.fhCopyCheck c r).fixed = c.fixed := by
  unfold Chip.fhCopyCheck
  split <;> simp
@[simp] theorem Chip.fhCopyStart_fixed (c : Chip) (r : BitVec 3) : (Chip.fhCopyStart c r).fixed = c.fixed := by
  unfold Chip.fhCopyStart
  split <;> simp
@[simp] theorem Chip.fhCopyCycle_fixed (c : Chip) (q : Fin 2) : (Chip.fhCopyCycle c q).fixed = c.fixed := by
  unfold Chip.fhCopyCycle
  dsimp only
  (repeat' split) <;> simp
@[simp] theorem Chip.fhCopyLine_fixed (c : Chip) (r : BitVec 3) (k : Nat) (l : Option Line) : (Chip.fhCopyLine c r k
    l).fixed = c.fixed := by
  unfold Chip.fhCopyLine
  dsimp only
  (repeat' split) <;> simp
@[simp] theorem Chip.fhStopLate_fixed (c : Chip) (r : BitVec 3) : (Chip.fhStopLate c r).fixed = c.fixed := by
  unfold Chip.fhStopLate
  split <;> simp

/-! ### Umaed -/

@[simp] theorem Chip.lateEgress_fixed (c : Chip) (n : Fin 6) : (Chip.lateEgress c n).fixed = c.fixed := by
  simp [Chip.lateEgress]
@[simp] theorem Chip.umlForget_fixed (c : Chip) (n : Fin 6) : (Chip.umlForget c n).fixed = c.fixed := by
  simp [Chip.umlForget]
@[simp] theorem Chip.umlEnter_fixed (c : Chip) (n : Fin 6) (st : BitVec 3) : (Chip.umlEnter c n st).fixed = c.fixed
    := by
  simp [Chip.umlEnter]
@[simp] theorem Chip.umlEnable_fixed (c : Chip) (n : Fin 6) (on : Bool) : (Chip.umlEnable c n on).fixed = c.fixed := by
  simp [Chip.umlEnable]
@[simp] theorem Chip.umlRetrain_fixed (c : Chip) (n : Fin 6) : (Chip.umlRetrain c n).fixed = c.fixed := by
  simp [Chip.umlRetrain]
@[simp] theorem Chip.umlCtlWritten_fixed (c : Chip) (n : Fin 6) (enable retrain : Bool) : (Chip.umlCtlWritten c n
    enable retrain).fixed = c.fixed := by
  simp [Chip.umlCtlWritten]
@[simp] theorem Chip.trainFail_fixed (c : Chip) (n : Fin 6) : (Chip.trainFail c n).fixed = c.fixed := by
  simp [Chip.trainFail]
@[simp] theorem Chip.umlDetect_fixed (c : Chip) (n : Fin 6) (lanes : BitVec 4) : (Chip.umlDetect c n lanes).fixed =
    c.fixed := by
  simp [Chip.umlDetect]
@[simp] theorem Chip.umlAdapted_fixed (c : Chip) (n : Fin 6) (lanes : BitVec 4) : (Chip.umlAdapted c n lanes).fixed =
    c.fixed := by
  simp [Chip.umlAdapted]
@[simp] theorem Chip.umlIdentEnd_fixed (c : Chip) (n : Fin 6) : (Chip.umlIdentEnd c n).fixed = c.fixed := by
  unfold Chip.umlIdentEnd
  dsimp only
  (repeat' split) <;> simp
@[simp] theorem Chip.umlEcho_fixed (c : Chip) (n : Fin 6) (roundTrip : BitVec 16) : (Chip.umlEcho c n
    roundTrip).fixed = c.fixed := by
  simp [Chip.umlEcho]
@[simp] theorem Chip.umlAligned_fixed (c : Chip) (n : Fin 6) : (Chip.umlAligned c n).fixed = c.fixed := by
  simp [Chip.umlAligned]
@[simp] theorem Chip.umlLaneFail_fixed (c : Chip) (n : Fin 6) (lane : BitVec 2) : (Chip.umlLaneFail c n lane).fixed =
    c.fixed := by
  unfold Chip.umlLaneFail
  dsimp only
  (repeat' split) <;> simp
@[simp] theorem Chip.umlDown_fixed (c : Chip) (n : Fin 6) : (Chip.umlDown c n).fixed = c.fixed := by
  simp [Chip.umlDown]
@[simp] theorem Chip.sendFrame_fixed (c : Chip) (n : Fin 6) (ftype : BitVec 4) (ps : List Packet) (ident :
    Option Ident) : (Chip.sendFrame c n ftype ps ident).fixed = c.fixed := by
  simp [Chip.sendFrame]
@[simp] theorem Chip.sendData_fixed (c : Chip) (n : Fin 6) : (Chip.sendData c n).fixed = c.fixed := by
  simp [Chip.sendData]
@[simp] theorem Chip.umlFrame_fixed (c : Chip) (n : Fin 6) : (Chip.umlFrame c n).fixed = c.fixed := by
  unfold Chip.umlFrame
  dsimp only
  (repeat' split) <;> simp
@[simp] theorem Chip.umlPacket_fixed (c : Chip) (n : Fin 6) (s : Nat) (p : Packet) : (Chip.umlPacket c n s p).fixed =
    c.fixed := by
  unfold Chip.umlPacket
  (repeat' split) <;> simp
@[simp] theorem Chip.umlTake_fixed (c : Chip) (n : Fin 6) (s : Nat) (p : Packet) : (Chip.umlTake c n s p).fixed =
    c.fixed := by
  simp [Chip.umlTake]
@[simp] theorem Chip.umlCredits_fixed (c : Chip) (n : Fin 6) (k : Nat) (sent ret : Byte) : (Chip.umlCredits c n k
    sent ret).fixed = c.fixed := by
  simp [Chip.umlCredits]
@[simp] theorem Chip.umlGood_fixed (c : Chip) (n : Fin 6) (f : Frame) : (Chip.umlGood c n f).fixed = c.fixed := by
  simp [Chip.umlGood]
@[simp] theorem Chip.umlBad_fixed (c : Chip) (n : Fin 6) : (Chip.umlBad c n).fixed = c.fixed := by
  simp [Chip.umlBad]
@[simp] theorem Chip.umlComing_fixed (c : Chip) (n : Fin 6) : (Chip.umlComing c n).fixed = c.fixed := by
  unfold Chip.umlComing
  dsimp only
  split <;> simp
@[simp] theorem Chip.umlLanes_fixed (c : Chip) (n : Fin 6) (fec : Fec) : (Chip.umlLanes c n fec).fixed = c.fixed := by
  simp [Chip.umlLanes]
@[simp] theorem Chip.umlFrameIn_fixed (c : Chip) (n : Fin 6) (r : Codeword) (take : Chip → Chip)
    (htake : ∀ c, (take c).fixed = c.fixed) : (Chip.umlFrameIn c n r take).fixed = c.fixed := by
  unfold Chip.umlFrameIn
  dsimp only
  (repeat' split) <;> simp [htake]
@[simp] theorem Chip.umlData_fixed (c : Chip) (n : Fin 6) (f : Frame) : (Chip.umlData c n f).fixed = c.fixed := by
  simp [Chip.umlData]
@[simp] theorem Chip.umlIdent_fixed (c : Chip) (n : Fin 6) (i : Ident) : (Chip.umlIdent c n i).fixed = c.fixed := by
  simp [Chip.umlIdent]
@[simp] theorem Chip.checkMark_fixed (c : Chip) (n : Fin 6) (d : BitVec 16) (e : Int) : (Chip.checkMark c n d
    e).fixed = c.fixed := by
  unfold Chip.checkMark
  (repeat' split) <;> simp
@[simp] theorem Chip.umlMark_fixed (c : Chip) (n : Fin 6) (d skew : BitVec 16) : (Chip.umlMark c n d skew).fixed =
    c.fixed := by
  simp [Chip.umlMark]

/-! ### RegRead -/

@[simp] theorem Chip.rcClear_fixed (c : Chip) (o : Nat) : (Chip.rcClear c o).fixed = c.fixed := by
  unfold Chip.rcClear
  dsimp only
  (repeat' split) <;> simp
@[simp] theorem Chip.read32_fixed (c : Chip) (p : Port) (o : Nat) : (Chip.read32 c p o).2.fixed = c.fixed := by
  unfold Chip.read32
  split <;> simp
@[simp] theorem Chip.readSpan_fixed (c : Chip) (p : Port) (off size : Nat) : (Chip.readSpan c p off size).2.fixed =
    c.fixed := by
  unfold Chip.readSpan
  dsimp only
  (repeat' split) <;> simp
@[simp] theorem Chip.readBar0_fixed (c : Chip) (p : Port) (off size : Nat) : (Chip.readBar0 c p off size).2.fixed =
    c.fixed := by
  unfold Chip.readBar0
  dsimp only
  (repeat' split) <;> simp
@[simp] theorem Chip.answerRead_fixed (c : Chip) (p : Port) (off : BitVec 25) (size : BitVec 4) : (Chip.answerRead c
    p off size).fixed = c.fixed := by
  simp [Chip.answerRead]

/-! ### HostPorts -/

@[simp] theorem Chip.hostSend_fixed (c : Chip) (bar4 : Bool) (x : Nat) (f : Chip → Eid → BitVec 24 → Chip) (hf : ∀ c
    a_ b_, (f c a_ b_).fixed = c.fixed) : (Chip.hostSend c bar4 x f).fixed = c.fixed := by
  simp [Chip.hostSend, *]
@[simp] theorem Chip.countPoison_fixed (c : Chip) (off : Nat) : (Chip.countPoison c off).fixed = c.fixed := by
  simp [Chip.countPoison]
@[simp] theorem Chip.barWrite_fixed (c : Chip) (t : Tlp) (x : Nat) : (Chip.barWrite c t x).fixed = c.fixed := by
  simp [Chip.barWrite]
@[simp] theorem Chip.barTlp_fixed (c : Chip) (t : Tlp) : (Chip.barTlp c t).fixed = c.fixed := by
  simp [Chip.barTlp]
@[simp] theorem Chip.hostReadCycle_fixed (c : Chip) : (Chip.hostReadCycle c).fixed = c.fixed := by
  unfold Chip.hostReadCycle
  (repeat' split) <;> simp
@[simp] theorem Chip.finishRead_fixed (c : Chip) (r : HostRead) : (Chip.finishRead c r).fixed = c.fixed := by
  simp [Chip.finishRead]
@[simp] theorem Chip.hostPiece_fixed (c : Chip) (id k : Nat) (l : Option Line) (timedOut : Bool) : (Chip.hostPiece c
    id k l timedOut).fixed = c.fixed := by
  unfold Chip.hostPiece
  (repeat' split) <;> simp
@[simp] theorem Chip.debugAccess_fixed (c : Chip) (v : Line) : (Chip.debugAccess c v).fixed = c.fixed := by
  simp [Chip.debugAccess]
@[simp] theorem Chip.debugLine_fixed (c : Chip) (l : Option Line) : (Chip.debugLine c l).fixed = c.fixed := by
  simp [Chip.debugLine]
@[simp] theorem Chip.debugData_fixed (c : Chip) (v : Line) : (Chip.debugData c v).fixed = c.fixed := by
  simp [Chip.debugData]
@[simp] theorem Chip.wait_fixed (c : Chip) (src : Src) (d : Desc) : (Chip.wait c src d).fixed = c.fixed := by
  simp [Chip.wait]
@[simp] theorem Chip.i3cPoint_fixed (c : Chip) (p : Byte) : (Chip.i3cPoint c p).fixed = c.fixed := by
  simp [Chip.i3cPoint]
@[simp] theorem Chip.boundaryScan_fixed (c : Chip) (code : Byte) : (Chip.boundaryScan c code).fixed = c.fixed := by
  simp [Chip.boundaryScan]
@[simp] theorem Chip.i3cWrite_fixed (c : Chip) (bs : List Byte) : (Chip.i3cWrite c bs).fixed = c.fixed := by
  simp [Chip.i3cWrite]
@[simp] theorem Chip.i3cCpl_fixed (c : Chip) : (Chip.i3cCpl c).fixed = c.fixed := by
  unfold Chip.i3cCpl
  dsimp only
  split <;> simp
@[simp] theorem Chip.i3cStatus_fixed (c : Chip) : (Chip.i3cStatus c).fixed = c.fixed := by
  simp [Chip.i3cStatus]
@[simp] theorem Chip.jtagCommand_fixed (c : Chip) (d : Desc) : (Chip.jtagCommand c d).fixed = c.fixed := by
  simp [Chip.jtagCommand]
@[simp] theorem Chip.jtagCompletion_fixed (c : Chip) : (Chip.jtagCompletion c).fixed = c.fixed := by
  unfold Chip.jtagCompletion
  dsimp only
  (repeat' split) <;> simp
@[simp] theorem Chip.onPort_fixed (c : Chip) (f : Chip → Chip) (hf : ∀ c , (f c ).fixed = c.fixed) : (Chip.onPort c
    f).fixed = c.fixed := by
  simp [Chip.onPort, *]
@[simp] theorem Chip.flr_fixed (c : Chip) : (Chip.flr c).fixed = c.fixed := by
  simp [Chip.flr]

/-! ### Census -/

@[simp] theorem Chip.onCnsBank_fixed (c : Chip) (b : BitVec 2) (f : CBank → CBank) : (Chip.onCnsBank c b f).fixed =
    c.fixed := by
  simp [Chip.onCnsBank]
@[simp] theorem Chip.cenRecord_fixed (c : Chip) (l : Latch) (b : BitVec 2) (driven multi : Bool) : (Chip.cenRecord c
    l b driven multi).fixed = c.fixed := by
  simp [Chip.cenRecord]
@[simp] theorem Chip.onArm_fixed (c : Chip) (a : BitVec 2) (x : Arm) : (Chip.onArm c a x).fixed = c.fixed := by
  simp [Chip.onArm]
@[simp] theorem Chip.freeArm_fixed (c : Chip) (a : BitVec 2) : (Chip.freeArm c a).fixed = c.fixed := by
  simp [Chip.freeArm]
@[simp] theorem Chip.armEdge_fixed (c : Chip) (a : BitVec 2) : (Chip.armEdge c a).fixed = c.fixed := by
  unfold Chip.armEdge
  dsimp only
  (repeat' split) <;> simp
@[simp] theorem Chip.armSlot_fixed (c : Chip) (x : Arm) : ∀ d, (Chip.armSlot c x) = some d → d.fixed = c.fixed := by
  simp [Chip.armSlot]
@[simp] theorem Chip.cenBroadcast_fixed (c : Chip) (target : BitVec 64) (origin : BitVec 16) (hops : Nat) (except :
    Option (Fin 6)) : (Chip.cenBroadcast c target origin hops except).fixed = c.fixed := by
  simp [Chip.cenBroadcast]
@[simp] theorem Chip.cenArrive_fixed (c : Chip) (p : Packet) (link : Option (Fin 6)) : (Chip.cenArrive c p
    link).fixed = c.fixed := by
  unfold Chip.cenArrive
  extract_lets target origin from_ missed d hops
  have hd : d.fixed = c.fixed := by
    show Chip.fixed (if _ then _ else _) = _
    split
    · rfl
    split
    · rfl
    split
    · exact Chip.armSlot_fixed _ _ _ (by assumption)
    · rfl
  (repeat' split) <;> simp [hd]
@[simp] theorem Chip.cenTaken_fixed (c : Chip) (due : List Latch) : (Chip.cenTaken c due).fixed = c.fixed := by
  simp [Chip.cenTaken]
@[simp] theorem Chip.cenFreed_fixed (due : List Latch) (c : Chip) (a : BitVec 2) : (Chip.cenFreed due c a).fixed =
    c.fixed := by
  simp [Chip.cenFreed]
@[simp] theorem Chip.cenAnswered_fixed (lts : Lts) (c : Chip) (l : Latch) : (Chip.cenAnswered lts c l).fixed =
    c.fixed := by
  unfold Chip.cenAnswered
  split <;> simp
@[simp] theorem Chip.cenLatch_fixed (c : Chip) : (Chip.cenLatch c).fixed = c.fixed := by
  unfold Chip.cenLatch
  dsimp only
  (repeat' split) <;> simp
@[simp] theorem Chip.cenComplete_fixed (c : Chip) (b : BitVec 2) : (Chip.cenComplete c b).fixed = c.fixed := by
  simp [Chip.cenComplete]
@[simp] theorem Chip.cenRelease_fixed (c : Chip) (mask : BitVec 4) : (Chip.cenRelease c mask).fixed = c.fixed := by
  simp [Chip.cenRelease]
@[simp] theorem Chip.spillLine_fixed (c : Chip) (words : Table Word) (start i : Nat) : (Chip.spillLine c words start
    i).fixed = c.fixed := by
  simp [Chip.spillLine]
@[simp] theorem Chip.cenSpill_fixed (c : Chip) (b : BitVec 2) : (Chip.cenSpill c b).fixed = c.fixed := by
  simp [Chip.cenSpill]

end Sys2Proof.Machine
end

