-- ==== Sys2Proof/Laws/FixedHost.lean ====
section
/-!
SUPPORT. Laws/FixedHost.lean: operations of the loader, the commands and the registers that leave it.
-/
namespace Sys2Proof.Machine
open Sys2Proof

/-! ### ImageRules -/

@[simp] theorem Chip.asGlobal_fixed (c : Chip) (g : List Byte) : (Chip.asGlobal c g).fixed = c.fixed := by
  simp [Chip.asGlobal]
@[simp] theorem Chip.asAlmanac_fixed (c : Chip) (a : List Byte) : (Chip.asAlmanac c a).fixed = c.fixed := by
  simp [Chip.asAlmanac]
@[simp] theorem Chip.asImage_fixed (c : Chip) (g a : List Byte) : (Chip.asImage c g a).fixed = c.fixed := by
  simp [Chip.asImage]

/-! ### Harness -/

@[simp] theorem Chip.noteFailure_fixed (c : Chip) (v : Verdict) : (Chip.noteFailure c v).fixed = c.fixed := by
  simp [Chip.noteFailure]
@[simp] theorem Chip.writeTileRec_fixed (c : Chip) (r : Rec) : (Chip.writeTileRec c r).fixed = c.fixed := by
  simp [Chip.writeTileRec]
@[simp] theorem Chip.writeTileRecs_fixed (c : Chip) (rs : List Rec) : (Chip.writeTileRecs c rs).fixed = c.fixed := by
  simp [Chip.writeTileRecs]
@[simp] theorem Chip.zeroShadow_fixed (c : Chip) (map : List Byte) (copy : Bool) : (Chip.zeroShadow c map copy).fixed
    = c.fixed := by
  simp [Chip.zeroShadow]
@[simp] theorem Chip.loadPortRegs_fixed (c : Chip) (r : Rec) : (Chip.loadPortRegs c r).fixed = c.fixed := by
  unfold Chip.loadPortRegs
  dsimp only
  (repeat' split) <;> simp
@[simp] theorem Chip.zeroPortRegs_fixed (c : Chip) (r : Rec) : (Chip.zeroPortRegs c r).fixed = c.fixed := by
  unfold Chip.zeroPortRegs
  dsimp only
  (repeat' split) <;> simp
@[simp] theorem Chip.writeRec_fixed (c : Chip) (j : LoadJob) (r : Rec) : (Chip.writeRec c j r).fixed = c.fixed := by
  unfold Chip.writeRec
  (repeat' split) <;> simp
@[simp] theorem Chip.dropHarness_fixed (c : Chip) : (Chip.dropHarness c).fixed = c.fixed := by
  simp [Chip.dropHarness]
@[simp] theorem Chip.zeroBuckles_fixed (c : Chip) : (Chip.zeroBuckles c).fixed = c.fixed := by
  simp [Chip.zeroBuckles]
@[simp] theorem Chip.completeJob_fixed (c : Chip) (j : LoadJob) (status : Byte) (step : Nat) (result : BitVec 64) :
    (Chip.completeJob c j status step result).fixed = c.fixed := by
  simp [Chip.completeJob]
@[simp] theorem Chip.failJob_fixed (c : Chip) (j : LoadJob) (status : Byte) (step : Nat) : (Chip.failJob c j status
    step).fixed = c.fixed := by
  simp [Chip.failJob]
@[simp] theorem Chip.refuseStale_fixed (c : Chip) : (Chip.refuseStale c).fixed = c.fixed := by
  simp [Chip.refuseStale]
@[simp] theorem Chip.beginJob_fixed (c : Chip) : (Chip.beginJob c).fixed = c.fixed := by
  unfold Chip.beginJob
  dsimp only
  (repeat' split) <;> simp
@[simp] theorem Chip.endJob_fixed (c : Chip) : (Chip.endJob c).fixed = c.fixed := by
  simp [Chip.endJob]
@[simp] theorem Chip.sectionsRead_fixed (c : Chip) (j : LoadJob) (before : Nat) : (Chip.sectionsRead c j before).fixed
    = c.fixed := by
  unfold Chip.sectionsRead
  refine Chip.foldl_fixed _ (fun c d => ?_) _ _
  (repeat' split) <;> simp
@[simp] theorem Chip.readMore_fixed (c : Chip) (j : LoadJob) : (Chip.readMore c j).fixed = c.fixed := by
  simp [Chip.readMore]
@[simp] theorem Chip.loaderCycle_fixed (c : Chip) : (Chip.loaderCycle c).fixed = c.fixed := by
  unfold Chip.loaderCycle
  (repeat' split) <;> simp
@[simp] theorem Chip.addJob_fixed (c : Chip) (j : LoadJob) : (Chip.addJob c j).fixed = c.fixed := by
  simp [Chip.addJob]
@[simp] theorem Chip.discardJobs_fixed (c : Chip) (p : LoadJob → Bool) : (Chip.discardJobs c p).fixed = c.fixed := by
  simp [Chip.discardJobs]
@[simp] theorem Chip.setTaps_fixed (c : Chip) (links : List Rec) (n : Fin 6) : (Chip.setTaps c links n).fixed = c.fixed
    := by
  unfold Chip.setTaps
  split <;> simp
@[simp] theorem Chip.install_fixed (c : Chip) (b : List Byte) : (Chip.install c b).fixed = c.fixed := by
  unfold Chip.install
  split <;> simp
@[simp] theorem Chip.startDevices_fixed (c : Chip) (k : BitVec 3) : (Chip.startDevices c k).fixed = c.fixed := by
  simp [Chip.startDevices]
@[simp] theorem Chip.train_fixed (c : Chip) (fail : Byte) : (Chip.train c fail).fixed = c.fixed := by
  simp [Chip.train]
@[simp] theorem Chip.ddrTraining_fixed (c : Chip) (fail : Byte) : (Chip.ddrTraining c fail).fixed = c.fixed := by
  unfold Chip.ddrTraining
  split <;> simp
@[simp] theorem Chip.loadComplete_fixed (c : Chip) : (Chip.loadComplete c).fixed = c.fixed := by
  unfold Chip.loadComplete
  split <;> simp
@[simp] theorem Chip.loadFailed_fixed (c : Chip) : (Chip.loadFailed c).fixed = c.fixed := by
  unfold Chip.loadFailed
  split <;> simp
@[simp] theorem Chip.flashLoad_fixed (c : Chip) (tries : Nat) : (Chip.flashLoad c tries).fixed = c.fixed := by
  simp [Chip.flashLoad]
@[simp] theorem Chip.boot_fixed (c : Chip) : (Chip.boot c).fixed = c.fixed := by
  unfold Chip.boot
  (repeat' split) <;> simp
@[simp] theorem Chip.spiRetry_fixed (c : Chip) : (Chip.spiRetry c).fixed = c.fixed := by
  simp [Chip.spiRetry]
@[simp] theorem Chip.sessionsRewritten_fixed (c : Chip) (cls : BitVec 16) (a b : List Byte) : (Chip.sessionsRewritten
    c cls a b).fixed = c.fixed := by
  simp [Chip.sessionsRewritten]
@[simp] theorem Chip.switchRegion_fixed (c : Chip) (r : BitVec 6) : (Chip.switchRegion c r).fixed = c.fixed := by
  unfold Chip.switchRegion
  split <;> simp
@[simp] theorem Chip.pendRegion_fixed (c : Chip) (r : BitVec 6) (b : List Byte) (rs : List Rec) : (Chip.pendRegion c
    r b rs).fixed = c.fixed := by
  simp [Chip.pendRegion]
@[simp] theorem Chip.regionVerified_fixed (c : Chip) : (Chip.regionVerified c).fixed = c.fixed := by
  unfold Chip.regionVerified
  split <;> simp
@[simp] theorem Chip.applyRegions_fixed (c : Chip) : (Chip.applyRegions c).fixed = c.fixed := by
  simp [Chip.applyRegions]
@[simp] theorem Chip.cancelRegion_fixed (c : Chip) (r : BitVec 6) : (Chip.cancelRegion c r).2.fixed = c.fixed := by
  unfold Chip.cancelRegion
  dsimp only
  (repeat' split) <;> simp

/-! ### Commands -/

@[simp] theorem Chip.take_fixed (c : Chip) (src : Src) (d : Desc) : (Chip.take c src d).fixed = c.fixed := by
  unfold Chip.take
  split <;> simp
@[simp] theorem Chip.refuse_fixed (c : Chip) (src : Src) (d : Desc) (status : Byte) : (Chip.refuse c src d
    status).fixed = c.fixed := by
  simp [Chip.refuse]
@[simp] theorem Chip.done_fixed (c : Chip) (src : Src) (d : Desc) (aux : Byte) (result : BitVec 64) : (Chip.done c
    src d aux result).fixed = c.fixed := by
  simp [Chip.done]
@[simp] theorem Chip.serve_fixed (c : Chip) (src : Src) (d : Desc) (f : Chip → Chip) (hf : ∀ c , (f c ).fixed =
    c.fixed) : (Chip.serve c src d f).fixed = c.fixed := by
  simp [Chip.serve, *]
@[simp] theorem Chip.command_fixed (c : Chip) (src : Src) (d : Desc) (op : Nat) (fields : Chip → Bool) (f : Chip →
    Chip) (hf : ∀ c , (f c ).fixed = c.fixed) : (Chip.command c src d op fields f).fixed = c.fixed := by
  simp [Chip.command, *]
@[simp] theorem Chip.reckonLines_fixed (c : Chip) (d : Desc) (bytes : List Byte) : (Chip.reckonLines c d bytes).fixed
    = c.fixed := by
  simp [Chip.reckonLines]
@[simp] theorem Chip.reckon_fixed (c : Chip) (src : Src) (d : Desc) : (Chip.reckon c src d).fixed = c.fixed := by
  unfold Chip.reckon
  split <;> simp
@[simp] theorem Chip.census_fixed (c : Chip) (src : Src) (d : Desc) : (Chip.census c src d).fixed = c.fixed := by
  unfold Chip.census
  extract_lets target mode n c' here origin
  split
  · split <;> simp [c']
  split
  · simp
  split
  · simp
  · rename_i h
    have hx := Chip.armSlot_fixed _ _ _ h
    dsimp only
    split <;> simp [hx]
@[simp] theorem Chip.harnessLoad_fixed (c : Chip) (src : Src) (d : Desc) : (Chip.harnessLoad c src d).fixed = c.fixed
    := by
  simp [Chip.harnessLoad]
@[simp] theorem Chip.harnessRegion_fixed (c : Chip) (src : Src) (d : Desc) : (Chip.harnessRegion c src d).fixed =
    c.fixed := by
  unfold Chip.harnessRegion
  split <;> simp
@[simp] theorem Chip.harnessCancel_fixed (c : Chip) (src : Src) (d : Desc) : (Chip.harnessCancel c src d).fixed =
    c.fixed := by
  unfold Chip.harnessCancel
  split <;> simp
@[simp] theorem Chip.sessionOpen_fixed (c : Chip) (src : Src) (d : Desc) : (Chip.sessionOpen c src d).fixed = c.fixed
    := by
  unfold Chip.sessionOpen
  dsimp only
  (repeat' split) <;> simp
@[simp] theorem Chip.sessionClose_fixed (c : Chip) (src : Src) (d : Desc) : (Chip.sessionClose c src d).fixed =
    c.fixed := by
  simp [Chip.sessionClose]
@[simp] theorem Chip.sessionAdapt_fixed (c : Chip) (src : Src) (d : Desc) : (Chip.sessionAdapt c src d).fixed =
    c.fixed := by
  simp [Chip.sessionAdapt]
@[simp] theorem Chip.buckleGo_fixed (c : Chip) (src : Src) (d : Desc) (op : Nat) (payload : Nat) : (Chip.buckleGo c
    src d op payload).fixed = c.fixed := by
  simp [Chip.buckleGo]
@[simp] theorem Chip.settingsWrite_fixed (c : Chip) (src : Src) (d : Desc) : (Chip.settingsWrite c src d).fixed =
    c.fixed := by
  simp [Chip.settingsWrite]
@[simp] theorem Chip.streamBind_fixed (c : Chip) (src : Src) (d : Desc) : (Chip.streamBind c src d).fixed = c.fixed
    := by
  simp [Chip.streamBind]
@[simp] theorem Chip.faultAck_fixed (c : Chip) (src : Src) (d : Desc) : (Chip.faultAck c src d).fixed = c.fixed := by
  simp [Chip.faultAck]
@[simp] theorem Chip.epochSet_fixed (c : Chip) (src : Src) (d : Desc) : (Chip.epochSet c src d).fixed = c.fixed := by
  simp [Chip.epochSet]
@[simp] theorem Chip.resetSoft_fixed (c : Chip) (src : Src) (d : Desc) : (Chip.resetSoft c src d).fixed = c.fixed := by
  simp [Chip.resetSoft]

/-! ### RegWrite -/

@[simp] theorem Chip.unsealed_fixed (c : Chip) (f : Chip → Chip) (hf : ∀ c , (f c ).fixed = c.fixed) : (Chip.unsealed
    c f).fixed = c.fixed := by
  simp [Chip.unsealed, *]
@[simp] theorem Chip.glbWrite_fixed (c : Chip) (r : Nat) (v : Word) : (Chip.glbWrite c r v).fixed = c.fixed := by
  unfold Chip.glbWrite
  repeat' first | (simp [*]; done) | split | (apply Chip.unsealed_fixed; intros)
@[simp] theorem Chip.hnsWrite_fixed (c : Chip) (r : Nat) (v : Word) : (Chip.hnsWrite c r v).fixed = c.fixed := by
  simp [Chip.hnsWrite]
@[simp] theorem Chip.bklWrite_fixed (c : Chip) (r : Nat) (v : Word) : (Chip.bklWrite c r v).fixed = c.fixed := by
  simp [Chip.bklWrite]
@[simp] theorem Chip.fabWrite_fixed (c : Chip) (r : Nat) (v : Word) : (Chip.fabWrite c r v).fixed = c.fixed := by
  unfold Chip.fabWrite
  split <;> simp
@[simp] theorem Chip.winByHost_fixed (c : Chip) (k : BitVec 3) (i : Nat) (w : BitVec 9) : (Chip.winByHost c k i
    w).fixed = c.fixed := by
  unfold Chip.winByHost
  dsimp only
  (repeat' split) <;> simp
@[simp] theorem Chip.chanWrite_fixed (c : Chip) (k : BitVec 3) (r : Nat) (v : Word) : (Chip.chanWrite c k r v).fixed
    = c.fixed := by
  simp [Chip.chanWrite]
@[simp] theorem Chip.tmeRegWrite_fixed (c : Chip) (t : BitVec 4) (r : Nat) (v : Word) : (Chip.tmeRegWrite c t r
    v).fixed = c.fixed := by
  simp [Chip.tmeRegWrite]
@[simp] theorem Chip.memWrite_fixed (c : Chip) (r : Nat) (v : Word) : (Chip.memWrite c r v).fixed = c.fixed := by
  simp [Chip.memWrite]
@[simp] theorem Chip.kvwWrite_fixed (c : Chip) (w : BitVec 4) (r : Nat) (v : Word) : (Chip.kvwWrite c w r v).fixed =
    c.fixed := by
  simp [Chip.kvwWrite]
@[simp] theorem Chip.audPortWrite_fixed (c : Chip) (p : Fin 8) (r : Nat) (v : Word) : (Chip.audPortWrite c p r
    v).fixed = c.fixed := by
  unfold Chip.audPortWrite
  (repeat' split) <;> simp
@[simp] theorem Chip.audArmWritten_fixed (c : Chip) (v : Word) : (Chip.audArmWritten c v).fixed = c.fixed := by
  simp [Chip.audArmWritten]
@[simp] theorem Chip.audWrite_fixed (c : Chip) (r : Nat) (v : Word) : (Chip.audWrite c r v).fixed = c.fixed := by
  unfold Chip.audWrite
  split <;> simp
@[simp] theorem Chip.fheWrite_fixed (c : Chip) (r : Nat) (v : Word) : (Chip.fheWrite c r v).fixed = c.fixed := by
  unfold Chip.fheWrite
  (repeat' split) <;> simp
@[simp] theorem Chip.prodCheck_fixed (c : Chip) : (Chip.prodCheck c).fixed = c.fixed := by
  simp [Chip.prodCheck]
@[simp] theorem Chip.hifCtlWritten_fixed (c : Chip) (v : BitVec 3) : (Chip.hifCtlWritten c v).fixed = c.fixed := by
  simp [Chip.hifCtlWritten]
@[simp] theorem Chip.cmdProdWritten_fixed (c : Chip) (v : BitVec 16) : (Chip.cmdProdWritten c v).fixed = c.fixed := by
  simp [Chip.cmdProdWritten]
@[simp] theorem Chip.ringParam_fixed (c : Chip) (f : Hif → Hif) : (Chip.ringParam c f).fixed = c.fixed := by
  simp [Chip.ringParam]
@[simp] theorem Chip.msixWritten_fixed (c : Chip) (n k : Nat) (v : Word) : (Chip.msixWritten c n k v).fixed = c.fixed
    := by
  simp [Chip.msixWritten]
@[simp] theorem Chip.hifWrite_fixed (c : Chip) (r : Nat) (v : Word) : (Chip.hifWrite c r v).fixed = c.fixed := by
  simp [Chip.hifWrite]
@[simp] theorem Chip.umlWrite_fixed (c : Chip) (r : Nat) (v : Word) : (Chip.umlWrite c r v).fixed = c.fixed := by
  unfold Chip.umlWrite
  (repeat' split) <;> simp
@[simp] theorem Chip.cnsWrite_fixed (c : Chip) (r : Nat) (v : Word) : (Chip.cnsWrite c r v).fixed = c.fixed := by
  unfold Chip.cnsWrite
  split <;> simp
@[simp] theorem Chip.fltWrite_fixed (c : Chip) (r : Nat) (v : Word) : (Chip.fltWrite c r v).fixed = c.fixed := by
  simp [Chip.fltWrite]
@[simp] theorem Chip.sfeWrite_fixed (c : Chip) (r : Nat) (v : Word) : (Chip.sfeWrite c r v).fixed = c.fixed := by
  simp [Chip.sfeWrite]
@[simp] theorem Chip.tileRegWrite_fixed (c : Chip) (t : TileId) (r : Nat) (v : Word) : (Chip.tileRegWrite c t r
    v).fixed = c.fixed := by
  simp [Chip.tileRegWrite]

/-! ### Arrivals -/

@[simp] theorem Chip.dataArrives_fixed (c : Chip) (e : Eid) (p : Packet) (inPort : RPort) : (Chip.dataArrives c e p
    inPort).fixed = c.fixed := by
  unfold Chip.dataArrives
  split <;> simp
@[simp] theorem Chip.notifyArrives_fixed (c : Chip) (e : Eid) (p : Packet) (inPort : RPort) : (Chip.notifyArrives c e
    p inPort).fixed = c.fixed := by
  unfold Chip.notifyArrives
  split <;> simp
@[simp] theorem Chip.readArrives_fixed (c : Chip) (e : Eid) (p : Packet) : (Chip.readArrives c e p).fixed = c.fixed
    := by
  unfold Chip.readArrives
  split <;> simp
@[simp] theorem Chip.answer_fixed (c : Chip) (e : Eid) (use : SlotUse) (l : Option Line) (timedOut : Bool) :
    (Chip.answer c e use l timedOut).fixed = c.fixed := by
  unfold Chip.answer
  (repeat' split) <;> simp
@[simp] theorem Chip.responseArrives_fixed (c : Chip) (e : Eid) (p : Packet) : (Chip.responseArrives c e p).fixed =
    c.fixed := by
  simp [Chip.responseArrives]
@[simp] theorem Chip.slotTimeout_fixed (c : Chip) (e : Eid) (k : BitVec 5) : (Chip.slotTimeout c e k).fixed = c.fixed
    := by
  simp [Chip.slotTimeout]
@[simp] theorem Chip.cmdArrives_fixed (c : Chip) (e : Eid) (p : Packet) : (Chip.cmdArrives c e p).fixed = c.fixed := by
  simp [Chip.cmdArrives]
@[simp] theorem Chip.arrives_fixed (c : Chip) (e : Eid) (f : Chip → Chip) (hf : ∀ c , (f c ).fixed = c.fixed) :
    (Chip.arrives c e f).fixed = c.fixed := by
  simp [Chip.arrives, *]

end Sys2Proof.Machine
end

