-- ==== Sys2Proof/Laws/FixedClock.lean ====
section
/-!
SUPPORT. Laws/FixedClock.lean: operations of resets, releases and the clock that leave it.
-/
namespace Sys2Proof.Machine
open Sys2Proof

/-! ### Reset -/

@[simp] theorem Chip.finishBursts_fixed (c : Chip) : (Chip.finishBursts c).fixed = c.fixed := by
  simp [Chip.finishBursts]
@[simp] theorem Chip.begin_seq_fixed (c : Chip) (n : Nat) : (Chip.begin_ c n).fixed = c.fixed := by
  simp [Chip.begin_]
@[simp] theorem Chip.becomeReady_fixed (c : Chip) : (Chip.becomeReady c).fixed = c.fixed := by
  unfold Chip.becomeReady
  split <;> simp
@[simp] theorem Chip.unlockPll_fixed (c : Chip) (k : BitVec 2) : (Chip.unlockPll c k).fixed = c.fixed := by
  simp [Chip.unlockPll]
@[simp] theorem Chip.sample_fixed (c : Chip) (codes : BitVec 128) : (Chip.sample c codes).fixed = c.fixed := by
  unfold Chip.sample
  split <;> simp

/-! ### Release -/

@[simp] theorem Chip.releaseDay_fixed (c : Chip) : (Chip.releaseDay c).fixed = c.fixed := by
  simp [Chip.releaseDay]
@[simp] theorem Chip.applyDue_fixed (c : Chip) : (Chip.applyDue c).fixed = c.fixed := by
  unfold Chip.applyDue
  (repeat' split) <;> simp
@[simp] theorem Chip.freeSessions_fixed (c : Chip) : (Chip.freeSessions c).fixed = c.fixed := by
  simp [Chip.freeSessions]
@[simp] theorem Chip.freeArms_fixed (c : Chip) : (Chip.freeArms c).fixed = c.fixed := by
  simp [Chip.freeArms]

/-! ### Clock -/

@[simp] theorem Chip.noteConflict_fixed (c : Chip) (t : TileId) (bank : Nat) : (Chip.noteConflict c t bank).fixed =
    c.fixed := by
  simp [Chip.noteConflict]
@[simp] theorem Chip.bankPhase_fixed (c : Chip) (t : TileId) : (Chip.bankPhase c t).fixed = c.fixed := by
  unfold Chip.bankPhase
  dsimp only
  repeat' first | (simp [*]; done) | split | (refine Chip.foldl_fixed _ ?_ _ _; intros)
@[simp] theorem Chip.noteStalls_fixed (c : Chip) : (Chip.noteStalls c).fixed = c.fixed := by
  simp [Chip.noteStalls]
@[simp] theorem Chip.engines_fixed (c : Chip) : (Chip.engines c).fixed = c.fixed := by
  simp [Chip.engines]
@[simp] theorem Chip.fhVector_fixed (c : Chip) : (Chip.fhVector c).fixed = c.fixed := by
  simp [Chip.fhVector]
@[simp] theorem Chip.audioCycle_fixed (c : Chip) : (Chip.audioCycle c).fixed = c.fixed := by
  simp [Chip.audioCycle]
@[simp] theorem Chip.endOfCycle_fixed (c : Chip) : (Chip.endOfCycle c).fixed = c.fixed := by
  simp [Chip.endOfCycle]
@[simp] theorem Chip.nextCycle_fixed (c : Chip) : (Chip.nextCycle c).fixed = c.fixed := by
  simp [Chip.nextCycle]
@[simp] theorem Chip.readRing_fixed (c : Chip) : (Chip.readRing c).fixed = c.fixed := by
  simp [Chip.readRing]
@[simp] theorem Chip.nextCommand_fixed (c : Chip) : (Chip.nextCommand c).2.fixed = c.fixed := by
  simp [Chip.nextCommand]
@[simp] theorem Chip.planRow_fixed (c : Chip) (k : BitVec 3) (e : Img.PlanEntry) (j : Nat) : (Chip.planRow c k e
    j).2.fixed = c.fixed := by
  unfold Chip.planRow
  split <;> simp
@[simp] theorem Chip.planRows_fixed (c : Chip) (k : BitVec 3) : (Chip.planRows c k).2.fixed = c.fixed := by
  unfold Chip.planRows
  repeat' first | (simp; done) | split | (refine (Chip.foldl_fixed_snd _ ?_ _ _).trans ?_ <;> intros)
@[simp] theorem Chip.openingRows_fixed (c : Chip) : (Chip.openingRows c).2.fixed = c.fixed := by
  unfold Chip.openingRows
  extract_lets plan c' 
  have h : c'.fixed = c.fixed := by
    refine (Chip.foldl_fixed_snd _ ?_ _ _).trans rfl
    intros; simp
  simp only [Chip.nextCommand_fixed, Chip.noteFull_fixed, h]
@[simp] theorem Chip.bundleRows_fixed (c : Chip) (t : TileId) : (Chip.bundleRows c t).2.fixed = c.fixed := by
  unfold Chip.bundleRows
  dsimp only
  (repeat' split) <;> simp
@[simp] theorem Chip.tileRows_fixed (c : Chip) : (Chip.tileRows c).2.fixed = c.fixed := by
  unfold Chip.tileRows
  repeat' first | (simp; done) | split | (refine (Chip.foldl_fixed_snd _ ?_ _ _).trans ?_ <;> intros)
@[simp] theorem Chip.lastCycle_fixed (c : Chip) : (Chip.lastCycle c).2.fixed = c.fixed := by
  simp [Chip.lastCycle]
@[simp] theorem Chip.dayPorts_fixed (c : Chip) : (Chip.dayPorts c).fixed = c.fixed := by
  simp [Chip.dayPorts]
@[simp] theorem Chip.pass_fixed (c : Chip) : (Chip.pass c).2.fixed = c.fixed := by
  simp [Chip.pass]
@[simp] theorem Chip.clock_fixed (c : Chip) : (Chip.clock c).2.fixed = c.fixed := by
  unfold Chip.clock
  dsimp only
  (repeat' split) <;> simp

end Sys2Proof.Machine
end

