-- ==== Sys2Proof/Laws/Image.lean ====
section
/-!
SUPPORT. Laws/Image.lean: the image checks where they pass: records without router tables, and an image every step of
whose verification passes (R129, R265, R281).
-/
namespace Sys2Proof.Machine

namespace Img

/-- No record of a section is one of any KIND of it. -/
theorem recsOf_absent (rs : List Rec) (sec kind : Nat) (h : ∀ r ∈ rs, r.sec.toNat ≠ sec) : recsOf rs sec kind = [] := by
  simp only [recsOf, List.filter_eq_nil_iff]
  intro r hr
  simp [h r hr]

theorem entryOf_absent (rs : List Rec) (kind : Nat) (r : Eid) (i : Nat) (h : ∀ r ∈ rs, r.sec.toNat ≠ 7) :
    entryOf rs kind r i = 0 := by
  simp [entryOf, recsOf_absent rs 7 kind h]

/-- Records without router tables pass R265's checks: every entry is the invalid one. -/
theorem localOk_absent (g : Chip) (rs : List Rec) (h : ∀ r ∈ rs, r.sec.toNat ≠ 7) : localOk g rs = true := by
  have v (i : Nat) : ((covered g).any fun r => flag (entryOf rs 0 r i) 7) = false := by
    simp [entryOf_absent rs 0 _ i h, flag]
  simp only [localOk, recsOf_absent rs 7 _ h, List.all_nil, v, Bool.not_false, Bool.true_or, Bool.and_true, Bool.true_and]
  simp

/-- Records without router tables pass the checks of the multicast trees (R281, R283). -/
theorem treesOk_absent (rs : List Rec) (h : ∀ r ∈ rs, r.sec.toNat ≠ 7) : treesOk rs = true := by
  have v (t : Nat) : treeMasks rs t = [] := by simp [treeMasks, recsOf_absent rs 7 _ h]
  simp [treesOk, recsOf_absent rs 7 _ h, v, treeMoves, pairs]

/-- What is left of the record checks where no record is a router table. -/
theorem recordsOk_absent (g : Chip) (rs : List Rec) (h : ∀ r ∈ rs, r.sec.toNat ≠ 7) :
    recordsOk g rs =
      (identitiesOk rs && rs.all routerBodyOk && skiveOk rs && kvOk g rs && streamsOk g rs &&
        (recsOf rs 0x0E 0).all (fun r => audioBodyOk g r.body) && sessionsOk g rs && spdOk g rs && fronthaulOk g rs) := by
  simp [recordsOk, localOk_absent g rs h, treesOk_absent rs h]

end Img

namespace Chip

/-- Step 8 of a region image while no other image waits: merged once. -/
theorem regionOk_alone (c : Chip) (r : BitVec 6) (b : List Byte) (rs : List Rec) (m : List Byte)
    (hm : c.regionMap r = some m) (hp : c.pendingImages r = [])
    (h : (Img.dirs b).all (fun d => Img.regionMayCarry d.type) = true ∧ Img.countOf b 0x02 ≤ 1 ∧
      rs.all (Img.targetOk true) = true ∧ Img.tileRecsOk c rs = true ∧
      rs.all (fun x => Img.inShadow m (c.region r).copy x && (Img.tilesOf x).all (Img.onMask m)) = true ∧
      rs.all (fun x => !(Img.isOwned x) || c.mayOwn r x) = true)
    (ha : ∀ a, Img.sectionOf b 0x02 = some a → Img.Alma.ok a true = true)
    (hs : (regionImage b rs).plans.all
      (fun p => p.2.all fun s => s.region = r && Img.onMask m s.tile.toNat) = true)
    (hg : c.mergedOk [(r, regionImage b rs)] = true) : c.regionOk r b rs = true := by
  obtain ⟨h1, h2, h3, h4, h5, h6⟩ := h
  simp only [regionOk, hm, hp, h1, h2, h3, h4, h5, h6, hs, hg, List.all_nil, List.nil_append, decide_true, Bool.and_self]
  split
  · simp [ha _ ‹_›]
  · rfl

/-- An unsigned full image passes where steps 1 to 8 do and secure boot is off (R129). -/
theorem verify_full (c : Chip) (b : List Byte) (len : Nat)
    (h : Img.magic b = [0x4C, 0x58, 0x48, 0x4E] ∧ Img.headerOk b len = true ∧ Img.isRegion b = false ∧
      (Img.steppings b).testBit c.steppingBit = true ∧ c.glb.secureBoot = false ∧ Img.signed b = false ∧
      Img.computed b = Img.digest b ∧ Img.dirOk b = true ∧ Img.digestsOk b = true ∧ (Img.allRecords b).isNone = false)
    (h8 : c.fullOk b ((Img.allRecords b).getD []) = true) : c.verify b len none = Img.pass := by
  obtain ⟨h1, h2, h3, h4, h5, h6, h7, h9, h10, h11⟩ := h
  simp [verify, verifyHead, verifyRest, h1, h2, h3, h4, h5, h6, h7, h8, h9, h10, h11]

/-- An unsigned image of region r passes where steps 1 to 9 do, a full image is loaded and secure boot is off (R129). -/
theorem verify_region (c : Chip) (b : List Byte) (len : Nat) (r : BitVec 6)
    (h : Img.magic b = [0x4C, 0x58, 0x48, 0x4E] ∧ Img.headerOk b len = true ∧ Img.isRegion b = true ∧
      Img.updateRegion b = r.toNat ∧ c.hns.loaded = true ∧ Img.baseId b = c.hns.id ∧
      (Img.steppings b).testBit c.steppingBit = true ∧ c.glb.secureBoot = false ∧ Img.signed b = false ∧
      Img.computed b = Img.digest b ∧ Img.dirOk b = true ∧ Img.digestsOk b = true ∧ (Img.allRecords b).isNone = false)
    (h8 : c.regionOk r b ((Img.allRecords b).getD []) = true)
    (h9 : ∀ a, Img.sectionOf b 0x02 = some a → c.almanacEqual a = true) :
    c.verify b len (some r) = Img.pass := by
  obtain ⟨h1, h2, h3, hr, hl, hb, h4, h5, h6, h7, hd, h10, h11⟩ := h
  have hh : c.verifyHead b len (some r) = Img.pass := by
    simp [verifyHead, h1, h2, h3, hr, hl, hb, h4, h5]
  have ha : (match Img.sectionOf b 0x02 with | some a => c.almanacEqual a | none => true) = true := by
    split
    · exact h9 _ ‹_›
    · rfl
  simp [verify, hh, verifyRest, h3, h6, h7, h8, hd, h10, h11]
  exact fun h => absurd (ha.symm.trans h) (by simp)

end Chip
end Sys2Proof.Machine
end

