-- ==== Sys2Proof/Laws/Keeps.lean ====
section
/-!
SUPPORT. Laws/Keeps.lean: what the operations that do change it keep: the part, RUNNING and ARMED apart, the seal.
-/
namespace Sys2Proof.Machine
open Sys2Proof

/-! ### Rows that change it -/

/-- d has c's fuses and flash, never runs and waits for its first day at once, and is sealed if c was. -/
structure Chip.Keeps (c d : Chip) : Prop where
  sold : d.glb.sold = c.glb.sold
  flash : d.flash = c.flash
  run : c.alm.run ≠ (true, true) → d.alm.run ≠ (true, true)
  locked : c.hns.sealed = true → d.hns.sealed = true

theorem Chip.Keeps.of_fixed {c d : Chip} (h : d.fixed = c.fixed) : c.Keeps d := by
  simp only [Chip.fixed, Fixed.mk.injEq] at h
  exact ⟨h.1, h.2.1, fun k => h.2.2.1 ▸ k, fun k => h.2.2.2 ▸ k⟩

theorem Chip.Keeps.refl (c : Chip) : c.Keeps c := .of_fixed rfl

theorem Chip.Keeps.trans {c d e : Chip} (h : c.Keeps d) (k : d.Keeps e) : c.Keeps e :=
  ⟨k.sold.trans h.sold, k.flash.trans h.flash, k.run ∘ h.run, k.locked ∘ h.locked⟩

theorem Chip.Keeps.of_run {c d : Chip} (r : Bool × Bool) (h : d.fixed = ⟨c.glb.sold, c.flash, r, c.hns.sealed⟩)
    (hr : r ≠ (true, true)) : c.Keeps d := by
  simp only [Chip.fixed, Fixed.mk.injEq] at h
  exact ⟨h.1, h.2.1, fun _ => h.2.2.1 ▸ hr, fun k => h.2.2.2 ▸ k⟩

theorem Chip.startWritten_keeps (c : Chip) (m : BitVec 2) : c.Keeps (c.startWritten m) := by
  unfold Chip.startWritten
  split
  · exact .refl c
  · split
    · exact .of_fixed (by simp)
    · rename_i h _
      refine .of_run (false, true) ?_ (by decide)
      simp at h
      dsimp only
      split <;> simp [h.1, Alm.run]

theorem Chip.stopWritten_keeps (c : Chip) : c.Keeps c.stopWritten := by
  unfold Chip.stopWritten
  split
  · exact .of_fixed (by simp)
  · split
    · rename_i h _
      refine .of_run (false, false) ?_ (by decide)
      simp at h
      simp [h]
    · exact .refl c

theorem Chip.beginDay0_keeps (c : Chip) : c.Keeps c.beginDay0 := by
  unfold Chip.beginDay0
  split
  · exact .of_run (true, false) (by simp) (by decide)
  · exact .refl c

theorem Chip.almCtlWritten_keeps (c : Chip) (v : Word) : c.Keeps (c.almCtlWritten v) := by
  unfold Chip.almCtlWritten
  have h0 : c.Keeps (c.setStartMode (fld v 2 2)) := .of_fixed (by simp)
  dsimp only
  split <;> split
  · exact (h0.trans (Chip.stopWritten_keeps _)).trans (Chip.startWritten_keeps _ _)
  · exact h0.trans (Chip.startWritten_keeps _ _)
  · exact h0.trans (Chip.stopWritten_keeps _)
  · exact h0

@[simp] theorem Chip.almParam_fixed (c : Chip) (f : Alm → Alm) (h : ∀ a, (f a).run = a.run) : (c.almParam f).fixed =
    c.fixed := by
  refine Chip.unsealed_fixed _ _ ?_
  intro c
  split <;> simp [h]

theorem Chip.almWrite_keeps (c : Chip) (r : Nat) (v : Word) : c.Keeps (c.almWrite r v) := by
  unfold Chip.almWrite
  split
  · exact Chip.almCtlWritten_keeps _ _
  all_goals first | exact .refl c | exact .of_fixed (by simp) | exact .of_fixed (Chip.almParam_fixed _ _ fun _ => rfl)

theorem Chip.write32_keeps (c : Chip) (o : Nat) (v : Word) : c.Keeps (c.write32 o v) := by
  unfold Chip.write32
  dsimp only
  split
  case h_2 => exact Chip.almWrite_keeps _ _ _
  all_goals exact .of_fixed (by simp)

theorem Chip.writeBar0_keeps (c : Chip) (o n : Nat) (v : BitVec 64) : c.Keeps (c.writeBar0 o n v) := by
  unfold Chip.writeBar0
  split
  · exact .refl c
  split
  · exact Chip.write32_keeps _ _ _
  split
  · exact (Chip.write32_keeps _ _ _).trans (Chip.write32_keeps _ _ _)
  · exact .refl c

theorem Chip.harnessSeal_keeps (c : Chip) (src : Src) (d : Desc) : c.Keeps (c.harnessSeal src d) := by
  unfold Chip.harnessSeal
  split
  · refine Chip.Keeps.trans (d := c.onHns fun h => { h with sealed := true }) ⟨rfl, rfl, id, fun _ => rfl⟩ (.of_fixed
    (by simp))
  · exact .of_fixed (by simp)

theorem Chip.stopAlmanac_keeps (c : Chip) : c.Keeps c.stopAlmanac := by
  unfold Chip.stopAlmanac
  split
  · extract_lets c1
    have h1 : c1.fixed = c.fixed := by simp [c1]
    clear_value c1
    exact (Chip.Keeps.of_fixed h1).trans (.of_run (false, c1.alm.armed) (by simp +zetaDelta) (by simp))
  · exact .refl c

/-- What every row keeps, the resets among them. -/
structure Chip.KeepsR (c d : Chip) : Prop where
  sold : d.glb.sold = c.glb.sold
  flash : d.flash = c.flash
  run : c.alm.run ≠ (true, true) → d.alm.run ≠ (true, true)

theorem Chip.Keeps.weak {c d : Chip} (h : c.Keeps d) : c.KeepsR d := ⟨h.sold, h.flash, h.run⟩
theorem Chip.KeepsR.trans {c d e : Chip} (h : c.KeepsR d) (k : d.KeepsR e) : c.KeepsR e :=
  ⟨k.sold.trans h.sold, k.flash.trans h.flash, k.run ∘ h.run⟩
theorem Chip.KeepsR.of_fixed {c d : Chip} (h : d.fixed = c.fixed) : c.KeepsR d := (Chip.Keeps.of_fixed h).weak

theorem Chip.keptGlb_sold (k : ResetKind) (g : Glb) : (Chip.keptGlb k g).sold = g.sold := by
  cases k <;> rfl

theorem Chip.resetAll_keeps (c : Chip) (k : ResetKind) : c.KeepsR (c.resetAll k) := by
  have h0 : c.KeepsR (if (c.glb.holdDdr && decide (k ≠ .por)) = true then c.finishBursts else c) :=
    .of_fixed (by split <;> simp)
  unfold Chip.resetAll
  extract_lets hold c' driving n₀ n alm n'
  refine h0.trans (d := c') ?_
  have h1 : c'.KeepsR n := ⟨Chip.keptGlb_sold _ _, rfl, fun _ => show (false, false) ≠ (true, true) by decide⟩
  have hn : c'.KeepsR n' := by
    show c'.KeepsR (if _ then _ else _)
    split
    · exact h1
    · exact ⟨h1.sold, h1.flash, fun _ => show (false, false) ≠ (true, true) by decide⟩
  split
  · exact hn.trans (.of_fixed (Chip.emit_fixed _ _))
  · exact hn

theorem Chip.hold_keeps (c : Chip) (k : ResetKind) : c.KeepsR (c.hold k) :=
  (Chip.resetAll_keeps c k).trans (d := c.resetAll k) (.of_fixed (by simp [Chip.hold]))

theorem Chip.released_fixed (c : Chip) (b : BitVec 2) : (c.released b).fixed = c.fixed := by
  unfold Chip.released
  dsimp only
  split <;> split <;> simp

theorem Chip.porAssert_keeps (c : Chip) : c.KeepsR c.porAssert := by
  unfold Chip.porAssert
  split
  · exact Chip.KeepsR.trans (.of_fixed (by simp)) (Chip.hold_keeps _ _)
  · exact .of_fixed rfl
theorem Chip.porRelease_fixed (c : Chip) (b) : (c.porRelease b).fixed = c.fixed := by
  unfold Chip.porRelease
  split <;> simp [Chip.released_fixed]
theorem Chip.warmPin_keeps (c : Chip) : c.KeepsR c.warmPin := by
  unfold Chip.warmPin
  split
  · exact .of_fixed rfl
  · exact Chip.hold_keeps _ _
theorem Chip.sysAssert_keeps (c : Chip) : c.KeepsR c.sysAssert := by
  unfold Chip.sysAssert
  split
  · exact Chip.KeepsR.trans (.of_fixed (by simp)) (Chip.warmPin_keeps _)
  · exact .of_fixed rfl
theorem Chip.sysRelease_fixed (c : Chip) (b) : (c.sysRelease b).fixed = c.fixed := by
  unfold Chip.sysRelease
  split <;> simp [Chip.released_fixed]
theorem Chip.testPin_keeps (c : Chip) (b) : c.KeepsR (c.testPin b) := by
  unfold Chip.testPin
  split
  · exact .of_fixed rfl
  split
  · exact Chip.KeepsR.trans (.of_fixed (by simp)) (Chip.warmPin_keeps _)
  · dsimp only
    exact .of_fixed (by split <;> simp)
theorem Chip.softBegin_keeps (c : Chip) : c.KeepsR c.softBegin := by
  unfold Chip.softBegin
  split
  · exact .of_fixed rfl
  · split
    · exact Chip.KeepsR.trans (Chip.resetAll_keeps c (if c.glb.softFlr then .flr else .soft)) (.of_fixed (by simp))
    · exact .of_fixed rfl
  · exact .of_fixed rfl

end Sys2Proof.Machine
end

