-- ==== Sys2Proof/Laws/State.lean ====
section
/-!
SUPPORT. Laws/State.lean: what the updates of a chip's parts leave alone, one lemma per field and update, and what an updated part is.
-/
namespace Sys2Proof.Machine
open Sys2Proof

section
variable (c : Chip) (t : TileId) (f : Tile → Tile)
@[simp] theorem Chip.onTile_part : (c.onTile t f).part = c.part := rfl
@[simp] theorem Chip.onTile_agenda : (c.onTile t f).agenda = c.agenda := rfl
@[simp] theorem Chip.onTile_now : (c.onTile t f).now = c.now := rfl
@[simp] theorem Chip.onTile_free : (c.onTile t f).free = c.free := rfl
@[simp] theorem Chip.onTile_glb : (c.onTile t f).glb = c.glb := rfl
@[simp] theorem Chip.onTile_alm : (c.onTile t f).alm = c.alm := rfl
@[simp] theorem Chip.onTile_hns : (c.onTile t f).hns = c.hns := rfl
@[simp] theorem Chip.onTile_fab : (c.onTile t f).fab = c.fab := rfl
@[simp] theorem Chip.onTile_uml : (c.onTile t f).uml = c.uml := rfl
@[simp] theorem Chip.onTile_chans : (c.onTile t f).chans = c.chans := rfl
@[simp] theorem Chip.onTile_tmes : (c.onTile t f).tmes = c.tmes := rfl
@[simp] theorem Chip.onTile_kvw : (c.onTile t f).kvw = c.kvw := rfl
@[simp] theorem Chip.onTile_sfe : (c.onTile t f).sfe = c.sfe := rfl
@[simp] theorem Chip.onTile_aud : (c.onTile t f).aud = c.aud := rfl
@[simp] theorem Chip.onTile_fhe : (c.onTile t f).fhe = c.fhe := rfl
@[simp] theorem Chip.onTile_hif : (c.onTile t f).hif = c.hif := rfl
@[simp] theorem Chip.onTile_bkl : (c.onTile t f).bkl = c.bkl := rfl
@[simp] theorem Chip.onTile_cns : (c.onTile t f).cns = c.cns := rfl
@[simp] theorem Chip.onTile_flt : (c.onTile t f).flt = c.flt := rfl
@[simp] theorem Chip.onTile_hostMem : (c.onTile t f).hostMem = c.hostMem := rfl
@[simp] theorem Chip.onTile_flash : (c.onTile t f).flash = c.flash := rfl
@[simp] theorem Chip.onTile_out : (c.onTile t f).out = c.out := rfl
end

section
variable (c : Chip) (t : BitVec 3) (f : Chan → Chan)
@[simp] theorem Chip.onChan_part : (c.onChan t f).part = c.part := rfl
@[simp] theorem Chip.onChan_agenda : (c.onChan t f).agenda = c.agenda := rfl
@[simp] theorem Chip.onChan_now : (c.onChan t f).now = c.now := rfl
@[simp] theorem Chip.onChan_free : (c.onChan t f).free = c.free := rfl
@[simp] theorem Chip.onChan_glb : (c.onChan t f).glb = c.glb := rfl
@[simp] theorem Chip.onChan_alm : (c.onChan t f).alm = c.alm := rfl
@[simp] theorem Chip.onChan_hns : (c.onChan t f).hns = c.hns := rfl
@[simp] theorem Chip.onChan_tiles : (c.onChan t f).tiles = c.tiles := rfl
@[simp] theorem Chip.onChan_fab : (c.onChan t f).fab = c.fab := rfl
@[simp] theorem Chip.onChan_uml : (c.onChan t f).uml = c.uml := rfl
@[simp] theorem Chip.onChan_tmes : (c.onChan t f).tmes = c.tmes := rfl
@[simp] theorem Chip.onChan_kvw : (c.onChan t f).kvw = c.kvw := rfl
@[simp] theorem Chip.onChan_sfe : (c.onChan t f).sfe = c.sfe := rfl
@[simp] theorem Chip.onChan_aud : (c.onChan t f).aud = c.aud := rfl
@[simp] theorem Chip.onChan_fhe : (c.onChan t f).fhe = c.fhe := rfl
@[simp] theorem Chip.onChan_hif : (c.onChan t f).hif = c.hif := rfl
@[simp] theorem Chip.onChan_bkl : (c.onChan t f).bkl = c.bkl := rfl
@[simp] theorem Chip.onChan_cns : (c.onChan t f).cns = c.cns := rfl
@[simp] theorem Chip.onChan_flt : (c.onChan t f).flt = c.flt := rfl
@[simp] theorem Chip.onChan_hostMem : (c.onChan t f).hostMem = c.hostMem := rfl
@[simp] theorem Chip.onChan_flash : (c.onChan t f).flash = c.flash := rfl
@[simp] theorem Chip.onChan_out : (c.onChan t f).out = c.out := rfl
end

section
variable (c : Chip) (t : BitVec 4) (f : Tme → Tme)
@[simp] theorem Chip.onTme_part : (c.onTme t f).part = c.part := rfl
@[simp] theorem Chip.onTme_agenda : (c.onTme t f).agenda = c.agenda := rfl
@[simp] theorem Chip.onTme_now : (c.onTme t f).now = c.now := rfl
@[simp] theorem Chip.onTme_free : (c.onTme t f).free = c.free := rfl
@[simp] theorem Chip.onTme_glb : (c.onTme t f).glb = c.glb := rfl
@[simp] theorem Chip.onTme_alm : (c.onTme t f).alm = c.alm := rfl
@[simp] theorem Chip.onTme_hns : (c.onTme t f).hns = c.hns := rfl
@[simp] theorem Chip.onTme_tiles : (c.onTme t f).tiles = c.tiles := rfl
@[simp] theorem Chip.onTme_fab : (c.onTme t f).fab = c.fab := rfl
@[simp] theorem Chip.onTme_uml : (c.onTme t f).uml = c.uml := rfl
@[simp] theorem Chip.onTme_chans : (c.onTme t f).chans = c.chans := rfl
@[simp] theorem Chip.onTme_kvw : (c.onTme t f).kvw = c.kvw := rfl
@[simp] theorem Chip.onTme_sfe : (c.onTme t f).sfe = c.sfe := rfl
@[simp] theorem Chip.onTme_aud : (c.onTme t f).aud = c.aud := rfl
@[simp] theorem Chip.onTme_fhe : (c.onTme t f).fhe = c.fhe := rfl
@[simp] theorem Chip.onTme_hif : (c.onTme t f).hif = c.hif := rfl
@[simp] theorem Chip.onTme_bkl : (c.onTme t f).bkl = c.bkl := rfl
@[simp] theorem Chip.onTme_cns : (c.onTme t f).cns = c.cns := rfl
@[simp] theorem Chip.onTme_flt : (c.onTme t f).flt = c.flt := rfl
@[simp] theorem Chip.onTme_hostMem : (c.onTme t f).hostMem = c.hostMem := rfl
@[simp] theorem Chip.onTme_flash : (c.onTme t f).flash = c.flash := rfl
@[simp] theorem Chip.onTme_out : (c.onTme t f).out = c.out := rfl
end

section
variable (c : Chip) (t : BitVec 4) (f : Walker → Walker)
@[simp] theorem Chip.onWalker_part : (c.onWalker t f).part = c.part := rfl
@[simp] theorem Chip.onWalker_agenda : (c.onWalker t f).agenda = c.agenda := rfl
@[simp] theorem Chip.onWalker_now : (c.onWalker t f).now = c.now := rfl
@[simp] theorem Chip.onWalker_free : (c.onWalker t f).free = c.free := rfl
@[simp] theorem Chip.onWalker_glb : (c.onWalker t f).glb = c.glb := rfl
@[simp] theorem Chip.onWalker_alm : (c.onWalker t f).alm = c.alm := rfl
@[simp] theorem Chip.onWalker_hns : (c.onWalker t f).hns = c.hns := rfl
@[simp] theorem Chip.onWalker_tiles : (c.onWalker t f).tiles = c.tiles := rfl
@[simp] theorem Chip.onWalker_fab : (c.onWalker t f).fab = c.fab := rfl
@[simp] theorem Chip.onWalker_uml : (c.onWalker t f).uml = c.uml := rfl
@[simp] theorem Chip.onWalker_chans : (c.onWalker t f).chans = c.chans := rfl
@[simp] theorem Chip.onWalker_tmes : (c.onWalker t f).tmes = c.tmes := rfl
@[simp] theorem Chip.onWalker_sfe : (c.onWalker t f).sfe = c.sfe := rfl
@[simp] theorem Chip.onWalker_aud : (c.onWalker t f).aud = c.aud := rfl
@[simp] theorem Chip.onWalker_fhe : (c.onWalker t f).fhe = c.fhe := rfl
@[simp] theorem Chip.onWalker_hif : (c.onWalker t f).hif = c.hif := rfl
@[simp] theorem Chip.onWalker_bkl : (c.onWalker t f).bkl = c.bkl := rfl
@[simp] theorem Chip.onWalker_cns : (c.onWalker t f).cns = c.cns := rfl
@[simp] theorem Chip.onWalker_flt : (c.onWalker t f).flt = c.flt := rfl
@[simp] theorem Chip.onWalker_hostMem : (c.onWalker t f).hostMem = c.hostMem := rfl
@[simp] theorem Chip.onWalker_flash : (c.onWalker t f).flash = c.flash := rfl
@[simp] theorem Chip.onWalker_out : (c.onWalker t f).out = c.out := rfl
end

section
variable (c : Chip) (t : Eid) (f : Router → Router)
@[simp] theorem Chip.onRouter_part : (c.onRouter t f).part = c.part := rfl
@[simp] theorem Chip.onRouter_agenda : (c.onRouter t f).agenda = c.agenda := rfl
@[simp] theorem Chip.onRouter_now : (c.onRouter t f).now = c.now := rfl
@[simp] theorem Chip.onRouter_free : (c.onRouter t f).free = c.free := rfl
@[simp] theorem Chip.onRouter_glb : (c.onRouter t f).glb = c.glb := rfl
@[simp] theorem Chip.onRouter_alm : (c.onRouter t f).alm = c.alm := rfl
@[simp] theorem Chip.onRouter_hns : (c.onRouter t f).hns = c.hns := rfl
@[simp] theorem Chip.onRouter_tiles : (c.onRouter t f).tiles = c.tiles := rfl
@[simp] theorem Chip.onRouter_uml : (c.onRouter t f).uml = c.uml := rfl
@[simp] theorem Chip.onRouter_chans : (c.onRouter t f).chans = c.chans := rfl
@[simp] theorem Chip.onRouter_tmes : (c.onRouter t f).tmes = c.tmes := rfl
@[simp] theorem Chip.onRouter_kvw : (c.onRouter t f).kvw = c.kvw := rfl
@[simp] theorem Chip.onRouter_sfe : (c.onRouter t f).sfe = c.sfe := rfl
@[simp] theorem Chip.onRouter_aud : (c.onRouter t f).aud = c.aud := rfl
@[simp] theorem Chip.onRouter_fhe : (c.onRouter t f).fhe = c.fhe := rfl
@[simp] theorem Chip.onRouter_hif : (c.onRouter t f).hif = c.hif := rfl
@[simp] theorem Chip.onRouter_bkl : (c.onRouter t f).bkl = c.bkl := rfl
@[simp] theorem Chip.onRouter_cns : (c.onRouter t f).cns = c.cns := rfl
@[simp] theorem Chip.onRouter_flt : (c.onRouter t f).flt = c.flt := rfl
@[simp] theorem Chip.onRouter_hostMem : (c.onRouter t f).hostMem = c.hostMem := rfl
@[simp] theorem Chip.onRouter_flash : (c.onRouter t f).flash = c.flash := rfl
@[simp] theorem Chip.onRouter_out : (c.onRouter t f).out = c.out := rfl
end

section
variable (c : Chip) (t : Eid) (f : Endp → Endp)
@[simp] theorem Chip.onEndp_part : (c.onEndp t f).part = c.part := rfl
@[simp] theorem Chip.onEndp_agenda : (c.onEndp t f).agenda = c.agenda := rfl
@[simp] theorem Chip.onEndp_now : (c.onEndp t f).now = c.now := rfl
@[simp] theorem Chip.onEndp_free : (c.onEndp t f).free = c.free := rfl
@[simp] theorem Chip.onEndp_glb : (c.onEndp t f).glb = c.glb := rfl
@[simp] theorem Chip.onEndp_alm : (c.onEndp t f).alm = c.alm := rfl
@[simp] theorem Chip.onEndp_hns : (c.onEndp t f).hns = c.hns := rfl
@[simp] theorem Chip.onEndp_tiles : (c.onEndp t f).tiles = c.tiles := rfl
@[simp] theorem Chip.onEndp_uml : (c.onEndp t f).uml = c.uml := rfl
@[simp] theorem Chip.onEndp_chans : (c.onEndp t f).chans = c.chans := rfl
@[simp] theorem Chip.onEndp_tmes : (c.onEndp t f).tmes = c.tmes := rfl
@[simp] theorem Chip.onEndp_kvw : (c.onEndp t f).kvw = c.kvw := rfl
@[simp] theorem Chip.onEndp_sfe : (c.onEndp t f).sfe = c.sfe := rfl
@[simp] theorem Chip.onEndp_aud : (c.onEndp t f).aud = c.aud := rfl
@[simp] theorem Chip.onEndp_fhe : (c.onEndp t f).fhe = c.fhe := rfl
@[simp] theorem Chip.onEndp_hif : (c.onEndp t f).hif = c.hif := rfl
@[simp] theorem Chip.onEndp_bkl : (c.onEndp t f).bkl = c.bkl := rfl
@[simp] theorem Chip.onEndp_cns : (c.onEndp t f).cns = c.cns := rfl
@[simp] theorem Chip.onEndp_flt : (c.onEndp t f).flt = c.flt := rfl
@[simp] theorem Chip.onEndp_hostMem : (c.onEndp t f).hostMem = c.hostMem := rfl
@[simp] theorem Chip.onEndp_flash : (c.onEndp t f).flash = c.flash := rfl
@[simp] theorem Chip.onEndp_out : (c.onEndp t f).out = c.out := rfl
end

section
variable (c : Chip) (t : Fin 6) (f : Link → Link)
@[simp] theorem Chip.onLink_part : (c.onLink t f).part = c.part := rfl
@[simp] theorem Chip.onLink_agenda : (c.onLink t f).agenda = c.agenda := rfl
@[simp] theorem Chip.onLink_now : (c.onLink t f).now = c.now := rfl
@[simp] theorem Chip.onLink_free : (c.onLink t f).free = c.free := rfl
@[simp] theorem Chip.onLink_glb : (c.onLink t f).glb = c.glb := rfl
@[simp] theorem Chip.onLink_alm : (c.onLink t f).alm = c.alm := rfl
@[simp] theorem Chip.onLink_hns : (c.onLink t f).hns = c.hns := rfl
@[simp] theorem Chip.onLink_tiles : (c.onLink t f).tiles = c.tiles := rfl
@[simp] theorem Chip.onLink_fab : (c.onLink t f).fab = c.fab := rfl
@[simp] theorem Chip.onLink_chans : (c.onLink t f).chans = c.chans := rfl
@[simp] theorem Chip.onLink_tmes : (c.onLink t f).tmes = c.tmes := rfl
@[simp] theorem Chip.onLink_kvw : (c.onLink t f).kvw = c.kvw := rfl
@[simp] theorem Chip.onLink_sfe : (c.onLink t f).sfe = c.sfe := rfl
@[simp] theorem Chip.onLink_aud : (c.onLink t f).aud = c.aud := rfl
@[simp] theorem Chip.onLink_fhe : (c.onLink t f).fhe = c.fhe := rfl
@[simp] theorem Chip.onLink_hif : (c.onLink t f).hif = c.hif := rfl
@[simp] theorem Chip.onLink_bkl : (c.onLink t f).bkl = c.bkl := rfl
@[simp] theorem Chip.onLink_cns : (c.onLink t f).cns = c.cns := rfl
@[simp] theorem Chip.onLink_flt : (c.onLink t f).flt = c.flt := rfl
@[simp] theorem Chip.onLink_hostMem : (c.onLink t f).hostMem = c.hostMem := rfl
@[simp] theorem Chip.onLink_flash : (c.onLink t f).flash = c.flash := rfl
@[simp] theorem Chip.onLink_out : (c.onLink t f).out = c.out := rfl
end

section
variable (c : Chip) (t : BitVec 12) (f : Stream → Stream)
@[simp] theorem Chip.onStream_part : (c.onStream t f).part = c.part := rfl
@[simp] theorem Chip.onStream_agenda : (c.onStream t f).agenda = c.agenda := rfl
@[simp] theorem Chip.onStream_now : (c.onStream t f).now = c.now := rfl
@[simp] theorem Chip.onStream_free : (c.onStream t f).free = c.free := rfl
@[simp] theorem Chip.onStream_glb : (c.onStream t f).glb = c.glb := rfl
@[simp] theorem Chip.onStream_alm : (c.onStream t f).alm = c.alm := rfl
@[simp] theorem Chip.onStream_hns : (c.onStream t f).hns = c.hns := rfl
@[simp] theorem Chip.onStream_tiles : (c.onStream t f).tiles = c.tiles := rfl
@[simp] theorem Chip.onStream_fab : (c.onStream t f).fab = c.fab := rfl
@[simp] theorem Chip.onStream_uml : (c.onStream t f).uml = c.uml := rfl
@[simp] theorem Chip.onStream_chans : (c.onStream t f).chans = c.chans := rfl
@[simp] theorem Chip.onStream_tmes : (c.onStream t f).tmes = c.tmes := rfl
@[simp] theorem Chip.onStream_kvw : (c.onStream t f).kvw = c.kvw := rfl
@[simp] theorem Chip.onStream_aud : (c.onStream t f).aud = c.aud := rfl
@[simp] theorem Chip.onStream_fhe : (c.onStream t f).fhe = c.fhe := rfl
@[simp] theorem Chip.onStream_hif : (c.onStream t f).hif = c.hif := rfl
@[simp] theorem Chip.onStream_bkl : (c.onStream t f).bkl = c.bkl := rfl
@[simp] theorem Chip.onStream_cns : (c.onStream t f).cns = c.cns := rfl
@[simp] theorem Chip.onStream_flt : (c.onStream t f).flt = c.flt := rfl
@[simp] theorem Chip.onStream_hostMem : (c.onStream t f).hostMem = c.hostMem := rfl
@[simp] theorem Chip.onStream_flash : (c.onStream t f).flash = c.flash := rfl
@[simp] theorem Chip.onStream_out : (c.onStream t f).out = c.out := rfl
end

section
variable (c : Chip) (t : BitVec 10) (f : Session → Session)
@[simp] theorem Chip.onSession_part : (c.onSession t f).part = c.part := rfl
@[simp] theorem Chip.onSession_agenda : (c.onSession t f).agenda = c.agenda := rfl
@[simp] theorem Chip.onSession_now : (c.onSession t f).now = c.now := rfl
@[simp] theorem Chip.onSession_free : (c.onSession t f).free = c.free := rfl
@[simp] theorem Chip.onSession_glb : (c.onSession t f).glb = c.glb := rfl
@[simp] theorem Chip.onSession_alm : (c.onSession t f).alm = c.alm := rfl
@[simp] theorem Chip.onSession_hns : (c.onSession t f).hns = c.hns := rfl
@[simp] theorem Chip.onSession_tiles : (c.onSession t f).tiles = c.tiles := rfl
@[simp] theorem Chip.onSession_fab : (c.onSession t f).fab = c.fab := rfl
@[simp] theorem Chip.onSession_uml : (c.onSession t f).uml = c.uml := rfl
@[simp] theorem Chip.onSession_chans : (c.onSession t f).chans = c.chans := rfl
@[simp] theorem Chip.onSession_tmes : (c.onSession t f).tmes = c.tmes := rfl
@[simp] theorem Chip.onSession_kvw : (c.onSession t f).kvw = c.kvw := rfl
@[simp] theorem Chip.onSession_aud : (c.onSession t f).aud = c.aud := rfl
@[simp] theorem Chip.onSession_fhe : (c.onSession t f).fhe = c.fhe := rfl
@[simp] theorem Chip.onSession_hif : (c.onSession t f).hif = c.hif := rfl
@[simp] theorem Chip.onSession_bkl : (c.onSession t f).bkl = c.bkl := rfl
@[simp] theorem Chip.onSession_cns : (c.onSession t f).cns = c.cns := rfl
@[simp] theorem Chip.onSession_flt : (c.onSession t f).flt = c.flt := rfl
@[simp] theorem Chip.onSession_hostMem : (c.onSession t f).hostMem = c.hostMem := rfl
@[simp] theorem Chip.onSession_flash : (c.onSession t f).flash = c.flash := rfl
@[simp] theorem Chip.onSession_out : (c.onSession t f).out = c.out := rfl
end

section
variable (c : Chip) (t : Fin 8) (f : AudPort → AudPort)
@[simp] theorem Chip.onAud_part : (c.onAud t f).part = c.part := rfl
@[simp] theorem Chip.onAud_agenda : (c.onAud t f).agenda = c.agenda := rfl
@[simp] theorem Chip.onAud_now : (c.onAud t f).now = c.now := rfl
@[simp] theorem Chip.onAud_free : (c.onAud t f).free = c.free := rfl
@[simp] theorem Chip.onAud_glb : (c.onAud t f).glb = c.glb := rfl
@[simp] theorem Chip.onAud_alm : (c.onAud t f).alm = c.alm := rfl
@[simp] theorem Chip.onAud_hns : (c.onAud t f).hns = c.hns := rfl
@[simp] theorem Chip.onAud_tiles : (c.onAud t f).tiles = c.tiles := rfl
@[simp] theorem Chip.onAud_fab : (c.onAud t f).fab = c.fab := rfl
@[simp] theorem Chip.onAud_uml : (c.onAud t f).uml = c.uml := rfl
@[simp] theorem Chip.onAud_chans : (c.onAud t f).chans = c.chans := rfl
@[simp] theorem Chip.onAud_tmes : (c.onAud t f).tmes = c.tmes := rfl
@[simp] theorem Chip.onAud_kvw : (c.onAud t f).kvw = c.kvw := rfl
@[simp] theorem Chip.onAud_sfe : (c.onAud t f).sfe = c.sfe := rfl
@[simp] theorem Chip.onAud_fhe : (c.onAud t f).fhe = c.fhe := rfl
@[simp] theorem Chip.onAud_hif : (c.onAud t f).hif = c.hif := rfl
@[simp] theorem Chip.onAud_bkl : (c.onAud t f).bkl = c.bkl := rfl
@[simp] theorem Chip.onAud_cns : (c.onAud t f).cns = c.cns := rfl
@[simp] theorem Chip.onAud_flt : (c.onAud t f).flt = c.flt := rfl
@[simp] theorem Chip.onAud_hostMem : (c.onAud t f).hostMem = c.hostMem := rfl
@[simp] theorem Chip.onAud_flash : (c.onAud t f).flash = c.flash := rfl
@[simp] theorem Chip.onAud_out : (c.onAud t f).out = c.out := rfl
end

section
variable (c : Chip) (t : Fin 2) (f : FhPort → FhPort)
@[simp] theorem Chip.onFh_part : (c.onFh t f).part = c.part := rfl
@[simp] theorem Chip.onFh_agenda : (c.onFh t f).agenda = c.agenda := rfl
@[simp] theorem Chip.onFh_now : (c.onFh t f).now = c.now := rfl
@[simp] theorem Chip.onFh_free : (c.onFh t f).free = c.free := rfl
@[simp] theorem Chip.onFh_glb : (c.onFh t f).glb = c.glb := rfl
@[simp] theorem Chip.onFh_alm : (c.onFh t f).alm = c.alm := rfl
@[simp] theorem Chip.onFh_hns : (c.onFh t f).hns = c.hns := rfl
@[simp] theorem Chip.onFh_tiles : (c.onFh t f).tiles = c.tiles := rfl
@[simp] theorem Chip.onFh_fab : (c.onFh t f).fab = c.fab := rfl
@[simp] theorem Chip.onFh_uml : (c.onFh t f).uml = c.uml := rfl
@[simp] theorem Chip.onFh_chans : (c.onFh t f).chans = c.chans := rfl
@[simp] theorem Chip.onFh_tmes : (c.onFh t f).tmes = c.tmes := rfl
@[simp] theorem Chip.onFh_kvw : (c.onFh t f).kvw = c.kvw := rfl
@[simp] theorem Chip.onFh_sfe : (c.onFh t f).sfe = c.sfe := rfl
@[simp] theorem Chip.onFh_aud : (c.onFh t f).aud = c.aud := rfl
@[simp] theorem Chip.onFh_hif : (c.onFh t f).hif = c.hif := rfl
@[simp] theorem Chip.onFh_bkl : (c.onFh t f).bkl = c.bkl := rfl
@[simp] theorem Chip.onFh_cns : (c.onFh t f).cns = c.cns := rfl
@[simp] theorem Chip.onFh_flt : (c.onFh t f).flt = c.flt := rfl
@[simp] theorem Chip.onFh_hostMem : (c.onFh t f).hostMem = c.hostMem := rfl
@[simp] theorem Chip.onFh_flash : (c.onFh t f).flash = c.flash := rfl
@[simp] theorem Chip.onFh_out : (c.onFh t f).out = c.out := rfl
end

section
variable (c : Chip) (t : BitVec 3) (f : FhRing → FhRing)
@[simp] theorem Chip.onRing_part : (c.onRing t f).part = c.part := rfl
@[simp] theorem Chip.onRing_agenda : (c.onRing t f).agenda = c.agenda := rfl
@[simp] theorem Chip.onRing_now : (c.onRing t f).now = c.now := rfl
@[simp] theorem Chip.onRing_free : (c.onRing t f).free = c.free := rfl
@[simp] theorem Chip.onRing_glb : (c.onRing t f).glb = c.glb := rfl
@[simp] theorem Chip.onRing_alm : (c.onRing t f).alm = c.alm := rfl
@[simp] theorem Chip.onRing_hns : (c.onRing t f).hns = c.hns := rfl
@[simp] theorem Chip.onRing_tiles : (c.onRing t f).tiles = c.tiles := rfl
@[simp] theorem Chip.onRing_fab : (c.onRing t f).fab = c.fab := rfl
@[simp] theorem Chip.onRing_uml : (c.onRing t f).uml = c.uml := rfl
@[simp] theorem Chip.onRing_chans : (c.onRing t f).chans = c.chans := rfl
@[simp] theorem Chip.onRing_tmes : (c.onRing t f).tmes = c.tmes := rfl
@[simp] theorem Chip.onRing_kvw : (c.onRing t f).kvw = c.kvw := rfl
@[simp] theorem Chip.onRing_sfe : (c.onRing t f).sfe = c.sfe := rfl
@[simp] theorem Chip.onRing_aud : (c.onRing t f).aud = c.aud := rfl
@[simp] theorem Chip.onRing_hif : (c.onRing t f).hif = c.hif := rfl
@[simp] theorem Chip.onRing_bkl : (c.onRing t f).bkl = c.bkl := rfl
@[simp] theorem Chip.onRing_cns : (c.onRing t f).cns = c.cns := rfl
@[simp] theorem Chip.onRing_flt : (c.onRing t f).flt = c.flt := rfl
@[simp] theorem Chip.onRing_hostMem : (c.onRing t f).hostMem = c.hostMem := rfl
@[simp] theorem Chip.onRing_flash : (c.onRing t f).flash = c.flash := rfl
@[simp] theorem Chip.onRing_out : (c.onRing t f).out = c.out := rfl
end

section
variable (c : Chip) (t : BitVec 12) (f : Buckle → Buckle)
@[simp] theorem Chip.onBuckle_part : (c.onBuckle t f).part = c.part := rfl
@[simp] theorem Chip.onBuckle_agenda : (c.onBuckle t f).agenda = c.agenda := rfl
@[simp] theorem Chip.onBuckle_now : (c.onBuckle t f).now = c.now := rfl
@[simp] theorem Chip.onBuckle_free : (c.onBuckle t f).free = c.free := rfl
@[simp] theorem Chip.onBuckle_glb : (c.onBuckle t f).glb = c.glb := rfl
@[simp] theorem Chip.onBuckle_alm : (c.onBuckle t f).alm = c.alm := rfl
@[simp] theorem Chip.onBuckle_hns : (c.onBuckle t f).hns = c.hns := rfl
@[simp] theorem Chip.onBuckle_tiles : (c.onBuckle t f).tiles = c.tiles := rfl
@[simp] theorem Chip.onBuckle_fab : (c.onBuckle t f).fab = c.fab := rfl
@[simp] theorem Chip.onBuckle_uml : (c.onBuckle t f).uml = c.uml := rfl
@[simp] theorem Chip.onBuckle_chans : (c.onBuckle t f).chans = c.chans := rfl
@[simp] theorem Chip.onBuckle_tmes : (c.onBuckle t f).tmes = c.tmes := rfl
@[simp] theorem Chip.onBuckle_kvw : (c.onBuckle t f).kvw = c.kvw := rfl
@[simp] theorem Chip.onBuckle_sfe : (c.onBuckle t f).sfe = c.sfe := rfl
@[simp] theorem Chip.onBuckle_aud : (c.onBuckle t f).aud = c.aud := rfl
@[simp] theorem Chip.onBuckle_fhe : (c.onBuckle t f).fhe = c.fhe := rfl
@[simp] theorem Chip.onBuckle_hif : (c.onBuckle t f).hif = c.hif := rfl
@[simp] theorem Chip.onBuckle_cns : (c.onBuckle t f).cns = c.cns := rfl
@[simp] theorem Chip.onBuckle_flt : (c.onBuckle t f).flt = c.flt := rfl
@[simp] theorem Chip.onBuckle_hostMem : (c.onBuckle t f).hostMem = c.hostMem := rfl
@[simp] theorem Chip.onBuckle_flash : (c.onBuckle t f).flash = c.flash := rfl
@[simp] theorem Chip.onBuckle_out : (c.onBuckle t f).out = c.out := rfl
end

section
variable (c : Chip) (t : BitVec 6) (f : Region → Region)
@[simp] theorem Chip.onRegion_part : (c.onRegion t f).part = c.part := rfl
@[simp] theorem Chip.onRegion_agenda : (c.onRegion t f).agenda = c.agenda := rfl
@[simp] theorem Chip.onRegion_now : (c.onRegion t f).now = c.now := rfl
@[simp] theorem Chip.onRegion_free : (c.onRegion t f).free = c.free := rfl
@[simp] theorem Chip.onRegion_glb : (c.onRegion t f).glb = c.glb := rfl
@[simp] theorem Chip.onRegion_alm : (c.onRegion t f).alm = c.alm := rfl
@[simp] theorem Chip.onRegion_tiles : (c.onRegion t f).tiles = c.tiles := rfl
@[simp] theorem Chip.onRegion_fab : (c.onRegion t f).fab = c.fab := rfl
@[simp] theorem Chip.onRegion_uml : (c.onRegion t f).uml = c.uml := rfl
@[simp] theorem Chip.onRegion_chans : (c.onRegion t f).chans = c.chans := rfl
@[simp] theorem Chip.onRegion_tmes : (c.onRegion t f).tmes = c.tmes := rfl
@[simp] theorem Chip.onRegion_kvw : (c.onRegion t f).kvw = c.kvw := rfl
@[simp] theorem Chip.onRegion_sfe : (c.onRegion t f).sfe = c.sfe := rfl
@[simp] theorem Chip.onRegion_aud : (c.onRegion t f).aud = c.aud := rfl
@[simp] theorem Chip.onRegion_fhe : (c.onRegion t f).fhe = c.fhe := rfl
@[simp] theorem Chip.onRegion_hif : (c.onRegion t f).hif = c.hif := rfl
@[simp] theorem Chip.onRegion_bkl : (c.onRegion t f).bkl = c.bkl := rfl
@[simp] theorem Chip.onRegion_cns : (c.onRegion t f).cns = c.cns := rfl
@[simp] theorem Chip.onRegion_flt : (c.onRegion t f).flt = c.flt := rfl
@[simp] theorem Chip.onRegion_hostMem : (c.onRegion t f).hostMem = c.hostMem := rfl
@[simp] theorem Chip.onRegion_flash : (c.onRegion t f).flash = c.flash := rfl
@[simp] theorem Chip.onRegion_out : (c.onRegion t f).out = c.out := rfl
end

section
variable (c : Chip) (f : Glb → Glb)
@[simp] theorem Chip.onGlb_glb : (c.onGlb f).glb = f c.glb := rfl
@[simp] theorem Chip.onGlb_part : (c.onGlb f).part = c.part := rfl
@[simp] theorem Chip.onGlb_agenda : (c.onGlb f).agenda = c.agenda := rfl
@[simp] theorem Chip.onGlb_now : (c.onGlb f).now = c.now := rfl
@[simp] theorem Chip.onGlb_free : (c.onGlb f).free = c.free := rfl
@[simp] theorem Chip.onGlb_alm : (c.onGlb f).alm = c.alm := rfl
@[simp] theorem Chip.onGlb_hns : (c.onGlb f).hns = c.hns := rfl
@[simp] theorem Chip.onGlb_tiles : (c.onGlb f).tiles = c.tiles := rfl
@[simp] theorem Chip.onGlb_fab : (c.onGlb f).fab = c.fab := rfl
@[simp] theorem Chip.onGlb_uml : (c.onGlb f).uml = c.uml := rfl
@[simp] theorem Chip.onGlb_chans : (c.onGlb f).chans = c.chans := rfl
@[simp] theorem Chip.onGlb_tmes : (c.onGlb f).tmes = c.tmes := rfl
@[simp] theorem Chip.onGlb_kvw : (c.onGlb f).kvw = c.kvw := rfl
@[simp] theorem Chip.onGlb_sfe : (c.onGlb f).sfe = c.sfe := rfl
@[simp] theorem Chip.onGlb_aud : (c.onGlb f).aud = c.aud := rfl
@[simp] theorem Chip.onGlb_fhe : (c.onGlb f).fhe = c.fhe := rfl
@[simp] theorem Chip.onGlb_hif : (c.onGlb f).hif = c.hif := rfl
@[simp] theorem Chip.onGlb_bkl : (c.onGlb f).bkl = c.bkl := rfl
@[simp] theorem Chip.onGlb_cns : (c.onGlb f).cns = c.cns := rfl
@[simp] theorem Chip.onGlb_flt : (c.onGlb f).flt = c.flt := rfl
@[simp] theorem Chip.onGlb_hostMem : (c.onGlb f).hostMem = c.hostMem := rfl
@[simp] theorem Chip.onGlb_flash : (c.onGlb f).flash = c.flash := rfl
@[simp] theorem Chip.onGlb_out : (c.onGlb f).out = c.out := rfl
end

section
variable (c : Chip) (f : Alm → Alm)
@[simp] theorem Chip.onAlm_alm : (c.onAlm f).alm = f c.alm := rfl
@[simp] theorem Chip.onAlm_part : (c.onAlm f).part = c.part := rfl
@[simp] theorem Chip.onAlm_agenda : (c.onAlm f).agenda = c.agenda := rfl
@[simp] theorem Chip.onAlm_now : (c.onAlm f).now = c.now := rfl
@[simp] theorem Chip.onAlm_free : (c.onAlm f).free = c.free := rfl
@[simp] theorem Chip.onAlm_glb : (c.onAlm f).glb = c.glb := rfl
@[simp] theorem Chip.onAlm_hns : (c.onAlm f).hns = c.hns := rfl
@[simp] theorem Chip.onAlm_tiles : (c.onAlm f).tiles = c.tiles := rfl
@[simp] theorem Chip.onAlm_fab : (c.onAlm f).fab = c.fab := rfl
@[simp] theorem Chip.onAlm_uml : (c.onAlm f).uml = c.uml := rfl
@[simp] theorem Chip.onAlm_chans : (c.onAlm f).chans = c.chans := rfl
@[simp] theorem Chip.onAlm_tmes : (c.onAlm f).tmes = c.tmes := rfl
@[simp] theorem Chip.onAlm_kvw : (c.onAlm f).kvw = c.kvw := rfl
@[simp] theorem Chip.onAlm_sfe : (c.onAlm f).sfe = c.sfe := rfl
@[simp] theorem Chip.onAlm_aud : (c.onAlm f).aud = c.aud := rfl
@[simp] theorem Chip.onAlm_fhe : (c.onAlm f).fhe = c.fhe := rfl
@[simp] theorem Chip.onAlm_hif : (c.onAlm f).hif = c.hif := rfl
@[simp] theorem Chip.onAlm_bkl : (c.onAlm f).bkl = c.bkl := rfl
@[simp] theorem Chip.onAlm_cns : (c.onAlm f).cns = c.cns := rfl
@[simp] theorem Chip.onAlm_flt : (c.onAlm f).flt = c.flt := rfl
@[simp] theorem Chip.onAlm_hostMem : (c.onAlm f).hostMem = c.hostMem := rfl
@[simp] theorem Chip.onAlm_flash : (c.onAlm f).flash = c.flash := rfl
@[simp] theorem Chip.onAlm_out : (c.onAlm f).out = c.out := rfl
end

section
variable (c : Chip) (f : Hns → Hns)
@[simp] theorem Chip.onHns_hns : (c.onHns f).hns = f c.hns := rfl
@[simp] theorem Chip.onHns_part : (c.onHns f).part = c.part := rfl
@[simp] theorem Chip.onHns_agenda : (c.onHns f).agenda = c.agenda := rfl
@[simp] theorem Chip.onHns_now : (c.onHns f).now = c.now := rfl
@[simp] theorem Chip.onHns_free : (c.onHns f).free = c.free := rfl
@[simp] theorem Chip.onHns_glb : (c.onHns f).glb = c.glb := rfl
@[simp] theorem Chip.onHns_alm : (c.onHns f).alm = c.alm := rfl
@[simp] theorem Chip.onHns_tiles : (c.onHns f).tiles = c.tiles := rfl
@[simp] theorem Chip.onHns_fab : (c.onHns f).fab = c.fab := rfl
@[simp] theorem Chip.onHns_uml : (c.onHns f).uml = c.uml := rfl
@[simp] theorem Chip.onHns_chans : (c.onHns f).chans = c.chans := rfl
@[simp] theorem Chip.onHns_tmes : (c.onHns f).tmes = c.tmes := rfl
@[simp] theorem Chip.onHns_kvw : (c.onHns f).kvw = c.kvw := rfl
@[simp] theorem Chip.onHns_sfe : (c.onHns f).sfe = c.sfe := rfl
@[simp] theorem Chip.onHns_aud : (c.onHns f).aud = c.aud := rfl
@[simp] theorem Chip.onHns_fhe : (c.onHns f).fhe = c.fhe := rfl
@[simp] theorem Chip.onHns_hif : (c.onHns f).hif = c.hif := rfl
@[simp] theorem Chip.onHns_bkl : (c.onHns f).bkl = c.bkl := rfl
@[simp] theorem Chip.onHns_cns : (c.onHns f).cns = c.cns := rfl
@[simp] theorem Chip.onHns_flt : (c.onHns f).flt = c.flt := rfl
@[simp] theorem Chip.onHns_hostMem : (c.onHns f).hostMem = c.hostMem := rfl
@[simp] theorem Chip.onHns_flash : (c.onHns f).flash = c.flash := rfl
@[simp] theorem Chip.onHns_out : (c.onHns f).out = c.out := rfl
end

section
variable (c : Chip) (f : Fab → Fab)
@[simp] theorem Chip.onFab_fab : (c.onFab f).fab = f c.fab := rfl
@[simp] theorem Chip.onFab_part : (c.onFab f).part = c.part := rfl
@[simp] theorem Chip.onFab_agenda : (c.onFab f).agenda = c.agenda := rfl
@[simp] theorem Chip.onFab_now : (c.onFab f).now = c.now := rfl
@[simp] theorem Chip.onFab_free : (c.onFab f).free = c.free := rfl
@[simp] theorem Chip.onFab_glb : (c.onFab f).glb = c.glb := rfl
@[simp] theorem Chip.onFab_alm : (c.onFab f).alm = c.alm := rfl
@[simp] theorem Chip.onFab_hns : (c.onFab f).hns = c.hns := rfl
@[simp] theorem Chip.onFab_tiles : (c.onFab f).tiles = c.tiles := rfl
@[simp] theorem Chip.onFab_uml : (c.onFab f).uml = c.uml := rfl
@[simp] theorem Chip.onFab_chans : (c.onFab f).chans = c.chans := rfl
@[simp] theorem Chip.onFab_tmes : (c.onFab f).tmes = c.tmes := rfl
@[simp] theorem Chip.onFab_kvw : (c.onFab f).kvw = c.kvw := rfl
@[simp] theorem Chip.onFab_sfe : (c.onFab f).sfe = c.sfe := rfl
@[simp] theorem Chip.onFab_aud : (c.onFab f).aud = c.aud := rfl
@[simp] theorem Chip.onFab_fhe : (c.onFab f).fhe = c.fhe := rfl
@[simp] theorem Chip.onFab_hif : (c.onFab f).hif = c.hif := rfl
@[simp] theorem Chip.onFab_bkl : (c.onFab f).bkl = c.bkl := rfl
@[simp] theorem Chip.onFab_cns : (c.onFab f).cns = c.cns := rfl
@[simp] theorem Chip.onFab_flt : (c.onFab f).flt = c.flt := rfl
@[simp] theorem Chip.onFab_hostMem : (c.onFab f).hostMem = c.hostMem := rfl
@[simp] theorem Chip.onFab_flash : (c.onFab f).flash = c.flash := rfl
@[simp] theorem Chip.onFab_out : (c.onFab f).out = c.out := rfl
end

section
variable (c : Chip) (f : Hif → Hif)
@[simp] theorem Chip.onHif_hif : (c.onHif f).hif = f c.hif := rfl
@[simp] theorem Chip.onHif_part : (c.onHif f).part = c.part := rfl
@[simp] theorem Chip.onHif_agenda : (c.onHif f).agenda = c.agenda := rfl
@[simp] theorem Chip.onHif_now : (c.onHif f).now = c.now := rfl
@[simp] theorem Chip.onHif_free : (c.onHif f).free = c.free := rfl
@[simp] theorem Chip.onHif_glb : (c.onHif f).glb = c.glb := rfl
@[simp] theorem Chip.onHif_alm : (c.onHif f).alm = c.alm := rfl
@[simp] theorem Chip.onHif_hns : (c.onHif f).hns = c.hns := rfl
@[simp] theorem Chip.onHif_tiles : (c.onHif f).tiles = c.tiles := rfl
@[simp] theorem Chip.onHif_fab : (c.onHif f).fab = c.fab := rfl
@[simp] theorem Chip.onHif_uml : (c.onHif f).uml = c.uml := rfl
@[simp] theorem Chip.onHif_chans : (c.onHif f).chans = c.chans := rfl
@[simp] theorem Chip.onHif_tmes : (c.onHif f).tmes = c.tmes := rfl
@[simp] theorem Chip.onHif_kvw : (c.onHif f).kvw = c.kvw := rfl
@[simp] theorem Chip.onHif_sfe : (c.onHif f).sfe = c.sfe := rfl
@[simp] theorem Chip.onHif_aud : (c.onHif f).aud = c.aud := rfl
@[simp] theorem Chip.onHif_fhe : (c.onHif f).fhe = c.fhe := rfl
@[simp] theorem Chip.onHif_bkl : (c.onHif f).bkl = c.bkl := rfl
@[simp] theorem Chip.onHif_cns : (c.onHif f).cns = c.cns := rfl
@[simp] theorem Chip.onHif_flt : (c.onHif f).flt = c.flt := rfl
@[simp] theorem Chip.onHif_hostMem : (c.onHif f).hostMem = c.hostMem := rfl
@[simp] theorem Chip.onHif_flash : (c.onHif f).flash = c.flash := rfl
@[simp] theorem Chip.onHif_out : (c.onHif f).out = c.out := rfl
end

section
variable (c : Chip) (f : Bkl → Bkl)
@[simp] theorem Chip.onBkl_bkl : (c.onBkl f).bkl = f c.bkl := rfl
@[simp] theorem Chip.onBkl_part : (c.onBkl f).part = c.part := rfl
@[simp] theorem Chip.onBkl_agenda : (c.onBkl f).agenda = c.agenda := rfl
@[simp] theorem Chip.onBkl_now : (c.onBkl f).now = c.now := rfl
@[simp] theorem Chip.onBkl_free : (c.onBkl f).free = c.free := rfl
@[simp] theorem Chip.onBkl_glb : (c.onBkl f).glb = c.glb := rfl
@[simp] theorem Chip.onBkl_alm : (c.onBkl f).alm = c.alm := rfl
@[simp] theorem Chip.onBkl_hns : (c.onBkl f).hns = c.hns := rfl
@[simp] theorem Chip.onBkl_tiles : (c.onBkl f).tiles = c.tiles := rfl
@[simp] theorem Chip.onBkl_fab : (c.onBkl f).fab = c.fab := rfl
@[simp] theorem Chip.onBkl_uml : (c.onBkl f).uml = c.uml := rfl
@[simp] theorem Chip.onBkl_chans : (c.onBkl f).chans = c.chans := rfl
@[simp] theorem Chip.onBkl_tmes : (c.onBkl f).tmes = c.tmes := rfl
@[simp] theorem Chip.onBkl_kvw : (c.onBkl f).kvw = c.kvw := rfl
@[simp] theorem Chip.onBkl_sfe : (c.onBkl f).sfe = c.sfe := rfl
@[simp] theorem Chip.onBkl_aud : (c.onBkl f).aud = c.aud := rfl
@[simp] theorem Chip.onBkl_fhe : (c.onBkl f).fhe = c.fhe := rfl
@[simp] theorem Chip.onBkl_hif : (c.onBkl f).hif = c.hif := rfl
@[simp] theorem Chip.onBkl_cns : (c.onBkl f).cns = c.cns := rfl
@[simp] theorem Chip.onBkl_flt : (c.onBkl f).flt = c.flt := rfl
@[simp] theorem Chip.onBkl_hostMem : (c.onBkl f).hostMem = c.hostMem := rfl
@[simp] theorem Chip.onBkl_flash : (c.onBkl f).flash = c.flash := rfl
@[simp] theorem Chip.onBkl_out : (c.onBkl f).out = c.out := rfl
end

section
variable (c : Chip) (f : Cns → Cns)
@[simp] theorem Chip.onCns_cns : (c.onCns f).cns = f c.cns := rfl
@[simp] theorem Chip.onCns_part : (c.onCns f).part = c.part := rfl
@[simp] theorem Chip.onCns_agenda : (c.onCns f).agenda = c.agenda := rfl
@[simp] theorem Chip.onCns_now : (c.onCns f).now = c.now := rfl
@[simp] theorem Chip.onCns_free : (c.onCns f).free = c.free := rfl
@[simp] theorem Chip.onCns_glb : (c.onCns f).glb = c.glb := rfl
@[simp] theorem Chip.onCns_alm : (c.onCns f).alm = c.alm := rfl
@[simp] theorem Chip.onCns_hns : (c.onCns f).hns = c.hns := rfl
@[simp] theorem Chip.onCns_tiles : (c.onCns f).tiles = c.tiles := rfl
@[simp] theorem Chip.onCns_fab : (c.onCns f).fab = c.fab := rfl
@[simp] theorem Chip.onCns_uml : (c.onCns f).uml = c.uml := rfl
@[simp] theorem Chip.onCns_chans : (c.onCns f).chans = c.chans := rfl
@[simp] theorem Chip.onCns_tmes : (c.onCns f).tmes = c.tmes := rfl
@[simp] theorem Chip.onCns_kvw : (c.onCns f).kvw = c.kvw := rfl
@[simp] theorem Chip.onCns_sfe : (c.onCns f).sfe = c.sfe := rfl
@[simp] theorem Chip.onCns_aud : (c.onCns f).aud = c.aud := rfl
@[simp] theorem Chip.onCns_fhe : (c.onCns f).fhe = c.fhe := rfl
@[simp] theorem Chip.onCns_hif : (c.onCns f).hif = c.hif := rfl
@[simp] theorem Chip.onCns_bkl : (c.onCns f).bkl = c.bkl := rfl
@[simp] theorem Chip.onCns_flt : (c.onCns f).flt = c.flt := rfl
@[simp] theorem Chip.onCns_hostMem : (c.onCns f).hostMem = c.hostMem := rfl
@[simp] theorem Chip.onCns_flash : (c.onCns f).flash = c.flash := rfl
@[simp] theorem Chip.onCns_out : (c.onCns f).out = c.out := rfl
end

section
variable (c : Chip) (f : Flt → Flt)
@[simp] theorem Chip.onFlt_flt : (c.onFlt f).flt = f c.flt := rfl
@[simp] theorem Chip.onFlt_part : (c.onFlt f).part = c.part := rfl
@[simp] theorem Chip.onFlt_agenda : (c.onFlt f).agenda = c.agenda := rfl
@[simp] theorem Chip.onFlt_now : (c.onFlt f).now = c.now := rfl
@[simp] theorem Chip.onFlt_free : (c.onFlt f).free = c.free := rfl
@[simp] theorem Chip.onFlt_glb : (c.onFlt f).glb = c.glb := rfl
@[simp] theorem Chip.onFlt_alm : (c.onFlt f).alm = c.alm := rfl
@[simp] theorem Chip.onFlt_hns : (c.onFlt f).hns = c.hns := rfl
@[simp] theorem Chip.onFlt_tiles : (c.onFlt f).tiles = c.tiles := rfl
@[simp] theorem Chip.onFlt_fab : (c.onFlt f).fab = c.fab := rfl
@[simp] theorem Chip.onFlt_uml : (c.onFlt f).uml = c.uml := rfl
@[simp] theorem Chip.onFlt_chans : (c.onFlt f).chans = c.chans := rfl
@[simp] theorem Chip.onFlt_tmes : (c.onFlt f).tmes = c.tmes := rfl
@[simp] theorem Chip.onFlt_kvw : (c.onFlt f).kvw = c.kvw := rfl
@[simp] theorem Chip.onFlt_sfe : (c.onFlt f).sfe = c.sfe := rfl
@[simp] theorem Chip.onFlt_aud : (c.onFlt f).aud = c.aud := rfl
@[simp] theorem Chip.onFlt_fhe : (c.onFlt f).fhe = c.fhe := rfl
@[simp] theorem Chip.onFlt_hif : (c.onFlt f).hif = c.hif := rfl
@[simp] theorem Chip.onFlt_bkl : (c.onFlt f).bkl = c.bkl := rfl
@[simp] theorem Chip.onFlt_cns : (c.onFlt f).cns = c.cns := rfl
@[simp] theorem Chip.onFlt_hostMem : (c.onFlt f).hostMem = c.hostMem := rfl
@[simp] theorem Chip.onFlt_flash : (c.onFlt f).flash = c.flash := rfl
@[simp] theorem Chip.onFlt_out : (c.onFlt f).out = c.out := rfl
end

section
variable (c : Chip) (n : Nat) (i : Instr)
@[simp] theorem Chip.post_part : (c.post n i).part = c.part := rfl
@[simp] theorem Chip.post_now : (c.post n i).now = c.now := rfl
@[simp] theorem Chip.post_free : (c.post n i).free = c.free := rfl
@[simp] theorem Chip.post_glb : (c.post n i).glb = c.glb := rfl
@[simp] theorem Chip.post_alm : (c.post n i).alm = c.alm := rfl
@[simp] theorem Chip.post_hns : (c.post n i).hns = c.hns := rfl
@[simp] theorem Chip.post_tiles : (c.post n i).tiles = c.tiles := rfl
@[simp] theorem Chip.post_fab : (c.post n i).fab = c.fab := rfl
@[simp] theorem Chip.post_uml : (c.post n i).uml = c.uml := rfl
@[simp] theorem Chip.post_chans : (c.post n i).chans = c.chans := rfl
@[simp] theorem Chip.post_tmes : (c.post n i).tmes = c.tmes := rfl
@[simp] theorem Chip.post_kvw : (c.post n i).kvw = c.kvw := rfl
@[simp] theorem Chip.post_sfe : (c.post n i).sfe = c.sfe := rfl
@[simp] theorem Chip.post_aud : (c.post n i).aud = c.aud := rfl
@[simp] theorem Chip.post_fhe : (c.post n i).fhe = c.fhe := rfl
@[simp] theorem Chip.post_hif : (c.post n i).hif = c.hif := rfl
@[simp] theorem Chip.post_bkl : (c.post n i).bkl = c.bkl := rfl
@[simp] theorem Chip.post_cns : (c.post n i).cns = c.cns := rfl
@[simp] theorem Chip.post_flt : (c.post n i).flt = c.flt := rfl
@[simp] theorem Chip.post_hostMem : (c.post n i).hostMem = c.hostMem := rfl
@[simp] theorem Chip.post_flash : (c.post n i).flash = c.flash := rfl
@[simp] theorem Chip.post_out : (c.post n i).out = c.out := rfl
end

section
variable (c : Chip) (x : Out)
@[simp] theorem Chip.emit_part : (c.emit x).part = c.part := rfl
@[simp] theorem Chip.emit_agenda : (c.emit x).agenda = c.agenda := rfl
@[simp] theorem Chip.emit_now : (c.emit x).now = c.now := rfl
@[simp] theorem Chip.emit_free : (c.emit x).free = c.free := rfl
@[simp] theorem Chip.emit_glb : (c.emit x).glb = c.glb := rfl
@[simp] theorem Chip.emit_alm : (c.emit x).alm = c.alm := rfl
@[simp] theorem Chip.emit_hns : (c.emit x).hns = c.hns := rfl
@[simp] theorem Chip.emit_tiles : (c.emit x).tiles = c.tiles := rfl
@[simp] theorem Chip.emit_fab : (c.emit x).fab = c.fab := rfl
@[simp] theorem Chip.emit_uml : (c.emit x).uml = c.uml := rfl
@[simp] theorem Chip.emit_chans : (c.emit x).chans = c.chans := rfl
@[simp] theorem Chip.emit_tmes : (c.emit x).tmes = c.tmes := rfl
@[simp] theorem Chip.emit_kvw : (c.emit x).kvw = c.kvw := rfl
@[simp] theorem Chip.emit_sfe : (c.emit x).sfe = c.sfe := rfl
@[simp] theorem Chip.emit_aud : (c.emit x).aud = c.aud := rfl
@[simp] theorem Chip.emit_fhe : (c.emit x).fhe = c.fhe := rfl
@[simp] theorem Chip.emit_hif : (c.emit x).hif = c.hif := rfl
@[simp] theorem Chip.emit_bkl : (c.emit x).bkl = c.bkl := rfl
@[simp] theorem Chip.emit_cns : (c.emit x).cns = c.cns := rfl
@[simp] theorem Chip.emit_flt : (c.emit x).flt = c.flt := rfl
@[simp] theorem Chip.emit_hostMem : (c.emit x).hostMem = c.hostMem := rfl
@[simp] theorem Chip.emit_flash : (c.emit x).flash = c.flash := rfl
end

section
variable (c : Chip) (a : Nat) (bs : List Byte)
@[simp] theorem Chip.hostWrite_part : (c.hostWrite a bs).part = c.part := rfl
@[simp] theorem Chip.hostWrite_agenda : (c.hostWrite a bs).agenda = c.agenda := rfl
@[simp] theorem Chip.hostWrite_now : (c.hostWrite a bs).now = c.now := rfl
@[simp] theorem Chip.hostWrite_free : (c.hostWrite a bs).free = c.free := rfl
@[simp] theorem Chip.hostWrite_glb : (c.hostWrite a bs).glb = c.glb := rfl
@[simp] theorem Chip.hostWrite_alm : (c.hostWrite a bs).alm = c.alm := rfl
@[simp] theorem Chip.hostWrite_hns : (c.hostWrite a bs).hns = c.hns := rfl
@[simp] theorem Chip.hostWrite_tiles : (c.hostWrite a bs).tiles = c.tiles := rfl
@[simp] theorem Chip.hostWrite_fab : (c.hostWrite a bs).fab = c.fab := rfl
@[simp] theorem Chip.hostWrite_uml : (c.hostWrite a bs).uml = c.uml := rfl
@[simp] theorem Chip.hostWrite_chans : (c.hostWrite a bs).chans = c.chans := rfl
@[simp] theorem Chip.hostWrite_tmes : (c.hostWrite a bs).tmes = c.tmes := rfl
@[simp] theorem Chip.hostWrite_kvw : (c.hostWrite a bs).kvw = c.kvw := rfl
@[simp] theorem Chip.hostWrite_sfe : (c.hostWrite a bs).sfe = c.sfe := rfl
@[simp] theorem Chip.hostWrite_aud : (c.hostWrite a bs).aud = c.aud := rfl
@[simp] theorem Chip.hostWrite_fhe : (c.hostWrite a bs).fhe = c.fhe := rfl
@[simp] theorem Chip.hostWrite_hif : (c.hostWrite a bs).hif = c.hif := rfl
@[simp] theorem Chip.hostWrite_bkl : (c.hostWrite a bs).bkl = c.bkl := rfl
@[simp] theorem Chip.hostWrite_cns : (c.hostWrite a bs).cns = c.cns := rfl
@[simp] theorem Chip.hostWrite_flt : (c.hostWrite a bs).flt = c.flt := rfl
@[simp] theorem Chip.hostWrite_flash : (c.hostWrite a bs).flash = c.flash := rfl
@[simp] theorem Chip.hostWrite_out : (c.hostWrite a bs).out = c.out := rfl
end

end Sys2Proof.Machine
end

