-- ==== Sys2Proof/Laws/Tables.lean ====
section
/-!
SUPPORT. Laws/Tables.lean: what reads and writes of sparse tables and byte memories give, on any list, and that writes keep
the canonical form.
-/
namespace Sys2Proof.Machine
open Sys2Proof

section
variable {α : Type}

@[simp] theorem tget_nil (d : α) (k : Nat) : tget d [] k = d := rfl

@[simp] theorem tget_terase_same (d : α) (t : Table α) (k : Nat) : tget d (terase t k) k = d := by
  induction t with
  | nil => rfl
  | cons e t ih =>
    obtain ⟨i, x⟩ := e
    by_cases h : i = k <;> simp [terase, tget, h, ih]

theorem tget_terase_ne (d : α) (t : Table α) {k j : Nat} (h : j ≠ k) : tget d (terase t k) j = tget d t j := by
  induction t with
  | nil => rfl
  | cons e t ih =>
    obtain ⟨i, x⟩ := e
    by_cases hk : i = k
    · simp [terase, tget, hk, ih, Ne.symm h]
    · simp [terase, tget, hk, ih]

theorem tget_tins_same (d : α) (t : Table α) (k : Nat) (v : α) : tget d (tins (terase t k) k v) k = v := by
  induction t with
  | nil => simp [terase, tins, tget]
  | cons e t ih =>
    obtain ⟨i, x⟩ := e
    by_cases hk : i = k
    · simp [terase, hk, ih]
    · by_cases hi : i < k
      · simp [terase, hk, tins, hi, tget, ih]
      · simp [terase, hk, tins, hi, tget]

theorem tget_tins_ne (d : α) (t : Table α) {k j : Nat} (v : α) (h : j ≠ k) : tget d (tins t k v) j = tget d t j := by
  induction t with
  | nil => simp [tins, tget, Ne.symm h]
  | cons e t ih =>
    obtain ⟨i, x⟩ := e
    by_cases hi : i < k
    · simp [tins, hi, tget, ih]
    · simp [tins, hi, tget, Ne.symm h]

theorem terase_keys (t : Table α) (k : Nat) : ∀ e ∈ terase t k, e.1 ≠ k := by
  induction t with
  | nil => simp [terase]
  | cons e t ih =>
    obtain ⟨i, x⟩ := e
    by_cases hk : i = k
    · simpa [terase, hk] using ih
    · intro e he
      simp only [terase, hk, if_false, List.mem_cons] at he
      rcases he with rfl | he
      · exact hk
      · exact ih e he

variable [DecidableEq α]

/-- The value written is read back. -/
@[simp] theorem tget_tput_same (d : α) (t : Table α) (k : Nat) (v : α) : tget d (tput d t k v) k = v := by
  unfold tput
  split
  · next h => simp [h]
  · exact tget_tins_same d t k v

/-- A write leaves every other place alone. -/
theorem tget_tput_ne (d : α) (t : Table α) {k j : Nat} (v : α) (h : j ≠ k) : tget d (tput d t k v) j = tget d t j := by
  unfold tput
  split
  · exact tget_terase_ne d t h
  · rw [tget_tins_ne d _ v h, tget_terase_ne d t h]

theorem tget_tput (d : α) (t : Table α) (k j : Nat) (v : α) : tget d (tput d t k v) j = if j = k then v else tget d t j := by
  split
  · next h => subst h; simp
  · next h => exact tget_tput_ne d t v h

theorem tableFrom_mono (d : α) {a b : Nat} (h : a ≤ b) (t : Table α) (w : tableFrom d b t = true) : tableFrom d a t = true := by
  cases t with
  | nil => rfl
  | cons e t =>
    obtain ⟨i, x⟩ := e
    simp only [tableFrom, Bool.and_eq_true, decide_eq_true_eq] at w ⊢
    exact ⟨⟨Nat.le_trans h w.1.1, w.1.2⟩, w.2⟩

theorem tableFrom_terase (d : α) (k : Nat) (t : Table α) (b : Nat) (w : tableFrom d b t = true) :
    tableFrom d b (terase t k) = true := by
  induction t generalizing b with
  | nil => rfl
  | cons e t ih =>
    obtain ⟨i, x⟩ := e
    simp only [tableFrom, Bool.and_eq_true, decide_eq_true_eq] at w
    by_cases hk : i = k
    · simp only [terase, hk, if_true]
      exact ih b (tableFrom_mono d (Nat.le_succ_of_le w.1.1) t w.2)
    · simp only [terase, hk, if_false, tableFrom, Bool.and_eq_true, decide_eq_true_eq]
      exact ⟨w.1, ih (i + 1) w.2⟩

theorem tableFrom_tins (d : α) {k : Nat} {v : α} (hv : v ≠ d) (t : Table α) (b : Nat) (hb : b ≤ k)
    (w : tableFrom d b t = true) (hk : ∀ e ∈ t, e.1 ≠ k) : tableFrom d b (tins t k v) = true := by
  induction t generalizing b with
  | nil => simp [tins, tableFrom, hb, hv]
  | cons e t ih =>
    obtain ⟨i, x⟩ := e
    have hik : i ≠ k := hk (i, x) (by simp)
    simp only [tableFrom, Bool.and_eq_true, decide_eq_true_eq] at w
    by_cases hi : i < k
    · simp only [tins, hi, if_true, tableFrom, Bool.and_eq_true, decide_eq_true_eq]
      exact ⟨w.1, ih (i + 1) hi w.2 fun e he => hk e (by simp [he])⟩
    · have : k + 1 ≤ i := by omega
      simp only [tins, hi, if_false, tableFrom, Bool.and_eq_true, decide_eq_true_eq]
      exact ⟨⟨hb, hv⟩, ⟨this, w.1.2⟩, w.2⟩

/-- A write keeps the canonical form. -/
theorem tableWf_tput (d : α) (t : Table α) (k : Nat) (v : α) (w : tableWf d t = true) : tableWf d (tput d t k v) = true := by
  unfold tput
  split
  · exact tableFrom_terase d k t 0 w
  · next h => exact tableFrom_tins d h _ 0 (Nat.zero_le k) (tableFrom_terase d k t 0 w) (terase_keys t k)

end

/-! ### Byte memories -/

@[simp] theorem mget_mput_same (m : List Host.Cell) (a : Nat) (b : Byte) : mget (mput m a b) a = b := tget_tput_same 0 m a b

theorem mget_mput_ne (m : List Host.Cell) {a j : Nat} (b : Byte) (h : j ≠ a) : mget (mput m a b) j = mget m j :=
  tget_tput_ne 0 m b h

theorem Memory.wf_mput (m : List Host.Cell) (a : Nat) (b : Byte) (w : Memory.wf m = true) : Memory.wf (mput m a b) = true :=
  tableWf_tput 0 m a b w

/-- A write of bytes keeps the canonical form. -/
theorem Memory.wf_mwrite (bs : List Byte) (m : List Host.Cell) (a : Nat) (w : Memory.wf m = true) :
    Memory.wf (mwrite m a bs) = true := by
  induction bs generalizing m a with
  | nil => exact w
  | cons b bs ih => exact ih (mput m a b) (a + 1) (Memory.wf_mput m a b w)

/-- Bytes outside the written range stay. -/
theorem mget_mwrite_out (bs : List Byte) (m : List Host.Cell) (a j : Nat) (h : j < a ∨ a + bs.length ≤ j) :
    mget (mwrite m a bs) j = mget m j := by
  induction bs generalizing m a with
  | nil => rfl
  | cons b bs ih =>
    simp only [List.length_cons] at h
    rw [mwrite, ih (mput m a b) (a + 1) (by omega), mget_mput_ne m b (by omega)]

/-- Bytes inside the written range are those written. -/
theorem mget_mwrite_in (bs : List Byte) (m : List Host.Cell) (a k : Nat) (h : k < bs.length) :
    mget (mwrite m a bs) (a + k) = bs.getD k 0 := by
  induction bs generalizing m a k with
  | nil => simp at h
  | cons b bs ih =>
    cases k with
    | zero =>
      simp only [mwrite, Nat.add_zero]
      rw [mget_mwrite_out bs _ (a + 1) a (Or.inl (Nat.lt_succ_self a))]
      simp
    | succ k =>
      have : a + (k + 1) = a + 1 + k := by omega
      rw [mwrite, this, ih (mput m a b) (a + 1) k (by simpa using h)]
      simp

@[simp] theorem mread_length (m : List Host.Cell) (a n : Nat) : (mread m a n).length = n := by
  induction n generalizing a with
  | zero => rfl
  | succ n ih => simp [mread, ih]

theorem mread_getD (m : List Host.Cell) (a n k : Nat) (h : k < n) : (mread m a n).getD k 0 = mget m (a + k) := by
  induction n generalizing a k with
  | zero => omega
  | succ n ih =>
    cases k with
    | zero => simp [mread]
    | succ k =>
      have : a + (k + 1) = a + 1 + k := by omega
      simpa [mread, this] using ih (a + 1) k (by omega)

end Sys2Proof.Machine
end

