-- ==== Sys2Proof/Laws/Units.lean ====
section
/-!
SUPPORT. Laws/Units.lean: what a unit of the chip is after one of them was updated: the one updated, and any other.
-/
namespace Sys2Proof.Machine
open Sys2Proof

@[simp] theorem Chip.onTile_same (c : Chip) (t : TileId) (f : Tile → Tile) : (c.onTile t f).tile t = f (c.tile t) :=
  tget_tput_same _ _ _ _
theorem Chip.onTile_ne (c : Chip) {t u : TileId} (f : Tile → Tile) (hne : u ≠ t) : (c.onTile t f).tile u = c.tile u :=
  tget_tput_ne _ _ _ (fun h => hne (BitVec.eq_of_toNat_eq h))

@[simp] theorem Chip.onChan_same (c : Chip) (t : BitVec 3) (f : Chan → Chan) : (c.onChan t f).chan t = f (c.chan t) :=
  tget_tput_same _ _ _ _
theorem Chip.onChan_ne (c : Chip) {t u : BitVec 3} (f : Chan → Chan) (hne : u ≠ t) : (c.onChan t f).chan u = c.chan u :=
  tget_tput_ne _ _ _ (fun h => hne (BitVec.eq_of_toNat_eq h))

@[simp] theorem Chip.onTme_same (c : Chip) (t : BitVec 4) (f : Tme → Tme) : (c.onTme t f).tme t = f (c.tme t) :=
  tget_tput_same _ _ _ _
theorem Chip.onTme_ne (c : Chip) {t u : BitVec 4} (f : Tme → Tme) (hne : u ≠ t) : (c.onTme t f).tme u = c.tme u :=
  tget_tput_ne _ _ _ (fun h => hne (BitVec.eq_of_toNat_eq h))

@[simp] theorem Chip.onWalker_same (c : Chip) (t : BitVec 4) (f : Walker → Walker) : (c.onWalker t f).walker t = f (c.walker t) :=
  tget_tput_same _ _ _ _
theorem Chip.onWalker_ne (c : Chip) {t u : BitVec 4} (f : Walker → Walker) (hne : u ≠ t) : (c.onWalker t f).walker u = c.walker u :=
  tget_tput_ne _ _ _ (fun h => hne (BitVec.eq_of_toNat_eq h))

@[simp] theorem Chip.onRouter_same (c : Chip) (t : Eid) (f : Router → Router) : (c.onRouter t f).router t = f (c.router t) :=
  tget_tput_same _ _ _ _
theorem Chip.onRouter_ne (c : Chip) {t u : Eid} (f : Router → Router) (hne : u ≠ t) : (c.onRouter t f).router u = c.router u :=
  tget_tput_ne _ _ _ (fun h => hne (BitVec.eq_of_toNat_eq h))

@[simp] theorem Chip.onEndp_same (c : Chip) (t : Eid) (f : Endp → Endp) : (c.onEndp t f).endp t = f (c.endp t) :=
  tget_tput_same _ _ _ _
theorem Chip.onEndp_ne (c : Chip) {t u : Eid} (f : Endp → Endp) (hne : u ≠ t) : (c.onEndp t f).endp u = c.endp u :=
  tget_tput_ne _ _ _ (fun h => hne (BitVec.eq_of_toNat_eq h))

@[simp] theorem Chip.onLink_same (c : Chip) (t : Fin 6) (f : Link → Link) : (c.onLink t f).link t = f (c.link t) :=
  tget_tput_same _ _ _ _
theorem Chip.onLink_ne (c : Chip) {t u : Fin 6} (f : Link → Link) (hne : u ≠ t) : (c.onLink t f).link u = c.link u :=
  tget_tput_ne _ _ _ (fun h => hne (Fin.ext h))

@[simp] theorem Chip.onStream_same (c : Chip) (t : BitVec 12) (f : Stream → Stream) : (c.onStream t f).stream t = f (c.stream t) :=
  tget_tput_same _ _ _ _
theorem Chip.onStream_ne (c : Chip) {t u : BitVec 12} (f : Stream → Stream) (hne : u ≠ t) : (c.onStream t f).stream u = c.stream u :=
  tget_tput_ne _ _ _ (fun h => hne (BitVec.eq_of_toNat_eq h))

@[simp] theorem Chip.onSession_same (c : Chip) (t : BitVec 10) (f : Session → Session) : (c.onSession t f).session t = f (c.session t) :=
  tget_tput_same _ _ _ _
theorem Chip.onSession_ne (c : Chip) {t u : BitVec 10} (f : Session → Session) (hne : u ≠ t) : (c.onSession t f).session u = c.session u :=
  tget_tput_ne _ _ _ (fun h => hne (BitVec.eq_of_toNat_eq h))

@[simp] theorem Chip.onAud_same (c : Chip) (t : Fin 8) (f : AudPort → AudPort) : (c.onAud t f).audPort t = f (c.audPort t) :=
  tget_tput_same _ _ _ _
theorem Chip.onAud_ne (c : Chip) {t u : Fin 8} (f : AudPort → AudPort) (hne : u ≠ t) : (c.onAud t f).audPort u = c.audPort u :=
  tget_tput_ne _ _ _ (fun h => hne (Fin.ext h))

@[simp] theorem Chip.onFh_same (c : Chip) (t : Fin 2) (f : FhPort → FhPort) : (c.onFh t f).fhPort t = f (c.fhPort t) :=
  tget_tput_same _ _ _ _
theorem Chip.onFh_ne (c : Chip) {t u : Fin 2} (f : FhPort → FhPort) (hne : u ≠ t) : (c.onFh t f).fhPort u = c.fhPort u :=
  tget_tput_ne _ _ _ (fun h => hne (Fin.ext h))

@[simp] theorem Chip.onRing_same (c : Chip) (t : BitVec 3) (f : FhRing → FhRing) : (c.onRing t f).fhRing t = f (c.fhRing t) :=
  tget_tput_same _ _ _ _
theorem Chip.onRing_ne (c : Chip) {t u : BitVec 3} (f : FhRing → FhRing) (hne : u ≠ t) : (c.onRing t f).fhRing u = c.fhRing u :=
  tget_tput_ne _ _ _ (fun h => hne (BitVec.eq_of_toNat_eq h))

@[simp] theorem Chip.onBuckle_same (c : Chip) (t : BitVec 12) (f : Buckle → Buckle) : (c.onBuckle t f).buckle t = f (c.buckle t) :=
  tget_tput_same _ _ _ _
theorem Chip.onBuckle_ne (c : Chip) {t u : BitVec 12} (f : Buckle → Buckle) (hne : u ≠ t) : (c.onBuckle t f).buckle u = c.buckle u :=
  tget_tput_ne _ _ _ (fun h => hne (BitVec.eq_of_toNat_eq h))

@[simp] theorem Chip.onRegion_same (c : Chip) (t : BitVec 6) (f : Region → Region) : (c.onRegion t f).region t = f (c.region t) :=
  tget_tput_same _ _ _ _
theorem Chip.onRegion_ne (c : Chip) {t u : BitVec 6} (f : Region → Region) (hne : u ≠ t) : (c.onRegion t f).region u = c.region u :=
  tget_tput_ne _ _ _ (fun h => hne (BitVec.eq_of_toNat_eq h))

/-! ### All tiles, and reset -/

theorem tget_absent {α : Type} [DecidableEq α] (d : α) (t : Table α) (k : Nat) (h : k ∉ t.map fun e => e.1) : tget d t k = d := by
  induction t with
  | nil => rfl
  | cons e es ih =>
    simp only [List.map_cons, List.mem_cons, not_or] at h
    simp [tget, Ne.symm h.1, ih h.2]

theorem foldl_onTile_tile (f : Tile → Tile) (l : List TileId) (hl : l.Nodup) (c : Chip) (n : TileId) :
    (l.foldl (fun c t => c.onTile t f) c).tile n = if n ∈ l then f (c.tile n) else c.tile n := by
  induction l generalizing c with
  | nil => simp
  | cons t l ih =>
    have ⟨ht, hl⟩ := List.nodup_cons.mp hl
    rw [List.foldl_cons, ih hl]
    by_cases h : n = t
    · subst h; simp [ht]
    · simp [h, Chip.onTile_ne c f h]

theorem Chip.tileKeys_nodup (c : Chip) : c.tileKeys.Nodup := by
  unfold Chip.tileKeys
  refine List.Nodup.map_on ?_ (List.nodup_dedup _)
  intro a ha b hb hab
  simp only [List.mem_dedup, List.mem_filter, decide_eq_true_eq] at ha hb
  have := congrArg BitVec.toNat hab
  simp only [BitVec.toNat_ofNat] at this
  omega

theorem Chip.tile_absent (c : Chip) (n : TileId) (h : n ∉ c.tileKeys) : c.tile n = Tile.init := by
  refine tget_absent _ _ _ fun hn => h ?_
  unfold Chip.tileKeys
  simp only [List.mem_map, List.mem_dedup, List.mem_filter, decide_eq_true_eq]
  simp only [List.mem_map] at hn
  exact ⟨n.toNat, ⟨hn, n.isLt⟩, by simp⟩

/-- Every tile is changed alike, where the change leaves a tile that is as after reset so. -/
theorem Chip.everyTile_tile (c : Chip) (f : Tile → Tile) (h : f Tile.init = Tile.init) (n : TileId) :
    (c.everyTile f).tile n = f (c.tile n) := by
  unfold Chip.everyTile
  rw [foldl_onTile_tile f _ c.tileKeys_nodup]
  split
  · rfl
  · rename_i hn
    rw [c.tile_absent n hn, h]

/-- Every memory of the machine after reset is in canonical form. -/
theorem reset_memory_wf : Memory.wf State.reset.chip.hostMem = true ∧ Memory.wf State.reset.chip.flash = true ∧
    Memory.wf State.reset.chip.sfe.egress = true ∧ Memory.wf State.reset.chip.aud.egress = true ∧
    (∀ n, Memory.wf (State.reset.chip.tile n).sram = true) ∧ (∀ k, Memory.wf (State.reset.chip.chan k).cells = true) :=
  ⟨rfl, rfl, rfl, rfl, fun _ => rfl, fun _ => rfl⟩

end Sys2Proof.Machine
end

