-- ==== Sys2Proof/Laws/Tile.lean ====
section
/-!
SUPPORT. Laws/Tile.lean: what a landing result does to the registers of a tile (R173, R174).
-/
namespace Sys2Proof.Machine
open Sys2Proof

namespace Tile

@[simp] theorem setLanes_a (t : Tile) (d : BitVec 4) (n : Nat) (vs : List (BitVec 40)) : (t.setLanes d n vs).a = t.a := rfl
@[simp] theorem setLanes_pend (t : Tile) (d : BitVec 4) (n : Nat) (vs : List (BitVec 40)) : (t.setLanes d n vs).pend = t.pend := rfl

theorem addSums_keeps (t : Tile) (ps : List Int) :
    (t.addSums ps).a = t.a ∧ (t.addSums ps).v = t.v ∧ (t.addSums ps).pend = t.pend ∧ (t.addSums ps).za = t.za := by
  unfold addSums
  generalize ps.zipIdx = l
  induction l generalizing t with
  | nil => exact ⟨rfl, rfl, rfl, rfl⟩
  | cons e l ih =>
    simp only [List.foldl_cons]
    obtain ⟨h1, h2, h3, h4⟩ := ih { t with
      acc := tput 0 t.acc e.2 (sat40 ((t.accum e.2).toInt + e.1)).1
      satAcc := if (sat40 ((t.accum e.2).toInt + e.1)).2 then satInc t.satAcc else t.satAcc }
    exact ⟨h1, h2, h3, h4⟩

theorem raisePres_keeps (t : Tile) (base : Nat) (vs : List Int) :
    (t.raisePres base vs).a = t.a ∧ (t.raisePres base vs).v = t.v := by
  unfold raisePres
  generalize vs.zipIdx = l
  induction l generalizing t with
  | nil => exact ⟨rfl, rfl⟩
  | cons e l ih => exact ih (t.raisePre ((base + e.2) % 1024) e.1)

/-- A result for another address register, or for no address register, leaves A[d]. -/
theorem landOne_areg_ne (t : Tile) (w : RegWrite) (d : BitVec 4) (h : target w ≠ 100 + d.toNat) :
    (t.landOne w).areg d = t.areg d := by
  cases w with
  | addr e v =>
    have hne : d.toNat ≠ e.toNat := fun he => h (by simp [target, he])
    exact tget_tput_ne 0 t.a v hne
  | macc ps => simp only [landOne, areg, (t.addSums_keeps ps).1]
  | preStats base vs => simp only [landOne, areg, (t.raisePres_keeps base vs).1]
  | exponents es =>
    simp only [landOne]
    split <;> rfl
  | _ => rfl

theorem landOne_areg (t : Tile) (d : BitVec 4) (v : BitVec 19) : (t.landOne (.addr d v)).areg d = v :=
  tget_tput_same 0 t.a d.toNat v

theorem lanes_fold (base : Nat) (l : List (BitVec 40 × Nat)) (v : Table (BitVec 40)) (k : Nat)
    (h : ∀ x ∈ l, base + x.2 ≠ k) :
    tget 0 (l.foldl (fun v x => tput 0 v (base + x.2) x.1) v) k = tget 0 v k := by
  induction l generalizing v with
  | nil => rfl
  | cons e l ih =>
    simp only [List.foldl_cons]
    rw [ih _ fun x hx => h x (List.mem_cons_of_mem _ hx)]
    exact tget_tput_ne 0 v e.1 (fun he => h e (by simp) he.symm)

/-- Lanes written from a list by place. -/
theorem lanes_fold_at (base n : Nat) (vs : List (BitVec 40)) (v : Table (BitVec 40)) (j : Nat) (h : j < vs.length) :
    tget 0 ((vs.zipIdx n).foldl (fun v x => tput 0 v (base + x.2) x.1) v) (base + n + j) = vs.getD j 0 := by
  induction vs generalizing n v j with
  | nil => simp at h
  | cons a vs ih =>
    simp only [List.zipIdx_cons, List.foldl_cons]
    cases j with
    | zero =>
      rw [lanes_fold]
      · simp
      · intro x hx
        have := (List.mem_zipIdx hx).1
        omega
    | succ j =>
      have e : base + n + (j + 1) = base + (n + 1) + j := by omega
      rw [e, ih (n + 1) _ j (by simpa using h)]
      simp

theorem setLanes_lane (t : Tile) (d : BitVec 4) (vs : List (BitVec 40)) (j : Nat) (h : j < vs.length) (hj : j < 32) :
    (t.setLanes d 0 vs).lane d j = vs.getD j 0 := by
  have := lanes_fold_at (32 * d.toNat) 0 (vs.take 32) t.v j (by simp; omega)
  simp only [Nat.add_zero] at this
  unfold setLanes lane
  simp only [Nat.sub_zero, Nat.add_zero]
  rw [this]
  simp [List.getD, hj]

/-- A result for another vector register, or for none, leaves V[d]. -/
theorem landOne_lane_ne (t : Tile) (w : RegWrite) (d : BitVec 4) (j : Nat) (hj : j < 32) (h : target w ≠ 200 + d.toNat) :
    (t.landOne w).lane d j = t.lane d j := by
  cases w with
  | lanes e first vs =>
    have hne : e.toNat ≠ d.toNat := fun he => h (by simp [target, he])
    refine lanes_fold (32 * e.toNat + first) _ t.v (32 * d.toNat + j) ?_
    intro x hx
    have := (List.mem_zipIdx hx).2
    have := this.1
    simp only [List.length_take] at this
    omega
  | macc ps => simp only [landOne, lane, (t.addSums_keeps ps).2.1]
  | preStats base vs => simp only [landOne, lane, (t.raisePres_keeps base vs).2]
  | exponents es =>
    simp only [landOne]
    split <;> rfl
  | _ => rfl

theorem landOne_lane (t : Tile) (d : BitVec 4) (vs : List (BitVec 40)) (j : Nat) (h : j < vs.length) (hj : j < 32) :
    (t.landOne (.lanes d 0 vs)).lane d j = vs.getD j 0 := setLanes_lane t d vs j h hj

/-! ### A result alone (R173) -/

/-- Landing results that do not concern an observation leaves it. -/
theorem landAll_keeps {β : Type} (obs : Tile → β) (key : Nat)
    (hw : ∀ (t : Tile) (w : RegWrite), target w ≠ key → obs (t.landOne w) = obs t)
    (l : List Pend) (t : Tile) (h : ∀ w ∈ l, target w.write ≠ key) :
    obs (l.foldl (fun t w => t.landOne w.write) t) = obs t := by
  induction l generalizing t with
  | nil => rfl
  | cons w l ih =>
    simp only [List.foldl_cons]
    rw [ih _ fun x hx => h x (List.mem_cons_of_mem _ hx), hw t w.write (h w (by simp))]

/-- One more result, w, where none for its register is on its way: until it is due the register stands. -/
theorem land_before {β : Type} (obs : Tile → β) (key : Nat)
    (hp : ∀ (t : Tile) (ps : List Pend), obs { t with pend := ps } = obs t)
    (hw : ∀ (t : Tile) (w : RegWrite), target w ≠ key → obs (t.landOne w) = obs t)
    (x : Tile) (w : Pend) (now : Nat) (hq : ∀ v ∈ x.pend, target v.write ≠ key) (hn : now < w.due) :
    obs ({ x with pend := x.pend ++ [w] }.land now) = obs x := by
  unfold land
  dsimp only
  rw [landAll_keeps obs key hw, hp]
  intro v hv
  have hv' := (List.mem_filter.mp (List.mem_filter.mp hv).1)
  rcases List.mem_append.mp hv'.1 with h | h
  · exact hq v h
  · have he : v = w := by simpa using h
    have hd := hv'.2
    simp only [decide_eq_true_eq] at hd
    subst he
    omega

/-- Once it is due, the register is what landing it makes of a tile that agrees with x. -/
theorem land_after {β : Type} (obs : Tile → β) (key : Nat)
    (hp : ∀ (t : Tile) (ps : List Pend), obs { t with pend := ps } = obs t)
    (hw : ∀ (t : Tile) (w : RegWrite), target w ≠ key → obs (t.landOne w) = obs t)
    (x : Tile) (w : Pend) (now : Nat) (hq : ∀ v ∈ x.pend, target v.write ≠ key) (hk : target w.write = key)
    (hn : w.due ≤ now) :
    ∃ y, obs y = obs x ∧ { x with pend := x.pend ++ [w] }.land now = y.landOne w.write := by
  have hb : ∀ ds : List Pend, (∀ v ∈ ds, target v.write ≠ key) → beaten w (ds ++ [w]) = false := by
    intro ds hds
    unfold beaten
    have : ((ds ++ [w]).any fun z => decide (target z.write = target w.write) &&
        (decide (z.rank < w.rank) || decide (z.rank = w.rank) && decide (w.issued < z.issued))) = false := by
      simp only [List.any_append, List.any_cons, List.any_nil, Bool.or_false, Bool.or_eq_false_iff]
      refine ⟨?_, by simp⟩
      rw [List.any_eq_false]
      intro v hv
      simp [hk, hds v hv]
    simpa using fun _ => this
  unfold land
  dsimp only
  simp only [List.filter_append, List.filter_cons, hn, decide_true, if_true, List.filter_nil]
  set ds := x.pend.filter fun w => decide (w.due ≤ now) with hds
  have hds' : ∀ v ∈ ds, target v.write ≠ key := fun v hv => hq v (List.mem_filter.mp hv).1
  rw [hb ds hds']
  simp only [Bool.not_false, if_true, List.foldl_append, List.foldl_cons, List.foldl_nil]
  refine ⟨_, ?_, rfl⟩
  rw [landAll_keeps obs key hw _ _ fun v hv => hds' v (List.mem_filter.mp hv).1, hp]

theorem areg_land_before (x : Tile) (w : Pend) (d : BitVec 4) (now : Nat)
    (hq : ∀ v ∈ x.pend, target v.write ≠ 100 + d.toNat) (hn : now < w.due) :
    ({ x with pend := x.pend ++ [w] }.land now).areg d = x.areg d :=
  land_before (fun t => t.areg d) (100 + d.toNat) (fun _ _ => rfl) (fun t w h => t.landOne_areg_ne w d h) x w now hq hn

theorem areg_land_after (x : Tile) (d : BitVec 4) (v : BitVec 19) (due issued rank sec now : Nat)
    (hq : ∀ v ∈ x.pend, target v.write ≠ 100 + d.toNat) (hn : due ≤ now) :
    ({ x with pend := x.pend ++ [Pend.mk due issued rank (.addr d v) sec] }.land now).areg d = v := by
  obtain ⟨y, _, h⟩ := land_after (fun t => t.areg d) (100 + d.toNat) (fun _ _ => rfl)
    (fun t w h => t.landOne_areg_ne w d h) x (Pend.mk due issued rank (.addr d v) sec) now hq rfl hn
  rw [h, landOne_areg]

theorem lane_land_before (x : Tile) (w : Pend) (d : BitVec 4) (j now : Nat) (hj : j < 32)
    (hq : ∀ v ∈ x.pend, target v.write ≠ 200 + d.toNat) (hn : now < w.due) :
    ({ x with pend := x.pend ++ [w] }.land now).lane d j = x.lane d j :=
  land_before (fun t => t.lane d j) (200 + d.toNat) (fun _ _ => rfl) (fun t w h => t.landOne_lane_ne w d j hj h) x w now hq hn

theorem lane_land_after (x : Tile) (d : BitVec 4) (vs : List (BitVec 40)) (due issued rank sec now j : Nat) (hj : j < 32)
    (hl : vs.length = 32) (hq : ∀ v ∈ x.pend, target v.write ≠ 200 + d.toNat) (hn : due ≤ now) :
    ({ x with pend := x.pend ++ [Pend.mk due issued rank (.lanes d 0 vs) sec] }.land now).lane d j = vs.getD j 0 := by
  obtain ⟨y, _, h⟩ := land_after (fun t => t.lane d j) (200 + d.toNat) (fun _ _ => rfl)
    (fun t w h => t.landOne_lane_ne w d j hj h) x (Pend.mk due issued rank (.lanes d 0 vs) sec) now hq rfl hn
  rw [h, landOne_lane _ _ _ _ (by omega) hj]

end Tile
end Sys2Proof.Machine
end

