-- ==== Sys2Proof/WellFormed.lean ====
section
/-!
DEFINITION. WellFormed.lean: what the manual asks of a row's operands beyond their widths: EIDs that R249 assigns, access
sizes of R12 and R13, TLPs of whole dwords (R573), frames of at least their header and FCS (R532), Umaed frames whose packets lie in
the 13 slots (R300), a Reckoning read that fits its buffer
(R602).
-/
namespace Sys2Proof
open Sys2Proof.Machine

/-- A BAR0 access of 1 to 4 bytes, or of 8 (R12, R13). -/
def sizeOk (n : BitVec 4) : Bool := (1 ≤ n.toNat && n.toNat ≤ 4) || n = 8

/-- A TLP carries whole dwords, and a write as many bytes as it says. -/
def tlpOk (t : Tlp) : Bool :=
  0 < t.count && t.count % 4 = 0 && t.off.toNat % 4 = 0 && (if t.write then t.data.length = t.count else t.data.isEmpty)

/-- Slots rise and stay below 13. -/
def slotsOk : List (Nat × Packet) → Nat → Bool
  | [], _ => true
  | (k, _) :: ps, n => decide (n ≤ k) && decide (k < 13) && slotsOk ps (k + 1)

/-- A row whose operands name what the chip has. -/
def Instr.wf (i : Instr) : Bool :=
  match i with
  | .rcRead _ _ size => sizeOk size
  | .loHalfRead _ _ size => sizeOk size
  | .registerWrite _ _ size _ => sizeOk size
  | .i3cReckoningRead count => count.toNat ≤ 4096
  | .barTlp t => tlpOk t
  | .packetRoute r _ _ => isEid r
  | .vc1Inject e => isEdgeEid e
  | .vc1LevelDown e => isEdgeEid e
  | .rspTimeout e _ => isEid e
  | .dataWr e _ _ => isEid e
  | .dataWrNotify e _ _ => isEid e
  | .readReq e _ => isEid e
  | .readRsp e _ => isEid e
  | .cmd e _ => isEid e
  | .cmdRsp e _ => isEid e
  | .censusTrig e _ _ => isEid e
  | .fault e _ => isEid e
  | .dataFrame _ f _ => slotsOk f.packets 0
  | .fhFrame _ bytes _ => 18 ≤ bytes.length
  | _ => true

end Sys2Proof
end

