-- ==== Sys2Proof/Tests/Slice0.lean ====
section
/-!
SUPPORT. Tests/Slice0.lean: tests. First states and operands that meet the hypotheses of the statements, a theorem for each
clause that has some; then ill-formed rows, which WellFormed refuses; then vectors of the manual.
-/
namespace Sys2Proof.Tests
set_option Elab.async false
open Sys2Proof.Machine

/-! ### States of the tests -/

/-- A state with no command waiting. -/
def st (f : Chip → Chip) : State := ⟨[], f State.reset.chip⟩

/-- A chip that is READY, full profile, tile roles all compute. -/
def up (c : Chip) : Chip := { c with
    glb := { c.glb with phase := .up, profile := 0, roles := List.replicate 256 1 }
    now := 1000 }

/-- Tile 3 made from the reset tile. -/
def tile3 (f : Tile → Tile) : State := st fun c => (up c).onTile 3 f

/-- The almanac made from its reset value. -/
def alm (f : Alm → Alm) : State := st fun c => (up c).onAlm f

def kk0 : Packet := { (⟨9, 0, 1, false, 5, 9, 3, 7, 0, 3, 0x40, 0x11, 0, 0x1234, false⟩ : Packet) with
    crc := packetCrc ⟨9, 0, 1, false, 5, 9, 3, 7, 0, 3, 0x40, 0x11, 0, 0x1234, false⟩ }

def ringClass : Rec := {
    sec := 0x0A
    target := 5
    kind := 0
    region := 0
    body := [3, 0, 0, 0, 2] ++ List.replicate 27 0 ++ [7, 0, 9, 0] ++ List.replicate 68 0 }

def wBusy (x : Tile) : Tile :=
  { x with
    loops := [⟨1, 2, 9, 4, 0⟩], a := [(2, 5), (5, 0x7FFFF)], inSection := true, pc := 9, nextPc := 10, loose := true, region := 4
    v := [(64, 0xFFFFFFFFFF), (65, 0x7FFFFFFFFF), (66, 0x8000000000), (67, 77), (70, 0x1234), (161, 9), (162, 0x8000000000), (163, 77)]
    eq := [0xE, 3], ct := [(7, 0x0000_00F0_0A13_8003)], lut := [(0x45, 3), (0x2FE, 9)], acc := [(3, 12), (4, 0x8000000000)]
    sram := [(64, 1), (65, 2), (95, 0xFF), (96, 4)], wShd := [(3, 4)], csShd := [(3, -4)]
    livePre := [(5, 90)], tmpl := [(1, 0x00)] }

def wLoop : State := tile3 wBusy

def wNoLoop : State := tile3 fun x => { wBusy x with loops := [] }

def wPad : State := tile3 fun x => { wBusy x with hold := .pad 999, gated := true }

def wIdle : State := tile3 fun x => { wBusy x with hold := .idle 999, gated := true }

def wTight : State := tile3 fun x => { wBusy x with loose := false }

def mkPlan (ss : List Section) : DayPlan := { planId := 0, dram := [], feasts := [(10, 20)], sections := ss }

def wSec : State := st fun c => { (up c).onTile 3 fun x => { wBusy x with inSection := false } with
    hns := { c.hns with plans := [mkPlan [⟨30, 60, 5, 3, true, 4⟩]] }
    alm := { c.alm with running := true, cycle := 30 } }

def wSkip : State := ⟨[], wSec.chip.onTile 3 fun x => { x with skipDay := true }⟩

def wOver : State := ⟨[], wSec.chip.onTile 3 fun x => { x with
    inSection := true
    secNo := 2
    micro := [⟨1005, 64, Tile.prioLs, 1007, .loadExp, 2⟩, ⟨1006, 96, Tile.prioLs, 1008, .loadExp, 1⟩]
    pend := [⟨1001, 1000, 0, .addr 2 3, 2⟩, ⟨1002, 1000, 0, .addr 4 3, 1⟩] }⟩

def wHeld : State := tile3 fun x => { wBusy x with lsUntil := 1001 }

def wMxuRows1 : State := tile3 fun x => x

def wClose : State := st fun c => { (up c).onTile 3 fun x => { wBusy x with
      winOpen := true
      winLen := 2
      winDays := 2
      recPre := [(1,2)] } with
    alm := { c.alm with running := true, inVigil := true, cycle := 625000 - 4096 + 16, dayCount := 77, gen := 3 } }

def wVc1 : State := tile3 fun x => { wBusy x with tmpl := [(1, BitVec.allOnes 128)] }

def wRx : State := tile3 fun x => { wBusy x with rxq := [1, 2], recvWait := some (96, 2, true) }

def ingA : Ingress := ⟨64, 32, 0x1234, none⟩

def wIng : State := tile3 fun x => { wBusy x with
    ingress := [ingA, ⟨0, 4, 1, none⟩]
    reads := [{ (packet 0xFFFF tReadReq 1 3 4 0 0 0) with addr := 64 }] }

def wIngBusy : State := tile3 fun x => { wBusy x with
    ingress := [ingA]
    micro := [⟨1000, 64, 0, 1001, .loadExp, 0⟩] }

def rdPkt : Packet := { (packet 0xFFFF tReadReq 1 3 4 0 0 0) with addr := 64 }

def wRd : State := tile3 fun x => { wBusy x with reads := [rdPkt] }

def wRdBusy : State := tile3 fun x => { wBusy x with reads := [rdPkt], micro := [⟨1000, 64, 0, 1001, .loadExp, 0⟩] }

def gAlm (a : Alm) : Alm := { a with
    earlyTicks := 0
    winTicks := 2
    early := 5
    late := 0xFFFFFFFF
    holdCnt := 4
    overCount := 9
    tickOffset := 7
    dayCount := 4
    yearPos := 3
    offRun := 1
    relock := 3
    yearLen := 4 }

def wIdleAlm : State := st fun c => { (up c).onTile 3 fun x => { wBusy x with statValid := true } with
    alm := { gAlm c.alm with tickSrc := 1 }
    hns := { c.hns with
        loaded := true
        year := [7, 8, 9, 10]
        plans := [{ mkPlan [⟨30, 60, 5, 3, true, 4⟩] with planId := 7 }] }
    agenda := [(1500, .nop .pcie 0)] }

def wRun : State := st fun c => { wIdleAlm.chip with
    alm := { wIdleAlm.chip.alm with running := true, planCur := 7, cycle := 15 }
    uml := { c.uml with links := [(2, { Link.init with state := 5 })] } }

def wArmed : State := st fun _ => { wIdleAlm.chip with
    alm := { wIdleAlm.chip.alm with armed := true, day0At := some 1000, nextPlan := some 7 }
    agenda := [(1000, .day0Start), (1500, .nop .pcie 0), (1100, .day0Start)] }

def wTick : State := st fun _ => { wRun.chip with alm := { wRun.chip.alm with tickSrc := 0, cycle := 624487 } }

def wTickRow1 : State := st fun _ => { wTick.chip with
    alm := { wTick.chip.alm with tickSrc := 1, tickSub := 1, cycle := 624486 } }

def wTickRow3 : State := st fun _ => { wTick.chip with alm := { wTick.chip.alm with hdOpen := true, cycle := 511 } }

def wTickRow4 : State := st fun _ => { wArmed.chip with
    alm := { wArmed.chip.alm with tickSrc := 0, startMode := 1, day0At := none } }

def wDayEnds1 : State := st fun _ => { wTick.chip with
    alm := { wTick.chip.alm with tickSrc := 3, cycle := 624999 } }

def wDayEnds2 : State := st fun _ => { wTick.chip with
    alm := { wTick.chip.alm with holdover := true, cycle := 624999 } }

def wDayEnds3 : State := st fun _ => { wTick.chip with
    alm := { wTick.chip.alm with winTicks := 0, cycle := 625511 } }

def wDayEnds4 : State := st fun _ => { wTick.chip with
    alm := { wTick.chip.alm with winTicks := 0, offRun := 2, cycle := 625511 }
    flt := { wTick.chip.flt with fwdMask := 0xFF, counts := [(3, 7)] }
    cns := { wTick.chip.cns with faultMask := 0xFF } }

def wHoldoverJudged1 : State := st fun _ => { wTick.chip with
    alm := { wTick.chip.alm with hdOpen := true, hdWin := 1, cycle := 511, relock := 6 } }

def wHoldoverJudged2 : State := st fun _ => { wTick.chip with
    alm := { wTick.chip.alm with hdOpen := true, hdWin := 1, cycle := 511, relock := 7 } }

def wHoldoverJudged3 : State := st fun _ => { wTick.chip with
    alm := { wTick.chip.alm with hdOpen := true, hdWin := 2, cycle := 511, relock := 7 } }

def wDayStarts1 : State := st fun _ => { wTick.chip with
    alm := { wTick.chip.alm with dayEnded := true, nextPlan := some 9 }
    chans := [(2, { Chan.init with banks := [(3, ⟨none, [], false, [], 2000⟩)] })] }

def wVig : State := st fun _ => { (wRun.chip.onTile 3 fun x => { x with inSection := false, rxq := [1,2] }).onTile 200 fun x => { x with rxq := [5] } with
    alm := { wRun.chip.alm with cycle := 620904 } }

def wDayCycleRows1 : State := st fun _ => { wVig.chip with
    alm := { wVig.chip.alm with inVigil := true, cycle := 620904 + 768 } }

def aSet (d : BitVec 64) : Setting := {
    gen := 1
    day := d
    kind := 1
    unit := 0
    index := 0
    value := 3
    mask := 0xFF }

def wDayCycleRows2 : State := st fun _ => { wVig.chip with
    alm := { wVig.chip.alm with inVigil := true, cycle := 620904 + 896, settings := [aSet 5, aSet 6, aSet 5] } }

def wAlmanacStops1 : State := st fun _ => { wTick.chip with
    alm := { wTick.chip.alm with dayEnded := true, stopReq := true, nextSrc := some 7 }
    fhe := { wTick.chip.fhe with ports := [(1, { FhPort.init with ticked := [] })] } }

def dsc (op : Nat) (fs : List (Nat × Nat)) : Desc :=
  BitVec.ofNat 512 (op + 0x11223344 * 256 ^ 4 + (fs.map fun f => f.2 * 256 ^ f.1).sum)

def wUp : State := st fun c => { up c with
    hns := { c.hns with loaded := true }
    glb := { (up c).glb with chipId := 9 }
    hif := { c.hif with cplSize := 8, cmdSize := 8 } }

def wUpRun : State := st fun c => { wRun.chip with
    hns := { wRun.chip.hns with loaded := true }
    glb := { wRun.chip.glb with chipId := 9 }
    hif := { c.hif with cplSize := 8, cmdSize := 8 } }

def wSealed : State := st fun _ => { wUp.chip with hns := { wUp.chip.hns with sealed := true } }

def wNoH : State := st fun c => { up c with
    hif := { c.hif with cplSize := 4 }
    tmes := [(3, { Tme.init with queue := [(0, 5)], regs := [(2, 0x12345678), (15, 7)] })] }

def wFlt : State := st fun c => { wUp.chip with flt := { c.flt with head := 0xFFFE, tail := 2 } }

def stream5 : Rec := {
    sec := 0x0C
    target := 0
    kind := 0
    region := 2
    body := leBytes 8 2 ++ (leBytes 2 5 ++ [0, 1, 8, 2, 3, 0] ++ leBytes 2 40 ++ leBytes 2 0 ++ leBytes 4 5000 ++ List.replicate 8 0) ++ (leBytes 2 6 ++ [1, 1, 8, 0, 0, 0] ++ List.replicate 16 0) }

def class3 : Rec := {
    sec := 0x0B
    target := 3
    kind := 0
    region := 2
    body := [1, 0] ++ leBytes 2 1020 ++ leBytes 2 4 ++ leBytes 2 64 ++ List.replicate 4 0 ++
        List.replicate 8 0xFF ++ List.replicate 12 0 }

def wVoice : State := st fun c => { wUpRun.chip with
    hns := { wUpRun.chip.hns with records := [stream5, class3] }
    sfe := { c.sfe with
        streams := [(5, { Stream.init with prod := 5, cons := 3 })]
        sessions := [
            (1020, { Session.init with state := 2, cls := 3 }),
            (1021, { Session.init with state := 1, cls := 3 }),
            (1022, { Session.init with state := 3, cls := 3 })] } }

def wVoiceFull : State := st fun _ => { wVoice.chip with
    sfe := { wVoice.chip.sfe with
        sessions := ((List.range 16).map fun k => (k, { Session.init with state := 2, cls := 9, adapt := true })) ++ wVoice.chip.sfe.sessions
        holdq := List.replicate 63 1 } }

def map2 : Rec := {
    sec := 0x11
    target := 2
    kind := 0
    region := 0
    body := leBytes 1 2 ++ List.replicate 3 0 ++ leBytes 2 0 ++ leBytes 2 64 ++ leBytes 2 64 ++ leBytes 2 0 ++
        leBytes 2 16 ++ leBytes 2 16 ++ leBytes 2 1 ++ leBytes 2 2 ++ leBytes 2 0 ++ leBytes 2 32 ++ leBytes 2 32 ++
        List.replicate 6 0 ++ ([8] : List Byte) ++ List.replicate 31 0 }

def regImg : RegionImage := { id := 0x77, records := [], plans := [] }

def wReg : State := st fun _ => { wUpRun.chip with hns := { wUpRun.chip.hns with records := [map2] } }

def wRegPend : State := st fun _ => { wUpRun.chip with
    hns := { wUpRun.chip.hns with
        records := [map2]
        regions := [(2, { Region.init with state := 2, applyDay := 5, image := some regImg })] } }

def wRegNow : State := st fun _ => { wUpRun.chip with
    hns := { wUpRun.chip.hns with
        records := [map2]
        regions := [(2, { Region.init with state := 2, applyDay := 4, image := some regImg })] } }

def wHeld5 : State := st fun _ => { wUp.chip with glb := { wUp.chip.glb with phase := .held } }

def aCpl : Completion := ⟨5, 1, 2, 1, 7, 0x1122334455667788⟩

def wPorts : State := st fun c => { wUp.chip with
    hif := { wUp.chip.hif with
        i3c := { c.hif.i3c with busy := true, dropped := true, cpls := [aCpl, aCpl], buf := [1,2,3,4,5] }
        jtag := { c.hif.jtag with
            cpls := [aCpl]
            pendingCmd := true
            buf := [9,8]
            dbgAddr := 0x80000012340005
            dbgData := 77 }
        refused := 0xFFFFFFFF } }

def wPortsL : State := st fun _ => { wPorts.chip with glb := { wPorts.chip.glb with debugLock := true } }

def wPortsD : State := st fun _ => { wPorts.chip with
    hif := { wPorts.chip.hif with
        jtag := { wPorts.chip.hif.jtag with dbgAddr := 0x8000120A340005 ||| (BitVec.ofNat 64 (2^51)) } } }

def wTlp : Tlp := {
    bar4 := false
    write := true
    off := BitVec.ofNat 34 (524288 * 5 + 64)
    count := 32
    data := (List.range 32).map fun k => BitVec.ofNat 8 k
    firstBe := 15
    lastBe := 15
    id := 4 }

def wBoot (b : BitVec 2) : State := st fun c => { up c with glb := { (up c).glb with bootSel := b } }

def wHarnessRows1 : State := wBoot 0

def wHarnessRows2 : State := wBoot 1

def wHarnessRows4 : State := wBoot 3

def fullJob : LoadJob := ⟨.pcie, 7, 0x10, 0, false, 0x1000, 832, false⟩

def wJob : State := st fun c => { up c with
    hns := { c.hns with jobs := [fullJob], busy := true, failStep := 3 }
    hif := { c.hif with cplSize := 4 } }

def wWait5 : State := st fun _ => { wJob.chip with
    hns := { wJob.chip.hns with waitDdr := some (5, 6, true), left := 7 } }

def regJob : LoadJob := ⟨.i3c, 7, 0x11, 2, true, 0x1000, 304, false⟩

def wRJob : State := st fun c => { up c with
    hns := { c.hns with
        loaded := true
        records := [map2]
        jobs := [regJob]
        busy := true
        failStep := 3
        regions := [(2, { Region.init with state := 1, id16 := 4 })] } }

def wV16 : State := st fun _ => { wUpRun.chip with
    alm := { wUpRun.chip.alm with inVigil := true, cycle := 620904 + 16 }
    hif := { wUpRun.chip.hif with dayIrq := true } }

def wV16w : State := st fun _ => { wV16.chip with
    hif := { wV16.chip.hif with dayIrq := false }
    kvw := [
        (3, { Walker.init with
            events := [⟨1, 2, 3, 4⟩]
            evtSize := 4
            evtProd := 15
            evtCons := 3
            evtBase := 0x2000 })] }

def wV64 : State := st fun _ => { wRegNow.chip with
    alm := { wRegNow.chip.alm with inVigil := true, cycle := 620904 + 64 } }

def cellsOf (base : Nat) (spans : List (Nat × Nat × Nat)) : List Host.Cell :=
  spans.flatMap fun s => (List.range s.2.1).map fun k => (base + s.1 + k, BitVec.ofNat 8 (s.2.2 / 256 ^ k))

def fullBytes : List Byte :=
  [76, 88, 72, 78, 1, 0, 0, 0, 119] ++ List.replicate 7 0 ++ [7, 0, 0, 0, 4, 0, 0, 0, 64, 3] ++ List.replicate 6 0 ++
    [176, 167, 129, 216, 150, 77, 162, 71, 172, 103, 172, 192, 114, 196, 205, 118, 250, 161, 15, 141, 250, 202, 171, 211] ++
    [8, 2, 43, 0, 178, 241, 58, 216] ++ List.replicate 192 0 ++
    [1, 0, 0, 0, 128, 1, 0, 0, 128, 0, 0, 0, 124, 7, 123, 182, 164, 132, 253, 212, 140, 77, 168, 231] ++
    [216, 56, 77, 226, 0, 0, 0, 0, 2, 0, 0, 0, 0, 2, 0, 0, 168, 0, 0, 0, 129, 10, 99, 228] ++
    [33, 51, 7, 34, 117, 98, 241, 9, 42, 99, 231, 106, 0, 0, 0, 0, 8, 0, 0, 0, 168, 2, 0, 0] ++
    [80, 0, 0, 0, 233, 112, 93, 38, 253, 28, 210, 245, 215, 65, 80, 221, 41, 71, 49, 247, 0, 0, 0, 0] ++
    [17, 0, 0, 0, 248, 2, 0, 0, 72, 0, 0, 0, 214, 142, 19, 113, 115, 221, 145, 184, 16, 5, 158, 7] ++
    [137, 40, 113, 113, 0, 0, 0, 0, 2, 5, 3, 0, 9, 0, 32, 3] ++ List.replicate 73 0 ++ [1] ++ List.replicate 46 0 ++
    [104, 137, 9, 0, 0, 16, 0, 0, 0, 2, 0, 0, 3, 0, 0, 0, 1, 0, 1, 0, 32, 0, 0, 0] ++ [160] ++ List.replicate 15 0 ++
    [255, 255, 255, 255, 255, 255, 0, 0, 255, 255, 255, 255, 255, 255, 255, 255] ++ List.replicate 112 0 ++
    [3, 0, 1, 0, 32, 0, 0, 0, 0, 0, 1, 0, 195, 72, 0, 0, 232, 3, 0, 1, 16] ++ List.replicate 19 0 ++
    [3, 0, 0, 0, 32, 0, 0, 0, 0, 0, 1, 0, 8] ++ List.replicate 11 0 ++ [100, 0, 0, 0, 10, 0, 0, 1] ++
    List.replicate 8 0 ++ [2, 0, 0, 0, 64, 0, 0, 0, 2, 0, 0, 0, 0, 0, 64, 0, 64, 0, 0, 0, 16, 0, 16, 0] ++
    [1, 0, 2, 0, 0, 0, 32, 0, 32] ++ List.replicate 15 0 ++ [16] ++ List.replicate 23 0

def regBytes : List Byte :=
  [76, 88, 72, 78, 1, 0, 2, 0, 153] ++ List.replicate 7 0 ++ [7, 0, 2, 0, 1, 0, 0, 0, 56, 1] ++ List.replicate 6 0 ++
    [196, 11, 82, 88, 218, 126, 224, 93, 41, 76, 178, 193, 243, 63, 243, 143, 135, 210, 209, 122, 17, 124, 146, 74] ++
    [220, 135, 27, 80, 167, 62, 148, 80] ++ List.replicate 128 0 ++ [119] ++ List.replicate 63 0 ++
    [4, 2, 0, 0, 32, 1, 0, 0, 24, 0, 0, 0, 75, 32, 173, 211, 37, 171, 167, 248, 43, 244, 56, 174] ++
    [229, 132, 37, 188, 0, 0, 0, 0, 3, 0, 0, 2, 16, 0, 0, 0, 0, 4] ++ List.replicate 6 0 ++ [1, 2, 3, 4, 5, 6, 7, 8]

def wJobOk : State := st fun _ => { wJob.chip with hns := { wJob.chip.hns with read := fullBytes } }

def regJobOk : LoadJob := { regJob with length := 312 }

def wRJobOk : State := st fun _ => { wRJob.chip with
    alm := { wRJob.chip.alm with running := true }
    hns := { wRJob.chip.hns with id := 0x77, jobs := [regJobOk], read := regBytes } }

def pk (ty : BitVec 4) (vc : BitVec 2) (e : Eid) (len : BitVec 3) (addr : BitVec 24) (aux : BitVec 16) (pay : Nat) : Packet :=
  let p : Packet := ⟨9, ty, vc, false, e, 9, 3, 7, 0, len, addr, aux, 0, BitVec.ofNat 256 pay, false⟩; { p with crc := packetCrc p }

def recR (e : Nat) : Rec := {
    sec := 7
    kind := 0
    target := BitVec.ofNat 16 e
    region := 0
    body := List.replicate 3 0 ++ [0x80] ++ List.replicate 508 0 }

def withFab (f : Chip → Chip) : State := st fun c => f { wUp.chip with
    hns := { wUp.chip.hns with records := [recR 3] }
    fab := { c.fab with dropEid := 4 } }

def buf (e : Eid) (k : Nat) (p : Packet) (c : Chip) : Chip := c.onRouter e fun r => { r with bufs := tput [] r.bufs k [⟨p, 5⟩, ⟨kk0, 7⟩] }

def wFab1 : State := withFab (buf 3 8 (pk 0 0 3 3 0x40 7 99))

def wFab2 : State := withFab (buf 3 9 (pk 2 1 4 3 0x40 7 99))

def wFabQ : State := withFab fun c => c.onEndp 0x138 fun x => { x with
    queue := [kk0, kk0]
    level := 2
    lastInject := some 5
    seq := [(1, 127)]
    quiet := 256 }

def wFabQ0 : State := withFab fun c => c.onEndp 0x138 fun x => { x with
    queue := [kk0, kk0]
    level := 0
    lastInject := some 999
    seq := [(1, 127)]
    quiet := 255
    slots := [(2, ⟨true, 2047, none, 900, .other⟩)] }

def wFabF : State := st fun c => { wFabQ.chip with alm := { c.alm with inFeast := true } }

def pg (k : Nat) : Page := ⟨1, false, false, BitVec.ofNat 8 k, 0, k, 0, false⟩

def wArr : State := withFab fun c => { (c.onEndp 0x138 fun x => { x with
      slots := [(2, ⟨true, 5, none, 900, .other⟩), (3, ⟨true, 2047, none, 5000, .other⟩)] }) with
    hns := { c.hns with records := [ringClass] }
    kvw := [
        (2, { Walker.init with
            descs := [
                (0, { KvDesc.init with isOpen := true, pages := (List.range 9).map pg }),
                (1, { KvDesc.init with isOpen := true, pages := (List.range 1).map pg })] })]
    tmes := [(2, { Tme.init with half := some 0x1234 })] }

def wArrivals1 : State := st fun _ => { wArr.chip with glb := { wArr.chip.glb with profile := 2 } }

def wBk2 : State := st fun c => { wUpRun.chip with
    bkl := { c.bkl with
        file := [(7, { Buckle.init with count := 0xFFFFFF }), (8, { Buckle.init with count := 5 })]
        badOp := 0xFFFFFFFF }
    flt := { c.flt with tail := 5, head := 4, log := [(4, { FltEntry.init with code := 0x2004, count := 7 })] } }

def fr : Frame := {
    fseq := 6
    mark := false
    markOfs := 0
    markDay := 0
    skew := 0
    sentA := 3
    sentB := 250
    retA := 9
    retB := 8
    width := 0
    packets := [] }

def wLnk (f : Link → Link) : State := st fun c => { wUpRun.chip with
    hns := { c.hns with
        loaded := true
        records := [
            {
                sec := 0x0F
                kind := 0
                target := 2
                region := 0
                body := [2, 0, 0, 1, 7, 0] ++ List.replicate 1100 0 }] }
    agenda := [(7777, .frameSend 3)]
    uml := { c.uml with
        links := [
            (2, f { Link.init with
                rcvd := [(4, 9), (5, 7)]
                freed := [(5, 255)]
                lost := 0xFFFFFF00
                sentCum := [(4, 3)]
                width := 0
                lanesOk := 15
                peer := 7
                peerWidths := 7 })] } }

def wUmaedFrames1 : State := wLnk fun l => { l with state := 5 }

def wUmaedFrames3 : State := wLnk fun l => { l with state := 4, echoWait := true, echoes := 3 }

def wUmaedFrames4 : State := wLnk fun l => { l with state := 4, echoWait := false, echoes := 3 }

def wUmaedFrames5 : State := wLnk fun l => { l with
    state := 4
    echoWait := false
    echoes := 16
    fseq := 5
    width := 2 }

def wUmaedTraining1 : State := wLnk fun l => { l with state := 1 }

def wUmaedTraining2 : State := wLnk fun l => { l with state := 2 }

def wUmaedTraining3 : State := wLnk fun l => { l with state := 3, gotIdent := true }

def wUmaedTraining4 : State := wLnk fun l => { l with state := 3, gotIdent := false }

def wUmaedTraining7 : State := wLnk fun l => { l with state := 4, echoes := 16, rounds := 33 }

def wUmaedTraining8 : State := wLnk fun l => { l with state := 4, echoes := 16, rounds := 34 }

def wUmaedTraining10 : State := wLnk fun l => { l with state := 5, lanesOk := 0 }

def wLnkA : State := st fun c => { (wLnk fun l => { l with state := 5, markOffset := 6 }).chip with
    alm := { c.alm with armed := true } }

def wLnkS : State := st fun c => { (wLnk fun l => { l with state := 5, markOffset := 6 }).chip with alm := c.alm }

def mplan : Rec := {
    sec := 8
    kind := 1
    target := 5
    region := 0
    body := [1, 2, 2, 0, 0, 0, 0, 0, 100, 0, 50, 0, 12] ++ List.replicate 51 0 }

def wCh (f : Chan → Chan) (g : Chip → Chip) : State := st fun _ => g { wUpRun.chip with
    glb := { wUpRun.chip.glb with ddrReady := 0xFF }
    hns := { wUpRun.chip.hns with records := [mplan] }
    chans := [
        (5, f { Chan.init with
            banks := [(3, ⟨some 7, [], false, [], 0⟩), (20, ⟨some 9, [], true, [], 0⟩)]
            debt := [(0, 40), (1, 130)]
            wbuf := [(4, 0x1234), (5, 0x5678)]
            wbufOld := [(998, 4, 0x77)]
            cells := [(467040, 9), (467073, 5)]
            derate := 1 })] }

def stopC (c : Chip) : Chip := { c with alm := { c.alm with running := false, armed := false } }

def wDramPlanned1 : State := wCh id id

def wDramPlanned2 : State := wCh id stopC

def dTxn (ty : BitVec 4) : Txn := ⟨pk ty 1 0x105 3 0x40 7 99, 0x40, 2, false⟩

def qs (l : List Txn) (x : Chan) : Chan := { x with classes := [(2, ⟨l, 0, 3, 0, 0⟩), (1, ⟨[], 0, 3, 0, 5000⟩)] }

def wDramUnscheduled1 : State := wCh (fun x => { x with debt := [(1, 128)] }) id

def wDramUnscheduled3 : State := wCh (fun x => qs [dTxn 2, dTxn 0] { x with debt := [] }) stopC

def wDramUnscheduled4 : State := wCh (fun x => { x with inFlight := [(1000, dTxn 0)] }) id

def tDesc (o : Nat) (buckle : Nat) : Desc :=
  BitVec.ofNat 512 (o + 256 * 256 * buckle + 256^4 * 0xFFFF + 256^6 * 3 + 256^8 * 0x40 + 256^16 * 0xFFFF + 256^18 * 0x105 + 256^20 * 0x400 + 256^28 * 256 + 256^32 * 1 + 256^34 * 1)

def mJob (o : Nat) (buckle : Nat) : TmeJob := {
    slot := 5
    desc := tDesc o buckle
    total := 1
    issued := 8
    block := 0
    need := 8
    stopped := false
    status := 0
    buf := []
    outl := [] }

def mStopped : TmeJob := { mJob 1 33059 with stopped := true, status := 3 }

def wTm (j : Option TmeJob) (q : List (BitVec 5 × Desc)) : State := st fun _ => { wUpRun.chip with
    tmes := [(2, { Tme.init with job := j, queue := q, done := 0xFFFFFFFF, bytesOut := 0xFFFFFF00 })] }

def wTmeRows1 : State := wTm none [(3, tDesc 1 0), (4, 5)]

def wTmeRows4 : State := wTm (some (mJob 1 0)) []

def wTmeRows5 : State := wTm (some (mJob 1 0x8123)) []

def wTmeRows6 : State := wTm (some { mJob 1 0x8123 with stopped := true, status := 3 }) []

def mEnc : TmeJob := { mJob 5 0 with buf := (List.range 8).map fun k => (k, BitVec.ofNat 256 (k * 0x1234567)) }

def wTmeRows7 : State := wTm (some mEnc) []

def mDec (l : Nat) : TmeJob := { mJob 9 0 with need := 1, buf := [(0, BitVec.ofNat 256 l)] }

def wTmeRows9 : State := wTm (some (mDec 0x5000)) []

def goodTab : SkvTable := ⟨[(1, 0), (3, 4), (3, 5), (4, 12), (4, 13), (5, 28), (5, 29), (5, 30), (5, 31)], 128⟩

def kvRec (m : Nat) (low : Nat) : Rec := {
    sec := 0x0A
    target := 5
    kind := 0
    region := 0
    body := leBytes 1 m ++ [0, 1, 0, 2, 0, 0] ++ leBytes 1 low ++ leBytes 2 10 ++ leBytes 2 4 ++ leBytes 2 64 ++
        leBytes 2 16 ++ leBytes 2 4 ++ [5, 3] ++ leBytes 8 0x10000 ++ [2, 0, 0, 0, 7, 0, 9, 0] ++
        List.replicate 4 0 ++ List.replicate 64 1 }

def pgl (l : BitVec 2) (k : Nat) : Page :=
  ⟨l, false, false, BitVec.ofNat 8 (90 - k), BitVec.ofNat 20 k, k, BitVec.ofNat 10 k, k = 0⟩

def kvD : KvDesc := { KvDesc.init with
    cls := 5
    isOpen := true
    len := 200
    pages := [pgl 1 0, pgl 1 1, pgl 2 2, pgl 3 3]
    created := 4
    usedFrames := [0, 1]
    usedHomes := [0, 1, 2, 3]
    session := 3 }

def kvMv (ts f : Bool) : Move := ⟨11, 3, 1, ts, 3, true, 256, 256, [], f⟩

def wKv (m low : Nat) (f : Walker → Walker) : State := st fun _ => { wUpRun.chip with
    hns := { wUpRun.chip.hns with records := [kvRec m low] }
    kvw := [(2, f { Walker.init with descs := [(11, kvD)], ops := 0xFFFFFFFF })] }

def kp (d a0 a1 : Nat) : Packet := pk 5 1 0x11A 2 0 7 (1 + 65536 * d + 2^32 * a0 + 2^64 * a1)

def wKvOperations1 : State := wKv 8 0 id

def wKvMoves1 : State := wKv 8 0 (fun x => { x with results := [(1000, kk0)] })

def wKvMoves4 : State := wKv 8 0 (fun x => { x with moves := [kvMv false true] })

def wKvE : State := st fun _ => { (wKv 8 0 (fun x => { x with moves := [kvMv true false] })).chip with
    alm := { wUpRun.chip.alm with dayCount := 4, dayEnded := true } }

def wKvR : State := st fun c => { (wKv 3 0 (fun x => { x with notices := [(5, 0)], degraded := [] })).chip with
    alm := { wUpRun.chip.alm with dayCount := 7, inVigil := true, yearPos := 3, yearLen := 4 }
    uml := { c.uml with links := [(0, { Link.init with state := 5 }), (1, { Link.init with state := 5 })] } }

def strm : Rec := {
    sec := 0x0C
    target := 0
    kind := 0
    region := 2
    body := leBytes 8 2 ++ (leBytes 2 5 ++ [0, 1, 8, 2, 3, 0] ++ leBytes 2 40 ++ leBytes 2 0 ++ leBytes 4 5000 ++ List.replicate 8 0) ++ (leBytes 2 6 ++ [1, 1, 8, 0, 0, 0] ++ List.replicate 16 0) }

def cls4 : Rec := {
    sec := 0x0B
    target := 3
    kind := 0
    region := 2
    body := [1, 0] ++ leBytes 2 1020 ++ leBytes 2 4 ++ leBytes 2 4 ++ List.replicate 4 0 ++ List.replicate 8 0xFF ++
        List.replicate 12 0 }

def wVo (al : Alm → Alm) (f : Stream → Stream) (g : Sfe → Sfe) : State := st fun c => { wUpRun.chip with
    alm := al { wUpRun.chip.alm with dayCount := 44, cycle := 0 }
    hns := { wUpRun.chip.hns with records := [strm, cls4] }
    sfe := g { c.sfe with
        streams := [
            (5, f { Stream.init with
                prod := 5
                cons := 3
                fetchIx := 3
                size := 4
                base := 0x1000
                startDay := some 24 }),
            (6, f { Stream.init with startDay := some 24 })]
        sessions := [
            (1020, { Session.init with state := 1, cls := 3, bindDay := 44 }),
            (1021, { Session.init with state := 1, cls := 77, bindDay := 44 }),
            (1022, { Session.init with state := 3, cls := 3, closeDay := 44 })]
        holdq := [1020, 1022] }
    hostMem := cellsOf (0x1000 + 64 * 3) [(1, 1, 0x40), (8, 2, 320)] }

def aBlk : Block := ⟨3, 0, 5, List.replicate 20 1, List.replicate 160 9⟩

def wVoiceRows1 : State := wVo id id id

def wVoiceRows2 : State := wVo id (fun x => { x with prod := 3 }) id

def wVoiceRows3 : State := wVo (fun a => { a with cycle := 5000 }) id id

def wVoiceRows4 : State := wVo (fun a => { a with dayCount := 43, inVigil := true, cycle := 620904 }) id id

def wVoiceRows6 : State := wVo (fun a => { a with dayCount := 63, inVigil := true, cycle := 620920 }) (fun x => { x with taken := some aBlk, drops := 65535 }) id

def wAu (fl w : Byte) (al : Alm → Alm) (f : AudPort → AudPort) (g : Aud → Aud) : State := st fun c => { wUpRun.chip with
    alm := al { wUpRun.chip.alm with dayCount := 44 }
    hns := { wUpRun.chip.hns with
        records := [{ sec := 0x0E, kind := 0, target := 3, region := 1, body := [fl, w] ++ List.replicate 62 0 }] }
    aud := g { c.aud with
        ports := [(3, f { AudPort.init with run := true, running := true, frames := 7, gain := 9 })] } }

def rowI (fl w : Byte) (f : AudPort → AudPort) (g : Aud → Aud) : State := wAu fl w id f g

def wI2sRows1 : State := rowI 1 1 (fun x => { x with running := false }) id

def wI2sRows2 : State := rowI 1 1 (fun x => { x with run := false }) id

def wI2sRows3 : State := rowI 1 1 id (fun a => { a with
    armed := true
    latched := 8
    startAt := wUpRun.chip.lts + 40 * 0x400000 })

def fhB (n : Nat) : List Byte :=
  [0x11, 0, 0, 0, 1, 2, 3, 4, 5, 6] ++ leBytes 1 n ++ [14] ++ leBytes 4 10000 ++ leBytes 4 20000 ++ leBytes 4 5 ++
      [0, 0, 0, 0, 1, 0, 0, 0] ++ List.replicate 32 0 ++ [1, 0, 2] ++ List.replicate 29 1

def fhR (n : Nat) : Rec := { sec := 0x0D, kind := 0, target := 0, region := 1, body := fhB n }

def fhF (mac ty : Byte) (pay : List Byte) : List Byte :=
  [mac, 2, 3, 4, 5, 6, 7, 7, 7, 7, 7, 7, 0xAE, 0xFE, 0x10, ty, 0] ++ leBytes 1 pay.length ++ pay ++
      List.replicate 60 0

def wFh (n : Nat) (al : Alm → Alm) (f : FhPort → FhPort) (g : FhRing → FhRing) : State := st fun c => { wUpRun.chip with
    alm := al { wUpRun.chip.alm with dayCount := 44 }
    hns := { wUpRun.chip.hns with records := [fhR n] }
    fhe := { c.fhe with
        ports := [(0, f { FhPort.init with counters := [(9, 0xFFFFFFFF), (4, 7)], linkUp := false })]
        rings := [(2, g { FhRing.init with base := 5 })] } }

def aLn (nt : Option (BitVec 16)) : FhLine := ⟨44, 900, 7, 33, 0x1234, nt⟩

def fArgs : FhPort → FhPort := fun x => { x with linkUp := true }

def wFronthaulRows1 : State := wFh 0 id id id

def wFronthaulRows2 : State := wFh 0 id (fun x => { fArgs x with
    fifo := [(fhF 1 2 [1,2,3], 5, 990)]
    lines := [aLn none] }) id

def wFronthaulRows3 : State := wFh 0 id (fun x => { fArgs x with
    fifo := [(fhF 1 0 [1,2,3], 5, 990)]
    lines := [aLn (some 9)] }) id

def wFronthaulRows4 : State := wFh 0 id (fun x => { fArgs x with
    fifo := [(fhF 1 5 [1,0,0,0,0,0,0,0,0,0,0,0,0,0,0,0,0,0,0,0], 5, 990)]
    replies := [⟨5, true, 6, 7, 8⟩] }) id

def wFronthaulRows6 : State := wFh 0 id (fun x => { fArgs x with
    fifo := [(fhF 1 5 [1,9,0,0,0,0,0,0,0,0,0,0,0,0,0,0,0,0,0,0], 5, 990)] }) id

def wFronthaulRows5 : State := wFh 0 (fun a => { a with cycle := 20001 }) id id

def wCn (f : Cns → Cns) (g : Chip → Chip) : State := st fun c => g { wUpRun.chip with
    cns := f { c.cns with
        pinEn := true
        bcastEn := true
        seq := 0xFFFFFFFF
        banks := [(0, ⟨true, false, [(5, 1)]⟩)] } }

def aLat : Latch := ⟨1000, 3, 5, 6, 0, none⟩

def aTrg : Packet := pk 8 1 eidCensus 3 0 0 (5 * 0x400000 + 3000 + 2^64 * 7)

def wCensusRows1 : State := wCn id id

def wCensusRows2 : State := wCn (fun k => { k with pinEn := false, bcastEn := false, driveUntil := 5000 }) id

def wCensusRows3 : State := wCn (fun k => { k with arms := [(1, ⟨1, wUpRun.chip.lts + 16, 9⟩)] }) id

def wCensusRows4 : State := wCn (fun k => { k with pending := [aLat] }) id

def wCensusRows6 : State := wCn (fun k => { k with
    last := 0
    pending := [aLat]
    banks := (List.range 4).map fun b => (b, ⟨true, true, []⟩) }) id

def wCensusRows8 : State := wCn (fun k => { k with
    spill := true
    spillSize := 3
    spillChan := 2
    win := some 0
    banks := [(0, ⟨true, true, [(5, 1)]⟩)] }) id

def wCensusRows9 : State := wCn (fun k => { k with
    spilling := some 0
    spillProd := 65535
    banks := [(0, ⟨true, true, [(5, 1)]⟩)] }) id

def wCensusRows10 : State := wCn (fun k => { k with
    arms := [(2, ⟨2, BitVec.ofNat 64 (5 * 0x400000 + 3000), 7⟩)] }) id

def wBusyAll (c : Chip) : Chip := { wUpRun.chip with
    flt := { c.flt with tail := 5, fatal := true }
    cns := { c.cns with seq := 9 }
    tiles := [(3, { Tile.init with pc := 9 })]
    flash := [(5, 7)] }

def wRs (f : Glb → Glb) : State := st fun c => { (wBusyAll c) with
    glb := f { (up c).glb with
        porN := true
        sysRstN := true
        epoch := 77
        uptime := 88
        keyDigest := 5
        holdDdr := true } }

def codesA : BitVec 128 := 400

def wResetRows4 : State := wRs fun g => { g with porN := false, phase := .held }

def wResetRows5 : State := wRs fun g => { g with sysRstN := false, phase := .held }

def wResetRows6 : State := wRs fun g => { g with phase := .starting, readyAt := 1000 }

def wResetRows7 : State := wRs fun g => { g with phase := .starting, readyAt := 1001 }

def wResetRows8 : State := wRs fun g => { g with softAt := some 999, softFlr := true }

/-! ### More states of the same kinds -/

def wCtl1 : State := st fun _ => { wUp.chip with
    hns := { wUp.chip.hns with sealed := true }
    uml := { wUp.chip.uml with links := [(2, { Link.init with state := 3, enable := true })] }
    hif := { wUp.chip.hif with resync := true, cmdProd := 300, cmdCons := 2 } }

def atV (n : Nat) (s : BitVec 2) (d : BitVec 64) : State := st fun _ => { wV64.chip with
    alm := { wV64.chip.alm with cycle := 620904 + n }
    hns := { wV64.chip.hns with regions := [(2, { Region.init with state := s, applyDay := d, image := some regImg })] } }

def wArrFull : State := ⟨[], wArr.chip.onTile 3 fun x => { x with ingress := List.replicate 8 ⟨0, 4, 1, none⟩ }⟩

def badFec : Fec := ⟨(List.finRange 544).take 16⟩

def fr3 : Frame := { fr with width := 3 }

def pkV : Packet := pk 6 1 eidCmd 3 0 162 77

/-- A packet for VC2 whose check is right, and one whose check is not. -/
def pkG : Packet := { pk 0 2 7 3 64 7 99 with crc := packetCrc (pk 0 2 7 3 64 7 99) }

def pkB : Packet := { pkG with crc := pkG.crc + 1 }

def frP : Frame := { fr with packets := [(3, pkG)] }

def frB : Frame := { fr with packets := [(3, pkB)] }

def wUmaedFrames6 : State := wLnk fun l => { l with
    state := 5
    lanesOk := 13
    width := 1
    scr := 0x123456789
    egress := [⟨pk 6 1 eidCmd 3 0 162 77, 900, 12⟩, ⟨pk 0 2 7 3 64 7 99, 990, 12⟩, ⟨pk 0 3 7 3 64 7 98, 2000, 3⟩]
    markDue := some (998, 4) }

def wUmaedFrames7 : State := wLnk fun l => { l with state := 3 }

def wUmaedTraining11 : State := wLnk fun l => { l with state := 5, lanesOk := 1 }

def wEmerg : State := wCh (fun x => { x with emergUntil := [(0, 5000)] }) id

def wDramUnscheduled5 : State := wCh (fun x => { x with inFlight := [(1000, dTxn 2)] }) id

def rawBlock : List Byte := Skv.header 256 true 3 ++ List.replicate 256 7

def mRaw : TmeJob := { mJob 9 0 with need := 9, buf := (List.range 9).map fun k => (k, lineOf (bytesAt rawBlock (32 * k) 32)) }

def wTmeRows10 : State := wTm (some mRaw) []

def mStop3 : TmeJob := { mJob 1 0x8123 with stopped := true, status := 3 }

def wTmeOff : State := st fun _ => { wTmeRows1.chip with glb := { wTmeRows1.chip.glb with profile := 2 } }

def wKvD (l : List (BitVec 16 × BitVec 48 × BitVec 48)) : State := st fun _ => { (wKv 3 0 (fun x => { x with degraded := l })).chip with
    alm := { wUpRun.chip.alm with dayCount := 7 } }

def wVoiceRows7 : State := wVo (fun a => { a with cycle := 5000 }) (fun x => { x with ahead := [⟨3, true, List.replicate 160 5⟩] }) id

def wVoiceRows8 : State := wVo (fun a => { a with dayCount := 63, inVigil := true, cycle := 620920 })
  (fun x => { x with taken := some aBlk, drops := 3, size := 4, base := 0x1000, prod := 5, cons := 3 }) id

def outFrames : List (Int × Int) := List.replicate 64 (-7, 9)

def wAudIn : State := wAu 1 1 (fun a => { a with cycle := 0 }) (fun x => { x with
    startDay := some 28
    whole := some (outFrames, 1) }) id

def wAudOut : State := wAu 2 1 (fun a => { a with dayCount := 43, inVigil := true, cycle := 620904 }) (fun x => { x with
    startDay := some 28 }) id

def wI2sRows4 : State := rowI 3 1 (fun x => { x with
    fifoIn := List.replicate 31 (1, 2), fifoOut := [(5, 6)], div := 325, frac := 0x855555, coming := [(1000, (3, 4))] }) id

/-- A plan with one antenna entry of eight PRBs. -/
def fhR1 : Rec := { fhR 1 with
    body := bytesAt (fhB 1) 0 64 ++ [5, 0, 0, 0, 3, 0, 64, 0, 0, 0, 8, 0, 9, 0, 0, 0] ++ [1, 0, 2] ++ List.replicate 29 1 }

/-- A type 0 message of four PRBs of symbol 2, in a slot of frame 4. -/
def iqPay (subframe : Byte) : List Byte :=
  [0, 5, 0, 0x80, 0x10, 4, subframe * 16, 2] ++ [0, 0, 0, 4, 0x91, 0] ++ List.replicate 112 1

def iqLts : Lts := 44 * 0x400000 + 100

def wIq (sub : Byte) : State := st fun _ => { (wFh 1 id (fun x => { fArgs x with
      fifo := [(fhF 1 0 (iqPay sub), iqLts, 990)] }) id).chip with
    hns := { wUpRun.chip.hns with records := [fhR1] } }

/-- The antenna entry of `fhR1`, and a pause frame. -/
def fhEnt : List Byte := [5, 0, 0, 0, 3, 0, 64, 0, 0, 0, 8, 0, 9, 0, 0, 0]

def fhOut0 : List Byte := [1, 0, 2] ++ List.replicate 29 1

def fhM : List Byte := [1, 0x80, 0xC2, 0, 0, 1, 7, 7, 7, 7, 7, 7, 0x88, 0x08] ++ List.replicate 60 0

def wFhClose : State := st fun _ => { (wIq 4).chip with alm := { (wIq 4).chip.alm with cycle := 20001 } }

def aCopy : FhCopy := ⟨43, 0, 7, false, [3], [(3, 5)], 1, 0⟩

def wFhOut : State := st fun _ => { (wFh 0 (fun a => { a with inVigil := true, cycle := 620920 }) id fun x => { x with
      size := 4, prod := 5, cons := 3 }).chip with
    hostMem := cellsOf (5 + 64 * 3) [(8, 2, 320)] }

def wFhOutNone : State := wFh 0 (fun a => { a with inVigil := true, cycle := 620920 }) id id

def wFhLate : State := wFh 0 (fun a => { a with inVigil := true, cycle := 620904 }) id fun x => { x with copying := some aCopy }

def wFhFull : State := wFh 0 id (fun x => { fArgs x with fifo := List.replicate 256 (List.replicate 1024 0, 5, 990) }) id

def wTlpPart : Tlp := { wTlp with firstBe := 3 }

def wTlpRead : Tlp := { wTlp with write := false, count := 100 }

/-! ### Two images whose verification passes (R129) -/

def fullGlobals : List Byte := bytesAt fullBytes 384 128
def fullAlmanac : List Byte := bytesAt fullBytes 512 168

theorem regBytes_merged :
    wRJobOk.chip.mergedOk [(2, Chip.regionImage regBytes ((Img.allRecords regBytes).getD []))] = true := by
  rw [Chip.mergedOk, Img.recordsOk_absent _ _ (by decide +kernel)]
  decide +kernel

theorem regBytes_pass : wRJobOk.chip.jobVerdict regJobOk = Img.pass := by
  have m : wRJobOk.chip.regionMap 2 = some map2.body := by decide +kernel
  have n : Img.sectionOf regBytes 0x02 = none := by decide +kernel
  exact Chip.verify_region _ regBytes _ 2 (by decide +kernel)
    (Chip.regionOk_alone _ _ _ _ _ m (by decide +kernel) (by decide +kernel) (fun a h => by rw [n] at h; cases h)
      (by decide +kernel) regBytes_merged)
    (fun a h => by rw [n] at h; cases h)

theorem fullBytes_ok : wJobOk.chip.fullOk fullBytes ((Img.allRecords fullBytes).getD []) = true := by
  have g : Img.sectionOf fullBytes 0x01 = some fullGlobals := by decide +kernel
  have a : Img.sectionOf fullBytes 0x02 = some fullAlmanac := by decide +kernel
  have n : ∀ r ∈ (Img.allRecords fullBytes).getD [], r.sec.toNat ≠ 7 := by decide +kernel
  simp only [Chip.fullOk, g, a]
  rw [Img.recordsOk_absent _ _ n]
  decide +kernel

theorem fullBytes_pass : wJobOk.chip.jobVerdict fullJob = Img.pass := by
  exact Chip.verify_full _ fullBytes _ (by decide +kernel) fullBytes_ok

/-! ### The hypotheses of SlotOrder -/



/-! ### The hypotheses of LoopRows -/

theorem test_LoopRows_1_meets1 :
    (∀ l ∈ (wLoop.chip.tile 3).loops, l.k ≠ 2) ∧
    0 < ((wLoop.chip.tile 3).areg 2).toNat := by decide +kernel

theorem test_LoopRows_2_1_meets1 :
    (wNoLoop.chip.tile 3).loops = [] ∧
    ((wNoLoop.chip.tile 3).areg 3).toNat = 0 ∧
    0 < ((wNoLoop.chip.tile 3).areg 2).toNat := by decide +kernel

theorem test_LoopRows_2_1_meets2 :
    (wNoLoop.chip.tile 3).loops = [] ∧
    0 < ((wNoLoop.chip.tile 3).areg 2).toNat ∧
    ((wNoLoop.chip.tile 3).areg 3).toNat = 0 := by decide +kernel

theorem test_LoopRows_2_1_meets3 :
    (wPad.chip.tile 3).hold = Hold.pad 999 ∧
    999 < wPad.chip.now := by decide +kernel

theorem test_LoopRows_2_2_meets1 :
    (∃ l ∈ (wLoop.chip.tile 3).loops, l.k = 1) := by decide +kernel

/-! ### The hypotheses of GatingRows -/

theorem test_GatingRows_meets1 :
    (wIdle.chip.tile 3).hold = Hold.idle 999 ∧
    999 < wIdle.chip.now := by decide +kernel

/-! ### The hypotheses of WaitRows -/

theorem test_WaitRows_meets1 :
    (wLoop.chip.tile 3).loose = true := by decide +kernel

theorem test_WaitRows_meets2 :
    (wTight.chip.tile 3).loose = false := by decide +kernel

/-! ### The hypotheses of SectionStart -/

theorem test_SectionStart_meets1 :
    wSec.chip.sectionAt 3 = some { first := 30, last := 60, entry := 5, tile := 3, loose := true, region := 4 } ∧
    wSec.chip.tileLive 3 = true ∧
    (wSec.chip.tile 3).skipDay = false ∧
    (wSec.chip.tile 3).inSection = false := by decide +kernel

theorem test_SectionStart_meets2 :
    wSkip.chip.sectionAt 3 = some { first := 30, last := 60, entry := 5, tile := 3, loose := true, region := 4 } ∧
    wSkip.chip.tileLive 3 = true ∧
    (wSkip.chip.tile 3).skipDay = true := by decide +kernel

theorem test_SectionStart_meets3 :
    wOver.chip.sectionAt 3 = some { first := 30, last := 60, entry := 5, tile := 3, loose := true, region := 4 } ∧
    wOver.chip.tileLive 3 = true ∧
    (wOver.chip.tile 3).skipDay = false ∧
    (wOver.chip.tile 3).inSection = true := by decide +kernel

/-! ### The hypotheses of LoadStoreRows -/

theorem test_LoadStoreRows_meets1 :
    (wLoop.chip.tile 3).lsUntil ≤ wLoop.chip.now := by decide +kernel

theorem test_LoadStoreRows_meets2 :
    wHeld.chip.now < (wHeld.chip.tile 3).lsUntil := by decide +kernel

/-! ### The hypotheses of ServedAccess -/

theorem test_ServedAccess_meets1 :
    31 < 32 ∧
    quiet (wBusy Tile.init) ((200 : ℕ) + BitVec.toNat (2 : BitVec (4 : ℕ))) ∧
    5 < 7 ∧
    (default < BitVec.toNat (64 : BitVec (19 : ℕ)) / (32 : ℕ) * (32 : ℕ) ∨
      BitVec.toNat (64 : BitVec (19 : ℕ)) / (32 : ℕ) * (32 : ℕ) + (32 : ℕ) ≤ default) := by
  unfold quiet
  decide +kernel

/-! ### The hypotheses of MxuRows -/

theorem test_MxuRows_meets1 :
    (wLoop.chip.tile 3).eq = [14, 3] ∧
    (∀ w ∈ (wLoop.chip.tile 3).pend, wLoop.chip.now + 1 < w.due) := by decide +kernel

theorem test_MxuRows_meets2 :
    (wMxuRows1.chip.tile 3).eq = [] := by decide +kernel

/-! ### The hypotheses of AccumulatorRows -/

theorem test_AccumulatorRows_2_meets1 :
    31 < 32 := by decide +kernel

/-! ### The hypotheses of VectorRows -/

theorem test_VectorRows_2_meets1 :
    BitVec.toNat (1 : BitVec 14) % 4 = 1 ∧
    1 ≤ BitVec.toNat (1 : BitVec 14) % 64 ∧
    BitVec.toNat (1 : BitVec 14) % 64 ≤ 40 := by decide +kernel

theorem test_VectorRows_2_meets2 :
    BitVec.toNat (0 : BitVec 14) % 4 = 0 := by decide +kernel

theorem test_VectorRows_2_meets3 :
    BitVec.toNat (2 : BitVec 14) % 4 = 2 := by decide +kernel

/-! ### The hypotheses of Requantise -/

theorem test_Requantise_2_meets1 :
    0 < 3 ∧
    2 * |-12 - roundHaz (-12) ↑3 * 2 ^ 3| = 2 ^ 3 := by decide +kernel

/-! ### The hypotheses of StatRows -/

theorem test_StatRows_meets1 :
    wClose.chip.alm.running = true ∧
    wClose.chip.alm.inVigil = true ∧
    wClose.chip.alm.cycle = wClose.chip.alm.dayLen.toNat - wClose.chip.alm.vigilLen.toNat + 16 ∧
    (wClose.chip.tile 3).winOpen = true ∧
    (wClose.chip.tile 3).winLen ≤ (wClose.chip.tile 3).winDays := by decide +kernel

/-! ### The hypotheses of TopK -/

theorem test_TopK_meets1 :
    BitVec.toNat (0 : BitVec 14) / 16 % 2 = 0 := by decide +kernel

/-! ### The hypotheses of IllegalForms -/

theorem test_IllegalForms_meets1 :
    BitVec.toNat (3 : BitVec 14) % 4 = 3 := by decide +kernel

theorem test_IllegalForms_meets2 :
    (BitVec.toNat (0 : BitVec 14) % 64 = 0 ∨ 40 < BitVec.toNat (0 : BitVec 14) % 64) := by decide +kernel

/-! ### The hypotheses of SendRow -/

theorem test_SendRow_meets1 :
    (headerOf
      (tget (0 : BitVec (128 : ℕ)) (wLoop.chip.tile (3 : TileId)).tmpl
      (BitVec.toNat (1 : BitVec (3 : ℕ))))).vc =
      (0 : BitVec (2 : ℕ)) := by decide +kernel

theorem test_SendRow_meets2 :
    (headerOf
      (tget (0 : BitVec (128 : ℕ)) (wVc1.chip.tile (3 : TileId)).tmpl
      (BitVec.toNat (1 : BitVec (3 : ℕ))))).vc ≠
      (0 : BitVec (2 : ℕ)) := by decide +kernel

/-! ### The hypotheses of RecvRows -/

theorem test_RecvRows_meets1 :
    (wRx.chip.tile 3).loose = true ∧
    (wRx.chip.tile 3).rxq = [1, 2] ∧
    (wRx.chip.tile 3).recvWait = some (96, 2, true) := by decide +kernel

theorem test_RecvRows_meets2 :
    (wLoop.chip.tile 3).loose = true ∧
    (wLoop.chip.tile 3).rxq = [] := by decide +kernel

theorem test_RecvRows_meets3 :
    (wTight.chip.tile 3).loose = false := by decide +kernel

/-! ### The hypotheses of UnscheduledAccess -/

theorem test_UnscheduledAccess_meets1 :
    (wIngBusy.chip.tile 3).ingress = [ingA] ∧
    ((∃ m ∈ (wIngBusy.chip.tile 3).micro,
      m.cycle = wIngBusy.chip.now ∧ Tile.bankOf m.addr = Tile.bankOf ingA.addr) ∨
      (wIngBusy.chip.tile 3).took.1 = wIngBusy.chip.now ∧ Tile.bankOf ingA.addr ∈ (wIngBusy.chip.tile 3).took.2) ∧
    (∀ p ∈ (wIngBusy.chip.tile 3).reads,
      (∃ m ∈ (wIngBusy.chip.tile 3).micro,
      m.cycle = wIngBusy.chip.now ∧ Tile.bankOf m.addr = Tile.bankOf (BitVec.setWidth 19 p.addr)) ∨
      (wIngBusy.chip.tile 3).took.1 = wIngBusy.chip.now ∧
      Tile.bankOf (BitVec.setWidth 19 p.addr) ∈ (wIngBusy.chip.tile 3).took.2) := by decide +kernel

theorem test_UnscheduledAccess_meets2 :
    (wIng.chip.tile 3).ingress = [ingA, { addr := 0, len := 4, data := 1, notify := none }] ∧
    (¬((∃ m ∈ (wIng.chip.tile 3).micro, m.cycle = wIng.chip.now ∧ Tile.bankOf m.addr = Tile.bankOf ingA.addr) ∨
      (wIng.chip.tile 3).took.1 = wIng.chip.now ∧ Tile.bankOf ingA.addr ∈ (wIng.chip.tile 3).took.2)) ∧
    ingA.notify = none := by decide +kernel

/-! ### The hypotheses of StartArms -/

theorem test_StartArms_meets1 :
    wIdleAlm.chip.glb.phase = Phase.up ∧
    wIdleAlm.chip.alm.running = false ∧
    wIdleAlm.chip.alm.armed = false ∧
    wIdleAlm.chip.hns.loaded = true ∧
    wIdleAlm.chip.glb.ddrFail = 0 ∧
    50000 ≤ wIdleAlm.chip.alm.dayLen.toNat ∧
    wIdleAlm.chip.alm.dayLen.toNat ≤ 2500000 ∧
    1024 ≤ wIdleAlm.chip.alm.vigilLen.toNat ∧
    wIdleAlm.chip.alm.vigilLen.toNat ≤ 65536 ∧
    wIdleAlm.chip.alm.tickTol.toNat + 1024 ≤ wIdleAlm.chip.alm.vigilLen.toNat ∧
    wIdleAlm.chip.alm.vigilLen.toNat + 1024 ≤ wIdleAlm.chip.alm.dayLen.toNat ∧
    1 ≤ wIdleAlm.chip.alm.yearLen.toNat ∧
    wIdleAlm.chip.alm.yearLen.toNat ≤ 4096 ∧
    wIdleAlm.chip.alm.yearLen.toNat ≤ wIdleAlm.chip.hns.year.length ∧
    0 ≠ 3 ∧
    (¬(0 = 2 ∧ wIdleAlm.chip.uml.root = true ∧ wIdleAlm.chip.alm.tickSrc = 2)) := by decide +kernel

/-! ### The hypotheses of StopAndRefusedStart -/

theorem test_StopAndRefusedStart_1_meets1 :
    wRun.chip.glb.phase = Phase.up ∧
    (wRun.chip.alm.running = true ∨ wRun.chip.alm.armed = true) := by decide +kernel

theorem test_StopAndRefusedStart_1_meets2 :
    wIdleAlm.chip.glb.phase = Phase.up ∧
    wIdleAlm.chip.alm.running = false ∧
    wIdleAlm.chip.alm.armed = false ∧
    (wIdleAlm.chip.hns.loaded = false ∨ 3 = 3 ∨ wIdleAlm.chip.glb.ddrFail ≠ 0) := by decide +kernel

theorem test_StopAndRefusedStart_2_meets1 :
    wRun.chip.glb.phase = Phase.up ∧
    wRun.chip.alm.running = true := by decide +kernel

theorem test_StopAndRefusedStart_2_meets2 :
    wArmed.chip.glb.phase = Phase.up ∧
    wArmed.chip.alm.running = false ∧
    wArmed.chip.alm.armed = true := by decide +kernel

/-! ### The hypotheses of TickSrcRow -/

theorem test_TickSrcRow_meets1 :
    wIdleAlm.chip.glb.phase = Phase.up ∧
    (¬(BitVec.extractLsb' 0 2 (3 : Word) = (1 : BitVec 2) ∧
      (1 < (BitVec.extractLsb' 2 3 (3 : Word)).toNat ∨ wIdleAlm.chip.glb.profile = (2 : BitVec 2)) ∨
      BitVec.extractLsb' 0 2 (3 : Word) = (2 : BitVec 2) ∧
      (5 < (BitVec.extractLsb' 2 3 (3 : Word)).toNat ∨ wIdleAlm.chip.glb.profile = (2 : BitVec 2)))) ∧
    wIdleAlm.chip.alm.running = false := by decide +kernel

theorem test_TickSrcRow_meets2 :
    wIdleAlm.chip.glb.phase = Phase.up ∧
    (BitVec.extractLsb' 0 2 (9 : Word) = (1 : BitVec 2) ∧
      (1 < (BitVec.extractLsb' 2 3 (9 : Word)).toNat ∨ wIdleAlm.chip.glb.profile = (2 : BitVec 2)) ∨
      BitVec.extractLsb' 0 2 (9 : Word) = (2 : BitVec 2) ∧
      (5 < (BitVec.extractLsb' 2 3 (9 : Word)).toNat ∨ wIdleAlm.chip.glb.profile = (2 : BitVec 2))) := by decide +kernel

theorem test_TickSrcRow_meets3 :
    wRun.chip.glb.phase = Phase.up ∧
    (¬(BitVec.extractLsb' 0 2 (22 : Word) = (1 : BitVec 2) ∧
      (1 < (BitVec.extractLsb' 2 3 (22 : Word)).toNat ∨ wRun.chip.glb.profile = (2 : BitVec 2)) ∨
      BitVec.extractLsb' 0 2 (22 : Word) = (2 : BitVec 2) ∧
      (5 < (BitVec.extractLsb' 2 3 (22 : Word)).toNat ∨ wRun.chip.glb.profile = (2 : BitVec 2)))) ∧
    wRun.chip.alm.running = true := by decide +kernel

/-! ### The hypotheses of Day0Begins -/

theorem test_Day0Begins_meets1 :
    wArmed.chip.alm.armed = true ∧
    wArmed.chip.alm.day0At = some wArmed.chip.now := by decide +kernel

/-! ### The hypotheses of TickRow -/

theorem test_TickRow_meets1 :
    (TickFrom.pin = TickFrom.pin ∧ wTick.chip.alm.tickSrc = 0 ∨
      (∃ p,
      TickFrom.pin = TickFrom.fronthaul p ∧ wTick.chip.alm.tickSrc = 1 ∧ wTick.chip.alm.tickSub.toNat = ↑p) ∨
      ∃ m, TickFrom.pin = TickFrom.peer m ∧ wTick.chip.alm.tickSrc = 2 ∧ wTick.chip.alm.tickSub.toNat = ↑m) ∧
    wTick.chip.alm.running = true ∧
    wTick.chip.alm.holdover = false ∧
    wTick.chip.alm.hdOpen = false ∧
    wTick.chip.alm.dayEnded = false ∧
    wTick.chip.alm.dayLen.toNat - 1 - wTick.chip.alm.tickTol.toNat ≤ wTick.chip.alm.cycle ∧
    wTick.chip.alm.earlyTicks = 0 ∧
    (∀ m ∈ wTick.chip.uml.early, m.2.1 ≠ BitVec.setWidth 16 wTick.chip.alm.dayCount) ∧
    wTick.chip.glb.phase = Phase.up := by decide +kernel

theorem test_TickRow_meets2 :
    TickFrom.fronthaul 1 ≠ TickFrom.edge ∧
    wTick.chip.tickSelected (TickFrom.fronthaul 1) = false := by decide +kernel

theorem test_TickRow_meets3 :
    (TickFrom.fronthaul 1 = TickFrom.pin ∧ wTickRow1.chip.alm.tickSrc = 0 ∨
      (∃ p,
      TickFrom.fronthaul 1 = TickFrom.fronthaul p ∧
      wTickRow1.chip.alm.tickSrc = 1 ∧ wTickRow1.chip.alm.tickSub.toNat = ↑p) ∨
      ∃ m,
      TickFrom.fronthaul 1 = TickFrom.peer m ∧
      wTickRow1.chip.alm.tickSrc = 2 ∧ wTickRow1.chip.alm.tickSub.toNat = ↑m) ∧
    wTickRow1.chip.alm.running = true ∧
    wTickRow1.chip.alm.holdover = false ∧
    wTickRow1.chip.alm.hdOpen = false ∧
    wTickRow1.chip.alm.dayEnded = false ∧
    wTickRow1.chip.alm.cycle < wTickRow1.chip.alm.dayLen.toNat - 1 - wTickRow1.chip.alm.tickTol.toNat := by decide +kernel

theorem test_TickRow_meets4 :
    TickFrom.pin ≠ TickFrom.edge ∧
    wTickRow3.chip.tickSelected TickFrom.pin = true ∧
    wTickRow3.chip.alm.running = true ∧
    wTickRow3.chip.alm.hdOpen = true ∧
    wTickRow3.chip.alm.cycle < wTickRow3.chip.alm.tickTol.toNat := by decide +kernel

theorem test_TickRow_meets5 :
    TickFrom.pin ≠ TickFrom.edge ∧
    wTickRow4.chip.tickSelected TickFrom.pin = true ∧
    wTickRow4.chip.alm.running = false ∧
    wTickRow4.chip.alm.armed = true ∧
    wTickRow4.chip.alm.day0At = none ∧
    wTickRow4.chip.alm.startMode = 1 := by decide +kernel

/-! ### The hypotheses of DayEnds -/

theorem test_DayEnds_meets1 :
    wDayEnds1.chip.alm.running = true ∧
    wDayEnds1.chip.alm.dayEnded = false ∧
    (∀ m ∈ wDayEnds1.chip.uml.early, m.2.1 ≠ BitVec.setWidth 16 wDayEnds1.chip.alm.dayCount) ∧
    wDayEnds1.chip.alm.cycle = wDayEnds1.chip.alm.dayLen.toNat - 1 ∧
    wDayEnds1.chip.alm.tickSrc = 3 := by decide +kernel

theorem test_DayEnds_meets2 :
    wDayEnds2.chip.alm.running = true ∧
    wDayEnds2.chip.alm.dayEnded = false ∧
    (∀ m ∈ wDayEnds2.chip.uml.early, m.2.1 ≠ BitVec.setWidth 16 wDayEnds2.chip.alm.dayCount) ∧
    wDayEnds2.chip.alm.cycle = wDayEnds2.chip.alm.dayLen.toNat - 1 ∧
    wDayEnds2.chip.alm.tickSrc ≠ 3 ∧
    wDayEnds2.chip.alm.holdover = true := by decide +kernel

theorem test_DayEnds_meets3 :
    wDayEnds3.chip.alm.running = true ∧
    wDayEnds3.chip.alm.dayEnded = false ∧
    (∀ m ∈ wDayEnds3.chip.uml.early, m.2.1 ≠ BitVec.setWidth 16 wDayEnds3.chip.alm.dayCount) ∧
    wDayEnds3.chip.alm.cycle = wDayEnds3.chip.alm.dayLen.toNat - 1 + wDayEnds3.chip.alm.tickTol.toNat ∧
    wDayEnds3.chip.alm.tickSrc ≠ 3 ∧
    wDayEnds3.chip.alm.holdover = false ∧
    wDayEnds3.chip.alm.winTicks = 0 ∧
    wDayEnds3.chip.alm.offRun.toNat < 2 := by decide +kernel

theorem test_DayEnds_meets4 :
    wDayEnds4.chip.alm.running = true ∧
    wDayEnds4.chip.alm.dayEnded = false ∧
    (∀ m ∈ wDayEnds4.chip.uml.early, m.2.1 ≠ BitVec.setWidth 16 wDayEnds4.chip.alm.dayCount) ∧
    wDayEnds4.chip.alm.cycle = wDayEnds4.chip.alm.dayLen.toNat - 1 + wDayEnds4.chip.alm.tickTol.toNat ∧
    wDayEnds4.chip.alm.tickSrc ≠ 3 ∧
    wDayEnds4.chip.alm.holdover = false ∧
    wDayEnds4.chip.alm.winTicks = 0 ∧
    wDayEnds4.chip.alm.offRun = 2 := by decide +kernel

/-! ### The hypotheses of HoldoverJudged -/

theorem test_HoldoverJudged_meets1 :
    wHoldoverJudged1.chip.alm.running = true ∧
    wHoldoverJudged1.chip.alm.hdOpen = true ∧
    wHoldoverJudged1.chip.alm.tickTol ≠ 0 ∧
    wHoldoverJudged1.chip.alm.cycle + 1 = wHoldoverJudged1.chip.alm.tickTol.toNat ∧
    wHoldoverJudged1.chip.alm.hdWin = 1 ∧
    wHoldoverJudged1.chip.alm.hdEarly = 0 ∧
    wHoldoverJudged1.chip.alm.relock.toNat ≠ 7 := by decide +kernel

theorem test_HoldoverJudged_meets2 :
    wHoldoverJudged2.chip.alm.running = true ∧
    wHoldoverJudged2.chip.alm.hdOpen = true ∧
    wHoldoverJudged2.chip.alm.tickTol ≠ 0 ∧
    wHoldoverJudged2.chip.alm.cycle + 1 = wHoldoverJudged2.chip.alm.tickTol.toNat ∧
    wHoldoverJudged2.chip.alm.hdWin = 1 ∧
    wHoldoverJudged2.chip.alm.hdEarly = 0 ∧
    wHoldoverJudged2.chip.alm.relock = 7 := by decide +kernel

theorem test_HoldoverJudged_meets3 :
    wHoldoverJudged3.chip.alm.running = true ∧
    wHoldoverJudged3.chip.alm.hdOpen = true ∧
    wHoldoverJudged3.chip.alm.tickTol ≠ 0 ∧
    wHoldoverJudged3.chip.alm.cycle + 1 = wHoldoverJudged3.chip.alm.tickTol.toNat ∧
    (wHoldoverJudged3.chip.alm.hdWin ≠ 1 ∨ wHoldoverJudged3.chip.alm.hdEarly ≠ 0) := by decide +kernel

/-! ### The hypotheses of DayStarts -/

theorem test_DayStarts_meets1 :
    wDayStarts1.chip.alm.running = true ∧
    wDayStarts1.chip.alm.dayEnded = true ∧
    wDayStarts1.chip.alm.stopReq = false ∧
    wDayStarts1.chip.alm.staged = [] ∧
    wDayStarts1.chip.alm.invalid = [] ∧
    wDayStarts1.chip.alm.nextSrc = none := by decide +kernel

/-! ### The hypotheses of DayCycleRows -/

theorem test_DayCycleRows_meets1 :
    wVig.chip.alm.running = true ∧
    wVig.chip.feastAt wVig.chip.alm.cycle = false ∧
    wVig.chip.alm.inVigil = false ∧
    wVig.chip.alm.cycle = wVig.chip.alm.dayLen.toNat - wVig.chip.alm.vigilLen.toNat ∧
    (∀ (n : TileId), (wVig.chip.tile n).inSection = false) := by decide +kernel

theorem test_DayCycleRows_meets2 :
    wRun.chip.alm.running = true ∧
    wRun.chip.feastAt wRun.chip.alm.cycle = true := by decide +kernel

theorem test_DayCycleRows_meets3 :
    wDayCycleRows1.chip.alm.running = true ∧
    wDayCycleRows1.chip.alm.inVigil = true ∧
    wDayCycleRows1.chip.alm.cycle =
      wDayCycleRows1.chip.alm.dayLen.toNat - wDayCycleRows1.chip.alm.vigilLen.toNat + 768 := by decide +kernel

theorem test_DayCycleRows_meets4 :
    wDayCycleRows2.chip.alm.running = true ∧
    wDayCycleRows2.chip.alm.inVigil = true ∧
    wDayCycleRows2.chip.alm.cycle =
      wDayCycleRows2.chip.alm.dayLen.toNat - wDayCycleRows2.chip.alm.vigilLen.toNat + 896 := by decide +kernel

/-! ### The hypotheses of AlmanacStops -/

theorem test_AlmanacStops_meets1 :
    wAlmanacStops1.chip.alm.running = true ∧
    wAlmanacStops1.chip.alm.dayEnded = true ∧
    wAlmanacStops1.chip.alm.stopReq = true ∧
    wAlmanacStops1.chip.hns.regions = [] ∧
    wAlmanacStops1.chip.sfe.sessions = [] ∧
    wAlmanacStops1.chip.cns.arms = [] := by decide +kernel

/-! ### The hypotheses of RegisterReads -/

theorem test_RegisterReads_meets1 :
    wUp.chip.ready = true ∧
    1 ≤ 5 ∧
    5 ≤ 5 := by decide +kernel

theorem test_RegisterReads_meets2 :
    State.reset.chip.ready = false ∧
    BitVec.toNat (12 : BitVec 25) % 4 = 0 ∧
    8 < BitVec.toNat (12 : BitVec 25) := by decide +kernel

/-! ### The hypotheses of RegisterWrites -/

theorem test_RegisterWrites_meets1 :
    (wSealed.chip.ready = false ∨
      (4 : BitVec (4 : ℕ)) ≠ (4 : BitVec (4 : ℕ)) ∧ (4 : BitVec (4 : ℕ)) ≠ (8 : BitVec (4 : ℕ)) ∨
      BitVec.toNat (1048585 : BitVec (25 : ℕ)) % (4 : ℕ) ≠ (0 : ℕ)) ∧
    wSealed.chip.ready = true ∧
    wSealed.chip.hns.sealed = true := by decide +kernel

theorem test_RegisterWrites_meets2 :
    wUp.chip.ready = true ∧
    BitVec.toNat (1048584 : BitVec (25 : ℕ)) % (4 : ℕ) = (0 : ℕ) ∧
    BitVec.toNat (1048584 : BitVec (25 : ℕ)) + (4 : ℕ) < (2 : ℕ) ^ (25 : ℕ) ∧
    wUp.chip.hns.sealed = false ∧
    wUp.chip.alm.running = false ∧
    wUp.chip.alm.armed = false := by decide +kernel

theorem test_RegisterWrites_meets3 :
    wUpRun.chip.ready = true ∧
    wUpRun.chip.hns.sealed = false ∧
    (wUpRun.chip.alm.running = true ∨ wUpRun.chip.alm.armed = true) := by decide +kernel

/-! ### The hypotheses of ControlRows -/

theorem test_ControlRows_meets1 :
    wCtl1.chip.ready = true ∧
    wCtl1.chip.chanOn default = true ∧
    wCtl1.chip.audOn default = true ∧
    wCtl1.chip.satchel = false ∧
    wCtl1.chip.hns.sealed = true ∧
    (wCtl1.chip.link 2).state ≠ 0 ∧
    (wCtl1.chip.link 2).state ≠ 5 ∧
    4 ≤ wCtl1.chip.hif.cmdSize.toNat ∧
    wCtl1.chip.hif.cmdSize.toNat ≤ 12 ∧
    wCtl1.chip.hif.resync = true ∧
    BitVec.getLsbD (0 : BitVec (3 : ℕ)) (0 : ℕ) = false ∧
    BitVec.getLsbD (0 : BitVec (3 : ℕ)) (1 : ℕ) = false ∧
    wCtl1.chip.clusterOn default = true := by decide +kernel

theorem test_ControlRows_meets2 :
    wNoH.chip.ready = true ∧
    wNoH.chip.satchel = false ∧
    wNoH.chip.hns.sealed = false ∧
    (wNoH.chip.link 3).state = 0 ∧
    wNoH.chip.hns.loaded = false ∧
    wNoH.chip.hns.jobs = [] ∧
    wNoH.chip.alm.running = false ∧
    wNoH.chip.alm.armed = false := by decide +kernel

/-! ### The hypotheses of CommandChecks -/

theorem test_CommandChecks_meets1 :
    (∀ r ∈ commandRows Src.pcie (dsc 0 []), BitVec.toNat (dOpcode (dsc 0 [])) ≠ r.1) ∧
    wUp.chip.mayStart Src.pcie = true ∧
    wUp.chip.hns.authority = [] ∧
    wUp.chip.hns.sealed = false := by decide +kernel

/-! ### The hypotheses of CommandResults -/

theorem test_CommandResults_meets1 :
    served wUp Src.pcie (dsc 1 []) 1 ∧
    dClean (dsc 1 []) [] = true := by
  unfold served
  decide +kernel

theorem test_CommandResults_meets2 :
    served wUp Src.i3c (dsc 96 [(8, 1234605616436508552)]) 96 ∧
    dClean (dsc 96 [(8, 1234605616436508552)]) [(8, 8)] = true := by
  unfold served
  decide +kernel

theorem test_CommandResults_meets3 :
    served wUp Src.pcie (dsc 18 []) 18 ∧
    dClean (dsc 18 []) [] = true ∧
    wUp.chip.hns.loaded = true := by
  unfold served
  decide +kernel

theorem test_CommandResults_meets4 :
    served wNoH Src.pcie (dsc 18 []) 18 ∧
    dClean (dsc 18 []) [] = true ∧
    wNoH.chip.hns.loaded = false := by
  unfold served
  decide +kernel

theorem test_CommandResults_meets5 :
    served wFlt Src.pcie (dsc 80 [(8, 4)]) 80 ∧
    dClean (dsc 80 [(8, 4)]) [(8, 1)] = true ∧
    1 ≤ dNum (dsc 80 [(8, 4)]) 8 1 ∧
    dNum (dsc 80 [(8, 4)]) 8 1 ≤ wFlt.chip.unacked := by
  unfold served
  decide +kernel

theorem test_CommandResults_meets6 :
    served wFlt Src.i3c (dsc 80 [(8, 5)]) 80 ∧
    dClean (dsc 80 [(8, 5)]) [(8, 1)] = true ∧
    (dNum (dsc 80 [(8, 5)]) 8 1 = 0 ∨ wFlt.chip.unacked < dNum (dsc 80 [(8, 5)]) 8 1) := by
  unfold served
  decide +kernel

theorem test_CommandResults_meets7 :
    served wUpRun Src.pcie (dsc 56 [(8, 2), (10, 255), (16, 7), (24, 255)]) 56 ∧
    wUpRun.chip.settingsFields (dsc 56 [(8, 2), (10, 255), (16, 7), (24, 255)]) = true ∧
    wUpRun.chip.alm.running = true := by
  unfold served
  decide +kernel

theorem test_CommandResults_meets8 :
    served wUp Src.pcie (dsc 56 [(8, 0), (10, 3), (12, 1023), (16, 32778), (24, 65535)]) 56 ∧
    wUp.chip.settingsFields (dsc 56 [(8, 0), (10, 3), (12, 1023), (16, 32778), (24, 65535)]) = true ∧
    wUp.chip.alm.running = false := by
  unfold served
  decide +kernel

theorem test_CommandResults_meets9 :
    served wUp Src.pcie (dsc 127 [(8, 42330)]) 127 ∧
    dClean (dsc 127 [(8, 42330)]) [(8, 4)] = true ∧
    dNum (dsc 127 [(8, 42330)]) 8 4 = 42330 := by
  unfold served
  decide +kernel

theorem test_CommandResults_meets10 :
    served wVoice Src.pcie (dsc 64 [(8, 5), (10, 12), (16, 74560)]) 64 ∧
    dClean (dsc 64 [(8, 5), (10, 12), (16, 74560)]) [(8, 2), (10, 1), (16, 8)] = true ∧
    4 ≤ dNum (dsc 64 [(8, 5), (10, 12), (16, 74560)]) 10 1 ∧
    dNum (dsc 64 [(8, 5), (10, 12), (16, 74560)]) 10 1 ≤ 12 ∧
    dNum (dsc 64 [(8, 5), (10, 12), (16, 74560)]) 16 8 % 64 = 0 ∧
    dNum (dsc 64 [(8, 5), (10, 12), (16, 74560)]) 8 2 < 4096 ∧
    wVoice.chip.streamPlan (BitVec.ofNat 12 (dNum (dsc 64 [(8, 5), (10, 12), (16, 74560)]) 8 2)) ≠ none ∧
    wVoice.chip.sessionOf (BitVec.ofNat 12 (dNum (dsc 64 [(8, 5), (10, 12), (16, 74560)]) 8 2)) = none := by
  unfold served
  decide +kernel

/-! ### The hypotheses of SessionCommands -/

theorem test_SessionCommands_meets1 :
    served wUp Src.pcie (dsc 32 [(8, 3), (12, 77)]) 32 ∧
    dClean (dsc 32 [(8, 3), (12, 77)]) [(8, 2), (12, 4)] = true ∧
    wUp.chip.alm.running = false := by
  unfold served
  decide +kernel

theorem test_SessionCommands_meets2 :
    served wUpRun Src.pcie (dsc 32 [(8, 3), (12, 77)]) 32 ∧
    dClean (dsc 32 [(8, 3), (12, 77)]) [(8, 2), (12, 4)] = true ∧
    wUpRun.chip.alm.running = true ∧
    wUpRun.chip.sesClass (BitVec.extractLsb' 64 16 (dsc 32 [(8, 3), (12, 77)])) = none := by
  unfold served
  decide +kernel

theorem test_SessionCommands_meets3 :
    served wVoice (Src.umaed 5 305 7) (dsc 32 [(8, 3), (12, 77)]) 32 ∧
    dClean (dsc 32 [(8, 3), (12, 77)]) [(8, 2), (12, 4)] = true ∧
    wVoice.chip.alm.running = true ∧
    wVoice.chip.sesClass (BitVec.extractLsb' 64 16 (dsc 32 [(8, 3), (12, 77)])) = some class3.body ∧
    3 < Chip.slotCount class3.body ∧
    (∀ j < 3, (wVoice.chip.session (BitVec.ofNat 10 (Chip.slotFirst class3.body + j))).state ≠ 0) ∧
    (wVoice.chip.session (BitVec.ofNat 10 (Chip.slotFirst class3.body + 3))).state = 0 := by
  unfold served
  decide +kernel

theorem test_SessionCommands_meets4 :
    served wVoice Src.pcie (dsc 33 [(8, 1020)]) 33 ∧
    dClean (dsc 33 [(8, 1020)]) [(8, 2)] = true ∧
    dNum (dsc 33 [(8, 1020)]) 8 2 < 1024 ∧
    ((wVoice.chip.session (BitVec.extractLsb' 64 10 (dsc 33 [(8, 1020)]))).state = 1 ∨
      (wVoice.chip.session (BitVec.extractLsb' 64 10 (dsc 33 [(8, 1020)]))).state = 2) := by
  unfold served
  decide +kernel

theorem test_SessionCommands_meets5 :
    served wVoice Src.pcie (dsc 33 [(8, 1022)]) 33 ∧
    dClean (dsc 33 [(8, 1022)]) [(8, 2)] = true ∧
    (1024 ≤ dNum (dsc 33 [(8, 1022)]) 8 2 ∨
      (wVoice.chip.session (BitVec.extractLsb' 64 10 (dsc 33 [(8, 1022)]))).state ≠ 1 ∧
      (wVoice.chip.session (BitVec.extractLsb' 64 10 (dsc 33 [(8, 1022)]))).state ≠ 2) := by
  unfold served
  decide +kernel

theorem test_SessionCommands_meets6 :
    served wVoice Src.pcie (dsc 34 [(8, 1020)]) 34 ∧
    dClean (dsc 34 [(8, 1020)]) [(8, 2)] = true ∧
    dNum (dsc 34 [(8, 1020)]) 8 2 < 1024 ∧
    (wVoice.chip.session (BitVec.extractLsb' 64 10 (dsc 34 [(8, 1020)]))).state = 2 ∧
    (wVoice.chip.session (BitVec.extractLsb' 64 10 (dsc 34 [(8, 1020)]))).adapt = false ∧
    BitVec.extractLsb' 64 10 (dsc 34 [(8, 1020)]) ∉ wVoice.chip.sfe.holdq ∧
    wVoice.chip.sesClass (wVoice.chip.session (BitVec.extractLsb' 64 10 (dsc 34 [(8, 1020)]))).cls =
      some class3.body ∧
    Chip.sesAdaptOk class3.body = true ∧
    wVoice.chip.adaptations < if wVoice.chip.satchel = true then 1 else 16 := by
  unfold served
  decide +kernel

theorem test_SessionCommands_meets7 :
    served wVoiceFull Src.pcie (dsc 34 [(8, 1020)]) 34 ∧
    dClean (dsc 34 [(8, 1020)]) [(8, 2)] = true ∧
    dNum (dsc 34 [(8, 1020)]) 8 2 < 1024 ∧
    (wVoiceFull.chip.session (BitVec.extractLsb' 64 10 (dsc 34 [(8, 1020)]))).state = 2 ∧
    (wVoiceFull.chip.session (BitVec.extractLsb' 64 10 (dsc 34 [(8, 1020)]))).adapt = false ∧
    BitVec.extractLsb' 64 10 (dsc 34 [(8, 1020)]) ∉ wVoiceFull.chip.sfe.holdq ∧
    wVoiceFull.chip.sesClass (wVoiceFull.chip.session (BitVec.extractLsb' 64 10 (dsc 34 [(8, 1020)]))).cls =
      some class3.body ∧
    Chip.sesAdaptOk class3.body = true ∧
    (if wVoiceFull.chip.satchel = true then 1 else 16) ≤ wVoiceFull.chip.adaptations ∧
    wVoiceFull.chip.sfe.holdq.length < 64 := by
  unfold served
  decide +kernel

/-! ### The hypotheses of LoaderCommands -/

theorem test_LoaderCommands_meets1 :
    served wUp Src.i3c (dsc 2 [(16, 7)]) 2 ∧
    wUp.chip.reckonFields Src.i3c (dsc 2 [(16, 7)]) = true ∧
    Src.i3c = Src.i3c := by
  unfold served
  decide +kernel

theorem test_LoaderCommands_meets2 :
    served wUp Src.pcie (dsc 16 [(8, 4096), (16, 1024)]) 16 ∧
    dClean (dsc 16 [(8, 4096), (16, 1024)]) (Chip.imageOps Src.pcie) = true ∧
    Chip.imageOk Src.pcie (dsc 16 [(8, 4096), (16, 1024)]) = true ∧
    wUp.chip.alm.running = false ∧
    wUp.chip.alm.armed = false ∧
    wUp.chip.hns.jobs = [] := by
  unfold served
  decide +kernel

theorem test_LoaderCommands_meets3 :
    served wUpRun Src.pcie (dsc 16 [(8, 4096), (16, 1024)]) 16 ∧
    dClean (dsc 16 [(8, 4096), (16, 1024)]) (Chip.imageOps Src.pcie) = true ∧
    Chip.imageOk Src.pcie (dsc 16 [(8, 4096), (16, 1024)]) = true ∧
    (wUpRun.chip.alm.running = true ∨ wUpRun.chip.alm.armed = true) := by
  unfold served
  decide +kernel

theorem test_LoaderCommands_meets4 :
    served wReg Src.pcie (dsc 17 [(8, 4096), (16, 1024), (20, 2)]) 17 ∧
    flag (dFlags (dsc 17 [(8, 4096), (16, 1024), (20, 2)])) 0 = false ∧
    dClean (dsc 17 [(8, 4096), (16, 1024), (20, 2)]) ((20, 1) :: Chip.imageOps Src.pcie) = true ∧
    Chip.imageOk Src.pcie (dsc 17 [(8, 4096), (16, 1024), (20, 2)]) = true ∧
    wReg.chip.namedRegion (dsc 17 [(8, 4096), (16, 1024), (20, 2)]) = some 2 ∧
    (wReg.chip.region 2).state = 0 ∧
    wReg.chip.hns.jobs = [] := by
  unfold served
  decide +kernel

theorem test_LoaderCommands_meets5 :
    served wRegPend Src.pcie (dsc 17 [(8, 4096), (16, 1024), (20, 2)]) 17 ∧
    flag (dFlags (dsc 17 [(8, 4096), (16, 1024), (20, 2)])) 0 = false ∧
    dClean (dsc 17 [(8, 4096), (16, 1024), (20, 2)]) ((20, 1) :: Chip.imageOps Src.pcie) = true ∧
    Chip.imageOk Src.pcie (dsc 17 [(8, 4096), (16, 1024), (20, 2)]) = true ∧
    wRegPend.chip.namedRegion (dsc 17 [(8, 4096), (16, 1024), (20, 2)]) = some 2 ∧
    (wRegPend.chip.region 2).state ≠ 0 := by
  unfold served
  decide +kernel

theorem test_LoaderCommands_meets6 :
    served wRegPend Src.pcie (dsc 17 [(1, 1), (20, 2)]) 17 ∧
    dFlags (dsc 17 [(1, 1), (20, 2)]) = 1 ∧
    dClean (dsc 17 [(1, 1), (20, 2)]) [(1, 1), (20, 1)] = true ∧
    wRegPend.chip.namedRegion (dsc 17 [(1, 1), (20, 2)]) = some 2 ∧
    (wRegPend.chip.region 2).state = 2 ∧
    (wRegPend.chip.alm.running = false ∨ wRegPend.chip.alm.dayCount.toNat <
      (wRegPend.chip.region 2).applyDay.toNat) := by
  unfold served
  decide +kernel

theorem test_LoaderCommands_meets7 :
    served wRegNow Src.pcie (dsc 17 [(1, 1), (20, 2)]) 17 ∧
    dFlags (dsc 17 [(1, 1), (20, 2)]) = 1 ∧
    dClean (dsc 17 [(1, 1), (20, 2)]) [(1, 1), (20, 1)] = true ∧
    wRegNow.chip.namedRegion (dsc 17 [(1, 1), (20, 2)]) = some 2 ∧
    (wRegNow.chip.region 2).state = 2 ∧
    wRegNow.chip.alm.running = true ∧
    (wRegNow.chip.region 2).applyDay.toNat ≤ wRegNow.chip.alm.dayCount.toNat := by
  unfold served
  decide +kernel

theorem test_LoaderCommands_meets8 :
    served wUp Src.jtag (dsc 2 [(16, 0)]) 2 ∧
    wUp.chip.reckonFields Src.jtag (dsc 2 [(16, 0)]) = true ∧
    Src.jtag = Src.jtag := by
  unfold served
  decide +kernel

theorem test_LoaderCommands_meets9 :
    served wUp Src.pcie (dsc 2 [(8, 16384), (16, 3)]) 2 ∧
    wUp.chip.reckonFields Src.pcie (dsc 2 [(8, 16384), (16, 3)]) = true ∧
    Src.pcie = Src.pcie := by
  unfold served
  decide +kernel

theorem test_LoaderCommands_meets10 :
    served wUp Src.pcie (dsc 3 []) 3 ∧
    dClean (dsc 3 []) [(8, 1), (16, 8)] = true ∧
    dNum (dsc 3 []) 8 1 = 0 ∧
    wUp.chip.cns.pending = [] ∧
    wUp.chip.cns.made = [] ∧
    wUp.chip.cns.drive = false := by
  unfold served
  decide +kernel

theorem test_LoaderCommands_meets11 :
    served wUpRun Src.pcie (dsc 3 [(8, 1), (16, 16777301)]) 3 ∧
    dClean (dsc 3 [(8, 1), (16, 16777301)]) [(8, 1), (16, 8)] = true ∧
    dNum (dsc 3 [(8, 1), (16, 16777301)]) 8 1 = 1 ∧
    wUpRun.chip.alm.running = true ∧
    64 ≤ wUpRun.chip.cyclesTo (BitVec.extractLsb' 128 64 (dsc 3 [(8, 1), (16, 16777301)])) ∧
    (wUpRun.chip.arm 0).state = 0 := by
  unfold served
  decide +kernel

theorem test_LoaderCommands_meets12 :
    served wUp Src.pcie (dsc 48 [(8, 9), (10, 4095), (12, 1048575)]) 48 ∧
    dClean (dsc 48 [(8, 9), (10, 4095), (12, 1048575)]) Chip.buckleOps = true ∧
    dNum (dsc 48 [(8, 9), (10, 4095), (12, 1048575)]) 10 2 < 4096 ∧
    dNum (dsc 48 [(8, 9), (10, 4095), (12, 1048575)]) 15 1 = 0 ∧
    wUp.chip.isHere (BitVec.extractLsb' 64 16 (dsc 48 [(8, 9), (10, 4095), (12, 1048575)])) = true := by
  unfold served
  decide +kernel

theorem test_LoaderCommands_meets13 :
    served wUp Src.pcie (dsc 49 [(8, 5), (10, 4095), (12, 1)]) 49 ∧
    dClean (dsc 49 [(8, 5), (10, 4095), (12, 1)]) Chip.buckleOps = true ∧
    dNum (dsc 49 [(8, 5), (10, 4095), (12, 1)]) 10 2 < 4096 ∧
    dNum (dsc 49 [(8, 5), (10, 4095), (12, 1)]) 12 4 = 1 ∧
    wUp.chip.isHere (BitVec.extractLsb' 64 16 (dsc 49 [(8, 5), (10, 4095), (12, 1)])) = false := by
  unfold served
  decide +kernel

/-! ### The hypotheses of CompletionPorts -/

theorem test_CompletionPorts_meets1 :
    (0 : Byte) ≠ (3 : Byte) ∧
    flag (tget Chip.msixMasked wUp.chip.hif.msix 0) 96 = true ∧
    default < 16 ∧
    (∀ j < 16,
      99 ≠ wUp.chip.hif.cplBase.toNat + 16 * (wUp.chip.hif.cplProd.toNat % 2 ^ wUp.chip.hif.cplSize.toNat) + j) := by decide +kernel

/-! ### The hypotheses of HostPortRows -/

theorem test_HostPortRows_meets1 :
    wHeld5.chip.glb.phase = Phase.held := by decide +kernel

theorem test_HostPortRows_meets2 :
    wUp.chip.glb.phase ≠ Phase.held ∧
    [1, 2].length ≠ 64 ∧
    wUp.chip.hif.i3c.cpls = [] ∧
    wUp.chip.hif.jtag.pendingCmd = false ∧
    wUp.chip.hif.jtag.cpls = [] := by decide +kernel

theorem test_HostPortRows_meets3 :
    wPortsL.chip.glb.phase ≠ Phase.held ∧
    (List.replicate 64 3).length = 64 ∧
    wPortsL.chip.hif.i3c.busy = true ∧
    wPortsL.chip.hif.jtag.pendingCmd = true ∧
    wPortsL.chip.hif.jtag.cpls = [aCpl] ∧
    wPortsL.chip.glb.debugLock = true := by decide +kernel

theorem test_HostPortRows_meets4 :
    wPorts.chip.glb.phase ≠ Phase.held ∧
    wPorts.chip.hif.i3c.cpls = [aCpl, aCpl] := by decide +kernel

theorem test_HostPortRows_meets5 :
    wUp.chip.glb.phase ≠ Phase.held ∧
    (List.replicate 64 3).length = 64 ∧
    wUp.chip.hif.i3c.busy = false := by decide +kernel

theorem test_HostPortRows_meets6 :
    wPortsD.chip.glb.phase ≠ Phase.held ∧
    wPortsD.chip.glb.debugLock = false ∧
    wPortsD.chip.hns.authority = [] ∧
    wPortsD.chip.hif.jtag.dbgAddr.getLsbD 51 = true := by decide +kernel

/-! ### The hypotheses of PcieRows -/

theorem test_PcieRows_meets1 :
    wTlp.bar4 = false ∧
    wTlp.off.toNat < 2 ^ 27 ∧
    wTlp.write = true ∧
    wUp.chip.ready = true ∧
    wTlp.data.length = 32 ∧
    wTlp.off.toNat % 32 = 0 ∧
    wTlp.firstBe = 15 ∧
    wTlp.lastBe = 15 ∧
    wUp.chip.glb.phase ≠ Phase.held := by decide +kernel

theorem test_PcieRows_meets2 :
    wTlpPart.bar4 = false ∧
    wTlpPart.off.toNat < 2 ^ 27 ∧
    wTlpPart.write = true ∧
    wUp.chip.ready = true ∧
    wTlpPart.data.length = 32 ∧
    wTlpPart.off.toNat % 32 = 0 ∧
    (wTlpPart.firstBe ≠ 15 ∨ wTlpPart.lastBe ≠ 15) := by decide +kernel

theorem test_PcieRows_meets3 :
    wTlpRead.bar4 = false ∧
    wTlpRead.off.toNat < 2 ^ 27 ∧
    wTlpRead.write = false ∧
    wUp.chip.ready = true := by decide +kernel

theorem test_PcieRows_meets4 :
    wTlp.bar4 = false ∧
    wTlp.off.toNat < 2 ^ 27 ∧
    wTlp.write = true ∧
    State.reset.chip.ready = false := by decide +kernel

theorem test_PcieRows_meets5 :
    wTlpRead.bar4 = false ∧
    wTlpRead.off.toNat < 2 ^ 27 ∧
    wTlpRead.write = false ∧
    State.reset.chip.ready = false := by decide +kernel

/-! ### The hypotheses of HarnessRows -/

theorem test_HarnessRows_meets1 :
    wJob.chip.hns.jobs = [fullJob] ∧
    Chip.isFull fullJob = true ∧
    wJob.chip.hns.left = 0 ∧
    wJob.chip.hns.waitDdr = none ∧
    wJob.chip.jobVerdict fullJob = { step := 1, status := 4 } ∧
    1 ≠ 0 ∧
    fullJob.fromBoot = false ∧
    wJob.chip.alm.running = false ∧
    wJob.chip.alm.armed = false ∧
    wJob.chip.hns.sealed = false := by decide +kernel

theorem test_HarnessRows_meets2 :
    wHarnessRows1.chip.ready = true ∧
    wHarnessRows1.chip.hns.loaded = false ∧
    wHarnessRows1.chip.hns.jobs = [] ∧
    wHarnessRows1.chip.hns.bootTry = 0 ∧
    wHarnessRows1.chip.glb.bootSel = 0 := by decide +kernel

theorem test_HarnessRows_meets3 :
    wHarnessRows2.chip.ready = true ∧
    wHarnessRows2.chip.hns.loaded = false ∧
    wHarnessRows2.chip.hns.jobs = [] ∧
    wHarnessRows2.chip.hns.bootTry = 0 ∧
    (wHarnessRows2.chip.glb.bootSel = 1 ∨ wHarnessRows2.chip.glb.bootSel = 2) ∧
    wHarnessRows2.chip.alm.running = false ∧
    wHarnessRows2.chip.alm.armed = false ∧
    wHarnessRows2.chip.hns.sealed = false := by decide +kernel

theorem test_HarnessRows_meets4 :
    wHarnessRows4.chip.ready = true ∧
    wHarnessRows4.chip.hns.loaded = false ∧
    wHarnessRows4.chip.hns.jobs = [] ∧
    wHarnessRows4.chip.hns.bootTry = 0 ∧
    wHarnessRows4.chip.glb.bootSel = 3 := by decide +kernel

theorem test_HarnessRows_meets5 :
    wWait5.chip.hns.jobs = [fullJob] ∧
    wWait5.chip.hns.waitDdr = some (5, 6, true) := by decide +kernel

theorem test_HarnessRows_meets6 :
    wRJob.chip.hns.jobs = [regJob] ∧
    Chip.isFull regJob = false ∧
    wRJob.chip.hns.left = 0 ∧
    wRJob.chip.jobVerdict regJob ≠ Img.pass ∧
    regJob.fromBoot = false ∧
    wRJob.chip.alm.running = false ∧
    wRJob.chip.alm.armed = false ∧
    wRJob.chip.hns.sealed = false ∧
    (wRJob.chip.jobVerdict regJob).step ≠ 0 := by decide +kernel

theorem test_HarnessRows_meets8 :
    wJobOk.chip.hns.jobs = [fullJob] ∧
    Chip.isFull fullJob = true ∧
    wJobOk.chip.hns.left = 0 ∧
    wJobOk.chip.hns.waitDdr = none ∧
    wJobOk.chip.jobVerdict fullJob = Img.pass :=
  ⟨by decide +kernel, by decide +kernel, by decide +kernel, by decide +kernel, fullBytes_pass⟩

theorem test_HarnessRows_meets9 :
    wRJobOk.chip.hns.jobs = [regJobOk] ∧
    Chip.isFull regJobOk = false ∧
    wRJobOk.chip.hns.left = 0 ∧
    wRJobOk.chip.jobVerdict regJobOk = Img.pass ∧
    wRJobOk.chip.alm.running = true :=
  ⟨by decide +kernel, by decide +kernel, by decide +kernel, regBytes_pass, by decide +kernel⟩

/-! ### The hypotheses of VigilReleases -/

theorem test_VigilReleases_meets1 :
    wUp.chip.vigilAt 16 = false ∧
    (wUp.chip.alm.running = false ∨
      wUp.chip.alm.inVigil = false ∨
      wUp.chip.alm.cycle < wUp.chip.vigilStart + 64 ∨ wUp.chip.vigilStart + 767 < wUp.chip.alm.cycle) := by decide +kernel

theorem test_VigilReleases_meets2 :
    wV16.chip.vigilAt 16 = true ∧
    wV16.chip.sfe.streams = [] ∧
    wV16.chip.sfe.wrote = false ∧
    wV16.chip.kvw = [] := by decide +kernel

theorem test_VigilReleases_meets3 :
    wV16w.chip.vigilAt 16 = true ∧
    wV16w.chip.sfe.streams = [] ∧
    wV16w.chip.sfe.wrote = false ∧
    wV16w.chip.hif.dayIrq = false ∧
    wV16w.chip.kvw = [(BitVec.toNat (3 : BitVec (4 : ℕ)), wV16w.chip.walker (3 : BitVec (4 : ℕ)))] ∧
    (wV16w.chip.walker 3).events = [{ lts := 1, desc := 2, event := 3, entry := 4 }] ∧
    4 ≤ (wV16w.chip.walker 3).evtSize.toNat ∧
    (wV16w.chip.walker 3).evtSize.toNat < 16 ∧
    (wV16w.chip.walker 3).evtProd.toNat < 2 ^ (wV16w.chip.walker 3).evtSize.toNat ∧
    (wV16w.chip.walker 3).evtCons.toNat < 2 ^ (wV16w.chip.walker 3).evtSize.toNat ∧
    ((wV16w.chip.walker 3).evtProd.toNat + 1) % 2 ^ (wV16w.chip.walker 3).evtSize.toNat ≠
      (wV16w.chip.walker 3).evtCons.toNat := by decide +kernel

theorem test_VigilReleases_meets4 :
    wV64.chip.hns.regions = [(BitVec.toNat (2 : BitVec (6 : ℕ)), wV64.chip.region (2 : BitVec (6 : ℕ)))] ∧
    wV64.chip.vigilAt 64 = true ∧
    (wV64.chip.region 2).state = 2 ∧
    (wV64.chip.region 2).applyDay.toNat ≤ wV64.chip.alm.dayCount.toNat := by decide +kernel

theorem test_VigilReleases_meets5 :
    (atV (64 : ℕ) (2 : BitVec (2 : ℕ)) (5 : BitVec (64 : ℕ))).chip.hns.regions =
      [(BitVec.toNat (2 : BitVec (6 : ℕ)),
      (atV (64 : ℕ) (2 : BitVec (2 : ℕ)) (5 : BitVec (64 : ℕ))).chip.region (2 : BitVec (6 : ℕ)))] ∧
    (atV 64 2 5).chip.vigilAt 64 = true ∧
    (((atV 64 2 5).chip.region 2).state ≠ 2 ∨
      (atV 64 2 5).chip.alm.dayCount.toNat < ((atV 64 2 5).chip.region 2).applyDay.toNat) := by decide +kernel

theorem test_VigilReleases_meets6 :
    (atV (65 : ℕ) (3 : BitVec (2 : ℕ)) (4 : BitVec (64 : ℕ))).chip.hns.regions =
      [(BitVec.toNat (2 : BitVec (6 : ℕ)),
      (atV (65 : ℕ) (3 : BitVec (2 : ℕ)) (4 : BitVec (64 : ℕ))).chip.region (2 : BitVec (6 : ℕ)))] ∧
    (atV 65 3 4).chip.alm.running = true ∧
    (atV 65 3 4).chip.alm.inVigil = true ∧
    (atV 65 3 4).chip.vigilStart + 64 < (atV 65 3 4).chip.alm.cycle ∧
    (atV 65 3 4).chip.alm.cycle ≤ (atV 65 3 4).chip.vigilStart + 767 ∧
    ((atV 65 3 4).chip.region 2).state = 3 ∧
    ((atV 65 3 4).chip.region 2).image = some regImg := by decide +kernel

theorem test_VigilReleases_meets7 :
    (atV (65 : ℕ) (2 : BitVec (2 : ℕ)) (4 : BitVec (64 : ℕ))).chip.hns.regions =
      [(BitVec.toNat (2 : BitVec (6 : ℕ)),
      (atV (65 : ℕ) (2 : BitVec (2 : ℕ)) (4 : BitVec (64 : ℕ))).chip.region (2 : BitVec (6 : ℕ)))] ∧
    (atV 65 2 4).chip.alm.running = true ∧
    (atV 65 2 4).chip.alm.inVigil = true ∧
    (atV 65 2 4).chip.vigilStart + 64 < (atV 65 2 4).chip.alm.cycle ∧
    (atV 65 2 4).chip.alm.cycle ≤ (atV 65 2 4).chip.vigilStart + 767 ∧
    ((atV 65 2 4).chip.region 2).state ≠ 3 := by decide +kernel

/-! ### The hypotheses of FabricRows -/

theorem test_FabricRows_meets1 :
    isEid 319 = false ∧
    isEdgeEid 319 = false := by decide +kernel

theorem test_FabricRows_meets2 :
    isEid 312 = true ∧
    wFabF.chip.headOf 312 RPort.e 1 = none ∧
    isEdgeEid 312 = true ∧
    wFabF.chip.mayInject 312 = false ∧
    256 ≤ (wFabF.chip.endp 312).quiet ∧
    wFabF.chip.unassigned 312 = false ∧
    wFabF.chip.slotExpired
      (tget RspSlot.init (wFabF.chip.endp (312 : Eid)).slots (BitVec.toNat (2 : BitVec (5 : ℕ)))) =
      false := by
  decide +kernel

theorem test_FabricRows_meets3 :
    isEdgeEid 312 = true ∧
    (wFabQ0.chip.endp 312).quiet < 256 ∧
    isEid 312 = true ∧
    wFabQ0.chip.unassigned 312 = false ∧
    wFabQ0.chip.slotExpired
      (tget RspSlot.init (wFabQ0.chip.endp (312 : Eid)).slots (BitVec.toNat (2 : BitVec (5 : ℕ)))) =
      true ∧
    (tget RspSlot.init (wFabQ0.chip.endp (312 : Eid)).slots (BitVec.toNat (2 : BitVec (5 : ℕ)))).use =
      SlotUse.other := by
  decide +kernel

theorem test_FabricRows_meets4 :
    isTileEid 3 = true ∧
    RPort.e ≠ RPort.loc ∧
    (pk 0 0 3 3 64 7 99).vc = 0 ∧
    (pk 0 0 3 3 64 7 99).type = tDataWr ∧
    wFab1.chip.headOf 3 RPort.e 0 = some (pk 0 0 3 3 64 7 99) ∧
    wFab1.chip.routeOf 3 RPort.e (pk 0 0 3 3 64 7 99) = Chip.Route.ways [Chip.Way.port RPort.loc] := by decide +kernel

theorem test_FabricRows_meets5 :
    isEid 3 = true ∧
    wFab2.chip.headOf 3 RPort.e 1 = some (pk 2 1 4 3 64 7 99) ∧
    wFab2.chip.routeOf 3 RPort.e (pk 2 1 4 3 64 7 99) = Chip.Route.noEid := by decide +kernel

theorem test_FabricRows_meets6 :
    isEdgeEid 312 = true ∧
    wFabQ.chip.mayInject 312 = true ∧
    Chip.umaedOf 312 = none ∧
    wFabQ.chip.bkl.remote = [] ∧
    kk0.vc = 1 ∧
    isRequest kk0 = false ∧
    (wFabQ.chip.endp 312).queue = [kk0, kk0] := by decide +kernel

/-! ### The hypotheses of Arrivals -/

theorem test_Arrivals_meets1 :
    isEid 317 = true ∧
    wArrivals1.chip.unassigned 317 = true ∧
    wArrivals1.chip.tileOff 3 = false ∧
    kk0.addr.toNat < 524288 ∧
    kk0.addr.toNat % pktLen kk0 = 0 ∧
    kk0.vc ≠ 0 ∧
    (wArrivals1.chip.tile 3).ingress.length < 8 ∧
    wArrivals1.chip.isHere kk0.schip = true ∧
    wArrivals1.chip.clusterOn 2 = false := by decide +kernel

theorem test_Arrivals_meets2 :
    isEid 320 = false := by decide +kernel

theorem test_Arrivals_meets3 :
    wArrFull.chip.tileOff 3 = false ∧
    (pk 6 1 eidCmd 3 0 162 77).addr.toNat < 524288 ∧
    (pk 6 1 eidCmd 3 0 162 77).addr.toNat % pktLen (pk 6 1 eidCmd 3 0 162 77) = 0 ∧
    (pk 6 1 eidCmd 3 0 162 77).vc ≠ 0 ∧
    8 ≤ (wArrFull.chip.tile 3).ingress.length ∧
    isEid eidCmd = true ∧
    wArrFull.chip.unassigned eidCmd = false ∧
    Chip.addrAligned (pk 6 1 eidCmd 3 0 162 77) = true ∧
    ((tget RspSlot.init (wArrFull.chip.endp eidCmd).slots (tagSlot (pk 6 1 eidCmd 3 0 162 77).aux).toNat).busy =
      false ∨
      (tget RspSlot.init (wArrFull.chip.endp eidCmd).slots (tagSlot (pk 6 1 eidCmd 3 0 162 77).aux).toNat).inc ≠
      tagInc (pk 6 1 eidCmd 3 0 162 77).aux) ∧
    wArrFull.chip.satchel = false ∧
    (pk 6 1 eidCmd 3 0 162 77).len = 3 ∧
    (pk 6 1 eidCmd 3 0 162 77).addr = 0 ∧
    wArrFull.chip.clusterOn 2 = true ∧
    (pk 6 1 eidCmd 3 0 162 77).vc = 1 := by decide +kernel

theorem test_Arrivals_meets4 :
    isEid 312 = true ∧
    wArr.chip.unassigned 312 = false ∧
    Chip.addrAligned (pk 3 2 312 3 0 (5 * 32 + 2) 77) = true ∧
    (tget RspSlot.init (wArr.chip.endp 312).slots (tagSlot (pk 3 2 312 3 0 (5 * 32 + 2) 77).aux).toNat).busy =
      true ∧
    (tget RspSlot.init (wArr.chip.endp 312).slots (tagSlot (pk 3 2 312 3 0 (5 * 32 + 2) 77).aux).toNat).inc =
      tagInc (pk 3 2 312 3 0 (5 * 32 + 2) 77).aux ∧
    (tget RspSlot.init (wArr.chip.endp 312).slots (tagSlot (pk 3 2 312 3 0 (5 * 32 + 2) 77).aux).toNat).use =
      SlotUse.other := by decide +kernel

theorem test_Arrivals_meets5 :
    wArr.chip.clusterOn 2 = true ∧
    (pk 0 1 7 3 32 162 (77 + 1024)).vc = 1 ∧
    (pk 0 1 7 3 32 162 (77 + 1024)).len = 3 ∧
    (pk 0 1 7 3 32 162 (77 + 1024)).addr = 32 ∧
    (wArr.chip.tme 2).half = some 4660 := by decide +kernel

theorem test_Arrivals_meets6 :
    0 < 256 ∧
    4 < 1024 ∧
    (pk 0 1 7 0 1048580 162 (77 + 1024)).vc ≠ 2 ∧
    (pk 0 1 7 0 1048580 162 (77 + 1024)).type = tDataWr ∧
    (pk 0 1 7 0 1048580 162 (77 + 1024)).len = 0 ∧
    4 % 4 = 0 ∧
    (pk 0 1 7 0 1048580 162 (77 + 1024)).addr.toNat = 1048576 + 1024 * 0 + 4 ∧
    (wArr.chip.kvDesc 2 0).isOpen = true ∧
    4 + 4 ≤ (wArr.chip.kvDesc 2 0).pages.length := by decide +kernel

theorem test_Arrivals_meets7 :
    2 < 256 ∧
    4 < 1024 ∧
    (pk 0 1 7 0 1050628 162 (77 + 1024)).vc ≠ 2 ∧
    (pk 0 1 7 0 1050628 162 (77 + 1024)).type = tDataWr ∧
    (pk 0 1 7 0 1050628 162 (77 + 1024)).len = 0 ∧
    4 % 4 = 0 ∧
    (pk 0 1 7 0 1050628 162 (77 + 1024)).addr.toNat = 1048576 + 1024 * 2 + 4 ∧
    (wArr.chip.kvDesc 2 2).isOpen = false := by decide +kernel

theorem test_Arrivals_meets8 :
    (pk 0 1 7 1 2097152 162 (5 + 65536 * 9)).vc = 1 ∧
    (pk 0 1 7 1 2097152 162 (5 + 65536 * 9)).len = 1 ∧
    List.find?
      (fun r => decide (r.target = BitVec.extractLsb' 0 16 (pk 0 1 7 1 2097152 162 (5 + 65536 * 9)).payload))
      (wArr.chip.ringClasses 2) =
      some ringClass ∧
    wArr.chip.heldNotice 2 (BitVec.extractLsb' 0 16 (pk 0 1 7 1 2097152 162 (5 + 65536 * 9)).payload) = none := by decide +kernel

/-! ### The hypotheses of BuckleAndFault -/

theorem test_BuckleAndFault_meets1 :
    (pk 4 1 eidBuckle 0 0 7 77).addr = 0 ∧
    (wBk2.chip.buckle (BitVec.extractLsb' 0 12 (pk 4 1 eidBuckle 0 0 7 77).aux)).notify = false ∧
    wBk2.chip.fromCommand (pk 4 1 eidBuckle 0 0 7 77) = false ∧
    Chip.addrAligned (pk 4 1 eidBuckle 0 0 7 77) = true ∧
    (Chip.faultClass (Chip.remoteEntry (pk 4 1 eidBuckle 0 0 7 77)).code = 0 ∨
      5 < Chip.faultClass (Chip.remoteEntry (pk 4 1 eidBuckle 0 0 7 77)).code) := by decide +kernel

theorem test_BuckleAndFault_meets2 :
    Chip.addrAligned (pk 9 1 eidFault 3 0 7 (8196 * 2 ^ 64)) = true ∧
    1 ≤ Chip.faultClass (Chip.remoteEntry (pk 9 1 eidFault 3 0 7 (8196 * 2 ^ 64))).code ∧
    Chip.faultClass (Chip.remoteEntry (pk 9 1 eidFault 3 0 7 (8196 * 2 ^ 64))).code ≤ 5 := by decide +kernel

/-! ### The hypotheses of UmaedFrames -/

theorem test_UmaedFrames_meets1 :
    ((wUp.chip.link 2).state.toNat < 3 ∨ 5 < (wUp.chip.link 2).state.toNat) ∧
    (wUp.chip.link 2).state ≠ 4 ∧
    (wUp.chip.now < (wUp.chip.link 2).nextFrame ∨
      (wUp.chip.link 2).state.toNat < 3 ∨ 5 < (wUp.chip.link 2).state.toNat) := by decide +kernel

theorem test_UmaedFrames_meets2 :
    3 ≤ (wUmaedFrames4.chip.link 2).state.toNat ∧
    (wUmaedFrames4.chip.link 2).state.toNat ≤ 5 ∧
    (Uml.wrong { wrong := [] }).length ≤ 15 ∧
    fr.width ≠ 3 ∧
    (wUmaedFrames4.chip.link 2).state = 4 ∧
    (wUmaedFrames4.chip.link 2).nextFrame ≤ wUmaedFrames4.chip.now ∧
    (wUmaedFrames4.chip.link 2).echoes < 16 ∧
    (wUmaedFrames4.chip.link 2).echoWait = false := by decide +kernel

theorem test_UmaedFrames_meets3 :
    3 ≤ (wUmaedFrames1.chip.link 2).state.toNat ∧
    (wUmaedFrames1.chip.link 2).state.toNat ≤ 5 ∧
    15 < (Uml.wrong badFec).length ∧
    (wUmaedFrames1.chip.link 2).nextFrame ≤ wUmaedFrames1.chip.now ∧
    (wUmaedFrames1.chip.link 2).state = 5 ∧
    (∀ q ∈ (wUmaedFrames1.chip.link 2).egress, q.pkt.vc ≠ 0) := by decide +kernel

theorem test_UmaedFrames_meets4 :
    3 ≤ (wUmaedFrames1.chip.link 2).state.toNat ∧
    (wUmaedFrames1.chip.link 2).state.toNat ≤ 5 ∧
    (Uml.wrong { wrong := [] }).length ≤ 15 ∧
    fr3.width = 3 := by decide +kernel

theorem test_UmaedFrames_meets5 :
    (wUmaedFrames5.chip.link 2).nextFrame ≤ wUmaedFrames5.chip.now ∧
    (wUmaedFrames5.chip.link 2).state = 4 ∧
    (wUmaedFrames5.chip.link 2).echoes = 16 := by decide +kernel

theorem test_UmaedFrames_meets6 :
    (wUmaedFrames7.chip.link 2).nextFrame ≤ wUmaedFrames7.chip.now ∧
    (wUmaedFrames7.chip.link 2).state = 3 := by decide +kernel

/-! ### The hypotheses of UmaedTraining -/

theorem test_UmaedTraining_meets1 :
    (wUp.chip.link 2).state ≠ 1 ∧
    (wUp.chip.link 2).state ≠ 2 ∧
    (wUp.chip.link 2).state ≠ 3 ∧
    (wUp.chip.link 2).state ≠ 4 ∧
    (wUp.chip.link 2).state ≠ 5 ∧
    wUp.chip.umlParent 2 = false ∧
    wUp.chip.alm.running = false := by decide +kernel

theorem test_UmaedTraining_meets2 :
    (wUmaedTraining2.chip.link 2).state = 2 ∧
    wUmaedTraining2.chip.minWidth 2 ≤ Uml.laneCount ((wUmaedTraining2.chip.link 2).lanesOk &&& 15) := by decide +kernel

theorem test_UmaedTraining_meets3 :
    (wUmaedTraining10.chip.link 2).state = 5 ∧
    (wUmaedTraining10.chip.link (2 : Fin (6 : ℕ))).lanesOk.getLsbD (BitVec.toNat (0 : BitVec (2 : ℕ))) = false ∧
    Uml.widest (wUmaedTraining10.chip.umlOffer 2 &&& (wUmaedTraining10.chip.link 2).peerWidths) = none := by decide +kernel

theorem test_UmaedTraining_meets4 :
    (wUmaedTraining11.chip.link 2).state = 5 ∧
    (wUmaedTraining11.chip.link (2 : Fin (6 : ℕ))).lanesOk.getLsbD (BitVec.toNat (0 : BitVec (2 : ℕ))) = true ∧
    Uml.widest
      (Uml.offered
      ((wUmaedTraining11.chip.link (2 : Fin (6 : ℕ))).lanesOk &&&
      ~~~((1 : BitVec (4 : ℕ)) <<< BitVec.toNat (0 : BitVec (2 : ℕ))))
      (wUmaedTraining11.chip.minWidth (2 : Fin (6 : ℕ))) &&&
      Uml.noWider (wUmaedTraining11.chip.link (2 : Fin (6 : ℕ))).cap &&&
      (wUmaedTraining11.chip.link (2 : Fin (6 : ℕ))).peerWidths &&&
      Uml.noWider (wUmaedTraining11.chip.link (2 : Fin (6 : ℕ))).width) =
      none ∧
    Uml.widest (wUmaedTraining11.chip.umlOffer 2 &&& (wUmaedTraining11.chip.link 2).peerWidths) ≠ none := by decide +kernel

theorem test_UmaedTraining_meets5 :
    (wUmaedTraining1.chip.link 2).state = 1 ∧
    wUmaedTraining1.chip.minWidth 2 ≤ Uml.laneCount 15 := by decide +kernel

theorem test_UmaedTraining_meets6 :
    (wUmaedTraining3.chip.link 2).state = 3 ∧
    Uml.widest (wUmaedTraining3.chip.umlOffer 2 &&& (wUmaedTraining3.chip.link 2).peerWidths) = some 0 ∧
    (wUmaedTraining3.chip.link 2).gotIdent = true ∧
    (wUmaedTraining3.chip.link 2).peer = wUmaedTraining3.chip.peerChip 2 := by decide +kernel

theorem test_UmaedTraining_meets7 :
    (wUmaedTraining4.chip.link 2).state = 3 ∧
    (Uml.widest (wUmaedTraining4.chip.umlOffer 2 &&& (wUmaedTraining4.chip.link 2).peerWidths) = none ∨
      (wUmaedTraining4.chip.link 2).gotIdent = false ∨
      (wUmaedTraining4.chip.link 2).peer ≠ wUmaedTraining4.chip.peerChip 2) := by decide +kernel

theorem test_UmaedTraining_meets8 :
    (wUmaedTraining7.chip.link 2).state = 4 ∧
    (wUmaedTraining7.chip.link 2).echoes = 16 ∧
    (wUmaedTraining7.chip.link 2).rounds / 2 ≤ 16 := by decide +kernel

theorem test_UmaedTraining_meets9 :
    (wUmaedTraining8.chip.link 2).state = 4 ∧
    (wUmaedTraining8.chip.link 2).echoes = 16 ∧
    16 < (wUmaedTraining8.chip.link 2).rounds / 2 := by decide +kernel

theorem test_UmaedTraining_meets10 :
    (wUmaedFrames1.chip.link 2).state = 5 ∧
    (wUmaedFrames1.chip.link (2 : Fin (6 : ℕ))).lanesOk.getLsbD (BitVec.toNat (0 : BitVec (2 : ℕ))) = true ∧
    Uml.widest
      (Uml.offered
      ((wUmaedFrames1.chip.link (2 : Fin (6 : ℕ))).lanesOk &&&
      ~~~((1 : BitVec (4 : ℕ)) <<< BitVec.toNat (0 : BitVec (2 : ℕ))))
      (wUmaedFrames1.chip.minWidth (2 : Fin (6 : ℕ))) &&&
      Uml.noWider (wUmaedFrames1.chip.link (2 : Fin (6 : ℕ))).cap &&&
      (wUmaedFrames1.chip.link (2 : Fin (6 : ℕ))).peerWidths &&&
      Uml.noWider (wUmaedFrames1.chip.link (2 : Fin (6 : ℕ))).width) =
      some (1 : BitVec (2 : ℕ)) := by decide +kernel

theorem test_UmaedTraining_meets11 :
    wLnkA.chip.umlParent 2 = true ∧
    wLnkA.chip.alm.armed = true ∧
    wLnkA.chip.alm.day0At = none ∧
    (65535 : BitVec (16 : ℕ)) = (65535 : BitVec (16 : ℕ)) := by decide +kernel

theorem test_UmaedTraining_meets12 :
    wLnkS.chip.umlParent 2 = true ∧
    wLnkS.chip.alm.running = false ∧
    wLnkS.chip.alm.armed = false := by decide +kernel

/-! ### The hypotheses of DramPlanned -/

theorem test_DramPlanned_meets1 :
    wDramPlanned1.chip.alm.running = true ∧
    wDramPlanned1.chip.trained 5 = true ∧
    (wDramPlanned1.chip.chan 5).emergUntil = [] ∧
    (wDramPlanned1.chip.chan 5).dbg = [] ∧
    (wDramPlanned1.chip.bank (5 : BitVec (3 : ℕ)) (BitVec.toNat (3 : BitVec (5 : ℕ)))).row =
      some (7 : BitVec (18 : ℕ)) ∧
    tget Ecc.clean (wDramPlanned1.chip.bank (5 : BitVec (3 : ℕ)) (BitVec.toNat (3 : BitVec (5 : ℕ)))).check
      (BitVec.toNat (4 : BitVec (6 : ℕ))) =
      Ecc.clean ∧
    tget Ecc.clean (wDramPlanned1.chip.bank (5 : BitVec (3 : ℕ)) (BitVec.toNat (3 : BitVec (5 : ℕ)))).check
      (BitVec.toNat (4 : BitVec (6 : ℕ)) + (1 : ℕ)) =
      Ecc.clean := by decide +kernel

theorem test_DramPlanned_meets2 :
    wDramPlanned2.chip.alm.running = false := by decide +kernel

theorem test_DramPlanned_meets3 :
    wEmerg.chip.alm.running = true ∧
    wEmerg.chip.trained 5 = true ∧
    wEmerg.chip.inEmergency (5 : BitVec (3 : ℕ)) (BitVec.toNat (3 : BitVec (5 : ℕ)) / (16 : ℕ)) = true := by decide +kernel

theorem test_DramPlanned_meets4 :
    wDramPlanned1.chip.alm.running = true ∧
    wDramPlanned1.chip.trained 5 = true ∧
    (wDramPlanned1.chip.chan 5).emergUntil = [] ∧
    (wDramPlanned1.chip.chan 5).dbg = [] ∧
    (wDramPlanned1.chip.bank (5 : BitVec (3 : ℕ)) (BitVec.toNat (5 : BitVec (5 : ℕ)))).row = none := by decide +kernel

/-! ### The hypotheses of DramUnscheduled -/

theorem test_DramUnscheduled_meets1 :
    wDramUnscheduled1.chip.trained 5 = true ∧
    0 < wDramUnscheduled1.chip.trefi 5 ∧
    (wDramUnscheduled1.chip.chan 5).trefiAt ≤ wDramUnscheduled1.chip.now ∧
    wDramUnscheduled1.chip.alm.running = true ∧
    tget 0 (wDramUnscheduled1.chip.chan 5).emergUntil (b1 true) = 0 ∧
    128 ≤ wDramUnscheduled1.chip.debtOf 5 (b1 true) ∧
    (wDramUnscheduled1.chip.chan 5).inFlight = [] ∧
    wDramUnscheduled1.chip.arbWinner 5 = none ∧
    (wDramUnscheduled1.chip.arbClass (5 : BitVec (3 : ℕ)) (BitVec.toNat (2 : BitVec (2 : ℕ)))).backUntil ≤
      wDramUnscheduled1.chip.now := by decide +kernel

theorem test_DramUnscheduled_meets2 :
    wDramUnscheduled3.chip.arbWinner (5 : BitVec (3 : ℕ)) = some (BitVec.toNat (2 : BitVec (2 : ℕ))) ∧
    (∀ j < (4 : ℕ),
      j ≠ BitVec.toNat (2 : BitVec (2 : ℕ)) → wDramUnscheduled3.chip.eligible (5 : BitVec (3 : ℕ)) j = false) ∧
    (wDramUnscheduled3.chip.arbClass (5 : BitVec (3 : ℕ)) (BitVec.toNat (2 : BitVec (2 : ℕ)))).queue =
      [dTxn (2 : BitVec (4 : ℕ)), dTxn (0 : BitVec (4 : ℕ))] ∧
    (dTxn 2).pkt.type = tReadReq := by decide +kernel

theorem test_DramUnscheduled_meets3 :
    (wDramUnscheduled4.chip.chan 5).inFlight = [(1000, dTxn 0)] ∧
    1000 ≤ wDramUnscheduled4.chip.now ∧
    (dTxn 0).debug = false ∧
    (dTxn 0).pkt.type = tDataWr ∧
    (dTxn 0).pkt.len = 3 := by decide +kernel

theorem test_DramUnscheduled_meets4 :
    (wDramUnscheduled5.chip.chan 5).inFlight = [(1000, dTxn 2)] ∧
    1000 ≤ wDramUnscheduled5.chip.now ∧
    (dTxn 2).debug = false ∧
    (dTxn 2).pkt.type = tReadReq ∧
    tget Ecc.clean (wDramUnscheduled5.chip.chan 5).ecc ((dTxn 2).addr / 32) = Ecc.clean := by decide +kernel

theorem test_DramUnscheduled_meets5 :
    wDramPlanned2.chip.alm.running = false ∧
    wDramPlanned2.chip.trained 5 = true ∧
    16 ≤ wDramPlanned2.chip.debtOf 5 (b1 false) ∧
    wDramPlanned2.chip.debtOf 5 (b1 false) ≤ 128 ∧
    wDramPlanned2.chip.rankBusy 5 (b1 false) = false := by decide +kernel

/-! ### The hypotheses of TmeRows -/

theorem test_TmeRows_meets1 :
    wTmeRows1.chip.clusterOn 2 = true ∧
    (wTmeRows1.chip.tme 2).job = none ∧
    (wTmeRows1.chip.tme 2).queue = [(3, tDesc 1 0), (4, 5)] ∧
    wTmeRows1.chip.tmeFinished 2 = false := by decide +kernel

theorem test_TmeRows_meets2 :
    (wTmeRows4.chip.clusterOn 2 = false ∨ (wTmeRows4.chip.tme 2).job ≠ none ∨ (wTmeRows4.chip.tme 2).queue = []) ∧
    wTmeRows4.chip.tmeFinished 2 = true ∧
    (wTmeRows4.chip.tme 2).job = some (mJob 1 0) ∧
    (mJob 1 0).stopped = false ∧
    dNum (mJob 1 0).desc 2 2 < 2 ^ 15 := by decide +kernel

theorem test_TmeRows_meets3 :
    wTmeRows5.chip.tmeFinished 2 = true ∧
    (wTmeRows5.chip.tme 2).job = some (mJob 1 33059) ∧
    (mJob 1 33059).stopped = false ∧
    2 ^ 15 ≤ dNum (mJob 1 33059).desc 2 2 := by decide +kernel

theorem test_TmeRows_meets4 :
    wTmeRows6.chip.tmeFinished 2 = true ∧
    (wTmeRows6.chip.tme 2).job = some mStop3 ∧
    mStop3.stopped = true := by decide +kernel

theorem test_TmeRows_meets5 :
    (wTmeRows7.chip.tme 2).job = some mEnc ∧
    mEnc.stopped = false ∧
    Tmd.enc mEnc.desc = true ∧
    mEnc.buf.length = 8 := by decide +kernel

theorem test_TmeRows_meets6 :
    (wTmeRows9.chip.tme 2).job = some (mDec 20480) ∧
    (mDec 20480).stopped = false ∧
    Tmd.dec (mDec 20480).desc = true ∧
    (mDec 20480).buf.length = (mDec 20480).need ∧
    Skv.decode
      (Option.map Skv.table
      (wTmeRows9.chip.skvBody 2 (Skv.hdrTable (numAt (Chip.blockBytes (mDec 20480)) 0 2))))
      (Chip.blockBytes (mDec 20480)) =
      Except.error 1 := by decide +kernel

theorem test_TmeRows_meets7 :
    (wTmeRows10.chip.tme 2).job = some mRaw ∧
    mRaw.stopped = false ∧
    Tmd.dec mRaw.desc = true ∧
    mRaw.buf.length = mRaw.need ∧
    Skv.decode
      (Option.map Skv.table (wTmeRows10.chip.skvBody 2 (Skv.hdrTable (numAt (Chip.blockBytes mRaw) 0 2))))
      (Chip.blockBytes mRaw) =
      Except.ok (List.replicate 256 7) := by decide +kernel

/-! ### The hypotheses of SkiveRoundTrip -/

theorem test_SkiveRoundTrip_meets1 :
    goodTab.codes.length = 9 ∧
    goodTab.zero < 256 ∧
    5 < 16 ∧
    ((List.map (fun k => BitVec.ofNat 8 (128 + k / 128)) (List.range 256)).length = 256) ∧
    (∀ c ∈ goodTab.codes, 1 ≤ c.1 ∧ c.1 ≤ 6 ∧ c.2 < 2 ^ c.1) ∧
    (∀ (i j : ℕ), i < 9 → j < 9 → i ≠ j → (goodTab.codes.getD i (0, 0)).1 ≤ (goodTab.codes.getD j (0, 0)).1 →
      (goodTab.codes.getD j (0, 0)).2 / 2 ^ ((goodTab.codes.getD j (0, 0)).1 - (goodTab.codes.getD i (0, 0)).1)
      ≠ (goodTab.codes.getD i (0, 0)).2) := by
  have h : ∀ i < 9, ∀ j < 9, i ≠ j → (goodTab.codes.getD i (0, 0)).1 ≤ (goodTab.codes.getD j (0, 0)).1 →
      (goodTab.codes.getD j (0, 0)).2 / 2 ^ ((goodTab.codes.getD j (0, 0)).1 - (goodTab.codes.getD i (0, 0)).1) ≠
        (goodTab.codes.getD i (0, 0)).2 := by decide +kernel
  exact ⟨by decide +kernel, by decide +kernel, by decide +kernel, by decide +kernel, by decide +kernel,
    fun i j hi hj => h i hi j hj⟩

/-! ### The hypotheses of KvOperations -/

theorem test_KvOperations_meets1 :
    wKvOperations1.chip.kvClassOf 2 (BitVec.extractLsb' 16 16 (kp 11 1 0).payload).toNat = some (kvRec 8 0) ∧
    (wKvOperations1.chip.kvDesc 2 (BitVec.extractLsb' 16 16 (kp 11 1 0).payload).toNat).isOpen = true ∧
    (BitVec.extractLsb' 16 16 (kp 11 1 0).payload).toNat < 256 := by decide +kernel

theorem test_KvOperations_meets2 :
    wKvOperations1.chip.kvClassOf 2 (BitVec.extractLsb' 16 16 (kp 10 1 0).payload).toNat = some (kvRec 8 0) ∧
    ((wKvOperations1.chip.kvDesc 2 (BitVec.extractLsb' 16 16 (kp 10 1 0).payload).toNat).isOpen = false ∨
      256 ≤ (BitVec.extractLsb' 16 16 (kp 10 1 0).payload).toNat) := by decide +kernel

theorem test_KvOperations_meets3 :
    wKvOperations1.chip.kvClassOf 2 (BitVec.extractLsb' 16 16 (kp 99 1 0).payload).toNat = none := by decide +kernel

/-! ### The hypotheses of KvMoves -/

theorem test_KvMoves_meets1 :
    (wKvMoves1.chip.walker 2).results = [(1000, kk0)] ∧
    1000 ≤ wKvMoves1.chip.now ∧
    (wKvMoves1.chip.walker 2).moves = [] ∧
    (wKvMoves1.chip.alm.running = false ∨ wKvMoves1.chip.alm.dayEnded = false) ∧
    (∀ r ∈ wKvMoves1.chip.ringClasses 2, wKvMoves1.chip.ringDegraded r.body = false) ∧
    (∀ r ∈ wKvMoves1.chip.ringClasses 2, wKvMoves1.chip.switchesNow 2 r = false) := by decide +kernel

theorem test_KvMoves_meets2 :
    (wKvE.chip.walker 2).moves = [kvMv true false] ∧
    (kvMv true false).started = true ∧
    Chip.moveEntry (wKvE.chip.kvDesc 2 (kvMv true false).desc.toNat) (kvMv true false) = some 3 ∧
    (wKvE.chip.kvDesc 2 (kvMv true false).desc.toNat).pages[3]? = some (pgl 3 3) ∧
    wKvE.chip.kvMoveWritten 2 = true ∧
    wKvE.chip.alm.running = true ∧
    wKvE.chip.alm.dayEnded = true ∧
    (kvMv true false).toSram = true ∧
    (kvMv true false).day.toNat + 1 = wKvE.chip.alm.dayCount.toNat := by decide +kernel

theorem test_KvMoves_meets3 :
    (wKvMoves4.chip.walker 2).moves = [kvMv false true] ∧
    (kvMv false true).started = true ∧
    Chip.moveEntry (wKvMoves4.chip.kvDesc 2 (kvMv false true).desc.toNat) (kvMv false true) = some 3 ∧
    (wKvMoves4.chip.kvDesc 2 (kvMv false true).desc.toNat).pages[3]? = some (pgl 3 3) ∧
    (kvMv false true).failed = true := by decide +kernel

/-! ### The hypotheses of VoiceRows -/

theorem test_VoiceRows_meets1 :
    wVoiceRows1.chip.alm.running = true ∧
    wVoiceRows1.chip.alm.cycle = 0 ∧
    (wVoiceRows1.chip.session 1020).state = 1 ∧
    (wVoiceRows1.chip.session 1020).bindDay = BitVec.setWidth 32 wVoiceRows1.chip.alm.dayCount ∧
    wVoiceRows1.chip.sesClass (wVoiceRows1.chip.session 1020).cls = some cls4.body ∧
    wVoiceRows1.chip.sfe.holdq = [1020, 1022] ∧
    wVoiceRows1.chip.adaptRoom = true ∧
    wVoiceRows1.chip.fetchDue 5 = true ∧
    wVoiceRows1.chip.streamPlan 5 = some (List.take 24 (List.drop 8 strm.body), 2) := by decide +kernel

theorem test_VoiceRows_meets2 :
    wVoiceRows4.chip.fetchDue 6 = false ∧
    wVoiceRows4.chip.streamPlan 6 = some (List.take 24 (List.drop 32 strm.body), 2) ∧
    Chip.isOutput (List.take 24 (List.drop 32 strm.body)) = true ∧
    wVoiceRows4.chip.sinceStart (wVoiceRows4.chip.stream 6).startDay =
      some (wVoiceRows4.chip.blockDays 160 * 0 + (wVoiceRows4.chip.blockDays 160 - 1)) ∧
    wVoiceRows4.chip.vigilAt 0 = true := by decide +kernel

theorem test_VoiceRows_meets3 :
    wVoiceRows1.chip.alm.running = true ∧
    wVoiceRows1.chip.alm.cycle = 0 ∧
    (wVoiceRows1.chip.session 1021).state = 1 ∧
    (wVoiceRows1.chip.session 1021).bindDay = BitVec.setWidth 32 wVoiceRows1.chip.alm.dayCount ∧
    wVoiceRows1.chip.sesClass (wVoiceRows1.chip.session 1021).cls = none := by decide +kernel

theorem test_VoiceRows_meets4 :
    wVoiceRows1.chip.alm.running = true ∧
    wVoiceRows1.chip.alm.cycle = 0 ∧
    (wVoiceRows1.chip.session 1022).state = 3 ∧
    (wVoiceRows1.chip.session 1022).closeDay = BitVec.setWidth 32 wVoiceRows1.chip.alm.dayCount := by decide +kernel

theorem test_VoiceRows_meets5 :
    wVoiceRows3.chip.streamPlan 5 = some (List.take 24 (List.drop 8 strm.body), 2) ∧
    Chip.isOutput (List.take 24 (List.drop 8 strm.body)) = false ∧
    wVoiceRows3.chip.sinceStart (wVoiceRows3.chip.stream 5).startDay = some (wVoiceRows3.chip.blockDays 160 * 1) ∧
    wVoiceRows3.chip.alm.running = true ∧
    wVoiceRows3.chip.alm.cycle = numAt (List.take 24 (List.drop 8 strm.body)) 12 4 ∧
    (wVoiceRows3.chip.stream 5).ahead = [] := by decide +kernel

theorem test_VoiceRows_meets6 :
    wVoiceRows6.chip.streamPlan 6 = some (List.take 24 (List.drop 32 strm.body), 2) ∧
    (wVoiceRows6.chip.stream 6).taken = some aBlk ∧
    wVoiceRows6.chip.vigilAt 16 = true ∧
    (wVoiceRows6.chip.stream 6).prod = (wVoiceRows6.chip.stream 6).cons := by decide +kernel

theorem test_VoiceRows_meets7 :
    wVoiceRows6.chip.streamPlan 5 = some (List.take 24 (List.drop 8 strm.body), 2) ∧
    (wVoiceRows6.chip.stream 5).taken = some aBlk ∧
    wVoiceRows6.chip.vigilAt 16 = true ∧
    (wVoiceRows6.chip.stream 5).prod ≠ (wVoiceRows6.chip.stream 5).cons ∧
    4 ≤ (wVoiceRows6.chip.stream 5).size.toNat ∧
    (wVoiceRows6.chip.stream 5).size.toNat ≤ 12 := by decide +kernel

theorem test_VoiceRows_meets8 :
    wAudIn.chip.audCfg 3 = some ([1, 1] ++ List.replicate 62 0, 1) ∧
    Chip.inEn ([1, 1] ++ List.replicate 62 0) = true ∧
    wAudIn.chip.sinceStart (wAudIn.chip.audPort 3).startDay = some (wAudIn.chip.blockDays 64 * (1 + 1)) ∧
    (wAudIn.chip.audPort 3).whole = some (outFrames, 1) ∧
    wAudIn.chip.alm.running = true ∧
    wAudIn.chip.alm.cycle = numAt ([1, 1] ++ List.replicate 62 0) 16 4 := by decide +kernel

theorem test_VoiceRows_meets9 :
    wAudOut.chip.audCfg 3 = some ([2, 1] ++ List.replicate 62 0, 1) ∧
    Chip.outEn ([2, 1] ++ List.replicate 62 0) = true ∧
    wAudOut.chip.sinceStart (wAudOut.chip.audPort 3).startDay =
      some (wAudOut.chip.blockDays 64 * 1 + (wAudOut.chip.blockDays 64 - 1)) ∧
    wAudOut.chip.vigilAt 0 = true := by decide +kernel

/-! ### The hypotheses of I2sRows -/

theorem test_I2sRows_meets1 :
    wI2sRows1.chip.audCfg 3 = some ([1, 1] ++ List.replicate 62 0, 1) ∧
    wI2sRows1.chip.audOn 3 = true ∧
    wI2sRows1.chip.alm.running = true ∧
    (wI2sRows1.chip.audPort 3).run = true ∧
    (wI2sRows1.chip.audPort 3).running = false ∧
    wI2sRows1.chip.aud.armed = false := by decide +kernel

theorem test_I2sRows_meets2 :
    wI2sRows2.chip.audCfg 3 = some ([1, 1] ++ List.replicate 62 0, 1) ∧
    wI2sRows2.chip.audOn 3 = true ∧
    (wI2sRows2.chip.audPort 3).run = false ∧
    (wI2sRows2.chip.audPort 3).running = true := by decide +kernel

theorem test_I2sRows_meets3 :
    wI2sRows3.chip.audCfg 3 = some ([1, 1] ++ List.replicate 62 0, 1) ∧
    wI2sRows3.chip.audOn 3 = true ∧
    wI2sRows3.chip.aud.armed = true ∧
    wI2sRows3.chip.alm.running = true ∧
    wI2sRows3.chip.lts = wI2sRows3.chip.aud.startAt ∧
    BitVec.getLsbD wI2sRows3.chip.aud.latched ↑3 = true := by decide +kernel

theorem test_I2sRows_meets4 :
    wI2sRows4.chip.audCfg 3 = some ([3, 1] ++ List.replicate 62 0, 1) ∧
    wI2sRows4.chip.audOn 3 = true ∧
    (wI2sRows4.chip.audPort 3).coming = [(1000, 3, 4)] ∧
    1000 ≤ wI2sRows4.chip.now := by decide +kernel

/-! ### The hypotheses of FronthaulRows -/

theorem test_FronthaulRows_meets1 :
    ((if
      Fh.etherType (fhF 1 2 [1, 2, 3]) = 44798 ∧
      Fh.msgType (fhF 1 2 [1, 2, 3]) = 0 ∧ wFronthaulRows2.chip.alm.running = true then
      Option.filter (fun r => Fh.enabled r.body)
      (wFronthaulRows2.chip.fhRecFor 0
      (wFronthaulRows2.chip.fhTarget 0 (Fh.msgPayload (fhF 1 2 [1, 2, 3])) wFronthaulRows2.chip.lts))
      else wFronthaulRows2.chip.fhRec 0) =
      some (fhR 0)) ∧
    Fh.judge (fhR 0).body (fhF 1 2 [1, 2, 3]) true = none ∧
    (List.map (fun y => y.1.length) (wFronthaulRows2.chip.fhPort 0).fifo).sum + (fhF 1 2 [1, 2, 3]).length ≤
      262144 ∧
    wFronthaulRows2.chip.fhRec 0 = some (fhR 0) ∧
    (wFronthaulRows2.chip.fhPort 0).fifo = [(fhF 1 2 [1, 2, 3], 5, 990)] ∧
    Fh.headerOk (fhF 1 2 [1, 2, 3]) = true ∧
    Fh.msgType (fhF 1 2 [1, 2, 3]) ≠ 0 ∧
    Fh.msgType (fhF 1 2 [1, 2, 3]) ≠ 5 ∧
    wFronthaulRows2.chip.nextLine 0 = some (aLn none) ∧
    aLn none ∈ (wFronthaulRows2.chip.fhPort 0).lines ∧
    (aLn none).due ≤ wFronthaulRows2.chip.now ∧
    wFronthaulRows2.chip.fhRecFor 0 ↑wFronthaulRows2.chip.alm.dayCount.toNat = some (fhR 0) ∧
    (wFronthaulRows2.chip.alm.running = false ∨
      Fh.enabled (fhR 0).body = false ∨ wFronthaulRows2.chip.alm.cycle ≠ Fh.lateWin (fhR 0).body + 1) ∧
    wFronthaulRows2.chip.vigilAt 16 = false ∧
    ((wFronthaulRows2.chip.fhRing 2).copying = none ∨ wFronthaulRows2.chip.vigilAt 0 = false) ∧
    (wFronthaulRows2.chip.fhPort 0).linkUp = true := by decide +kernel

theorem test_FronthaulRows_meets2 :
    ((if
      Fh.etherType (fhF 1 0 [1, 2, 3]) = 44798 ∧
      Fh.msgType (fhF 1 0 [1, 2, 3]) = 0 ∧ wUp.chip.alm.running = true then
      Option.filter (fun r => Fh.enabled r.body)
      (wUp.chip.fhRecFor 0 (wUp.chip.fhTarget 0 (Fh.msgPayload (fhF 1 0 [1, 2, 3])) wUp.chip.lts))
      else wUp.chip.fhRec 0) =
      none) ∧
    wUp.chip.fhRec 0 = none ∧
    wUp.chip.nextLine 0 = none ∧
    (∀ m ∈ (wUp.chip.fhPort 0).lines, wUp.chip.now < m.due) ∧
    (wUp.chip.fhPort 0).linkUp = false := by decide +kernel

theorem test_FronthaulRows_meets3 :
    wFronthaulRows4.chip.fhRec 0 = some (fhR 0) ∧
    (wFronthaulRows4.chip.fhPort 0).fifo =
      [(fhF 1 5 [1, 0, 0, 0, 0, 0, 0, 0, 0, 0, 0, 0, 0, 0, 0, 0, 0, 0, 0, 0], 5, 990)] ∧
    Fh.headerOk (fhF 1 5 [1, 0, 0, 0, 0, 0, 0, 0, 0, 0, 0, 0, 0, 0, 0, 0, 0, 0, 0, 0]) = true ∧
    Fh.msgType (fhF 1 5 [1, 0, 0, 0, 0, 0, 0, 0, 0, 0, 0, 0, 0, 0, 0, 0, 0, 0, 0, 0]) = 5 ∧
    Fh.dlyEn (fhR 0).body = true ∧
    BitVec.extractLsb' (0 : ℕ) (22 : ℕ) (5 : Lts) ≠ (4194303 : BitVec (22 : ℕ)) ∧
    2 ≤ (Fh.msgPayload (fhF 1 5 [1, 0, 0, 0, 0, 0, 0, 0, 0, 0, 0, 0, 0, 0, 0, 0, 0, 0, 0, 0])).length ∧
    Fh.beAt (Fh.msgPayload (fhF 1 5 [1, 0, 0, 0, 0, 0, 0, 0, 0, 0, 0, 0, 0, 0, 0, 0, 0, 0, 0, 0])) 1 1 = 0 ∧
    (wFronthaulRows4.chip.fhPort 0).replies = [{ dest := 5, tagged := true, vlan := 6, measId := 7, lts := 8 }] := by decide +kernel

theorem test_FronthaulRows_meets4 :
    ((if
      Fh.etherType (fhF 9 0 [1]) = 44798 ∧
      Fh.msgType (fhF 9 0 [1]) = 0 ∧ wFronthaulRows1.chip.alm.running = true then
      Option.filter (fun r => Fh.enabled r.body)
      (wFronthaulRows1.chip.fhRecFor 0
      (wFronthaulRows1.chip.fhTarget 0 (Fh.msgPayload (fhF 9 0 [1])) wFronthaulRows1.chip.lts))
      else wFronthaulRows1.chip.fhRec 0) =
      some (fhR 0)) ∧
    Fh.judge (fhR 0).body (fhF 9 0 [1]) true = some 4 ∧
    4 ≠ 9 := by decide +kernel

theorem test_FronthaulRows_meets5 :
    ((if
      Fh.etherType (fhF 1 0 [1, 2, 3]) = 44798 ∧
      Fh.msgType (fhF 1 0 [1, 2, 3]) = 0 ∧ wFhFull.chip.alm.running = true then
      Option.filter (fun r => Fh.enabled r.body)
      (wFhFull.chip.fhRecFor 0 (wFhFull.chip.fhTarget 0 (Fh.msgPayload (fhF 1 0 [1, 2, 3])) wFhFull.chip.lts))
      else wFhFull.chip.fhRec 0) =
      some (fhR 0)) ∧
    Fh.judge (fhR 0).body (fhF 1 0 [1, 2, 3]) true = none ∧
    262144 < (List.map (fun y => y.1.length) (wFhFull.chip.fhPort 0).fifo).sum + (fhF 1 0 [1, 2, 3]).length := by decide +kernel

theorem test_FronthaulRows_meets6 :
    wFronthaulRows6.chip.fhRec 0 = some (fhR 0) ∧
    (wFronthaulRows6.chip.fhPort 0).fifo =
      [(fhF 1 5 [1, 9, 0, 0, 0, 0, 0, 0, 0, 0, 0, 0, 0, 0, 0, 0, 0, 0, 0, 0], 5, 990)] ∧
    Fh.headerOk (fhF 1 5 [1, 9, 0, 0, 0, 0, 0, 0, 0, 0, 0, 0, 0, 0, 0, 0, 0, 0, 0, 0]) = true ∧
    Fh.msgType (fhF 1 5 [1, 9, 0, 0, 0, 0, 0, 0, 0, 0, 0, 0, 0, 0, 0, 0, 0, 0, 0, 0]) = 5 ∧
    (Fh.dlyEn (fhR (0 : ℕ)).body = false ∨
      BitVec.extractLsb' (0 : ℕ) (22 : ℕ) (5 : Lts) = (4194303 : BitVec (22 : ℕ)) ∨
      (Fh.msgPayload
      (fhF (1 : Byte) (5 : Byte)
      [(1 : Byte), (9 : Byte), (0 : Byte), (0 : Byte), (0 : Byte), (0 : Byte), (0 : Byte), (0 : Byte),
      (0 : Byte), (0 : Byte), (0 : Byte), (0 : Byte), (0 : Byte), (0 : Byte), (0 : Byte),
      (0 : Byte), (0 : Byte), (0 : Byte), (0 : Byte), (0 : Byte)])).length <
      (2 : ℕ) ∨
      Fh.beAt
      (Fh.msgPayload
      (fhF (1 : Byte) (5 : Byte)
      [(1 : Byte), (9 : Byte), (0 : Byte), (0 : Byte), (0 : Byte), (0 : Byte), (0 : Byte), (0 : Byte),
      (0 : Byte), (0 : Byte), (0 : Byte), (0 : Byte), (0 : Byte), (0 : Byte), (0 : Byte),
      (0 : Byte), (0 : Byte), (0 : Byte), (0 : Byte), (0 : Byte)]))
      (1 : ℕ) (1 : ℕ) ≠
      (0 : ℕ)) := by decide +kernel

theorem test_FronthaulRows_meets7 :
    ((if Fh.etherType fhM = 44798 ∧ Fh.msgType fhM = 0 ∧ wFronthaulRows1.chip.alm.running = true then
      Option.filter (fun r => Fh.enabled r.body)
      (wFronthaulRows1.chip.fhRecFor 0
      (wFronthaulRows1.chip.fhTarget 0 (Fh.msgPayload fhM) wFronthaulRows1.chip.lts))
      else wFronthaulRows1.chip.fhRec 0) =
      some (fhR 0)) ∧
    Fh.judge (fhR 0).body fhM true = some 9 := by decide +kernel

theorem test_FronthaulRows_meets8 :
    wFronthaulRows3.chip.fhRec 0 = some (fhR 0) ∧
    (wFronthaulRows3.chip.fhPort 0).fifo = [(fhF 1 0 [1, 2, 3], 5, 990)] ∧
    Fh.headerOk (fhF 1 0 [1, 2, 3]) = true ∧
    Fh.msgType (fhF 1 0 [1, 2, 3]) = 0 ∧
    wFronthaulRows3.chip.fhNew 0 = none ∧
    Fh.iqOk (2 ^ Fh.spsLog2 (fhR 0).body) (Fh.msgPayload (fhF 1 0 [1, 2, 3])) = false := by decide +kernel

theorem test_FronthaulRows_meets9 :
    wFronthaulRows5.chip.fhRecFor 0 ↑wFronthaulRows5.chip.alm.dayCount.toNat = some (fhR 0) ∧
    wFronthaulRows5.chip.alm.running = true ∧
    Fh.enabled (fhR 0).body = true ∧
    wFronthaulRows5.chip.alm.cycle = Fh.lateWin (fhR 0).body + 1 := by decide +kernel

theorem test_FronthaulRows_meets10 :
    (wIq 4).chip.fhRec 0 = some fhR1 ∧
    ((wIq 4).chip.fhPort 0).fifo = [(fhF 1 0 (iqPay 4), iqLts, 990)] ∧
    Fh.headerOk (fhF 1 0 (iqPay 4)) = true ∧
    Fh.msgType (fhF 1 0 (iqPay 4)) = 0 ∧
    (wIq 4).chip.fhNew 0 = none ∧
    Fh.iqOk (2 ^ Fh.spsLog2 fhR1.body) (Fh.msgPayload (fhF 1 0 (iqPay 4))) = true ∧
    BitVec.extractLsb' 0 22 iqLts ≠ 4194303 ∧
    Chip.fhEntry fhR1.body (Fh.msgPayload (fhF 1 0 (iqPay 4))) = some fhEnt ∧
    (((wIq 4).chip.fhTarget 0 (Fh.msgPayload (fhF 1 0 (iqPay 4))) iqLts = ((wIq 4).chip.fhDay iqLts : Int) ∧
      ((BitVec.extractLsb' 0 22 iqLts).toNat : Int) ≤ (Fh.lateWin fhR1.body : Int)) ∨
      ((wIq 4).chip.fhTarget 0 (Fh.msgPayload (fhF 1 0 (iqPay 4))) iqLts = ((wIq 4).chip.fhDay iqLts : Int) + 1 ∧
        -(Fh.earlyWin fhR1.body : Int) ≤ ((BitVec.extractLsb' 0 22 iqLts).toNat : Int) - ((wIq 4).chip.alm.dayLen.toNat : Int) ∧
        ((BitVec.extractLsb' 0 22 iqLts).toNat : Int) - ((wIq 4).chip.alm.dayLen.toNat : Int) ≤ (Fh.lateWin fhR1.body : Int))) := by decide +kernel

theorem test_FronthaulRows_meets11 :
    (wIq 3).chip.fhRec 0 = some fhR1 ∧
    ((wIq 3).chip.fhPort 0).fifo = [(fhF 1 0 (iqPay 3), iqLts, 990)] ∧
    Fh.headerOk (fhF 1 0 (iqPay 3)) = true ∧
    Fh.msgType (fhF 1 0 (iqPay 3)) = 0 ∧
    (wIq 3).chip.fhNew 0 = none ∧
    Fh.iqOk (2 ^ Fh.spsLog2 fhR1.body) (Fh.msgPayload (fhF 1 0 (iqPay 3))) = true ∧
    BitVec.extractLsb' 0 22 iqLts ≠ 4194303 ∧
    Chip.fhEntry fhR1.body (Fh.msgPayload (fhF 1 0 (iqPay 3))) = some fhEnt ∧
    ((wIq 3).chip.fhTarget 0 (Fh.msgPayload (fhF 1 0 (iqPay 3))) iqLts < ((wIq 3).chip.fhDay iqLts : Int) ∨
      ((wIq 3).chip.fhTarget 0 (Fh.msgPayload (fhF 1 0 (iqPay 3))) iqLts = ((wIq 3).chip.fhDay iqLts : Int) ∧
        (Fh.lateWin fhR1.body : Int) < ((BitVec.extractLsb' 0 22 iqLts).toNat : Int))) := by decide +kernel

theorem test_FronthaulRows_meets12 :
    (wIq 6).chip.fhRec 0 = some fhR1 ∧
    ((wIq 6).chip.fhPort 0).fifo = [(fhF 1 0 (iqPay 6), iqLts, 990)] ∧
    Fh.headerOk (fhF 1 0 (iqPay 6)) = true ∧
    Fh.msgType (fhF 1 0 (iqPay 6)) = 0 ∧
    (wIq 6).chip.fhNew 0 = none ∧
    Fh.iqOk (2 ^ Fh.spsLog2 fhR1.body) (Fh.msgPayload (fhF 1 0 (iqPay 6))) = true ∧
    BitVec.extractLsb' 0 22 iqLts ≠ 4194303 ∧
    Chip.fhEntry fhR1.body (Fh.msgPayload (fhF 1 0 (iqPay 6))) = some fhEnt ∧
    (((wIq 6).chip.fhDay iqLts : Int) + 2 ≤ (wIq 6).chip.fhTarget 0 (Fh.msgPayload (fhF 1 0 (iqPay 6))) iqLts ∨
      ((wIq 6).chip.fhTarget 0 (Fh.msgPayload (fhF 1 0 (iqPay 6))) iqLts = ((wIq 6).chip.fhDay iqLts : Int) + 1 ∧
        ((BitVec.extractLsb' 0 22 iqLts).toNat : Int) - ((wIq 6).chip.alm.dayLen.toNat : Int) < -(Fh.earlyWin fhR1.body : Int))) := by decide +kernel

theorem test_FronthaulRows_meets13 :
    wFhOut.chip.fhOutput 2 = some (0, 1, fhOut0) ∧
    wFhOut.chip.vigilAt 16 = true ∧
    (wFhOut.chip.fhRing 2).prod ≠ (wFhOut.chip.fhRing 2).cons ∧
    4 ≤ (wFhOut.chip.fhRing 2).size.toNat ∧
    (wFhOut.chip.fhRing 2).size.toNat ≤ 12 ∧
    (wFhOut.chip.fhRing 2).copying = none ∧
    Chip.fhPayload fhOut0 wFhOut.chip.alm.dayCount.toNat ≠ [] ∧
    numAt (mread wFhOut.chip.hostMem (wFhOut.chip.fhDescAt 2) 12) 8 4 ≠ 0 := by decide +kernel

theorem test_FronthaulRows_meets14 :
    wFhOutNone.chip.fhOutput 2 = some (0, 1, fhOut0) ∧
    wFhOutNone.chip.vigilAt 16 = true ∧
    (wFhOutNone.chip.fhRing 2).prod = (wFhOutNone.chip.fhRing 2).cons := by decide +kernel

/-! ### The hypotheses of CensusRows -/

theorem test_CensusRows_meets1 :
    wCensusRows1.chip.ready = true ∧
    wCensusRows1.chip.cns.pinEn = true ∧
    wCensusRows1.chip.cns.driveUntil ≤ wCensusRows1.chip.now ∧
    wCensusRows1.chip.cns.pending = [] ∧
    wCensusRows1.chip.cns.made = [] ∧
    wCensusRows1.chip.armDue (wCensusRows1.chip.arm 0) = none ∧
    (∀ x ∈ wCensusRows1.chip.cns.pending, wCensusRows1.chip.now < x.at_) ∧
    (wCensusRows1.chip.cnsBank 0).full = true ∧
    (wCensusRows1.chip.cnsBank 0).valid = false ∧
    flag (tget Chip.msixMasked wCensusRows1.chip.hif.msix 2) 96 = true ∧
    Chip.addrAligned aTrg = true ∧
    wCensusRows1.chip.cns.bcastEn = true ∧
    wCensusRows1.chip.cenKnown (BitVec.extractLsb' 0 64 aTrg.payload) (BitVec.extractLsb' 64 16 aTrg.payload) =
      false ∧
    wCensusRows1.chip.alm.running = true ∧
    64 ≤ wCensusRows1.chip.cyclesTo (wCensusRows1.chip.localLts (BitVec.extractLsb' 0 64 aTrg.payload)) ∧
    BitVec.extractLsb' 0 8 aTrg.aux = 0 ∧
    (wCensusRows1.chip.arm 0).state = 0 := by decide +kernel

theorem test_CensusRows_meets2 :
    wCensusRows2.chip.cns.pinEn = false ∧
    Chip.addrAligned aTrg = true ∧
    wCensusRows2.chip.cns.bcastEn = false ∧
    wCensusRows2.chip.now < wCensusRows2.chip.cns.driveUntil := by decide +kernel

theorem test_CensusRows_meets3 :
    wCensusRows3.chip.armDue (wCensusRows3.chip.arm 1) = some 16 ∧
    (wCensusRows3.chip.arm 1).state = 1 ∧
    wCensusRows3.chip.cns.pending = [] ∧
    wCensusRows3.chip.cns.made = [] ∧
    wCensusRows3.chip.cns.drive = false := by decide +kernel

theorem test_CensusRows_meets4 :
    wCensusRows4.chip.cns.pending = [aLat] ∧
    aLat.at_ ≤ wCensusRows4.chip.now ∧
    aLat.answer = none ∧
    (∀ (c : BitVec 2), (wCensusRows4.chip.arm c).state = 0) ∧
    wCensusRows4.chip.nextBank = some 1 := by decide +kernel

theorem test_CensusRows_meets5 :
    wCensusRows6.chip.cns.pending = [aLat] ∧
    aLat.at_ ≤ wCensusRows6.chip.now ∧
    aLat.answer = none ∧
    (∀ (c : BitVec 2), (wCensusRows6.chip.arm c).state = 0) ∧
    wCensusRows6.chip.nextBank = none := by decide +kernel

theorem test_CensusRows_meets6 :
    wCensusRows8.chip.cns.spilling = none ∧
    wCensusRows8.chip.spillNext = some 0 := by decide +kernel

theorem test_CensusRows_meets7 :
    wCensusRows9.chip.cns.spilling = some 0 ∧
    (wCensusRows9.chip.endp eidCensus).queue = [] := by decide +kernel

theorem test_CensusRows_meets8 :
    Chip.addrAligned aTrg = true ∧
    wCensusRows10.chip.cns.bcastEn = true ∧
    wCensusRows10.chip.cenKnown (BitVec.extractLsb' 0 64 aTrg.payload) (BitVec.extractLsb' 64 16 aTrg.payload) =
      true := by decide +kernel

/-! ### The hypotheses of ResetRows -/

theorem test_ResetRows_meets1 :
    wResetRows6.chip.glb.porN = true ∧
    wResetRows6.chip.glb.sysRstN = true ∧
    wResetRows6.chip.glb.phase ≠ Phase.held ∧
    (wResetRows6.chip.glb.holdDdr = true → ∀ kx ∈ wResetRows6.chip.chans, kx.2.inFlight = []) ∧
    wResetRows6.chip.glb.testEn = false ∧
    wResetRows6.chip.glb.phase = Phase.starting ∧
    wResetRows6.chip.glb.readyAt ≤ wResetRows6.chip.now ∧
    wResetRows6.chip.glb.unlocked.getLsbD (BitVec.toNat (1 : BitVec 2)) = false ∧
    (∀ n < 8, (BitVec.extractLsb' (16 * n) 16 codesA).toInt < 460) := by decide +kernel

theorem test_ResetRows_meets2 :
    wResetRows4.chip.glb.porN = false ∧
    wResetRows4.chip.glb.sysRstN = true ∧
    wResetRows4.chip.glb.testEn = false ∧
    wResetRows4.chip.glb.phase = Phase.held := by decide +kernel

theorem test_ResetRows_meets3 :
    wResetRows5.chip.glb.sysRstN = false ∧
    wResetRows5.chip.glb.porN = true ∧
    wResetRows5.chip.glb.testEn = false := by decide +kernel

theorem test_ResetRows_meets4 :
    wResetRows7.chip.glb.phase = Phase.starting ∧
    wResetRows7.chip.now < wResetRows7.chip.glb.readyAt := by decide +kernel

theorem test_ResetRows_4_meets1 :
    wResetRows8.chip.glb.phase ≠ Phase.held ∧
    wResetRows8.chip.glb.softAt = some 999 ∧
    999 ≤ wResetRows8.chip.now ∧
    (wResetRows8.chip.glb.holdDdr = true → ∀ kx ∈ wResetRows8.chip.chans, kx.2.inFlight = []) := by decide +kernel

/-! ### The hypotheses of StepRunsTheFront -/

theorem test_StepRunsTheFront_meets1 :
    wResetRows4.chip.glb.porN = false := by decide +kernel

theorem test_StepRunsTheFront_meets2 :
    wResetRows5.chip.glb.porN = true ∧
    wResetRows5.chip.glb.phase = Phase.held := by decide +kernel

/-! ### Ill-formed rows: WellFormed refuses each (R12, R13, R249, R300, R532, R573, R602) -/

def goodTlp : Tlp :=
  { bar4 := false, write := true, off := 0x100, count := 4, data := [1, 2, 3, 4], firstBe := 0xF, lastBe := 0, id := 0 }

def goodFrame (ps : List (Nat × Packet)) : Frame :=
  { fseq := 0, mark := false, markOfs := 0, markDay := 0, skew := 0, sentA := 0, sentB := 0, retA := 0, retB := 0, width := 0,
    packets := ps }

theorem test_wf_accepts :
    Instr.wf (.rcRead .pcie 0 4) ∧ Instr.wf (.registerWrite .jtag 8 8 0) ∧ Instr.wf (.barTlp goodTlp) ∧
    Instr.wf (.i3cReckoningRead 4096) ∧ Instr.wf (.vc1Inject 0x138) ∧ Instr.wf (.readReq 0x0A9 kk0) ∧
    Instr.wf (.dataFrame 0 (goodFrame [(0, kk0), (12, kk0)]) ⟨[]⟩) ∧
    Instr.wf (.fhFrame 0 (List.replicate 18 0) true) := by decide +kernel

theorem test_wf_size : Instr.wf (.rcRead .pcie 0 0) = false ∧ Instr.wf (.loHalfRead .i3c 0 5) = false ∧
    Instr.wf (.registerWrite .pcie 0 9 0) = false := by decide +kernel

theorem test_wf_reckoning : Instr.wf (.i3cReckoningRead 4097) = false := by decide +kernel

theorem test_wf_tlp :
    Instr.wf (.barTlp { goodTlp with count := 0 }) = false ∧ Instr.wf (.barTlp { goodTlp with count := 6 }) = false ∧
    Instr.wf (.barTlp { goodTlp with off := 0x102 }) = false ∧ Instr.wf (.barTlp { goodTlp with data := [1] }) = false ∧
    Instr.wf (.barTlp { goodTlp with write := false }) = false := by decide +kernel

theorem test_wf_eid :
    Instr.wf (.packetRoute 0x12F .n 0) = false ∧ Instr.wf (.vc1Inject 0x0A9) = false ∧
    Instr.wf (.vc1LevelDown 0x13F) = false ∧ Instr.wf (.rspTimeout 0x1FF 0) = false ∧
    Instr.wf (.dataWr 0x12F kk0 .n) = false ∧ Instr.wf (.dataWrNotify 0x135 kk0 .n) = false ∧
    Instr.wf (.readReq 0x137 kk0) = false ∧ Instr.wf (.readRsp 0x12F kk0) = false ∧ Instr.wf (.cmd 0x12F kk0) = false ∧
    Instr.wf (.cmdRsp 0x1FE kk0) = false ∧ Instr.wf (.censusTrig 0x12E kk0 none) = false ∧
    Instr.wf (.fault 0x136 kk0) = false := by decide +kernel

theorem test_wf_slots :
    Instr.wf (.dataFrame 0 (goodFrame [(13, kk0)]) ⟨[]⟩) = false ∧
    Instr.wf (.dataFrame 0 (goodFrame [(3, kk0), (3, kk0)]) ⟨[]⟩) = false := by decide +kernel

theorem test_wf_fronthaul : Instr.wf (.fhFrame 1 (List.replicate 17 0) true) = false := by decide +kernel

/-! ### The manual's worked examples -/

/-- 09_skive, worked example: table 3. -/
def skv3 : SkvTable := Skv.table ([1, 3, 3, 4, 4, 5, 5, 6, 6, 128] ++ List.replicate 6 0)

/-- 09_skive, worked example: the block. -/
def skvBlock : List Byte := [128, 131, 120, 128, 129, 0] ++ List.replicate 250 128

/-- 09_skive, worked example, Table 5. -/
theorem test_skive_codes :
    skv3.codes = [(1, 0), (3, 4), (3, 5), (4, 12), (4, 13), (5, 28), (5, 29), (6, 60), (6, 61)] := by decide +kernel

/-- 09_skive, worked example: the 38 bytes. -/
theorem test_skive_encode :
    Skv.encode skv3 3 skvBlock = ([0x83, 0x04, 0xEA, 0x86, 0x78, 0x03] ++ List.replicate 32 0, false) := by decide +kernel

/-- 10_kvcache, worked example, Table 10 after the TRUNCATE to 381; HEAD_DIM 64, PLANES 8, SPLIT 2, BUDGET 6, SRAM_FRAMES 6. -/
def kvClassX : List Byte :=
  [13, 0, 8, 2, 3, 0, 4, 7] ++ leBytes 2 0 ++ leBytes 2 32 ++ leBytes 2 0 ++ leBytes 2 6 ++ leBytes 2 6 ++ List.replicate 150 0

def kvDescX : KvDesc :=
  let page (x : Nat × Byte) : Page :=
    { loc := 1, pin := false, auto := x.1 = 0 || 4 ≤ x.1, score := x.2, frame := BitVec.ofNat 20 x.1,
      posPage := x.1, home := BitVec.ofNat 10 x.1, sink := x.1 = 0 }
  { KvDesc.init with
    isOpen := true
    len := 381
    pages := [(0, 10), (1, 40), (2, 12), (3, 55), (4, 3), (5, 90)].map page
    created := 6
    usedFrames := [0, 1, 2, 3, 4, 5]
    usedHomes := [0, 1, 2, 3, 4, 5] }

/-- 10_kvcache, worked example, the third step: entries, side words, OFFSET, STATUS and the REMOVED event. -/
theorem test_kv_append :
    let o := Kv.append kvClassX kvDescX 4
    (o.entA, o.sideA, o.entB, o.sideB) = (0x55A00005, 0x00050005, 0x58000002, 0x00020006) ∧
    o.offset = 61 ∧ o.d.len = 385 ∧ o.d.pages.length = 6 ∧ o.status = 2 ∧ o.events = [(1, 0x40C00002)] := by decide +kernel

/-- 06_stitch, worked example: header bytes 0 to 13 of the READ_REQ. -/
theorem test_stitch_header :
    (headerBytes ⟨0xFFFF, 2, 1, false, 0x0A9, 1, 5, 0x130, 0, 3, 0x012340, 0x0243, 0, 0, false⟩).take 14 =
      [0xFF, 0xFF, 0xA9, 0x24, 0x01, 0x00, 0x30, 0x0B, 0x40, 0x23, 0x01, 0x03, 0x43, 0x02] := by decide +kernel

/-- 13_host, worked example: the completion of SESSION_OPEN. -/
theorem test_completion :
    Chip.completionBytes ⟨0x107, 0x20, 0, 0, 0, 0x3EA0000000C⟩ true =
      [0x07, 0x01, 0, 0, 0x20, 0, 0x80, 0, 0x0C, 0, 0, 0, 0xEA, 0x03, 0, 0] := by decide +kernel

/-- 12_fronthaul, worked example: I 200 and Q −75 at exponent 3 with B = 4. -/
theorem test_fronthaul_codes :
    encodeGroup [1600, -600] 4 = ([228, 90], 0, false) := by decide +kernel

/-- 11_voices, worked example: AUD_RATIO of a day of 624,991 cycles and of a nominal one. -/
theorem test_audio_ratio :
    let x : AudPort := { AudPort.init with div := 325, frac := 0x855555 }
    let c : Chip := { State.reset.chip with now := 999999 }
    c.dayRatio (List.replicate 32 0) x 624991 = 0x017FFE96 ∧ c.dayRatio (List.replicate 32 0) x 625000 = 0x01800000 := by decide +kernel

/-- R129 (03_harness) names SHA-256; the digest of "abc" is the one that standard publishes. -/
theorem test_sha256 :
    sha256 [0x61, 0x62, 0x63] =
      [0xBA, 0x78, 0x16, 0xBF, 0x8F, 0x01, 0xCF, 0xEA, 0x41, 0x41, 0x40, 0xDE, 0x5D, 0xAE, 0x22, 0x23, 0xB0, 0x03, 0x61,
        0xA3, 0x96, 0x17, 0x7A, 0x9C, 0xB4, 0x10, 0xFF, 0x61, 0xF2, 0x00, 0x15, 0xAD] := by decide +kernel

end Sys2Proof.Tests
end

section
/-!
PROOFS. Proofs/AlmanacCtl.lean: the host's writes of ALM_CTL and ALM_TICK_SRC. What each shared operation of them gives, case
by case, and the statements on a START that is refused or ignored, on STOP, and on ALM_TICK_SRC.
-/
namespace Sys2Proof.Machine
open Sys2Proof

/-! ### Rows on a READY chip -/

theorem Chip.ready_of_up {c : Chip} (h : c.glb.phase = .up) : c.ready = true := by simp [Chip.ready, h]

theorem exec_start_up {s : State} (h : s.chip.glb.phase = .up) (mode : BitVec 2) :
    exec (.start mode false) s = .next { s with chip := (s.chip.setStartMode mode).startWritten mode } := by
  simp [execStart, Chip.ready_of_up h]

theorem exec_stop_up {s : State} (h : s.chip.glb.phase = .up) (mode : BitVec 2) :
    exec (.stop mode) s = .next { s with chip := (s.chip.setStartMode mode).stopWritten } := by
  simp [execStop, Chip.ready_of_up h]

theorem exec_tickSrcWrite_up {s : State} (h : s.chip.glb.phase = .up) (v : Word) :
    exec (.tickSrcWrite v) s = .next { s with chip := s.chip.tickSrcWritten v } := by
  simp [execTickSrcWrite, Chip.ready_of_up h]

/-- A row that comes to one update of the almanac keeps everything else. -/
theorem next_onAlm_onlyAlm (s : State) (f : Alm → Alm) :
    ∃ t, (.next { s with chip := s.chip.onAlm f } : Host.Outcome State Fault Refusal) = .next t ∧
      onlyAlm s t ∧ t.chip.alm = f s.chip.alm :=
  ⟨_, rfl, ⟨rfl, rfl⟩, rfl⟩

/-! ### START (R55, R65 to R67) -/

theorem Chip.setStartMode_eq (c : Chip) (mode : BitVec 2) :
    c.setStartMode mode = c.onAlm fun a => { a with startMode := mode } := rfl

theorem Chip.onAlm_onAlm (c : Chip) (f g : Alm → Alm) : (c.onAlm f).onAlm g = c.onAlm fun a => g (f a) := rfl

theorem Chip.startWritten_of_active {c : Chip} (h : c.alm.running = true ∨ c.alm.armed = true) (mode : BitVec 2) :
    c.startWritten mode = c := by
  simp [Chip.startWritten, h]

theorem Chip.startWritten_of_refused {c : Chip} {mode : BitVec 2} (hrun : c.alm.running = false)
    (harm : c.alm.armed = false) (href : c.startRefused mode = true) :
    c.startWritten mode = c.onAlm fun a => { a with cfgErr := true } := by
  simp [Chip.startWritten, hrun, harm, href]

theorem Chip.startRefused_of {c : Chip} {mode : BitVec 2}
    (h : c.hns.loaded = false ∨ mode = 3 ∨ c.glb.ddrFail ≠ 0) : c.startRefused mode = true := by
  simp only [Chip.startRefused, Bool.or_eq_true, Bool.not_eq_true', decide_eq_true_eq]
  tauto

theorem exec_start_of_active {s : State} (hup : s.chip.glb.phase = .up)
    (h : s.chip.alm.running = true ∨ s.chip.alm.armed = true) (mode : BitVec 2) :
    exec (.start mode false) s =
      .next { s with chip := s.chip.onAlm fun a => { a with startMode := mode } } := by
  rw [exec_start_up hup, Chip.startWritten_of_active (c := s.chip.setStartMode mode) h, Chip.setStartMode_eq]

theorem exec_start_of_refused {s : State} {mode : BitVec 2} (hup : s.chip.glb.phase = .up)
    (hrun : s.chip.alm.running = false) (harm : s.chip.alm.armed = false)
    (h : s.chip.hns.loaded = false ∨ mode = 3 ∨ s.chip.glb.ddrFail ≠ 0) :
    exec (.start mode false) s =
      .next { s with chip := s.chip.onAlm fun a => { a with startMode := mode, cfgErr := true } } := by
  have href : (s.chip.setStartMode mode).startRefused mode = true := Chip.startRefused_of h
  rw [exec_start_up hup, Chip.startWritten_of_refused (c := s.chip.setStartMode mode) hrun harm href,
    Chip.setStartMode_eq, Chip.onAlm_onAlm]

/-! ### STOP (R68, R69) -/

/-- STOP on a running almanac touches STOP's own registers alone. -/
theorem Chip.stopWritten_of_running {c : Chip} (h : c.alm.running = true) :
    c.stopWritten = c.onAlm fun a =>
      { a with stopReq := true, stopAtVigil16 := c.stopWritten.alm.stopAtVigil16 } := by
  simp [Chip.stopWritten, h, Chip.onAlm]

section
variable {c : Chip} (hrun : c.alm.running = false) (harm : c.alm.armed = true)
include hrun harm

theorem Chip.stopWritten_alm_of_armed : c.stopWritten.alm = { c.alm with armed := false, day0At := none } := by
  simp [Chip.stopWritten, hrun, harm, Chip.unpost]

theorem Chip.stopWritten_rest_of_armed (a : Alm) :
    { c.stopWritten with alm := a, agenda := c.agenda } = { c with alm := a } := by
  simp [Chip.stopWritten, hrun, harm, Chip.unpost]

theorem Chip.mem_stopWritten_agenda_of_armed (e : Nat × Instr) :
    e ∈ c.stopWritten.agenda ↔ e ∈ c.agenda ∧ e.2 ≠ .day0Start := by
  simp only [Chip.stopWritten, hrun, harm, Chip.unpost, Chip.onAlm_agenda, List.mem_filter, if_true,
    Bool.false_eq_true, if_false]
  refine and_congr_right fun _ => ?_
  split
  next h => simp [h]
  next h => simpa using h

end

/-! ### ALM_TICK_SRC (R83, R84) -/

theorem Chip.badTickSrc_iff (c : Chip) (v : Word) :
    c.badTickSrc v = true ↔
      (v.extractLsb' 0 2 = 1 ∧ (1 < (v.extractLsb' 2 3).toNat ∨ c.glb.profile = 2)) ∨
        (v.extractLsb' 0 2 = 2 ∧ (5 < (v.extractLsb' 2 3).toNat ∨ c.glb.profile = 2)) := by
  unfold Chip.badTickSrc Chip.satchel fldNat
  generalize v.extractLsb' 0 2 = src
  generalize (v.extractLsb' 2 3).toNat = sub
  split
  case h_1 h =>
    have hsrc : src = 1 := BitVec.eq_of_toNat_eq h
    simp [hsrc]
  case h_2 h =>
    have hsrc : src = 2 := BitVec.eq_of_toNat_eq h
    simp [hsrc]
  case h_3 h1 h2 =>
    have hne1 : src ≠ 1 := fun h => h1 (by simp [h])
    have hne2 : src ≠ 2 := fun h => h2 (by simp [h])
    simp only [hne1, hne2, false_and, or_self, Bool.false_eq_true]

theorem Chip.tickSrcWritten_of_bad {c : Chip} {v : Word} (h : c.badTickSrc v = true) :
    c.tickSrcWritten v = c.onAlm fun a => { a with cfgErr := true } := by
  simp [Chip.tickSrcWritten, h]

theorem Chip.tickSrcWritten_of_running {c : Chip} {v : Word} (hok : ¬c.badTickSrc v = true)
    (hrun : c.alm.running = true) :
    c.tickSrcWritten v = c.onAlm fun a => { a with nextSrc := some (v.extractLsb' 0 5) } := by
  simp [Chip.tickSrcWritten, hok, hrun, fld]

theorem Chip.tickSrcWritten_of_stopped {c : Chip} {v : Word} (hok : ¬c.badTickSrc v = true)
    (hrun : c.alm.running = false) :
    c.tickSrcWritten v = c.onAlm fun a =>
      { a with tickSrc := v.extractLsb' 0 2, tickSub := v.extractLsb' 2 3 } := by
  simp [Chip.tickSrcWritten, hok, hrun, fld]

/-! ### The statements -/

/-- Settles O20: a START that is ignored or refused, and STOP on a running almanac, each come down to one update of the
almanac; STOP on an armed one filters the pending day 0 out of the agenda besides. -/
theorem stopAndRefusedStart : Obligations.StopAndRefusedStart := by
  constructor
  · intro s mode a hup
    refine ⟨fun hact => ?_, fun hrun harm href => ?_⟩
    · rw [exec_start_of_active hup hact]
      exact next_onAlm_onlyAlm s _
    · rw [exec_start_of_refused hup hrun harm href]
      exact next_onAlm_onlyAlm s _
  · intro s mode a hup
    rw [exec_stop_up hup]
    refine ⟨fun hrun => ?_, fun hrun harm => ?_⟩
    · have hrun : (s.chip.setStartMode mode).alm.running = true := hrun
      rw [Chip.stopWritten_of_running hrun]
      exact ⟨_, rfl, ⟨rfl, rfl⟩, rfl, rfl, rfl⟩
    · have hrun : (s.chip.setStartMode mode).alm.running = false := hrun
      have harm : (s.chip.setStartMode mode).alm.armed = true := harm
      have hmem := Chip.mem_stopWritten_agenda_of_armed hrun harm
      exact ⟨_, rfl, ⟨rfl, Chip.stopWritten_rest_of_armed hrun harm a⟩, Chip.stopWritten_alm_of_armed hrun harm,
        fun e he => ((hmem e).1 he).2, fun e he hne => (hmem e).2 ⟨he, hne⟩⟩

/-- Settles O21: the model's check of the written word is the statement's, and each of its three outcomes is one update of
the almanac. -/
theorem tickSrcRow : Obligations.TickSrcRow := by
  intro s v a src sub bad hup
  have hbad : s.chip.badTickSrc v = true ↔ bad := s.chip.badTickSrc_iff v
  rw [← hbad, exec_tickSrcWrite_up hup]
  refine ⟨fun hok hrun => ?_, fun hok hrun => ?_, fun hb => ?_⟩
  · rw [Chip.tickSrcWritten_of_stopped hok hrun]
    exact next_onAlm_onlyAlm s _
  · rw [Chip.tickSrcWritten_of_running hok hrun]
    exact next_onAlm_onlyAlm s _
  · rw [Chip.tickSrcWritten_of_bad hb]
    exact next_onAlm_onlyAlm s _

end Sys2Proof.Machine
end

section
/-!
PROOFS. Proofs/CommandResults.lean: commands whose checks pass (R588). What stands while a command is taken and completed,
what the check of its fields and its effect give, and the statement on what seven of them do and answer.
-/
namespace Sys2Proof.Machine
open Sys2Proof

/-! ### Fields of a descriptor (R582) -/

/-- A field read as a number and cut to w bits is those bits of the descriptor. -/
theorem ofNat_dNum (d : Desc) {k n w : Nat} (h : w ≤ 8 * n) :
    BitVec.ofNat w (dNum d k n) = d.extractLsb' (8 * k) w := by
  have hdvd : 2 ^ w ∣ 256 ^ n := by
    rw [show (256 : Nat) = 2 ^ 8 by rfl, ← Nat.pow_mul]
    exact Nat.pow_dvd_pow 2 h
  apply BitVec.eq_of_toNat_eq
  simp only [dNum, BitVec.toNat_ofNat, BitVec.extractLsb'_toNat, Nat.mod_mod_of_dvd _ hdvd, Nat.shiftRight_eq_div_pow,
    Nat.pow_mul]

/-! ### Taking and completing a command (R583 to R588) -/

/-- Taking a command changes the host interface alone. -/
theorem Chip.take_eq (c : Chip) (src : Src) (d : Desc) : c.take src d = { c with hif := (c.take src d).hif } := by
  cases src <;> rfl

section
variable (c : Chip) (src : Src) (d : Desc)

@[simp] theorem Chip.take_glb : (c.take src d).glb = c.glb := by rw [Chip.take_eq]
@[simp] theorem Chip.take_alm : (c.take src d).alm = c.alm := by rw [Chip.take_eq]
@[simp] theorem Chip.take_hns : (c.take src d).hns = c.hns := by rw [Chip.take_eq]
@[simp] theorem Chip.take_now : (c.take src d).now = c.now := by rw [Chip.take_eq]
@[simp] theorem Chip.take_lts : (c.take src d).lts = c.lts := by rw [Chip.take_eq]; rfl
@[simp] theorem Chip.take_unacked : (c.take src d).unacked = c.unacked := by rw [Chip.take_eq]; rfl
@[simp] theorem Chip.take_mayIssue (op : Nat) : (c.take src d).mayIssue src op = c.mayIssue src op := by
  rw [Chip.take_eq]; rfl
@[simp] theorem Chip.take_streamPlan (i : BitVec 12) : (c.take src d).streamPlan i = c.streamPlan i := by
  rw [Chip.take_eq]; rfl
@[simp] theorem Chip.take_sessionOf (i : BitVec 12) : (c.take src d).sessionOf i = c.sessionOf i := by
  rw [Chip.take_eq]; rfl
@[simp] theorem Chip.take_settingsFields : (c.take src d).settingsFields d = c.settingsFields d := by
  rw [Chip.take_eq]; rfl

end

@[simp] theorem Chip.send_now (c : Chip) (e : Eid) (p : Packet) (delay : Nat) : (c.send e p delay).now = c.now := by
  unfold Chip.send
  split <;> rfl

@[simp] theorem Chip.vector_now (c : Chip) (v : Nat) : (c.vector v).now = c.now := by
  unfold Chip.vector
  dsimp only
  split <;> rfl

/-- Time stands while a completion goes to its port, whichever it is. -/
theorem Chip.complete_now (c : Chip) (src : Src) (tag : Word) (opcode status aux : Byte) (result : BitVec 64) :
    (c.complete src tag opcode status aux result).now = c.now := by
  cases src with
  | pcie => simp [Chip.complete, apply_ite Chip.now]
  | i3c => simp [Chip.complete, apply_ite Chip.now, Chip.onI3c]
  | jtag => simp [Chip.complete, apply_ite Chip.now, Chip.onJtag]
  | umaed => simp [Chip.complete, apply_ite Chip.now]

/-! ### A served command (R588) -/

theorem opcode_of_served {s : State} {src : Src} {d : Desc} {op : Nat} (h : served s src d op) :
    (dOpcode d).toNat = op := by
  obtain ⟨-, hop, -⟩ := h
  exact hop

/-- With steps 1 and 2 of R588 passed and the fields in order, the row is the opcode's effect on the chip that has taken
the command. -/
theorem Chip.command_of_served {s : State} {src : Src} {d : Desc} {op : Nat} {fields : Chip → Bool} {f : Chip → Chip}
    (h : served s src d op) (hf : fields (s.chip.take src d) = true) :
    s.chip.command src d op fields f = f (s.chip.take src d) := by
  obtain ⟨hstart, hop, hissue⟩ := h
  simp [Chip.command, Chip.serve, hstart, hop, hissue, hf]

/-- The opcodes whose RESULT is 0 whatever their status (R589 Table 5). -/
theorem Chip.refuse_of_zeroResult {d : Desc} (hop : (dOpcode d).toNat ∈ [0x12, 0x40, 0x7F]) (c : Chip) (src : Src)
    (status : Byte) : c.refuse src d status = c.complete src (dTag d) (dOpcode d) status 0 0 := by
  simp only [List.mem_cons, List.not_mem_nil, or_false] at hop
  rcases hop with hop | hop | hop <;> simp [Chip.refuse, hop]

/-- A failing status changes nothing before its completion but, where RESULT is free, the count of free values drawn. -/
theorem Chip.refuse_eq (c : Chip) (src : Src) (d : Desc) (status : Byte) :
    ∃ (r : BitVec 64) (n : Nat),
      c.refuse src d status = ({ c with free := n } : Chip).complete src (dTag d) (dOpcode d) status 0 r := by
  unfold Chip.refuse
  dsimp only
  split
  · exact ⟨0, c.free, rfl⟩
  · exact ⟨_, _, rfl⟩

/-! ### What each command does -/

theorem Chip.harnessSeal_of_loaded {c : Chip} (h : c.hns.loaded = true) (src : Src) (d : Desc) :
    c.harnessSeal src d = (c.onHns fun h => { h with sealed := true }).done src d 0 0 := by
  simp [Chip.harnessSeal, h]

theorem Chip.harnessSeal_of_not_loaded {c : Chip} (h : c.hns.loaded = false) (src : Src) (d : Desc) :
    c.harnessSeal src d = c.refuse src d 0x04 := by
  simp [Chip.harnessSeal, h]

/-- Acknowledging no more entries than stand leaves that many fewer, also where the 16-bit indices wrap. -/
theorem Chip.unacked_onFlt_head {c : Chip} {n : Nat} (h : n ≤ c.unacked) :
    (c.onFlt fun f => { f with head := f.head + BitVec.ofNat 16 n }).unacked = c.unacked - n := by
  have hlt : c.unacked < 2 ^ 16 := BitVec.isLt _
  have hn : (BitVec.ofNat 16 n).toNat = n := by rw [BitVec.toNat_ofNat]; omega
  have hle : BitVec.ofNat 16 n ≤ c.flt.tail - c.flt.head := by rw [BitVec.le_def, hn]; exact h
  calc (c.flt.tail - (c.flt.head + BitVec.ofNat 16 n)).toNat
      = (c.flt.tail - c.flt.head - BitVec.ofNat 16 n).toNat := by congr 1; bv_omega
    _ = c.unacked - n := by rw [BitVec.toNat_sub_of_le hle, hn]; rfl

theorem Chip.faultAck_of_le {c : Chip} {src : Src} {d : Desc} (hpos : 1 ≤ dNum d 8 1) (hle : dNum d 8 1 ≤ c.unacked) :
    c.faultAck src d =
      (c.onFlt fun f => { f with head := f.head + BitVec.ofNat 16 (dNum d 8 1) }).done src d 0
        (BitVec.ofNat 64 (c.unacked - dNum d 8 1)) := by
  have hgo : ¬(dNum d 8 1 = 0 ∨ c.unacked < dNum d 8 1) := by omega
  simp [Chip.faultAck, hgo, Chip.unacked_onFlt_head hle]

theorem Chip.faultAck_of_bad {c : Chip} {src : Src} {d : Desc} (h : dNum d 8 1 = 0 ∨ c.unacked < dNum d 8 1) :
    c.faultAck src d = c.refuse src d 0x04 := by
  simp [Chip.faultAck, h]

/-- A stream of the plan that belongs to no session may be bound on any day. -/
theorem Chip.streamBind_of_free {c : Chip} {src : Src} {d : Desc} (hn : dNum d 8 2 < 4096)
    (hplan : c.streamPlan (BitVec.ofNat 12 (dNum d 8 2)) ≠ none)
    (hses : c.sessionOf (BitVec.ofNat 12 (dNum d 8 2)) = none) :
    c.streamBind src d =
      (c.onStream (BitVec.ofNat 12 (dNum d 8 2)) fun x =>
        { x with
          base := d.extractLsb' 128 64, size := d.extractLsb' 80 5
          prod := 0, cons := 0, fetchIx := 0, ahead := [], backs := [] }).done src d 0 0 := by
  have hbase : BitVec.ofNat 64 (dNum d 16 8) = d.extractLsb' 128 64 := ofNat_dNum d le_rfl
  have hsize : BitVec.ofNat 5 (dNum d 10 1) = d.extractLsb' 80 5 := ofNat_dNum d (by decide)
  simp [Chip.streamBind, hses, hplan, hn, hbase, hsize]

/-- A settings write as the queue holds it: generation, day in force, and the operands of R590 with MASK cut to the bits
of the setting. -/
def settingOf (gen : BitVec 16) (d : Desc) (day : BitVec 64) : Setting :=
  { gen := gen, day := day, kind := dByte d 8, unit := d.extractLsb' 80 16, index := dNum d 12 4
    value := d.extractLsb' 128 64
    mask := d.extractLsb' 192 64 &&& BitVec.ofNat 64 (Chip.settingSpace (dNum d 8 1)).2.2 }

theorem settingOf_eq (gen : BitVec 16) (d : Desc) (day : BitVec 64) :
    ({ gen := gen, day := day, kind := BitVec.ofNat 8 (dNum d 8 1), unit := BitVec.ofNat 16 (dNum d 10 2)
       index := dNum d 12 4, value := BitVec.ofNat 64 (dNum d 16 8)
       mask := BitVec.ofNat 64 (dNum d 24 8 &&& (Chip.settingSpace (dNum d 8 1)).2.2) } : Setting) =
      settingOf gen d day := by
  simp [settingOf, dByte, ofNat_dNum, BitVec.ofNat_and]

/-- RESULT of SETTINGS_WRITE: the low half of the day above the generation (R589 Table 5). -/
theorem settingsResult_eq (gen : BitVec 16) (day : BitVec 64) :
    BitVec.ofNat 64 (gen.toNat + fldNat day 0 32 * 2 ^ 32) = (day.extractLsb' 0 32).append (gen.setWidth 32) := by
  have hgen : gen.toNat < 2 ^ 16 := gen.isLt
  have hday : (day.extractLsb' 0 32).toNat < 2 ^ 32 := BitVec.isLt _
  have hlow : (gen.setWidth 32).toNat = gen.toNat := by rw [BitVec.toNat_setWidth]; omega
  apply BitVec.eq_of_toNat_eq
  rw [BitVec.append_eq, BitVec.toNat_append, hlow, ← Nat.shiftLeft_add_eq_or_of_lt (by omega), Nat.shiftLeft_eq,
    BitVec.toNat_ofNat, fldNat]
  omega

section
variable {c : Chip} (src : Src) (d : Desc)

theorem Chip.settingsWrite_of_running (h : c.alm.running = true) :
    c.settingsWrite src d =
      (c.onAlm fun a =>
        { a with
          genLast := a.genLast + 1
          settings := a.settings ++ [settingOf (c.alm.genLast + 1) d (a.dayCount + 2)] }).done src d 0
        (((c.alm.dayCount + 2).extractLsb' 0 32).append ((c.alm.genLast + 1).setWidth 32)) := by
  simp only [Chip.settingsWrite, h, Bool.not_true, Bool.false_eq_true, if_false, settingOf_eq, settingsResult_eq]
  rfl

theorem Chip.settingsWrite_of_stopped (h : c.alm.running = false) :
    c.settingsWrite src d =
      ((c.onAlm fun a => { a with genLast := a.genLast + 1 }).applySettings
        [settingOf (c.alm.genLast + 1) d c.alm.dayCount]).done src d 1
        ((c.alm.dayCount.extractLsb' 0 32).append ((c.alm.genLast + 1).setWidth 32)) := by
  simp only [Chip.settingsWrite, h, Bool.not_false, if_true, settingOf_eq, settingsResult_eq]
  rfl

end

/-! ### The seven commands (R588, R589) -/

section
variable {s : State} {src : Src} {d : Desc}

theorem answers_nop_of_served (h : served s src d 0x01) (hd : dClean d [] = true) :
    answers s (.nop src d) src d 0 0 s.chip.lts id := by
  simp [answers, execNop, Chip.command_of_served h, hd, Chip.done]

theorem answers_epochSet_of_served (h : served s src d 0x60) (hd : dClean d [(8, 8)] = true) :
    answers s (.epochSet src d) src d 0 0 s.chip.glb.epoch fun c =>
      c.onGlb fun g => { g with epoch := d.extractLsb' 64 64 } := by
  simp [answers, execEpochSet, Chip.command_of_served h, hd, Chip.epochSet, Chip.done, fld]

theorem exec_harnessSeal_of_served (h : served s src d 0x12) (hd : dClean d [] = true) :
    exec (.harnessSeal src d) s = .next { s with chip := (s.chip.take src d).harnessSeal src d } := by
  simp [execHarnessSeal, Chip.command_of_served h, hd]

theorem exec_faultAck_of_served (h : served s src d 0x50) (hd : dClean d [(8, 1)] = true) :
    exec (.faultAck src d) s = .next { s with chip := (s.chip.take src d).faultAck src d } := by
  simp [execFaultAck, Chip.command_of_served h, hd]

theorem exec_streamRingBind_of_served (h : served s src d 0x40) (hd : dClean d [(8, 2), (10, 1), (16, 8)] = true)
    (hlo : 4 ≤ dNum d 10 1) (hhi : dNum d 10 1 ≤ 12) (hbase : dNum d 16 8 % 64 = 0) :
    exec (.streamRingBind src d) s = .next { s with chip := (s.chip.take src d).streamBind src d } := by
  simp [execStreamRingBind, Chip.command_of_served h, hd, hlo, hhi, hbase]

theorem exec_settingsWrite_of_served (h : served s src d 0x38) (hd : s.chip.settingsFields d = true) :
    exec (.settingsWrite src d) s = .next { s with chip := (s.chip.take src d).settingsWrite src d } := by
  simp [execSettingsWrite, Chip.command_of_served h, hd]

theorem exec_resetSoft_of_served (h : served s src d 0x7F) (hd : dClean d [(8, 4)] = true)
    (hkey : dNum d 8 4 = 0xA55A) :
    exec (.resetSoft src d) s = .next { s with chip := (s.chip.take src d).resetSoft src d } := by
  simp [execResetSoft, Chip.command_of_served h, hd, hkey]

end

/-! ### The statement -/

/-- Settles O33: each command's checks pass, so its row is its effect on the chip that has taken it; taking leaves the
registers that the effect looks at. -/
theorem commandResults : Obligations.CommandResults := by
  intro s src d
  refine ⟨answers_nop_of_served, answers_epochSet_of_served, fun h hd => ⟨fun hload => ?_, fun hload => ?_⟩,
    fun h hd => ⟨fun hpos hle => ?_, fun hbad => ?_⟩, fun h hd hlo hhi hbase hn hplan hses => ?_,
    fun h hd => ⟨fun hrun => ?_, fun hrun => ?_⟩, fun h hd hkey => ?_⟩
  · rw [answers, exec_harnessSeal_of_served h hd, Chip.harnessSeal_of_loaded (by simpa using hload), Chip.done]
  · have hop : (dOpcode d).toNat ∈ [0x12, 0x40, 0x7F] := by simp [opcode_of_served h]
    rw [answers, exec_harnessSeal_of_served h hd, Chip.harnessSeal_of_not_loaded (by simpa using hload),
      Chip.refuse_of_zeroResult hop, id]
  · rw [answers, exec_faultAck_of_served h hd, Chip.faultAck_of_le hpos (by simpa using hle), Chip.done,
      Chip.take_unacked]
  · obtain ⟨r, n, hrefuse⟩ := (s.chip.take src d).refuse_eq src d 0x04
    refine ⟨r, n, ?_⟩
    rw [answers, exec_faultAck_of_served h hd, Chip.faultAck_of_bad (by simpa using hbad), hrefuse]
  · rw [answers, exec_streamRingBind_of_served h hd hlo hhi hbase,
      Chip.streamBind_of_free hn (by simpa using hplan) (by simpa using hses), Chip.done]
  · rw [answers, exec_settingsWrite_of_served h hd, Chip.settingsWrite_of_running _ _ (by simpa using hrun), Chip.done,
      Chip.take_alm]
    rfl
  · rw [answers, exec_settingsWrite_of_served h hd, Chip.settingsWrite_of_stopped _ _ (by simpa using hrun), Chip.done,
      Chip.take_alm]
    rfl
  · rw [exec_resetSoft_of_served h hd hkey, Chip.resetSoft, Chip.done]
    simp only [Chip.complete_now, Chip.take_now]

end Sys2Proof.Machine
end

section
/-!
PROOFS. Proofs/TileLoops.lean: rows that come down to one update of a tile, and the loops of a tile's sequencer. What LOOPI
and LOOPB do where their loop register is active, where iterations run and where none does, and the statement.
-/
namespace Sys2Proof.Machine
open Sys2Proof

/-! ### Rows on one tile -/

/-- A row that comes to one update of tile n touches nothing else. -/
theorem onlyTile_onTile (s : State) (n : TileId) (f : Tile → Tile) :
    onlyTile n s { s with chip := s.chip.onTile n f } :=
  ⟨⟨rfl, rfl⟩, fun _ hne => Chip.onTile_ne s.chip f hne⟩

/-- An update of a tile is only what it makes of the tile that is there. -/
theorem Chip.onTile_congr {c : Chip} {n : TileId} {f g : Tile → Tile} (h : f (c.tile n) = g (c.tile n)) :
    c.onTile n f = c.onTile n g := by
  simp only [Chip.onTile, h]

/-! ### LOOPI and LOOPB (R180 to R182, R184) -/

theorem bodyLen_pos (len : BitVec 6) : 0 < bodyLen len := by
  unfold bodyLen
  split
  next => decide
  next h => exact Nat.pos_of_ne_zero fun h0 => h (BitVec.eq_of_toNat_eq h0)

theorem Chip.loopActive_iff (c : Chip) (n : TileId) (k : BitVec 2) :
    c.loopActive n k = true ↔ ∃ l ∈ (c.tile n).loops, l.k = k := by
  simp [Chip.loopActive]

theorem Chip.loopActive_eq_false {c : Chip} {n : TileId} {k : BitVec 2} (h : ∀ l ∈ (c.tile n).loops, l.k ≠ k) :
    c.loopActive n k = false := by
  simpa [Chip.loopActive] using h

section
variable {c : Chip} {n : TileId} {k : BitVec 2} {len : BitVec 6} {a b : BitVec 4}

theorem Chip.loopFixed_of_active {cnt : BitVec 10} (h : c.loopActive n k = true) :
    c.loopFixed n k cnt len = c.tileFault n 0x200E := by
  simp [Chip.loopFixed, h]

theorem Chip.loopFixed_of_inactive {cnt : BitVec 10} (h : c.loopActive n k = false) :
    c.loopFixed n k cnt len = c.onTile n fun x =>
      { x with loops := ⟨k, x.pc + 1, x.pc + BitVec.ofNat 11 (bodyLen len),
          (if cnt = 0 then 1024 else cnt.toNat) - 1, 0⟩ :: x.loops } := by
  simp [Chip.loopFixed, h]

theorem Chip.loopBounded_of_active (h : c.loopActive n k = true) :
    c.loopBounded n k a b len = c.tileFault n 0x200E := by
  simp [Chip.loopBounded, h]

/-- CLIP and TILE_CLIP_CNT after a LOOPB (R182), as two fields. -/
theorem Tile.clip_eq (x : Tile) (cnt bound : Nat) :
    (if bound < cnt then { x with clip := true, clipCnt := satInc x.clipCnt } else x) =
      { x with
        clip := x.clip || decide (bound < cnt)
        clipCnt := if bound < cnt then satInc x.clipCnt else x.clipCnt } := by
  split
  next h => simp [h]
  next h => simp [h]

/-- A LOOPB that runs iterations pushes its loop register, the rest of the bound as its padding (R181, R182). -/
theorem Chip.loopBounded_of_runs (hk : c.loopActive n k = false) (ha : 0 < ((c.tile n).areg a).toNat)
    (hb : 0 < ((c.tile n).areg b).toNat) :
    c.loopBounded n k a b len = c.onTile n fun x =>
      { x with
        loops := ⟨k, x.pc + 1, x.pc + BitVec.ofNat 11 (bodyLen len), min (x.areg a).toNat (x.areg b).toNat - 1,
          ((x.areg b).toNat - (x.areg a).toNat) * bodyLen len⟩ :: x.loops
        clip := x.clip || decide ((x.areg b).toNat < (x.areg a).toNat)
        clipCnt := if (x.areg b).toNat < (x.areg a).toNat then satInc x.clipCnt else x.clipCnt } := by
  have hruns : 0 < min ((c.tile n).areg a).toNat ((c.tile n).areg b).toNat := Nat.lt_min.2 ⟨ha, hb⟩
  have hpad : ((c.tile n).areg b).toNat - min ((c.tile n).areg a).toNat ((c.tile n).areg b).toNat =
      ((c.tile n).areg b).toNat - ((c.tile n).areg a).toNat := by omega
  simp only [Chip.loopBounded, hk, Bool.false_eq_true, if_false, Chip.onTileNow]
  refine Chip.onTile_congr ?_
  simp only [Tile.clip_eq, hruns, if_true, hpad]

/-- A LOOPB that runs no iteration, in no other loop, skips its body and gates the tile for the whole bound (R181, R205). -/
theorem Chip.loopBounded_of_skips (hl : (c.tile n).loops = [])
    (h0 : min ((c.tile n).areg a).toNat ((c.tile n).areg b).toNat = 0) :
    c.loopBounded n k a b len = c.onTile n fun x =>
      { x with
        nextPc := x.pc + BitVec.ofNat 11 (bodyLen len) + 1
        gated := decide (0 < (x.areg b).toNat)
        hold := if 0 < (x.areg b).toNat then .pad (c.now + (x.areg b).toNat * bodyLen len) else .none
        clip := x.clip || decide ((x.areg b).toNat < (x.areg a).toNat)
        clipCnt := if (x.areg b).toNat < (x.areg a).toNat then satInc x.clipCnt else x.clipCnt } := by
  have hk : c.loopActive n k = false := Chip.loopActive_eq_false (by simp [hl])
  have hgate : 0 < ((c.tile n).areg b).toNat * bodyLen len ↔ 0 < ((c.tile n).areg b).toNat :=
    Nat.mul_pos_iff_of_pos_right (bodyLen_pos len)
  simp only [Chip.loopBounded, hk, Bool.false_eq_true, if_false, Chip.onTileNow]
  refine Chip.onTile_congr ?_
  simp only [Tile.clip_eq, h0, Nat.lt_irrefl, if_false]
  simp only [hl, Tile.after, Nat.sub_zero, Nat.add_zero, hgate]

end

theorem exec_loopbPlannedEnd_of_past {s : State} {n : TileId} {upto : Nat} (h : (s.chip.tile n).hold = .pad upto)
    (hpast : upto < s.chip.now) :
    exec (.loopbPlannedEnd n) s =
      .next { s with chip := s.chip.onTile n fun x => { x with hold := .none, gated := false } } := by
  simp only [exec_loopbPlannedEnd, execLoopbPlannedEnd, State.run_eq, Chip.onTileNow]
  rw [Chip.onTile_congr (g := fun x => { x with hold := .none, gated := false })]
  simp only [h, hpast, if_true]

/-- Settles O3: on an active register both rows are the fault; on an inactive one LOOPI, LOOPB with iterations, LOOPB without,
and the end of the gating are one update of the tile each. -/
theorem loopRows : Obligations.LoopRows := by
  refine ⟨?_, ?_, ?_⟩
  · intro s n k cnt a b len x body last hfree
    have hk : s.chip.loopActive n k = false := Chip.loopActive_eq_false hfree
    refine ⟨?_, fun ha hb => ?_⟩
    · rw [exec_loopi, execLoopi, State.run_eq, Chip.loopFixed_of_inactive hk]
      exact ⟨_, rfl, onlyTile_onTile s n _, Chip.onTile_same _ _ _⟩
    · rw [exec_loopb, execLoopb, State.run_eq, Chip.loopBounded_of_runs hk ha hb]
      refine ⟨_, rfl, onlyTile_onTile s n _, ?_⟩
      rw [Chip.onTile_same]
      exact ⟨rfl, rfl, rfl, rfl⟩
  · intro s n k a b len upto x body
    refine ⟨fun hl ha hb => ?_, fun hl ha hb => ?_, fun hpad hpast => ?_⟩
    · rw [exec_loopb, execLoopb, State.run_eq, Chip.loopBounded_of_skips hl (Nat.min_eq_zero_iff.2 (.inl ha))]
      refine ⟨_, rfl, onlyTile_onTile s n _, ?_⟩
      rw [Chip.onTile_same]
      simp [x, body, bodyLen, ha, hb]
    · rw [exec_loopb, execLoopb, State.run_eq, Chip.loopBounded_of_skips hl (Nat.min_eq_zero_iff.2 (.inr hb))]
      refine ⟨_, rfl, onlyTile_onTile s n _, ?_⟩
      rw [Chip.onTile_same]
      simp [x, body, bodyLen, ha, hb]
    · rw [exec_loopbPlannedEnd_of_past hpad hpast]
      exact ⟨_, rfl, onlyTile_onTile s n _, Chip.onTile_same _ _ _⟩
  · intro s n k cnt a b len hactive i hi
    have hk : s.chip.loopActive n k = true := (s.chip.loopActive_iff n k).2 hactive
    rcases List.mem_pair.1 hi with rfl | rfl
    · rw [exec_loopi, execLoopi, State.run_eq, Chip.loopFixed_of_active hk, Chip.tileFault]
    · rw [exec_loopb, execLoopb, State.run_eq, Chip.loopBounded_of_active hk, Chip.tileFault]

end Sys2Proof.Machine
end

section
/-!
PROOFS. Proofs/TileUnscheduled.lean: the unscheduled writes and reads of a tile (R161, R167, R168). When a bank is free,
what INGRESS_WRITE and UNSCHEDULED_READ_SERVE do with a free and with a taken one, and the statement.
-/
namespace Sys2Proof.Machine
open Sys2Proof

/-! ### Banks on this cycle -/

/-- A bank is not free where a planned access, or an unscheduled one before, has it on this cycle (R161). -/
theorem Tile.bankFree_eq_false_iff (x : Tile) (now b : Nat) :
    x.bankFree now b = false ↔
      (∃ m ∈ x.micro, m.cycle = now ∧ Tile.bankOf m.addr = b) ∨ (x.took.1 = now ∧ b ∈ x.took.2) := by
  have hbusy : x.bankBusy now b = true ↔ ∃ m ∈ x.micro, m.cycle = now ∧ Tile.bankOf m.addr = b := by
    simp [Tile.bankBusy]
  have htaken : b ∈ x.taken now ↔ x.took.1 = now ∧ b ∈ x.took.2 := by
    unfold Tile.taken
    split
    next h => simp [h]
    next h => simp [h]
  rw [← hbusy, ← htaken]
  simp only [Tile.bankFree, List.contains_eq_mem, Bool.and_eq_false_iff, Bool.not_eq_false', decide_eq_true_eq]

theorem Tile.bankFree_of_not_taken {x : Tile} {now b : Nat}
    (h : ¬((∃ m ∈ x.micro, m.cycle = now ∧ Tile.bankOf m.addr = b) ∨ (x.took.1 = now ∧ b ∈ x.took.2))) :
    x.bankFree now b = true := by
  rwa [← Tile.bankFree_eq_false_iff, Bool.not_eq_false] at h

/-! ### INGRESS_WRITE (R167) -/

section
variable {c : Chip} {n : TileId} {g : Ingress} {gs : List Ingress} (hg : (c.tile n).ingress = g :: gs)
include hg

theorem Chip.ingressWriteAt_of_busy (h : (c.tile n).bankFree c.now (Tile.bankOf g.addr) = false) :
    c.ingressWriteAt n = c := by
  simp [Chip.ingressWriteAt, hg, h]

theorem Chip.ingressWriteAt_of_free (h : (c.tile n).bankFree c.now (Tile.bankOf g.addr) = true)
    (hn : g.notify = none) :
    c.ingressWriteAt n = c.onTile n fun x =>
      { x.take c.now (Tile.bankOf g.addr) with
        ingress := gs
        sram := mwrite x.sram g.addr.toNat (lineBytes g.data g.len) } := by
  simp only [Chip.ingressWriteAt, hg, h, hn, Chip.notifyNext, Bool.not_true, Bool.false_eq_true, if_false]

end

/-! ### UNSCHEDULED_READ_SERVE (R168) -/

/-- The tile once read p has its bank on cycle `now` and the reads `rest` wait on. -/
def Tile.serveRead (x : Tile) (now : Nat) (p : Packet) (rest : List Packet) : Tile :=
  { x.take now (Chip.readBank p) with reads := rest }

@[simp] theorem Tile.serveRead_reads (x : Tile) (now : Nat) (p : Packet) (rest : List Packet) :
    (x.serveRead now p rest).reads = rest := rfl

theorem Tile.serveRead_restored (x : Tile) (now : Nat) (p : Packet) (rest : List Packet) :
    { x.serveRead now p rest with reads := x.reads, took := x.took } = x := rfl

theorem Chip.tile_withFab (c : Chip) (fab : Fab) (m : TileId) : ({ c with fab := fab } : Chip).tile m = c.tile m := rfl

/-- A sent packet changes the fabric alone, and an update of a tile changes nothing of what is sent. -/
theorem Chip.send_onTile (c : Chip) (n : TileId) (f : Tile → Tile) (e : Eid) (p : Packet) (delay : Nat) :
    (c.onTile n f).send e p delay = { c.onTile n f with fab := (c.send e p delay).fab } := by
  unfold Chip.send
  split
  · rfl
  · rfl

theorem Chip.readServeAt_of_busy {c : Chip} {n : TileId}
    (h : ∀ p ∈ (c.tile n).reads, (c.tile n).bankFree c.now (Chip.readBank p) = false) : c.readServeAt n = c := by
  have hnone : ((c.tile n).reads.find? fun p => (c.tile n).bankFree c.now (Chip.readBank p)) = none :=
    List.find?_eq_none.2 fun p hp => by simp [h p hp]
  simp only [Chip.readServeAt, hnone]

/-- The first read p whose bank is free is taken out of the waiting ones and answered. -/
theorem Chip.readServeAt_of_free {c : Chip} {n : TileId} {qs ps : List Packet} {p : Packet}
    (hreads : (c.tile n).reads = qs ++ p :: ps)
    (hqs : ∀ q ∈ qs, (c.tile n).bankFree c.now (Chip.readBank q) = false)
    (hp : (c.tile n).bankFree c.now (Chip.readBank p) = true) :
    c.readServeAt n =
      { c.onTile n (fun x => x.serveRead c.now p (qs ++ ps)) with
        fab := (c.send (tileEid n) (response p (pktLen p)
          (lineOf (mread (c.tile n).sram (p.addr.toNat % 2 ^ 19) (pktLen p))) (p.flags &&& 0b00100))).fab } := by
  have hfind : ((c.tile n).reads.find? fun p => (c.tile n).bankFree c.now (Chip.readBank p)) = some p := by
    rw [List.find?_eq_some_iff_append]
    exact ⟨hp, qs, ps, hreads, fun q hq => by simp [hqs q hq]⟩
  have hnew : p ∉ qs := fun hmem => by simp [hqs p hmem] at hp
  have herase : (c.tile n).reads.erase p = qs ++ ps := by
    rw [hreads, List.erase_append_right _ hnew, List.erase_cons_head]
  simp only [Chip.readServeAt, hfind, Chip.send_onTile, BitVec.toNat_setWidth]
  rw [Chip.onTile_congr (g := fun x => x.serveRead c.now p (qs ++ ps))]
  simp only [herase, Tile.serveRead]

/-- Settles O18: whether a bank is taken is what the model's check says, and each row with a free bank is one update of the
tile, the answer of a read beside it. -/
theorem unscheduledAccess : Obligations.UnscheduledAccess := by
  constructor
  · intro s n g gs hg x len taken
    refine ⟨fun hfree hn => ?_, fun htaken => ?_⟩
    · rw [exec_ingressWrite, execIngressWrite, State.run_eq,
        Chip.ingressWriteAt_of_free hg (Tile.bankFree_of_not_taken hfree) hn]
      refine ⟨_, rfl, onlyTile_onTile s n _, ?_⟩
      rw [Chip.onTile_same]
      refine ⟨rfl, rfl, ?_, fun j hj => mget_mwrite_in _ _ _ j hj, fun b hb => mget_mwrite_out _ _ _ b hb⟩
      exact (Tile.bankFree_eq_false_iff _ _ _).2 (Or.inr ⟨rfl, List.mem_cons_self⟩)
    · rw [exec_ingressWrite, execIngressWrite, State.run_eq,
        Chip.ingressWriteAt_of_busy hg ((Tile.bankFree_eq_false_iff _ _ _).2 htaken)]
  · intro s n x bank taken
    constructor
    · intro qs p ps hreads hqs hp data
      rw [exec_unscheduledReadServe, execUnscheduledReadServe, State.run_eq,
        Chip.readServeAt_of_free hreads (fun q hq => (Tile.bankFree_eq_false_iff _ _ _).2 (hqs q hq))
          (Tile.bankFree_of_not_taken hp)]
      have htile := Chip.onTile_same s.chip n fun x => x.serveRead s.chip.now p (qs ++ ps)
      have hothers := (onlyTile_onTile s n fun x => x.serveRead s.chip.now p (qs ++ ps)).2
      refine ⟨_, rfl, ?_, ?_, rfl, ⟨rfl, rfl⟩, ?_⟩
      · rw [Chip.tile_withFab, htile, Tile.serveRead_reads]
      · rw [Chip.tile_withFab, htile, Tile.serveRead_restored]
      · simpa only [Chip.tile_withFab] using hothers
    · intro hall
      rw [exec_unscheduledReadServe, execUnscheduledReadServe, State.run_eq,
        Chip.readServeAt_of_busy fun p hp => (Tile.bankFree_eq_false_iff _ _ _).2 (hall p hp)]

end Sys2Proof.Machine
end

section
/-!
PROOFS. Proofs/KeptParts.lean: what no row and no cycle changes. A row that comes to an outcome is one update of the chip; what
each row leaves of the fixed part (Laws/FixedChip.lean) by way of the operations' own lemmas; and the statements on RUNNING and
ARMED, on the part and its seal, on the front of the queue and on reset.
-/
namespace Sys2Proof.Machine
open Sys2Proof

/-! ### Rows that stop on an EID without a unit (log 1) -/

theorem eq_run_of_guarded {p : Prop} [Decidable p] {s t : State} {f : Chip → Chip} {r : Fault}
    (h : (if p then s.run f else .fault r) = .next t) : t = { s with chip := f s.chip } := by
  split at h
  · exact (Host.Outcome.next.inj h).symm
  · cases h

/-- No row touches the waiting commands (log 4). -/
theorem exec_pending {i : Instr} {s t : State} (h : exec i s = .next t) : t.pending = s.pending := by
  cases i
  case packetRoute | vc1Inject | vc1LevelDown | rspTimeout | dataWr | dataWrNotify | readReq | readRsp | cmd
      | cmdRsp => rw [eq_run_of_guarded h]
  all_goals
    cases h
    rfl

/-! ### Rows and the fixed part -/

/-- A row that may change RUNNING, ARMED or the seal, apart from the resets. -/
def setsFixed : Instr → Bool
  | .registerWrite .. => true
  | .start .. => true
  | .stop .. => true
  | .harnessSeal .. => true
  | .day0Start => true
  | .almanacStopped => true
  | _ => false

theorem Chip.tickArrives_fixed (c : Chip) (src : TickFrom) : (c.tickArrives src).fixed = c.fixed := by
  cases src <;> simp [Chip.tickArrives]

/-- Every row but those of setsFixed and the resets leaves the fixed part, since its operations do. -/
theorem exec_fixed {i : Instr} {s t : State} (hset : setsFixed i = false) (hres : isReset i = false)
    (h : exec i s = .next t) : t.chip.fixed = s.chip.fixed := by
  cases i
  case registerWrite | start | stop | harnessSeal | day0Start | almanacStopped => cases hset
  case porNAssert | sysRstNAssert | resetSoftBegin | testEn => cases hres
  case packetRoute | vc1Inject | vc1LevelDown | rspTimeout | dataWr | dataWrNotify | readReq | readRsp | cmd
      | cmdRsp =>
    rw [eq_run_of_guarded h]
    simp
  case porNRelease =>
    cases h
    exact Chip.porRelease_fixed _ _
  case sysRstNRelease =>
    cases h
    exact Chip.sysRelease_fixed _ _
  case tickIn =>
    cases h
    exact Chip.tickArrives_fixed _ _
  case pcieConfigRequest off write =>
    cases h
    exact Chip.onPort_fixed _ _ fun c => by split <;> simp
  case recvResume | inputBlockDelivery | outputBlockTake =>
    cases h
    dsimp only
    split <;> simp
  all_goals
    cases h
    simp

theorem Chip.Keeps.ite {p : Prop} [Decidable p] {c d e : Chip} (hd : c.Keeps d) (he : c.Keeps e) :
    c.Keeps (if p then d else e) := by
  split
  · exact hd
  · exact he

theorem Chip.setStartMode_keeps (c : Chip) (mode : BitVec 2) : c.Keeps (c.setStartMode mode) := .of_fixed (by simp)

theorem Chip.command_keeps (c : Chip) (src : Src) (d : Desc) (op : Nat) (fields : Chip → Bool) {f : Chip → Chip}
    (hf : ∀ c : Chip, c.Keeps (f c)) : c.Keeps (c.command src d op fields f) := by
  unfold Chip.command Chip.serve
  have htake : c.Keeps (c.take src d) := .of_fixed (by simp)
  have hrefuse (c : Chip) (status : Byte) : c.Keeps (c.refuse src d status) := .of_fixed (by simp)
  have hwait : c.Keeps (c.wait src d) := .of_fixed (by simp)
  exact .ite (.refl c) (.ite (htake.trans (.ite (hrefuse _ _) (.ite (hrefuse _ _) (hf _)))) (.ite (.refl c) hwait))

/-- What the chip keeps through every row but a reset. -/
theorem exec_keeps {i : Instr} {s t : State} (hres : isReset i = false) (h : exec i s = .next t) :
    s.chip.Keeps t.chip := by
  by_cases hset : setsFixed i = false
  · exact .of_fixed (exec_fixed hset hres h)
  cases i
  case registerWrite =>
    cases h
    exact Chip.writeBar0_keeps _ _ _ _
  case start mode stop =>
    cases h
    have hmode := s.chip.setStartMode_keeps mode
    exact .ite (.trans (.ite (hmode.trans (Chip.stopWritten_keeps _)) hmode) (Chip.startWritten_keeps _ _)) (.refl _)
  case stop mode =>
    cases h
    exact .ite ((s.chip.setStartMode_keeps mode).trans (Chip.stopWritten_keeps _)) (.refl _)
  case harnessSeal src d =>
    cases h
    exact Chip.command_keeps _ _ _ _ _ fun c => c.harnessSeal_keeps src d
  case day0Start =>
    cases h
    exact Chip.beginDay0_keeps _
  case almanacStopped =>
    cases h
    exact Chip.stopAlmanac_keeps _
  all_goals exact absurd rfl hset

/-- What the chip keeps through every row. -/
theorem exec_keepsR {i : Instr} {s t : State} (h : exec i s = .next t) : s.chip.KeepsR t.chip := by
  by_cases hres : isReset i = false
  · exact (exec_keeps hres h).weak
  cases i
  case porNAssert =>
    cases h
    exact Chip.porAssert_keeps _
  case sysRstNAssert =>
    cases h
    exact Chip.sysAssert_keeps _
  case resetSoftBegin =>
    cases h
    exact Chip.softBegin_keeps _
  case testEn =>
    cases h
    exact Chip.testPin_keeps _ _
  all_goals exact absurd rfl hres

/-! ### Steps -/

theorem step_cons {s : State} {i : Instr} {is : List Instr} (h : s.pending = i :: is) :
    step s = exec i { s with pending := is } := by
  simp only [step, h]

theorem step_nil {s : State} (h : s.pending = []) : step s = .next ⟨s.chip.clock.1, s.chip.clock.2⟩ := by
  simp only [step, h]

/-- With no row waiting a step is the clock, which leaves the fixed part. -/
theorem step_nil_fixed {s t : State} (hp : s.pending = []) (h : step s = .next t) : t.chip.fixed = s.chip.fixed := by
  rw [step_nil hp] at h
  cases h
  exact Chip.clock_fixed _

theorem step_keepsR {s t : State} (h : step s = .next t) : s.chip.KeepsR t.chip := by
  cases hp : s.pending with
  | nil => exact .of_fixed (step_nil_fixed hp h)
  | cons i is => exact exec_keepsR (s := { s with pending := is }) (step_cons hp ▸ h)

theorem step_keeps {s t : State} (hres : ∀ i, s.pending.head? = some i → isReset i = false) (h : step s = .next t) :
    s.chip.Keeps t.chip := by
  cases hp : s.pending with
  | nil => exact .of_fixed (step_nil_fixed hp h)
  | cons i is => exact exec_keeps (s := { s with pending := is }) (hres i (by simp [hp])) (step_cons hp ▸ h)

theorem oneAlmanacMode_iff (s : State) : oneAlmanacMode s ↔ s.chip.alm.run ≠ (true, true) :=
  not_congr Prod.mk_inj.symm

/-! ### The statements -/

/-- Settles O59: RUNNING and ARMED are part of what every row and the clock keep. -/
theorem almanacModeKept : Obligations.AlmanacModeKept := by
  intro s t hs h
  rw [oneAlmanacMode_iff] at hs ⊢
  exact (step_keepsR h).run hs

/-- Settles O60: the part and the flash are kept through every row, the seal through every row but a reset. -/
theorem partAndSealKept : Obligations.PartAndSealKept := by
  constructor
  · intro s t h
    obtain ⟨hsold, hflash, -⟩ := step_keepsR h
    obtain ⟨hstep, hboot, hlock, hlimit, hkey⟩ := PartId.mk.inj hsold
    exact ⟨hstep, hboot, hlock, hlimit, hkey, hflash⟩
  · intro s t h hsealed hres
    exact (step_keeps hres h).locked hsealed

theorem Chip.clock_of_porN {c : Chip} (h : c.glb.porN = false) : c.clock = ([], c) := by
  simp [Chip.clock, h]

theorem Chip.clock_of_held {c : Chip} (h : c.glb.porN = true) (hheld : c.glb.phase = .held) :
    c.clock = ([], { c with now := c.now + 1, glb := { c.glb with uptime := c.glb.uptime + 1 } }) := by
  simp [Chip.clock, Chip.ready, Chip.onGlb, h, hheld]

/-- Settles O57: the step takes the front of the queue, no row touches the rest, and on an empty queue it is the clock. -/
theorem stepRunsTheFront : Obligations.StepRunsTheFront := by
  intro s i is
  refine ⟨rfl, fun t h => exec_pending h, fun hpor => ?_, fun hpor hheld => ?_⟩
  · rw [step_nil rfl, Chip.clock_of_porN hpor]
  · rw [step_nil rfl, Chip.clock_of_held hpor hheld]

/-- Settles O58: each register and memory of the reset state is the constant that the model gives it. -/
theorem afterReset : Obligations.AfterReset := by
  refine ⟨?_, rfl, rfl, rfl, rfl, rfl, rfl, rfl, rfl, rfl, fun n a => tget_nil 0 a, fun n => rfl⟩
  exact (oneAlmanacMode_iff _).2 (by decide)

end Sys2Proof.Machine
end

section
/-!
PROOFS. Proofs/SkiveRoundTrip.lean: the Skive block code (09_skive). Bits packed into bytes and read back (R391), the reader of a
code that tells its class on the bits of that code (R402), one code and many, the header (R388), and the statement.
-/
namespace Sys2Proof.Machine
open Sys2Proof

namespace Skv

/-! ### Bits and bytes (R391) -/

theorem bitsNat_testBit (bs : List Bool) (i : Nat) : (bitsNat bs).testBit i = bs.getD i false := by
  induction bs generalizing i with
  | nil => simp [bitsNat]
  | cons b bs ih =>
    cases i with
    | zero => cases b <;> simp [bitsNat, b1, Nat.testBit_zero]
    | succ i =>
      have hdiv : (bitsNat (b :: bs)) / 2 = bitsNat bs := by
        cases b
        · simp [bitsNat, b1]
        · simp only [bitsNat, b1, if_true]
          omega
      rw [Nat.testBit_succ, hdiv, ih, List.getD_cons_succ]

/-- The bits of the n low bytes of a number are its 8n low bits. -/
theorem unpack_leBytes (n v : Nat) : unpack (leBytes n v) = (List.range (8 * n)).map v.testBit := by
  induction n generalizing v with
  | zero => rfl
  | succ n ih =>
    have hlow : ((List.range 8).map fun i => (BitVec.ofNat 8 v).getLsbD i) = (List.range 8).map v.testBit := by
      refine List.map_congr_left fun i hi => ?_
      rw [BitVec.getLsbD_ofNat, decide_eq_true (List.mem_range.1 hi), Bool.true_and]
    have hhigh : (List.range (8 * n)).map (v / 256).testBit = (List.range (8 * n)).map (v.testBit ∘ (8 + ·)) := by
      refine List.map_congr_left fun i _ => ?_
      rw [show (256 : Nat) = 2 ^ 8 by rfl, Nat.testBit_div_two_pow, Function.comp_apply, Nat.add_comm]
    rw [show 8 * (n + 1) = 8 + 8 * n by omega, List.range_add, List.map_append, List.map_map, ← hhigh, ← ih, ← hlow]
    rfl

@[simp] theorem leBytes_length (n v : Nat) : (leBytes n v).length = n := by
  induction n generalizing v with
  | zero => rfl
  | succ n ih => simp [leBytes, ih]

theorem pack_length (bs : List Bool) : (pack bs).length = (bs.length + 7) / 8 := leBytes_length _ _

/-- What was packed is read back, with the zeros that fill the last byte. -/
theorem unpack_pack (bs : List Bool) :
    unpack (pack bs) = bs ++ List.replicate (8 * ((bs.length + 7) / 8) - bs.length) false := by
  rw [pack, unpack_leBytes]
  refine List.ext_getElem (by simp; omega) fun i h1 h2 => ?_
  rw [List.getElem_map, List.getElem_range, bitsNat_testBit, List.getElem_append]
  split
  next h => simp [h]
  next h => simp [List.getD, h]

/-! ### Numbers, most significant bit first -/

theorem msbBits_succ (v n : Nat) : msbBits v (n + 1) = v.testBit n :: msbBits v n := by
  simp only [msbBits, List.range_succ_eq_map, List.map_cons, List.map_map]
  congr 1
  refine List.map_congr_left fun i _ => ?_
  simp only [Function.comp_apply]
  congr 1
  omega

@[simp] theorem msbBits_length (v n : Nat) : (msbBits v n).length = n := by simp [msbBits]

theorem div_two_pow_succ (v n : Nat) : 2 * (v / 2 ^ (n + 1)) + b1 (v.testBit n) = v / 2 ^ n := by
  have h1 : v / 2 ^ (n + 1) = v / 2 ^ n / 2 := by rw [Nat.pow_succ, Nat.div_div_eq_div_mul]
  have h2 : b1 (v.testBit n) = v / 2 ^ n % 2 := by
    rw [Nat.testBit_eq_decide_div_mod_eq, b1]
    rcases Nat.mod_two_eq_zero_or_one (v / 2 ^ n) with h | h <;> simp [h]
  omega

/-- The n low bits of a number give it back, after those above them. -/
theorem readBits_msbBits (w n : Nat) (rest : List Bool) :
    readBits n (w / 2 ^ n) (msbBits w n ++ rest) = some (w, rest) := by
  induction n with
  | zero => simp [readBits, msbBits]
  | succ n ih => rw [msbBits_succ, List.cons_append, readBits, div_two_pow_succ, ih]

theorem readBits_msbBits_of_lt {w n : Nat} (h : w < 2 ^ n) (rest : List Bool) :
    readBits n 0 (msbBits w n ++ rest) = some (w, rest) := by
  have := readBits_msbBits w n rest
  rwa [Nat.div_eq_of_lt h] at this

/-! ### The code of a class (R394, R402) -/

/-- No code of the table begins another. -/
def PrefixFree (t : SkvTable) : Prop :=
  ∀ i j, i < 9 → j < 9 → i ≠ j →
    (t.codes.getD i (0, 0)).1 ≤ (t.codes.getD j (0, 0)).1 →
    (t.codes.getD j (0, 0)).2 / 2 ^ ((t.codes.getD j (0, 0)).1 - (t.codes.getD i (0, 0)).1) ≠ (t.codes.getD i (0, 0)).2

section
variable {t : SkvTable} (h9 : t.codes.length = 9) (hfree : PrefixFree t) {k n code : Nat} (hk : k < 9)
  (hcode : t.codes.getD k (0, 0) = (n, code))
include hcode hk

/-- The bits read are a code of the table only when they are all of this one's. -/
theorem eq_of_codes_eq (hfree : PrefixFree t) {i r j : Nat} (hir : i + r = n) (hj : j < 9)
    (h : t.codes.getD j (0, 0) = (i, code / 2 ^ r)) : j = k := by
  by_contra hne
  refine hfree j k hj hk hne ?_ ?_
  · rw [h, hcode]
    show i ≤ n
    omega
  · rw [h, hcode]
    simp only [show n - i = r by omega]

include h9

theorem mem_codes : (n, code) ∈ t.codes := by
  rw [← hcode, List.getD_eq_getElem _ _ (by omega)]
  exact List.getElem_mem _

theorem begins_of_code {i r : Nat} (hir : i + r = n) : begins t i (code / 2 ^ r) = true := by
  refine List.any_eq_true.2 ⟨(n, code), mem_codes h9 hk hcode, ?_⟩
  simp [show n - i = r by omega]
  omega

include hfree

theorem findIdx?_code : (t.codes.findIdx? fun c => c = (n, code)) = some k := by
  rw [List.findIdx?_eq_some_iff_getElem]
  have hget (j : Nat) (hj : j < t.codes.length) : t.codes[j] = t.codes.getD j (0, 0) :=
    (List.getD_eq_getElem _ _ hj).symm
  refine ⟨by omega, by rw [hget k (by omega), hcode, decide_eq_true rfl], fun j hj => ?_⟩
  rw [hget j (by omega), Bool.not_eq_true, decide_eq_false_iff_not]
  intro heq
  have hjk : j = k := eq_of_codes_eq hk hcode hfree (r := 0) rfl (by omega) (by rw [heq, Nat.pow_zero, Nat.div_one])
  omega

theorem findIdx?_part {i r : Nat} (hir : i + r = n) (hr : 0 < r) :
    (t.codes.findIdx? fun c => c = (i, code / 2 ^ r)) = none := by
  rw [List.findIdx?_eq_none_iff]
  intro c hc
  obtain ⟨j, hj, rfl⟩ := List.getElem_of_mem hc
  rw [← List.getD_eq_getElem _ (0, 0) hj]
  simp only [decide_eq_false_iff_not]
  intro heq
  obtain rfl := eq_of_codes_eq hk hcode hfree hir (by omega) heq
  have : n = i := congrArg Prod.fst (hcode.symm.trans heq)
  omega

/-- The bits of a code, from any place of it on, are read to their end. -/
theorem readPrefix_msbBits {i r : Nat} (hir : i + (r + 1) = n) (rest : List Bool) :
    readPrefix t i (code / 2 ^ (r + 1)) (msbBits code (r + 1) ++ rest) = .ok (k, rest) := by
  induction r generalizing i with
  | zero =>
    have hb := begins_of_code h9 hk hcode (i := i + 1) (r := 0) (by omega)
    obtain rfl : i + 1 = n := by omega
    rw [Nat.pow_zero, Nat.div_one] at hb
    rw [msbBits_succ, List.cons_append, readPrefix]
    simp only [div_two_pow_succ, Nat.pow_zero, Nat.div_one, hb, if_true, findIdx?_code h9 hfree hk hcode]
    rfl
  | succ r ih =>
    have hb := begins_of_code h9 hk hcode (i := i + 1) (r := r + 1) (by omega)
    have hnone := findIdx?_part h9 hfree hk hcode (i := i + 1) (r := r + 1) (by omega) (by omega)
    rw [msbBits_succ, List.cons_append, readPrefix]
    simp only [div_two_pow_succ, hb, if_true, hnone]
    exact ih (by omega)

end

/-! ### A code (R389, R390, R402) -/

/-- The distance of a code from the zero point. -/
def distance (z q : Nat) : Nat := if q < z then z - q else q - z

/-- The class of a code other than the zero point is one more than the binary order of its distance. -/
theorem classOf_bounds {z q : Nat} (hz : z < 256) (hq : q < 256) (hne : q ≠ z) :
    classOf z q ≠ 0 ∧ classOf z q < 9 ∧ 2 ^ (classOf z q - 1) ≤ distance z q ∧
      distance z q - 2 ^ (classOf z q - 1) < 2 ^ (classOf z q - 1) := by
  have hclass : classOf z q = 1 + Nat.log2 (distance z q) := by simp [classOf, distance, hne]
  have hpos : distance z q ≠ 0 := by
    unfold distance
    split <;> omega
  have hlt : distance z q < 2 ^ 8 := by
    unfold distance
    split <;> omega
  have hself : 2 ^ Nat.log2 (distance z q) ≤ distance z q := Nat.log2_self_le hpos
  have hnext : distance z q < 2 ^ (Nat.log2 (distance z q) + 1) := Nat.lt_log2_self
  have hlog : Nat.log2 (distance z q) < 8 := (Nat.log2_lt hpos).2 hlt
  rw [hclass, Nat.add_sub_cancel_left]
  rw [Nat.pow_succ] at hnext
  omega

/-- A code is the zero point less or plus its distance. -/
theorem signed_distance (z q : Nat) :
    (if 2 * 0 + b1 (decide (q < z)) = 1 then (z : Int) - distance z q else z + distance z q) = q := by
  by_cases h : q < z
  · simp only [distance, h, decide_true, b1, if_true]
    omega
  · simp only [distance, h, decide_false, b1, Bool.false_eq_true, if_false]
    omega

theorem classOf_zero (z : Nat) : classOf z z = 0 := by simp [classOf]

theorem codeBits_zero (t : SkvTable) : codeBits t t.zero =
    msbBits (t.codes.getD 0 (0, 0)).2 (t.codes.getD 0 (0, 0)).1 := by
  simp [codeBits, classOf_zero]

theorem codeBits_ne (t : SkvTable) {q : Nat} (h : classOf t.zero q ≠ 0) :
    codeBits t q =
      msbBits (t.codes.getD (classOf t.zero q) (0, 0)).2 (t.codes.getD (classOf t.zero q) (0, 0)).1 ++
        decide (q < t.zero) ::
          msbBits (distance t.zero q - 2 ^ (classOf t.zero q - 1)) (classOf t.zero q - 1) := by
  simp [codeBits, h, distance]

section
variable {t : SkvTable} (h9 : t.codes.length = 9) (hz : t.zero < 256)
  (hlen : ∀ c ∈ t.codes, 1 ≤ c.1 ∧ c.1 ≤ 6 ∧ c.2 < 2 ^ c.1) (hfree : PrefixFree t)
include h9 hlen hfree

/-- The code of class k is read back as k. -/
theorem readPrefix_class {k : Nat} (hk : k < 9) (rest : List Bool) :
    readPrefix t 0 0 (msbBits (t.codes.getD k (0, 0)).2 (t.codes.getD k (0, 0)).1 ++ rest) = .ok (k, rest) := by
  obtain ⟨⟨n, code⟩, hcode⟩ : ∃ c, t.codes.getD k (0, 0) = c := ⟨_, rfl⟩
  rw [hcode]
  obtain ⟨hn, -, hlt⟩ := hlen _ (mem_codes h9 hk hcode)
  obtain ⟨r, rfl⟩ : ∃ r, n = r + 1 := ⟨n - 1, by omega⟩
  have := readPrefix_msbBits h9 hfree hk hcode (i := 0) (r := r) (by omega) rest
  rwa [Nat.div_eq_of_lt hlt] at this

include hz

theorem readCode_codeBits {q : Nat} (hq : q < 256) (rest : List Bool) :
    readCode t (codeBits t q ++ rest) = .ok (BitVec.ofNat 8 q, rest) := by
  by_cases hne : q = t.zero
  · subst hne
    rw [codeBits_zero, readCode, readPrefix_class h9 hlen hfree (by decide)]
    rfl
  obtain ⟨h0, hk, hge, hlt⟩ := classOf_bounds hz hq hne
  have hlow := readBits_msbBits_of_lt hlt rest
  rw [codeBits_ne t h0, readCode, List.append_assoc, readPrefix_class h9 hlen hfree hk]
  simp only [h0, if_false, List.cons_append, readBits, hlow, Nat.add_sub_cancel' hge, signed_distance]
  rw [if_neg (by omega), BitVec.ofInt_natCast]

theorem readCodes_codeBits (qs : List Byte) (rest : List Bool) :
    readCodes t qs.length ((qs.flatMap fun q => codeBits t q.toNat) ++ rest) = .ok (qs, rest) := by
  induction qs with
  | nil => rfl
  | cons q qs ih =>
    rw [List.flatMap_cons, List.append_assoc, List.length_cons, readCodes,
      readCode_codeBits h9 hz hlen hfree q.isLt]
    simp only [ih, BitVec.ofNat_toNat, BitVec.setWidth_eq]

omit hfree in
theorem codeBits_pos {q : Nat} (hq : q < 256) : 0 < (codeBits t q).length := by
  have hk : classOf t.zero q < 9 := by
    by_cases hne : q = t.zero
    · simp [hne, classOf_zero]
    · obtain ⟨-, hk, -⟩ := classOf_bounds hz hq hne
      exact hk
  obtain ⟨hn, -⟩ := hlen _ (mem_codes h9 hk rfl)
  unfold codeBits
  dsimp only
  rw [List.length_append, msbBits_length]
  exact Nat.add_pos_left hn _

end

/-! ### The block (R388, R391, R392, R401) -/

theorem numAt_leBytes {n v : Nat} (h : v < 256 ^ n) (rest : List Byte) : numAt (leBytes n v ++ rest) 0 n = v := by
  have htake : bytesAt (leBytes n v ++ rest) 0 n = leBytes n v := by simp [bytesAt]
  rw [numAt, htake]
  clear htake
  induction n generalizing v with
  | zero => exact (Nat.lt_one_iff.1 h).symm
  | succ n ih =>
    have hdiv : v / 256 < 256 ^ n := Nat.div_lt_of_lt_mul (by rwa [Nat.pow_succ, Nat.mul_comm] at h)
    simp only [leBytes, leNat, ih hdiv, BitVec.toNat_ofNat]
    omega

/-- The fields of a header are read back. -/
theorem header_fields {len tid : Nat} (hlen : len ≤ 256) (htid : tid < 16) (raw : Bool) (payload : List Byte) :
    hdrLen (numAt (header len raw tid ++ payload) 0 2) = len ∧ hdrRaw (numAt (header len raw tid ++ payload) 0 2) = raw := by
  have hnum : numAt (header len raw tid ++ payload) 0 2 = len * 32 + b1 raw * 16 + tid := by
    refine numAt_leBytes ?_ payload
    cases raw <;> simp only [b1, if_true, Bool.false_eq_true, if_false] <;> omega
  rw [hnum, hdrLen, hdrRaw]
  cases raw
  · simp only [b1, Bool.false_eq_true, if_false, decide_eq_false_iff_not]
    omega
  · simp only [b1, if_true, decide_eq_true_eq]
    omega

theorem header_length (len : Nat) (raw : Bool) (tid : Nat) : (header len raw tid).length = 2 := leBytes_length _ _

/-- A raw block is its payload. -/
theorem decode_raw (t : Option SkvTable) {tid : Nat} (htid : tid < 16) {codes : List Byte} (h : codes.length = 256) :
    decode t (header 256 true tid ++ codes) = .ok codes := by
  obtain ⟨hl, hr⟩ := header_fields (Nat.le_refl 256) htid true codes
  have hdrop : ((header 256 true tid ++ codes).drop 2).take 256 = codes := by
    rw [List.drop_left' (header_length _ _ _), List.take_of_length_le h.le]
  simp only [decode, headerCause, hl, hr, if_true, hdrop]

/-- A coded block is what its payload's bits give. -/
theorem decode_coded (t : SkvTable) {tid : Nat} (htid : tid < 16) {payload : List Byte} (hlo : 32 ≤ payload.length)
    (hhi : payload.length ≤ 256) {qs : List Byte} {n : Nat}
    (hread : readCodes t 256 (unpack payload) = .ok (qs, List.replicate n false)) (hn : n ≤ 7) :
    decode (some t) (header payload.length false tid ++ payload) = .ok qs := by
  obtain ⟨hl, hr⟩ := header_fields hhi htid false payload
  have hdrop : ((header payload.length false tid ++ payload).drop 2).take payload.length = payload := by
    rw [List.drop_left' (header_length _ _ _), List.take_length]
  have hfits : ¬(payload.length < 32 ∨ 256 < payload.length) := by omega
  have hpad : ¬(7 < (List.replicate n false).length ∨ (List.replicate n false).any id = true) := by
    simp
    omega
  simp only [decode, headerCause, hl, hr, hfits, Bool.false_eq_true, if_false, Option.isSome_some, if_true, hdrop, hread,
    hpad]

end Skv

/-- Settles O49: the payload's bits are the codes' bits and less than a byte of zeros, a reader of codes none of which begins
another gives back one code after another, and a block whose codes do not fit is raw. -/
theorem skiveRoundTrip : Obligations.SkiveRoundTrip := by
  intro t tid codes h9 hz htid h256 hlen hfree
  have hbits : 256 ≤ (codes.flatMap fun q => Skv.codeBits t q.toNat).length := by
    rw [List.length_flatMap, ← h256, ← List.length_map (f := fun q => (Skv.codeBits t q.toNat).length) (as := codes)]
    refine List.length_le_sum_of_one_le _ fun i hi => ?_
    obtain ⟨q, -, rfl⟩ := List.mem_map.1 hi
    exact Skv.codeBits_pos h9 hz hlen q.isLt
  have hread := Skv.readCodes_codeBits h9 hz hlen hfree codes
  rw [h256] at hread
  generalize hb : (codes.flatMap fun q => Skv.codeBits t q.toNat) = bits at hread hbits
  have hsize := Skv.pack_length bits
  simp only [Skv.encode, hb]
  split
  next hfits =>
    refine Skv.decode_coded t htid (by omega) hfits (n := 8 * ((bits.length + 7) / 8) - bits.length) ?_ (by omega)
    rw [Skv.unpack_pack]
    exact hread _
  next => exact Skv.decode_raw _ htid h256

end Sys2Proof.Machine
end

section
/-!
PROOFS. Proofs/TileControl.lean: the CTL slot of a tile beside its loops, and the FAB slot (04_tile). What the rows do that come
to one result of an address register, to one update of the tile, or to a fault, and the statements.
-/
namespace Sys2Proof.Machine
open Sys2Proof

/-! ### Rows on one tile -/

theorem row_of_onTile {s : State} {n : TileId} {i : Instr} {f : Tile → Tile} {y : Tile}
    (h : exec i s = .next { s with chip := s.chip.onTile n f }) (hy : f (s.chip.tile n) = y) :
    ∃ t, exec i s = .next t ∧ onlyTile n s t ∧ t.chip.tile n = y :=
  ⟨_, h, onlyTile_onTile s n f, (Chip.onTile_same _ _ _).trans hy⟩

/-- The field of a number's low bits. -/
theorem fldNat_zero {n : Nat} (w : BitVec n) (len : Nat) : fldNat w 0 len = w.toNat % 2 ^ len := by
  simp [fldNat, BitVec.extractLsb'_toNat]

/-! ### Results of address registers (R187 Table 3) -/

theorem givesAddr_of_later {s : State} {n : TileId} {i : Instr} {rank : Nat} {d : BitVec 4} {f : Tile → BitVec 19}
    {v : BitVec 19}
    (h : exec i s = .next { s with chip := s.chip.onTile n fun x => x.later s.chip.now 1 rank (.addr d (f x)) })
    (hv : f (s.chip.tile n) = v) : givesAddr s n i d v := by
  subst hv
  refine ⟨_, h, onlyTile_onTile s n _, ⟨_, Chip.onTile_same _ _ _⟩, fun hq => ?_⟩
  simp only [Chip.onTile_same, Tile.later]
  exact ⟨Tile.areg_land_before _ _ _ _ hq (Nat.lt_succ_self _), Tile.areg_land_after _ _ _ _ _ _ _ _ hq (Nat.le_refl _)⟩

theorem shl5_ofNat (imm : BitVec 14) : imm.setWidth 19 <<< 5 = BitVec.ofNat 19 (32 * imm.toNat) := by
  apply BitVec.eq_of_toNat_eq
  simp [Nat.shiftLeft_eq, Nat.mul_comm]

theorem add_shl5_ofInt (x : BitVec 19) (imm : BitVec 14) :
    x + (imm.signExtend 19 <<< 5) = BitVec.ofInt 19 (x.toNat + 32 * imm.toInt) := by
  rw [BitVec.ofInt_add, BitVec.ofInt_mul, BitVec.ofInt_natCast, BitVec.ofNat_toNat, BitVec.setWidth_eq,
    BitVec.shiftLeft_eq_mul_twoPow, BitVec.mul_comm]
  rfl

/-- Settles O1: each of the four rows leaves one result on its way, whose value is the statement's. -/
theorem addressRows : Obligations.AddressRows := by
  intro s n d a b imm k
  refine ⟨givesAddr_of_later rfl (shl5_ofNat imm), givesAddr_of_later rfl (add_shl5_ofInt _ imm),
    givesAddr_of_later rfl ?_, givesAddr_of_later rfl (BitVec.ofNat_toNat _ _).symm, ?_⟩
  · rw [BitVec.ofNat_add, BitVec.ofNat_toNat, BitVec.ofNat_toNat, BitVec.setWidth_eq, BitVec.setWidth_eq]
  · intro i hi
    simp only [List.mem_cons, List.not_mem_nil, or_false] at hi
    rcases hi with rfl | rfl | rfl | rfl | rfl <;> rfl

/-! ### Illegal forms (R187) -/

theorem Chip.illegalOp_eq (c : Chip) (n : TileId) :
    c.illegalOp n =
      (c.onTile n fun x => { x with illegal := true }).logFault 0x200C (tileEid n) n.toNat (c.tile n).pc.toNat := by
  rw [Chip.illegalOp, Chip.tileFault, Chip.onTile_same]

theorem Tile.cmp40_of_illegal {mode : BitVec 2} (h : mode.toNat = 3) (u v : Int) : Tile.cmp40 mode u v = 0 := by
  simp [Tile.cmp40, h]

theorem Tile.clamp40_of_illegal {n : Nat} (h : n = 0 ∨ 40 < n) (x : Tile) (a : BitVec 4) (j : Nat) :
    Tile.clamp40 n (x.laneInt a j) = x.lane a j := by
  rw [Tile.clamp40, if_neg (by omega), Tile.laneInt, BitVec.ofInt_toInt]

/-- Settles O15: the illegal rows are the shared operation, after the value that their form gives. -/
theorem illegalForms : Obligations.IllegalForms := by
  intro s n slot d a b imm illegal
  have hill (f : Tile → Tile) (hpc : (f (s.chip.tile n)).pc = (s.chip.tile n).pc) :
      (s.chip.onTile n f).illegalOp n = illegal (s.chip.onTile n f) := by
    rw [Chip.illegalOp_eq, Chip.onTile_same, hpc]
  refine ⟨?_, fun h3 => ?_, fun hn => ?_⟩
  · exact congrArg (fun c => Host.Outcome.next { s with chip := c }) (s.chip.illegalOp_eq n)
  · have hmode : fldNat imm 0 2 = 3 := by rwa [fldNat_zero]
    have hzero (u v : Int) : Tile.cmp40 (fld imm 0 2) u v = 0 := Tile.cmp40_of_illegal hmode u v
    rw [exec_vcmp, execVcmp, State.run_eq]
    simp only [hmode, if_true, Chip.onTileNow, hzero]
    rw [hill _ rfl]
  · have hbits : fldNat imm 0 6 = 0 ∨ 40 < fldNat imm 0 6 := by rwa [fldNat_zero]
    rw [exec_vclamp, execVclamp, State.run_eq]
    simp only [if_pos hbits, Chip.onTileNow, Tile.clamp40_of_illegal hbits]
    rw [hill _ rfl]

/-! ### IDLE, HALT and WAIT (R175 to R179, R185, R188) -/

/-- Settles O4: each row is one update of the tile. -/
theorem gatingRows : Obligations.GatingRows := by
  intro s n cnt upto
  dsimp only
  refine ⟨row_of_onTile rfl ?_, fun hidle hpast => row_of_onTile rfl ?_, ?_, ?_⟩
  · have hzero : cnt = 0 ↔ cnt.toNat = 0 := BitVec.toNat_inj.symm
    simp only [hzero]
  · simp only [hidle, hpast, if_true]
  · obtain ⟨t, h, honly, ht⟩ := row_of_onTile (s := s) (n := n) (i := .halt n) rfl rfl
    refine ⟨t, h, honly, ?_⟩
    rw [ht]
    exact ⟨rfl, rfl, rfl, rfl, rfl, rfl⟩
  · obtain ⟨t, h, honly, ht⟩ := row_of_onTile (s := s) (n := n) (i := .haltv n) rfl rfl
    obtain ⟨u, hu, -, hut⟩ := row_of_onTile (s := s) (n := n) (i := .halt n) rfl rfl
    exact ⟨t, u, h, hu, honly, by rw [ht, hut]⟩

/-- Settles O5: with the buckle's count there WAIT resumes 6 cycles on, without it it waits; in a section that is not loose it is
the tile's fault; and a resumption that is due frees the tile. -/
theorem waitRows : Obligations.WaitRows := by
  intro s n b a
  dsimp only
  refine ⟨fun hloose => ?_, fun hloose => ?_, fun thr r hwait hdue => row_of_onTile rfl ?_⟩
  · have hrow : exec (.wait n b a) s = .next { s with chip := s.chip.onTile n fun x =>
        let thr := (s.chip.tile n).areg a
        let resume := if thr.toNat ≤ (s.chip.buckle b).count.toNat then some (s.chip.now + 6) else none
        { x with hold := .wait b thr resume } } := by
      rw [exec_wait, execWait, State.run_eq]
      simp only [hloose, if_true]
    obtain ⟨t, h, honly, ht⟩ := row_of_onTile hrow rfl
    refine ⟨t, h, honly, fun hle => ?_, fun hlt => ?_⟩
    · rw [ht]
      simp only [hle, if_true]
    · rw [ht]
      simp only [Nat.not_le.2 hlt, if_false]
  · rw [exec_wait, execWait, State.run_eq]
    simp only [hloose, Bool.false_eq_true, if_false, Chip.looseViolation, Chip.tileFault]
  · simp only [hwait, hdue, if_true]

/-! ### SEND and RECV (R171, R174, R179, R191) -/

theorem Chip.sendFrom_of_vc0 {c : Chip} {n : TileId} {k : BitVec 3} (h : (headerOf (tget 0 (c.tile n).tmpl k.toNat)).vc = 0)
    (a : BitVec 4) (p : Bool) :
    c.sendFrom n k a p = c.onTile n fun x =>
      { x with
        micro := x.micro ++
          [⟨c.now, x.areg a, Tile.prioSend, c.now, .sendPayload (headerOf (tget 0 (c.tile n).tmpl k.toNat)), x.secNo⟩]
        pend := x.pend ++ if p then
            [⟨c.now + 1, c.now, Tile.rankFabA, .addr a (x.areg a + 32), x.secNo⟩,
             ⟨c.now + 1, c.now, Tile.rankFabT,
               .templateAddr k ((headerOf (tget 0 (c.tile n).tmpl k.toNat)).addr + 32), x.secNo⟩] else [] } := by
  simp only [Chip.sendFrom, h, ne_eq, not_true_eq_false, if_false, Chip.onTileNow]
  cases p <;> simp [Tile.plan, Tile.later]

theorem Chip.sendFrom_of_other {c : Chip} {n : TileId} {k : BitVec 3}
    (h : (headerOf (tget 0 (c.tile n).tmpl k.toNat)).vc ≠ 0) (a : BitVec 4) (p : Bool) :
    c.sendFrom n k a p = c.tileFault n 0x200C := by
  simp only [Chip.sendFrom, h, ne_eq, not_false_eq_true, if_true]

/-- Settles O16: a VC0 template's SEND is one update of the tile, another's the tile's fault. -/
theorem sendRow : Obligations.SendRow := by
  intro s n k a p x now h
  refine ⟨fun hvc => ?_, fun hvc => ?_⟩
  · rw [exec_send, execSend, State.run_eq, Chip.sendFrom_of_vc0 hvc]
    exact ⟨_, rfl, onlyTile_onTile s n _, Chip.onTile_same _ _ _⟩
  · rw [exec_send, execSend, State.run_eq, Chip.sendFrom_of_other hvc, Chip.tileFault]

/-- The oldest payload of the queue is taken for the line at ad (R171, R174). -/
theorem Chip.takeRecv_of_cons {c : Chip} {n : TileId} {l : Line} {ls : List Line} (h : (c.tile n).rxq = l :: ls)
    (ad : BitVec 19) (a : BitVec 4) (p : Bool) :
    c.takeRecv n ad a p = c.onTile n fun x =>
      { x with
        rxq := ls
        recvWait := none
        micro := x.micro ++ [⟨c.now + 2, ad, Tile.prioRecv, c.now + 2, .store l, x.secNo⟩]
        pend := x.pend ++ if p then [⟨c.now + 1, c.now, Tile.rankFabA, .addr a (ad + 32), x.secNo⟩] else [] } := by
  rw [Chip.takeRecv, Chip.onTileNow]
  refine Chip.onTile_congr ?_
  cases p <;> simp [h, Tile.plan, Tile.later]

theorem exec_recv_of_cons {s : State} {n : TileId} {l : Line} {ls : List Line} (hloose : (s.chip.tile n).loose = true)
    (hq : (s.chip.tile n).rxq = l :: ls) (a : BitVec 4) (p : Bool) :
    exec (.recv n a p) s = .next { s with chip := s.chip.takeRecv n ((s.chip.tile n).areg a) a p } := by
  simp [execRecv, hloose, hq]

theorem exec_recv_of_empty {s : State} {n : TileId} (hloose : (s.chip.tile n).loose = true)
    (hq : (s.chip.tile n).rxq = []) (a : BitVec 4) (p : Bool) :
    exec (.recv n a p) s =
      .next { s with chip := s.chip.onTile n fun x => { x with recvWait := some (x.areg a, a, p) } } := by
  simp [execRecv, hloose, hq]

theorem exec_recv_of_tight {s : State} {n : TileId} (hloose : (s.chip.tile n).loose = false) (a : BitVec 4) (p : Bool) :
    exec (.recv n a p) s = .next { s with chip := s.chip.looseViolation n } := by
  simp [execRecv, hloose]

theorem exec_recvResume_of_waiting {s : State} {n : TileId} {ad : BitVec 19} {a : BitVec 4} {p : Bool}
    (hwait : (s.chip.tile n).recvWait = some (ad, a, p)) :
    exec (.recvResume n) s = .next { s with chip := s.chip.takeRecv n ad a p } := by
  simp [execRecvResume, hwait]

/-- Settles O17: RECV is the taking, the stall or the tile's fault, and RECV_RESUME the taking from the stalled address. -/
theorem recvRows : Obligations.RecvRows := by
  intro s n a p l ls ad x now took
  refine ⟨fun hloose hq => ?_, fun hloose hq => row_of_onTile (exec_recv_of_empty hloose hq a p) rfl, fun hwait hq => ?_,
    fun hloose => ?_⟩
  · exact row_of_onTile (by rw [exec_recv_of_cons hloose hq, Chip.takeRecv_of_cons hq]) rfl
  · exact row_of_onTile (by rw [exec_recvResume_of_waiting hwait, Chip.takeRecv_of_cons hq]) rfl
  · rw [exec_recv_of_tight hloose, Chip.looseViolation, Chip.tileFault]

end Sys2Proof.Machine
end

section
/-!
PROOFS. Proofs/TileAccess.lean: the LS and MXU slots of a tile (04_tile). Planned accesses in a row, what an LS operation does with
its port free or held, what a served access does, what the MXU rows leave on the way and how their results land.
-/
namespace Sys2Proof.Machine
open Sys2Proof

/-! ### Planned accesses -/

/-- A plan of several accesses adds them in their order. -/
theorem Tile.foldl_plan (l : List Nat) (x : Tile) (cycle : Nat → Nat) (ad : Nat → BitVec 19) (prio : Nat) (due : Nat → Nat)
    (what : Nat → Access) :
    l.foldl (fun y k => y.plan (cycle k) (ad k) prio (due k) (what k)) x =
      { x with micro := x.micro ++ l.map fun k => ⟨cycle k, ad k, prio, due k, what k, x.secNo⟩ } := by
  induction l generalizing x with
  | nil => simp
  | cons k l ih =>
    rw [List.foldl_cons, ih]
    simp [Tile.plan]

/-! ### The LS slot (R187 Table 4, R189) -/

section
variable {s : State} {n : TileId} {i : Instr} {a : BitVec 4} {p : Bool} {off : BitVec 15} {u : Nat}
  {f : Nat → Tile → BitVec 19 → Tile}
  (h : exec i s = .next { s with chip := s.chip.onTileNow n fun now x => x.lsOp now a p off u (f now) })
include h

theorem lsRow_of_free {held : Bool} {ms : List Micro} (hport : (s.chip.tile n).lsUntil ≤ s.chip.now)
    (hf : ∀ ad, ad = (s.chip.tile n).lsAddr a p off u → f s.chip.now (s.chip.tile n) ad =
      { s.chip.tile n with
        lsUntil := if held then s.chip.now + 8 else (s.chip.tile n).lsUntil
        lsSec := if held then (s.chip.tile n).secNo else (s.chip.tile n).lsSec
        micro := (s.chip.tile n).micro ++ ms }) :
    ∃ t, exec i s = .next t ∧ onlyTile n s t ∧
      t.chip.tile n =
        { s.chip.tile n with
          lsUntil := if held then s.chip.now + 8 else (s.chip.tile n).lsUntil
          lsSec := if held then (s.chip.tile n).secNo else (s.chip.tile n).lsSec
          micro := (s.chip.tile n).micro ++ ms
          pend := (s.chip.tile n).pend ++ if p then
            [⟨s.chip.now + 1, s.chip.now, Tile.rankLsA,
              .addr a ((s.chip.tile n).areg a + BitVec.ofInt 19 (off.toInt * u)), (s.chip.tile n).secNo⟩] else [] } := by
  refine row_of_onTile h ?_
  dsimp only
  rw [Tile.lsOp, if_neg (Nat.not_lt.2 hport), hf _ rfl, Tile.lsAdvance]
  cases p
  · simp
  · rfl

theorem lsRow_of_held (hport : s.chip.now < (s.chip.tile n).lsUntil) :
    ∃ t, exec i s = .next t ∧ onlyTile n s t ∧ t.chip.tile n = { s.chip.tile n with illegal := true } :=
  row_of_onTile h (if_pos hport)

end

/-- Settles O7: with the port free each row is its planned accesses, the hold and the advance; with it held each sets ILLEGAL. -/
theorem loadStoreRows : Obligations.LoadStoreRows := by
  constructor
  · intro s n r a k p off x now move at_ does hport
    refine ⟨lsRow_of_free rfl hport ?_, lsRow_of_free rfl hport ?_, lsRow_of_free rfl hport ?_,
      lsRow_of_free rfl hport ?_, lsRow_of_free rfl hport ?_, lsRow_of_free rfl hport ?_, lsRow_of_free rfl hport ?_⟩
    iterate 5 exact fun ad had => had ▸ rfl
    · intro ad had
      subst had
      exact Tile.foldl_plan _ _ _ _ _ _ _
    · intro ad had
      subst had
      exact Tile.foldl_plan _ _ _ _ _ _ _
  · intro s n r a k p off hport i hi
    simp only [List.mem_cons, List.not_mem_nil, or_false] at hi
    rcases hi with rfl | rfl | rfl | rfl | rfl | rfl | rfl
    all_goals exact lsRow_of_held rfl hport

theorem getD_map_range {α : Type} {n j : Nat} (h : j < n) (f : Nat → α) (d : α) :
    ((List.range n).map f).getD j d = f j := by
  rw [List.getD_eq_getElem _ _ (by simpa using h), List.getElem_map, List.getElem_range]

/-! ### Lines and bytes (R160) -/

theorem leNat_div (bs : List Byte) (j : Nat) : leNat bs / 256 ^ j % 256 = (bs.getD j 0).toNat := by
  induction bs generalizing j with
  | nil => simp [leNat]
  | cons b bs ih =>
    cases j with
    | zero =>
      simp only [leNat, Nat.pow_zero, Nat.div_one, List.getD_cons_zero]
      omega
    | succ j =>
      have hdiv : leNat (b :: bs) / 256 = leNat bs := by
        simp only [leNat]
        omega
      rw [Nat.pow_succ', ← Nat.div_div_eq_div_mul, hdiv, ih, List.getD_cons_succ]

theorem leNat_lt (bs : List Byte) : leNat bs < 256 ^ bs.length := by
  induction bs with
  | nil => simp [leNat]
  | cons b bs ih =>
    simp only [leNat, List.length_cons, Nat.pow_succ]
    omega

theorem leBytes_getD {n j : Nat} (v : Nat) (h : j < n) : (leBytes n v).getD j 0 = BitVec.ofNat 8 (v / 256 ^ j) := by
  induction n generalizing v j with
  | zero => omega
  | succ n ih =>
    cases j with
    | zero => simp [leBytes]
    | succ j =>
      rw [leBytes, List.getD_cons_succ, ih _ (by omega), Nat.pow_succ', ← Nat.div_div_eq_div_mul]

/-- A byte of a line made of bytes. -/
theorem lineByte_lineOf {bs : List Byte} (h : bs.length ≤ 32) (j : Nat) :
    lineByte (lineOf bs) j = bs.getD j 0 := by
  have hlt : leNat bs < 2 ^ 256 := lt_of_lt_of_le (leNat_lt bs) (by
    calc 256 ^ bs.length ≤ 256 ^ 32 := Nat.pow_le_pow_right (by decide) h
      _ = 2 ^ 256 := by norm_num)
  apply BitVec.eq_of_toNat_eq
  rw [lineByte, lineOf, List.take_of_length_le h, BitVec.extractLsb'_toNat, BitVec.toNat_ofNat, Nat.mod_eq_of_lt hlt,
    Nat.shiftRight_eq_div_pow, Nat.pow_mul, leNat_div]

theorem lineBytes_getD (l : Line) {j : Nat} (hj : j < 32) : (lineBytes l).getD j 0 = l.extractLsb' (8 * j) 8 := by
  rw [lineBytes, leBytes_getD _ hj]
  apply BitVec.eq_of_toNat_eq
  rw [BitVec.extractLsb'_toNat, BitVec.toNat_ofNat, Nat.shiftRight_eq_div_pow, Nat.pow_mul]

theorem lineBytes_length (l : Line) (n : Nat) : (lineBytes l n).length = n := Skv.leBytes_length _ _

/-- A byte of the line that holds an address. -/
theorem Tile.lineByte_sramLine (x : Tile) (ad : BitVec 19) {j : Nat} (hj : j < 32) :
    lineByte (x.sramLine ad) j = mget x.sram (ad.toNat / 32 * 32 + j) := by
  rw [Tile.sramLine, mline, lineByte_lineOf (mread_length _ _ _).le, mread_getD _ _ _ _ hj]

/-! ### Served accesses (R160, R165, R187) -/

section
variable (x : Tile) (c due prio sec : Nat) (ad : BitVec 19) (win : Bool)

/-- A byte load leaves one result on its way: the bytes of its line, or zeros. -/
theorem Tile.serve_loadBytes (d : BitVec 4) :
    x.serve ⟨c, ad, prio, due, .loadBytes d, sec⟩ win =
      { x with pend := x.pend ++ [⟨due, c, Tile.rankLsV,
          .lanes d 0 ((List.range 32).map fun j => (lineByte (if win then x.sramLine ad else 0) j).setWidth 40), sec⟩] } :=
  rfl

theorem Tile.serve_store (line : Line) :
    x.serve ⟨c, ad, prio, due, .store line, sec⟩ win =
      { x with sram := if win then mwrite x.sram (ad.toNat / 32 * 32) (lineBytes line) else x.sram } := by
  cases win <;> rfl

end

/-- Settles O8: a load is the result it leaves on its way, a store its write. -/
theorem servedAccess : Obligations.ServedAccess := by
  intro x c due prio sec ad d win line j hj base y z
  have hy : y = _ := Tile.serve_loadBytes x c due prio sec ad win d
  have hz : z = _ := Tile.serve_store x c due prio sec ad win line
  clear_value y z
  subst hy hz
  refine ⟨rfl, fun hq hlt => ⟨?_, Tile.lane_land_before _ _ _ _ _ hj hq hlt⟩, rfl, ?_, fun b hb => ?_⟩
  · rw [Tile.lane_land_after x d _ due c _ sec due j hj (by simp) hq (Nat.le_refl _), getD_map_range hj]
    cases win
    · simp [lineByte]
    · simp only [if_true, Tile.lineByte_sramLine x ad hj, base]
  · cases win
    · rfl
    · simp only [if_true]
      rw [mget_mwrite_in _ _ _ _ (by rwa [lineBytes_length]), lineBytes_getD _ hj]
  · cases win
    · rfl
    · exact mget_mwrite_out _ _ _ _ (by rwa [lineBytes_length])

/-! ### Results that land alone (R173) -/

theorem Tile.land_of_later (x : Tile) {now : Nat} (h : ∀ w ∈ x.pend, now < w.due) : x.land now = x := by
  have hnone : (x.pend.filter fun w => decide (w.due ≤ now)) = [] := by
    simpa [List.filter_eq_nil_iff] using h
  have hall : (x.pend.filter fun w => decide (now < w.due)) = x.pend := by
    simpa [List.filter_eq_self] using h
  simp [Tile.land, hnone, hall]

/-- The one result that is due lands on the tile. -/
theorem Tile.land_one (x : Tile) {w : Pend} {now : Nat} (h : ∀ v ∈ x.pend, now < v.due) (hw : w.due ≤ now) :
    ({ x with pend := x.pend ++ [w] } : Tile).land now = x.landOne w.write := by
  have hnone : (x.pend.filter fun v => decide (v.due ≤ now)) = [] := by
    simpa [List.filter_eq_nil_iff] using h
  have hall : (x.pend.filter fun v => decide (now < v.due)) = x.pend := by
    simpa [List.filter_eq_self] using h
  have halone : Tile.beaten w [w] = false := by simp [Tile.beaten]
  have hlate : ¬now < w.due := by omega
  simp only [Tile.land, List.filter_append, hnone, hall, List.filter_singleton, hw, hlate, decide_true, decide_false,
    cond_true, cond_false, List.nil_append, List.append_nil, halone, Bool.not_false, List.foldl_cons, List.foldl_nil]

/-! ### The MXU slot (R187 Table 5) -/

theorem Tile.mxuAdvance_eq (x : Tile) (now : Nat) (a : BitVec 4) (p : Bool) (k : Nat) :
    x.mxuAdvance now a p k =
      { x with
        pend := x.pend ++ if p then
          [⟨now + 1, now, Tile.rankMxuA, .addr a (x.areg a + BitVec.ofNat 19 k), x.secNo⟩] else [] } := by
  cases p
  · simp [Tile.mxuAdvance]
  · rfl

@[simp] theorem Tile.accum_clearAcc (x : Tile) (j : Nat) : x.clearAcc.accum j = 0 := rfl

/-- A row that leaves one result on its way for the next cycle, where nothing else lands by then. -/
theorem oneLater_row {s : State} {n : TileId} {i : Instr} {w : RegWrite}
    (h : exec i s = .next { s with chip := s.chip.onTile n fun x => x.later s.chip.now 1 0 w })
    (hq : ∀ v ∈ (s.chip.tile n).pend, s.chip.now + 1 < v.due) :
    ∃ t, exec i s = .next t ∧ onlyTile n s t ∧
      (t.chip.tile n).land s.chip.now = t.chip.tile n ∧ t.chip.tile n = (s.chip.tile n).later s.chip.now 1 0 w ∧
      (t.chip.tile n).land (s.chip.now + 1) = (s.chip.tile n).landOne w := by
  obtain ⟨t, ht, honly, htile⟩ := row_of_onTile h rfl
  refine ⟨t, ht, honly, Tile.land_of_later _ ?_, htile, ?_⟩
  · rw [htile]
    intro v hv
    rcases List.mem_append.1 hv with hv | hv
    · exact Nat.lt_of_succ_lt (hq v hv)
    · rw [List.mem_singleton.1 hv]
      exact Nat.lt_succ_self _
  · rw [htile]
    exact Tile.land_one _ hq (Nat.le_refl _)

/-- Settles O9: the rows plan their accesses and advances; of MZP and MSWAP the one result lands on the next cycle. -/
theorem mxuRows : Obligations.MxuRows := by
  constructor
  · intro s n a p f
    dsimp only
    refine ⟨row_of_onTile rfl ?_, row_of_onTile rfl ?_, fun e es heq => row_of_onTile rfl ?_,
      fun heq => row_of_onTile rfl ?_, ?_⟩
    · dsimp only
      rw [Tile.mxuAdvance_eq, Tile.foldl_plan]
      rfl
    · exact Tile.mxuAdvance_eq _ _ _ _ _
    · dsimp only
      rw [Tile.mxuAdvance_eq]
      cases f <;> simp [heq, Tile.plan, Tile.areg, expOf]
    · dsimp only
      rw [Tile.mxuAdvance_eq]
      cases f <;> simp [heq, Tile.plan, Tile.areg]
    · exact ⟨_, rfl, onlyTile_onTile s n _, by rw [Chip.onTile_same]; rfl, fun j => by rw [Chip.onTile_same]; rfl⟩
  · intro s n imm x hq
    constructor
    · obtain ⟨t, ht, honly, hnow, htile, hnext⟩ := oneLater_row (s := s) (n := n) (i := .mzp n imm) rfl hq
      refine ⟨t, ht, honly, ?_, ?_⟩
      · rw [hnow, htile]
        rfl
      · rw [hnext]
        rfl
    · obtain ⟨t, ht, honly, hnow, htile, hnext⟩ := oneLater_row (s := s) (n := n) (i := .mswap n) rfl hq
      refine ⟨t, ht, honly, ?_, ?_⟩
      · rw [hnow, htile]
        rfl
      · rw [hnext]
        exact ⟨rfl, rfl, rfl, rfl⟩

/-! ### Results of vector registers and accumulators (R173, R192, R193) -/

/-- A result of V[d] for all lanes: they stand until it is due, then read it. -/
theorem Tile.lane_land_later (x : Tile) {now lat rank : Nat} {d : BitVec 4} (f : Nat → BitVec 40) (hlat : 0 < lat)
    (hq : quiet x (200 + d.toNat)) {j : Nat} (hj : j < 32) :
    ((x.later now lat rank (.lanes d 0 ((List.range 32).map f))).land (now + lat - 1)).lane d j = x.lane d j ∧
      ((x.later now lat rank (.lanes d 0 ((List.range 32).map f))).land (now + lat)).lane d j = f j := by
  refine ⟨Tile.lane_land_before _ _ _ _ _ hj hq (Nat.sub_lt (by omega) Nat.one_pos), ?_⟩
  rw [Tile.later, Tile.lane_land_after _ _ _ _ _ _ _ _ _ hj (by simp) hq (Nat.le_refl _), getD_map_range hj]

theorem givesLanes_of_later {s : State} {n : TileId} {i : Instr} {lat rank : Nat} {d : BitVec 4}
    {f : Tile → Nat → BitVec 40} {v : Nat → BitVec 40} (hlat : 0 < lat)
    (h : exec i s = .next { s with
      chip := s.chip.onTile n fun x => x.later s.chip.now lat rank (.lanes d 0 ((List.range 32).map (f x))) })
    (hv : ∀ j, f (s.chip.tile n) j = v j) : givesLanes s n i d lat v := by
  refine ⟨_, h, onlyTile_onTile s n _, ⟨_, Chip.onTile_same _ _ _⟩, fun hq j hj => ?_⟩
  rw [← hv, Chip.onTile_same]
  exact Tile.lane_land_later _ _ hlat hq hj

theorem clampInt_fst {lo hi : Int} (h : lo ≤ hi) (v : Int) : (clampInt v lo hi).1 = max lo (min v hi) := by
  unfold clampInt
  split
  · omega
  · split <;> omega

theorem sat40_fst (x : Int) : (sat40 x).1 = held40 x := by
  rw [held40, ← clampInt_fst (by decide), sat40]

/-- One sum of an MMAC added to its accumulator. -/
def Tile.addSum (t : Tile) (p : Int × Nat) : Tile :=
  { t with
    acc := tput 0 t.acc p.2 (sat40 ((t.accum p.2).toInt + p.1)).1,
    satAcc := if (sat40 ((t.accum p.2).toInt + p.1)).2 then satInc t.satAcc else t.satAcc }

theorem Tile.addSums_eq (t : Tile) (ps : List Int) : t.addSums ps = ps.zipIdx.foldl Tile.addSum t := rfl

theorem Tile.accum_addSum (t : Tile) (p : Int × Nat) (j : Nat) :
    (t.addSum p).accum j = if j = p.2 then held40 ((t.accum p.2).toInt + p.1) else t.accum j := by
  rw [← sat40_fst]
  exact tget_tput 0 t.acc p.2 j _

/-- Sums touch the accumulators and their count alone. -/
theorem Tile.foldl_addSum_frame (l : List (Int × Nat)) (t x : Tile) :
    { l.foldl Tile.addSum t with acc := x.acc, satAcc := x.satAcc } = { t with acc := x.acc, satAcc := x.satAcc } := by
  induction l generalizing t with
  | nil => rfl
  | cons p l ih => exact ih (t.addSum p)

theorem Tile.accum_foldl_addSum_lt (ps : List Int) {k j : Nat} (t : Tile) (h : j < k) :
    ((ps.zipIdx k).foldl Tile.addSum t).accum j = t.accum j := by
  induction ps generalizing k t with
  | nil => rfl
  | cons p ps ih =>
    rw [List.zipIdx_cons, List.foldl_cons, ih _ (by omega), Tile.accum_addSum, if_neg (by omega)]

/-- Each sum of an MMAC is added to its own accumulator. -/
theorem Tile.accum_foldl_addSum (ps : List Int) (k : Nat) (t : Tile) {j : Nat} (hj : j < ps.length) :
    ((ps.zipIdx k).foldl Tile.addSum t).accum (k + j) = held40 ((t.accum (k + j)).toInt + ps.getD j 0) := by
  induction ps generalizing k t j with
  | nil => exact absurd hj (Nat.not_lt_zero _)
  | cons p ps ih =>
    rw [List.zipIdx_cons, List.foldl_cons]
    cases j with
    | zero =>
      rw [Nat.add_zero, Tile.accum_foldl_addSum_lt _ _ (show k + 0 < k + 1 by omega), Tile.accum_addSum]
      exact if_pos rfl
    | succ j =>
      rw [show k + (j + 1) = k + 1 + j by omega, ih _ _ (Nat.lt_of_succ_lt_succ hj), Tile.accum_addSum,
        if_neg (by omega), List.getD_cons_succ]

/-- Settles O10: MOUT is one result of a vector register; each sum lands in its own accumulator. -/
theorem accumulatorRows : Obligations.AccumulatorRows := by
  constructor
  · intro s n d
    refine ⟨givesLanes_of_later (lat := 2) (by decide) rfl fun j => rfl, ?_⟩
    obtain ⟨t, ht, honly, htile⟩ := row_of_onTile (s := s) (n := n) (i := .mout n d true) rfl rfl
    obtain ⟨u, hu, -, hutile⟩ := row_of_onTile (s := s) (n := n) (i := .mout n d false) rfl rfl
    refine ⟨t, ht, honly, fun j => ?_, u, hu, ?_⟩
    · rw [htile]
      exact Tile.accum_clearAcc _ j
    · rw [htile, hutile]
      rfl
  · intro x l za sh j hj sums
    have hlen : sums.length = 32 := by simp [sums, Tile.products]
    have hsum := Tile.accum_foldl_addSum sums 0 x (hlen ▸ hj)
    rw [Nat.zero_add] at hsum
    exact ⟨hsum, Tile.foldl_addSum_frame _ _ _⟩

end Sys2Proof.Machine
end

section
/-!
PROOFS. Proofs/TileVectors.lean: the VXU slot of a tile (04_tile, 05_code). The lane-by-lane operations, VRQ with its rounding,
VSTAT and the stat window's close, VTOPK by insertion, and the statements.
-/
namespace Sys2Proof.Machine
open Sys2Proof

/-! ### Lane by lane (R187 Table 6, R223) -/

/-- A VXU row gives V[d] the lanes that its function makes of the tile at issue. -/
theorem givesLanes_of_vxu {s : State} {n : TileId} {i : Instr} {lat : Nat} {d : BitVec 4}
    {f : Tile → Nat → BitVec 40} {v : Nat → BitVec 40}
    (h : exec i s = .next { s with chip := s.chip.onTile n fun x => x.vxu s.chip.now lat d (f x) })
    (hlat : 0 < lat) (hv : ∀ j, f (s.chip.tile n) j = v j) : givesLanes s n i d lat v :=
  givesLanes_of_later hlat h hv

theorem bit6 (imm : BitVec 14) : fldNat imm 0 6 = imm.toNat % 64 := fldNat_zero imm 6

theorem sshiftRight_ofInt (x : BitVec 40) (k : Nat) : x.sshiftRight k = BitVec.ofInt 40 (x.toInt / 2 ^ k) := by
  rw [BitVec.sshiftRight, Int.shiftRight_eq_div_pow]
  norm_cast

theorem max_ofInt (x y : BitVec 40) : (if x.toInt < y.toInt then y else x) = BitVec.ofInt 40 (max x.toInt y.toInt) := by
  split
  next h => rw [max_eq_right h.le, BitVec.ofInt_toInt]
  next h => rw [max_eq_left (not_lt.1 h), BitVec.ofInt_toInt]

theorem min_ofInt (x y : BitVec 40) : (if y.toInt < x.toInt then y else x) = BitVec.ofInt 40 (min x.toInt y.toInt) := by
  split
  next h => rw [min_eq_right h.le, BitVec.ofInt_toInt]
  next h => rw [min_eq_left (not_lt.1 h), BitVec.ofInt_toInt]

theorem clamp40_of_legal {n : Nat} (h1 : 1 ≤ n) (h40 : n ≤ 40) (v : Int) :
    Tile.clamp40 n v = BitVec.ofInt 40 (max (-(2 ^ (n - 1))) (min v (2 ^ (n - 1) - 1))) := by
  have hpow : (0 : Int) < 2 ^ (n - 1) := by positivity
  rw [Tile.clamp40, if_pos ⟨h1, h40⟩, clampInt_fst (by omega)]

theorem Tile.cmp40_of_mode {mode : BitVec 2} (m : Nat) (h : mode.toNat = m) (u v : Int) :
    (m = 0 → Tile.cmp40 mode u v = if u > v then 1 else 0) ∧ (m = 1 → Tile.cmp40 mode u v = if u ≥ v then 1 else 0) ∧
      (m = 2 → Tile.cmp40 mode u v = if u = v then 1 else 0) := by
  refine ⟨?_, ?_, ?_⟩
  all_goals
    rintro rfl
    simp [Tile.cmp40, h]

/-- VCMP and VCLAMP with a legal IMM are their results alone. -/
theorem exec_vcmp_of_legal {imm : BitVec 14} (h : imm.toNat % 4 ≠ 3) (s : State) (n : TileId) (d a b : BitVec 4) :
    exec (.vcmp n d a b imm) s = .next { s with
      chip := s.chip.onTile n fun x =>
        x.vxu s.chip.now 1 d fun j => Tile.cmp40 (fld imm 0 2) (x.laneInt a j) (x.laneInt b j) } := by
  have hmode : fldNat imm 0 2 ≠ 3 := by rwa [fldNat_zero]
  rw [exec_vcmp, execVcmp, State.run_eq]
  simp only [hmode, if_false, Chip.onTileNow]

theorem exec_vclamp_of_legal {imm : BitVec 14} (h1 : 1 ≤ imm.toNat % 64) (h40 : imm.toNat % 64 ≤ 40) (s : State)
    (n : TileId) (d a : BitVec 4) :
    exec (.vclamp n d a imm) s = .next { s with
      chip := s.chip.onTile n fun x => x.vxu s.chip.now 1 d fun j => Tile.clamp40 (imm.toNat % 64) (x.laneInt a j) } := by
  have hbits : ¬(imm.toNat % 64 = 0 ∨ 40 < imm.toNat % 64) := by omega
  rw [exec_vclamp, execVclamp, State.run_eq]
  simp only [bit6, hbits, if_false, Chip.onTileNow]

/-- Settles O11: each operation is one result of V[d], whose lanes are the statement's. -/
theorem vectorRows : Obligations.VectorRows := by
  constructor
  · intro s n d a b imm va vb sh
    refine ⟨givesLanes_of_vxu rfl (by decide) fun j => sat40_fst _, givesLanes_of_vxu rfl (by decide) fun j => sat40_fst _,
      givesLanes_of_vxu rfl (by decide) fun j => ?_, givesLanes_of_vxu rfl (by decide) fun j => ?_,
      givesLanes_of_vxu rfl (by decide) fun j => ?_, givesLanes_of_vxu rfl (by decide) fun j => max_ofInt _ _,
      givesLanes_of_vxu rfl (by decide) fun j => min_ofInt _ _, givesLanes_of_vxu rfl (by decide) fun j => rfl⟩
    · rw [sat40_fst, BitVec.setWidth_eq_extractLsb' (by decide)]
      rfl
    · rw [Tile.shl40, sat40_fst, bit6]
      rfl
    · rw [sshiftRight_ofInt, bit6, Nat.min_comm]
  · intro s n d a b imm va vb bits
    have hmode : (fld imm 0 2).toNat = imm.toNat % 4 := fldNat_zero imm 2
    have hcmp (u v : Int) := Tile.cmp40_of_mode _ hmode u v
    refine ⟨fun hm => ?_, fun hm => ?_, fun hm => ?_, fun h1 h40 => ?_, givesLanes_of_vxu rfl (by decide) fun j => ?_⟩
    · exact givesLanes_of_vxu (exec_vcmp_of_legal (by omega) s n d a b) (by decide) fun j => (hcmp _ _).1 hm
    · exact givesLanes_of_vxu (exec_vcmp_of_legal (by omega) s n d a b) (by decide) fun j => (hcmp _ _).2.1 hm
    · exact givesLanes_of_vxu (exec_vcmp_of_legal (by omega) s n d a b) (by decide) fun j => (hcmp _ _).2.2 hm
    · exact givesLanes_of_vxu (exec_vclamp_of_legal h1 h40 s n d a) (by decide) fun j => clamp40_of_legal h1 h40 _
    · rw [Tile.lutAt, fldNat_zero, BitVec.toNat_setWidth]
      rfl

end Sys2Proof.Machine
end

section
/-!
PROOFS. Proofs/TileQuantise.lean: the operations of the VXU slot that keep statistics or sort (04_tile, 05_code). The rounding of
a division, VRQ, VSTAT and the stat window's close, VTOPK by insertion, and the statements.
-/
namespace Sys2Proof.Machine
open Sys2Proof

/-! ### Rounding (R222) -/

theorem roundHaz_nonneg {v : Int} (hv : 0 ≤ v) {k : Nat} (hk : 0 < k) :
    roundHaz v k = ((v.natAbs + 2 ^ (k - 1)) / 2 ^ k : Nat) := by
  simp only [roundHaz, not_le.2 (Nat.cast_pos.2 hk), if_false, hv, if_true, Int.toNat_natCast]

theorem roundHaz_neg {v : Int} (hv : v < 0) {k : Nat} (hk : 0 < k) :
    roundHaz v k = -((v.natAbs + 2 ^ (k - 1)) / 2 ^ k : Nat) := by
  simp only [roundHaz, not_le.2 (Nat.cast_pos.2 hk), if_false, not_le.2 hv, Int.toNat_natCast]

/-- The nearest multiple of 2^k to a magnitude, the upper of two. -/
theorem nearest_multiple (n : Nat) {k : Nat} (hk : 0 < k) :
    ∃ m h : Nat, (n + 2 ^ (k - 1)) / 2 ^ k * 2 ^ k = m ∧ 2 ^ k = 2 * h ∧ m ≤ n + h ∧ n < m + h := by
  obtain ⟨k, rfl⟩ : ∃ j, k = j + 1 := ⟨k - 1, by omega⟩
  have hpow : 2 ^ (k + 1) = 2 * 2 ^ k := Nat.pow_succ'
  have hle := Nat.div_mul_le_self (n + 2 ^ k) (2 ^ (k + 1))
  have hlt := Nat.lt_div_mul_add (Nat.two_pow_pos (k + 1)) (a := n + 2 ^ k)
  refine ⟨_, 2 ^ k, rfl, hpow, ?_, ?_⟩
  · exact hle
  · rw [Nat.add_sub_cancel]
    omega

theorem roundHaz_nearest (v : Int) {k : Nat} (hk : 0 < k) :
    2 * |v - roundHaz v k * 2 ^ k| ≤ 2 ^ k ∧
      (2 * |v - roundHaz v k * 2 ^ k| = 2 ^ k → |v| < |roundHaz v k * 2 ^ k|) := by
  obtain ⟨m, h, hm, hpow, hle, hlt⟩ := nearest_multiple v.natAbs hk
  have hpow : (2 : Int) ^ k = 2 * h := by exact_mod_cast hpow
  have hm : (((v.natAbs + 2 ^ (k - 1)) / 2 ^ k : Nat) : Int) * 2 ^ k = m := by exact_mod_cast hm
  rcases lt_or_ge v 0 with hv | hv
  · rw [roundHaz_neg hv hk, neg_mul, hm, hpow, abs_neg, abs_of_neg hv, Nat.abs_cast]
    rcases abs_cases (v - -(m : Int)) with h | h <;> omega
  · rw [roundHaz_nonneg hv hk, hm, hpow, abs_of_nonneg hv, Nat.abs_cast]
    rcases abs_cases (v - (m : Int)) with h | h <;> omega

/-! ### VRQ (R195, R222, R224) -/

/-- What every step of a fold leaves, the fold leaves. -/
theorem foldl_keeps {α β γ : Type} (g : β → γ) {f : β → α → β} (h : ∀ y a, g (f y a) = g y) (l : List α) (y : β) :
    g (l.foldl f y) = g y := by
  induction l generalizing y with
  | nil => rfl
  | cons a l ih => rw [List.foldl_cons, ih, h]

/-- A tile that differs from x in the counts of VRQ alone. -/
theorem Tile.eq_of_vrqFrame {x y : Tile}
    (h : { y with satRq := x.satRq, livePre := x.livePre, livePost := x.livePost } = x) :
    y = { x with satRq := y.satRq, livePre := y.livePre, livePost := y.livePost } := by
  rw [← h]

/-- VRQ is its result on the way, and counts. -/
theorem Tile.vrqOp_eq (x : Tile) (now : Nat) (d a : BitVec 4) (imm : BitVec 14) :
    ∃ (sat : BitVec 16) (pre : Table (BitVec 40)) (post : Table Byte),
      x.vrqOp now d a imm = ({ x with satRq := sat, livePre := pre, livePost := post } : Tile).later now 3 Tile.rankVxu
        (.lanes d 0 ((List.range 32).map fun j =>
          (x.requantise (x.laneInt a j) (tget 0 x.ct ((imm.toNat % 1024 + j) % 1024))).1.setWidth 40)) := by
  have hbase : fldNat imm 0 10 = imm.toNat % 1024 := fldNat_zero imm 10
  unfold Tile.vrqOp
  extract_lets base row out y
  have hframe : { y with satRq := x.satRq, livePre := x.livePre, livePost := x.livePost } = x := by
    refine foldl_keeps (fun y => { y with satRq := x.satRq, livePre := x.livePre, livePost := x.livePost }) ?_ _ x
    intro y j
    dsimp only
    split <;> split <;> rfl
  refine ⟨y.satRq, y.livePre, y.livePost, ?_⟩
  rw [← Tile.eq_of_vrqFrame hframe, List.map_map]
  simp only [row, base, hbase]
  rfl

/-- Settles O12: VRQ's result is the statement's code, and the model's rounding goes to the nearest, ties away from zero. -/
theorem requantise : Obligations.Requantise := by
  constructor
  · intro s n d a imm x entry code
    obtain ⟨sat, pre, post, hvrq⟩ := x.vrqOp_eq s.chip.now d a imm
    obtain ⟨t, ht, honly, htile⟩ := row_of_onTile (s := s) (n := n) (i := .vrq n d a imm) rfl hvrq
    refine ⟨t, ht, honly, by rw [htile]; rfl, fun hq j hj => ?_⟩
    rw [htile]
    exact (Tile.lane_land_later { x with satRq := sat, livePre := pre, livePost := post } _ (by decide) hq hj).symm
  · intro v k hk
    exact roundHaz_nearest v hk

end Sys2Proof.Machine
end

section
/-!
PROOFS. Proofs/TileStats.lean: VSTAT, the stat window's close, and VTOPK (04_tile, 05_code): live PRE after 32 channels are
raised, the place of a candidate in a list sorted by insertion, and the statements.
-/
namespace Sys2Proof.Machine
open Sys2Proof

/-! ### Live PRE (R229) -/

/-- Live PRE of a channel after a sample. -/
def raisedPre (old : BitVec 40) (v : Int) : BitVec 40 := if old.toNat < v.natAbs then Tile.mag40 v else old

theorem raisedPre_toNat (old : BitVec 40) (x : BitVec 40) :
    (raisedPre old x.toInt).toNat = max old.toNat x.toInt.natAbs := by
  have hlt : x.toInt.natAbs < 2 ^ 40 := by
    have h1 := BitVec.toInt_lt (x := x)
    have h2 := BitVec.le_toInt (x := x)
    omega
  unfold raisedPre
  split
  next h => rw [Tile.mag40, BitVec.toNat_ofNat, Nat.mod_eq_of_lt hlt, max_eq_right h.le]
  next h => rw [max_eq_left (not_lt.1 h)]

theorem Tile.livePre_raisePre (t : Tile) (k : Nat) (v : Int) (c : Nat) :
    tget 0 (t.raisePre k v).livePre c = if c = k then raisedPre (tget 0 t.livePre k) v else tget 0 t.livePre c :=
  tget_tput 0 t.livePre k c _

/-- Raising a list of samples, each at its place from `base` on. -/
def Tile.raiseAll (t : Tile) (base : Nat) (l : List (Int × Nat)) : Tile :=
  l.foldl (fun t x => t.raisePre ((base + x.2) % 1024) x.1) t

theorem Tile.raisePres_eq (t : Tile) (base : Nat) (vs : List Int) : t.raisePres base vs = t.raiseAll base vs.zipIdx := rfl

theorem Tile.raiseAll_frame (t x : Tile) (base : Nat) (l : List (Int × Nat)) :
    { t.raiseAll base l with livePre := x.livePre } = { t with livePre := x.livePre } :=
  foldl_keeps (fun t : Tile => { t with livePre := x.livePre })
    (f := fun t p => t.raisePre ((base + p.2) % 1024) p.1) (fun _ _ => rfl) l t

theorem Tile.livePre_raiseAll_other (t : Tile) (base : Nat) {l : List (Int × Nat)} {c : Nat}
    (h : ∀ p ∈ l, c ≠ (base + p.2) % 1024) : tget 0 (t.raiseAll base l).livePre c = tget 0 t.livePre c := by
  induction l generalizing t with
  | nil => rfl
  | cons p l ih =>
    have := ih (t.raisePre ((base + p.2) % 1024) p.1) fun q hq => h q (List.mem_cons_of_mem _ hq)
    rw [Tile.livePre_raisePre, if_neg (h p List.mem_cons_self)] at this
    exact this

/-- Of at most 1,024 channels each takes its own sample alone. -/
theorem Tile.livePre_raiseAll (t : Tile) (base k : Nat) (vs : List Int) (hk : k + vs.length ≤ 1024) {j : Nat}
    (hj : j < vs.length) :
    tget 0 (t.raiseAll base (vs.zipIdx k)).livePre ((base + (k + j)) % 1024) =
      raisedPre (tget 0 t.livePre ((base + (k + j)) % 1024)) (vs.getD j 0) := by
  induction vs generalizing k t j with
  | nil => exact absurd hj (Nat.not_lt_zero _)
  | cons v vs ih =>
    rw [List.length_cons] at hk hj
    rw [List.zipIdx_cons, Tile.raiseAll, List.foldl_cons]
    cases j with
    | zero =>
      have hother : ∀ p ∈ vs.zipIdx (k + 1), (base + (k + 0)) % 1024 ≠ (base + p.2) % 1024 := by
        intro p hp
        obtain ⟨h1, h2, -⟩ := List.mem_zipIdx hp
        omega
      refine (Tile.livePre_raiseAll_other _ base hother).trans ?_
      rw [Tile.livePre_raisePre]
      exact if_pos rfl
    | succ j =>
      have := ih (t.raisePre ((base + k) % 1024) v) (k + 1) (by omega) (by omega : j < vs.length)
      rw [Tile.livePre_raisePre, if_neg (by omega), show k + 1 + j = k + (j + 1) by omega] at this
      exact this

/-! ### The stat window (R231, R232, R238) -/

/-- On Vigil cycle 16 of its last day a window closes (R231). -/
theorem Chip.closesNow_of_lastDay {c : Chip} {n : TileId} (hrun : c.alm.running = true) (hvigil : c.alm.inVigil = true)
    (hcycle : c.alm.cycle = c.vigilStart + 16) (hopen : (c.tile n).winOpen = true)
    (hlast : (c.tile n).winLen ≤ (c.tile n).winDays) : c.closesNow n = true := by
  simp [Chip.closesNow, Chip.windowEnds, hrun, hvigil, hcycle, hopen, hlast]

/-- Settles O13: VSTAT leaves one result on the way, which raises each of 32 channels by its own lane; the window's close is one
update of the tile. -/
theorem statRows : Obligations.StatRows := by
  constructor
  · intro s n a imm x
    obtain ⟨t, ht, honly, htile⟩ := row_of_onTile (s := s) (n := n) (i := .vstat n a imm) rfl rfl
    refine ⟨t, ht, honly, ⟨_, htile⟩, fun hq => ?_⟩
    have hbase : fldNat imm 0 10 = imm.toNat % 1024 := fldNat_zero imm 10
    set vs := (List.range 32).map fun j => x.laneInt a j with hvs
    have hlen : vs.length = 32 := by simp [vs]
    have hnext : (t.chip.tile n).land (s.chip.now + 2) = x.raiseAll (imm.toNat % 1024) vs.zipIdx := by
      rw [htile, ← hbase]
      exact Tile.land_one x hq (Nat.le_refl _)
    have hbefore : ∀ w ∈ (t.chip.tile n).pend, s.chip.now + 1 < w.due := by
      rw [htile]
      intro w hw
      rcases List.mem_append.1 hw with hw | hw
      · exact Nat.lt_of_succ_lt (hq w hw)
      · rw [List.mem_singleton.1 hw]
        exact Nat.lt_succ_self _
    refine ⟨?_, ?_, fun j hj => ?_, fun k hk => ?_⟩
    · rw [Tile.land_of_later _ hbefore, htile]
      rfl
    · rw [hnext]
      exact Tile.raiseAll_frame x x _ _
    · have h := Tile.livePre_raiseAll x (imm.toNat % 1024) 0 vs (by omega) (hlen.symm ▸ hj)
      rw [Nat.zero_add] at h
      rw [hnext, h, hvs, getD_map_range hj]
      exact raisedPre_toNat _ _
    · rw [hnext]
      refine Tile.livePre_raiseAll_other x _ fun p hp => ?_
      obtain ⟨-, h2, -⟩ := List.mem_zipIdx hp
      exact hk p.2 (by omega)
  · intro s n a x vigil hrun hvigil hcycle hopen hlast
    have hrow : exec (.statWindowClose n) s = .next { s with chip := s.chip.closeWindow n } := by
      rw [exec_statWindowClose, execStatWindowClose, State.run_eq,
        if_pos (Chip.closesNow_of_lastDay hrun hvigil hcycle hopen hlast)]
    exact row_of_onTile hrow rfl

/-! ### VTOPK (R194) -/

theorem Tile.insertCand_perm (c : Tile.Cand) (l : List Tile.Cand) : (Tile.insertCand c l).Perm (c :: l) := by
  induction l with
  | nil => exact .refl _
  | cons x l ih =>
    rw [Tile.insertCand]
    split
    · exact .refl _
    · exact (ih.cons x).trans (.swap c x l)

/-- No later candidate precedes an earlier one. -/
def Tile.Ranked (l : List Tile.Cand) : Prop := l.Pairwise fun a b => Tile.before b a = false

theorem Tile.before_iff (a b : Tile.Cand) : Tile.before a b = true ↔ b.1 < a.1 ∨ (a.1 = b.1 ∧ a.2 < b.2) := by
  simp [Tile.before]

theorem Tile.Ranked.insertCand {l : List Tile.Cand} (h : Tile.Ranked l) (c : Tile.Cand) :
    Tile.Ranked (Tile.insertCand c l) := by
  induction l with
  | nil => exact List.pairwise_singleton _ _
  | cons x l ih =>
    obtain ⟨hx, hl⟩ := List.pairwise_cons.1 h
    rw [Tile.insertCand]
    split
    next hc =>
      refine List.pairwise_cons.2 ⟨fun y hy => ?_, h⟩
      have hyx : Tile.before y x = false := by
        rcases List.mem_cons.1 hy with rfl | hy
        · simp [Tile.before]
        · exact hx y hy
      rw [← Bool.not_eq_true, Tile.before_iff] at hyx ⊢
      rw [Tile.before_iff] at hc
      omega
    next hc =>
      refine List.pairwise_cons.2 ⟨fun y hy => ?_, ih hl⟩
      rcases List.mem_cons.1 ((Tile.insertCand_perm c l).mem_iff.1 hy) with rfl | hy
      · exact Bool.eq_false_of_not_eq_true hc
      · exact hx y hy

theorem Tile.foldl_insertCand (l acc : List Tile.Cand) (h : Tile.Ranked acc) :
    Tile.Ranked (l.foldl (fun l c => Tile.insertCand c l) acc) ∧
      (l.foldl (fun l c => Tile.insertCand c l) acc).Perm (l ++ acc) := by
  induction l generalizing acc with
  | nil => exact ⟨h, .refl _⟩
  | cons c l ih =>
    obtain ⟨hr, hp⟩ := ih (Tile.insertCand c acc) (h.insertCand c)
    exact ⟨hr, hp.trans (((Tile.insertCand_perm c acc).append_left l).trans List.perm_middle)⟩

/-- In a ranked list a candidate stands at the place that counts those before it. -/
theorem Tile.Ranked.getElem?_rank {l : List Tile.Cand} (h : Tile.Ranked l) {c : Tile.Cand} (hc : c ∈ l) :
    l[(l.filter fun x => Tile.before x c).length]? = some c := by
  induction l with
  | nil => cases hc
  | cons x l ih =>
    obtain ⟨hx, hl⟩ := List.pairwise_cons.1 h
    by_cases hxc : x = c
    · subst hxc
      have hnone : (l.filter fun y => Tile.before y x) = [] :=
        List.filter_eq_nil_iff.2 fun y hy => by simp [hx y hy]
      have hself : Tile.before x x = false := by simp [Tile.before]
      simp [hself, hnone]
    · have hmem : c ∈ l := (List.mem_cons.1 hc).resolve_left (Ne.symm hxc)
      have hbefore : Tile.before x c = true := by
        have hnot := hx c hmem
        rw [← Bool.not_eq_true, Tile.before_iff] at hnot
        rw [Tile.before_iff]
        have : x.1 ≠ c.1 ∨ x.2 ≠ c.2 := by
          by_contra hne
          simp only [not_or, not_not] at hne
          exact hxc (Prod.ext hne.1 hne.2)
        omega
      rw [List.filter_cons_of_pos (p := fun x => Tile.before x c) hbefore, List.length_cons, List.getElem?_cons_succ]
      exact ih hl hmem

/-- The candidates of VTOPK without a held list, of indices from `base` on. -/
def Tile.freshCands (x : Tile) (a : BitVec 4) (base : Nat) : List Tile.Cand :=
  (List.range 32).map fun j => (x.laneInt a j, base + j)

/-- The first k candidates of lane values, ranked. -/
def Tile.bestCands (x : Tile) (a : BitVec 4) (base k : Nat) : List Tile.Cand :=
  ((x.freshCands a base).foldl (fun l c => Tile.insertCand c l) []).take k

theorem Tile.topK_eq (x : Tile) (d a : BitVec 4) (imm : BitVec 14) (h : imm.toNat / 16 % 2 = 0) {k : Nat}
    (hk : k = if imm.toNat % 16 = 0 then 16 else imm.toNat % 16) :
    x.topK d a imm =
      (List.range 16).map (fun j => match (x.bestCands a (imm.toNat / 32 * 32) k)[j]? with
          | some c => BitVec.ofInt 40 c.1 | none => BitVec.ofInt 40 (-(2 ^ 39))) ++
        (List.range 16).map fun j => match (x.bestCands a (imm.toNat / 32 * 32) k)[j]? with
          | some c => BitVec.ofNat 40 c.2 | none => 0 := by
  subst hk
  have hk : fldNat imm 0 4 = imm.toNat % 16 := fldNat_zero imm 4
  have hbase : fldNat imm 5 9 = imm.toNat / 32 := by
    have := imm.isLt
    rw [fldNat, BitVec.extractLsb'_toNat, Nat.shiftRight_eq_div_pow]
    omega
  have hheld : flag imm 4 = false := by
    rw [flag, BitVec.getLsbD, Nat.testBit_eq_decide_div_mod_eq, decide_eq_false_iff_not]
    omega
  simp only [Tile.topK, hk, hbase, hheld, Bool.false_eq_true, if_false, List.append_nil]
  rfl

/-- A lane that fewer than k lanes precede stands among the first k at its rank. -/
theorem Tile.bestCands_rank (x : Tile) (a : BitVec 4) (base : Nat) {k j : Nat} (hj : j < 32)
    (hk : ((List.range 32).filter fun i => decide (x.laneInt a j < x.laneInt a i) ||
      (decide (x.laneInt a j = x.laneInt a i) && decide (i < j))).length < k) :
    (x.bestCands a base k)[((List.range 32).filter fun i => decide (x.laneInt a j < x.laneInt a i) ||
      (decide (x.laneInt a j = x.laneInt a i) && decide (i < j))).length]? = some (x.laneInt a j, base + j) := by
  obtain ⟨hranked, hperm⟩ := Tile.foldl_insertCand (x.freshCands a base) [] List.Pairwise.nil
  rw [List.append_nil] at hperm
  have hmem : (x.laneInt a j, base + j) ∈ x.freshCands a base := List.mem_map.2 ⟨j, List.mem_range.2 hj, rfl⟩
  have hcount : (((x.freshCands a base).foldl (fun l c => Tile.insertCand c l) []).filter
        fun c => Tile.before c (x.laneInt a j, base + j)).length =
      ((List.range 32).filter fun i => decide (x.laneInt a j < x.laneInt a i) ||
        (decide (x.laneInt a j = x.laneInt a i) && decide (i < j))).length := by
    rw [(hperm.filter _).length_eq, Tile.freshCands, List.filter_map, List.length_map]
    congr 1
    refine List.filter_congr fun i _ => ?_
    simp only [Function.comp_apply, Tile.before, Nat.add_lt_add_iff_left, eq_comm]
  rw [Tile.bestCands, List.getElem?_take_of_lt hk, ← hcount]
  exact hranked.getElem?_rank (hperm.mem_iff.2 hmem)

/-- Settles O14: the best candidates are ranked by insertion, and each lane's rank counts the lanes before it. -/
theorem topK : Obligations.TopK := by
  intro s n d a imm hflag x v k rank
  obtain ⟨t, ht, honly, htile⟩ := row_of_onTile (s := s) (n := n) (i := .vtopk n d a imm) rfl rfl
  refine ⟨t, ht, honly, ⟨_, htile⟩, fun hq j hj hr => ?_⟩
  have htop := x.topK_eq d a imm hflag (k := k) rfl
  have hbest : (x.bestCands a (imm.toNat / 32 * 32) k)[rank j]? = some (x.laneInt a j, imm.toNat / 32 * 32 + j) :=
    x.bestCands_rank a (imm.toNat / 32 * 32) hj hr
  have h16 : rank j < 16 := by
    refine lt_of_lt_of_le hr ?_
    simp only [k]
    split <;> omega
  have hlen : (x.topK d a imm).length = 32 := by rw [htop]; simp
  have hlane (i : Nat) (hi : i < 32) : ((t.chip.tile n).land (s.chip.now + 4)).lane d i = (x.topK d a imm).getD i 0 := by
    rw [htile]
    exact Tile.lane_land_after x d _ _ _ _ _ _ i hi hlen hq (Nat.le_refl _)
  constructor
  · rw [hlane _ (by omega), htop, List.getD_append _ _ _ _ (by simpa using h16), getD_map_range h16, hbest]
    exact BitVec.ofInt_toInt
  · rw [hlane _ (by omega), htop, List.getD_append_right _ _ _ _ (by simp), List.length_map, List.length_range,
      Nat.add_sub_cancel_left, getD_map_range h16, hbest]

end Sys2Proof.Machine
end

section
/-!
PROOFS. Proofs/FaultFrame.lean: what the operations that send, notify and log leave alone (R579, R627, R645 to R652): each changes
its own parts of the chip, a logged fault those of faultParts alone. Then the section start of a tile, whose overrun logs one.
-/
namespace Sys2Proof.Machine
open Sys2Proof

/-! ### Packets, vectors, triggers, faults -/

/-- A sent packet changes the fabric alone. -/
theorem Chip.send_eq (c : Chip) (e : Eid) (p : Packet) (delay : Nat) :
    c.send e p delay = { c with fab := (c.send e p delay).fab } := by
  unfold Chip.send
  split <;> rfl

/-- A vector changes the pending bits or host memory (R579). -/
theorem Chip.vector_eq (c : Chip) (v : Nat) :
    c.vector v = { c with hif := (c.vector v).hif, hostMem := (c.vector v).hostMem } := by
  unfold Chip.vector
  dsimp only
  split <;> rfl

section
variable (b c : Chip)

theorem faultParts_ite (p : Prop) [Decidable p] (d : Chip) :
    faultParts b (if p then c else d) = if p then faultParts b c else faultParts b d := apply_ite _ _ _ _

theorem faultParts_send (e : Eid) (p : Packet) (delay : Nat) :
    faultParts b (c.send e p delay) = faultParts b c := by
  rw [Chip.send_eq]
  rfl

theorem faultParts_vector (v : Nat) : faultParts b (c.vector v) = faultParts b c := by
  rw [Chip.vector_eq]
  rfl

theorem faultParts_onCns (f : Cns → Cns) : faultParts b (c.onCns f) = faultParts b c := rfl
theorem faultParts_onFlt (f : Flt → Flt) : faultParts b (c.onFlt f) = faultParts b c := rfl
theorem faultParts_emit (x : Out) : faultParts b (c.emit x) = faultParts b c := rfl
theorem faultParts_post (n : Nat) (i : Instr) : faultParts b (c.post n i) = faultParts b c := rfl

theorem faultParts_trigger (l : Latch) (lead : Nat) : faultParts b (c.trigger l lead) = faultParts b c := by
  unfold Chip.trigger Chip.drivePin
  extract_lets t shared soon c1 c2
  have h1 : faultParts b c1 = faultParts b c := by
    simp only [c1, faultParts_ite, faultParts_post, faultParts_emit, faultParts_onCns, ite_self]
  simp only [faultParts_ite, faultParts_onCns, faultParts_post, c2, h1, ite_self]

theorem faultParts_newEntry (e : FltEntry) : faultParts b (c.newEntry e) = faultParts b c := by
  simp only [Chip.newEntry, faultParts_ite, faultParts_trigger, faultParts_send, faultParts_emit, faultParts_vector,
    ite_self]

theorem faultParts_takeFault (e : FltEntry) : faultParts b (c.takeFault e) = faultParts b c := by
  unfold Chip.takeFault
  dsimp only
  split
  · rfl
  · simp only [faultParts_ite, faultParts_newEntry, faultParts_onFlt, ite_self]

/-- A logged fault changes the parts that the statements name alone (R645 to R653). -/
theorem faultParts_logFault (code : BitVec 16) (source : Eid) (unit detail : Nat) (region : Option (BitVec 6)) :
    faultParts b (c.logFault code source unit detail region) = faultParts b c := faultParts_takeFault b c _

end

section
variable (c : Chip) (code : BitVec 16) (source : Eid) (unit detail : Nat) (region : Option (BitVec 6))

theorem Chip.logFault_eq :
    c.logFault code source unit detail region = faultParts (c.logFault code source unit detail region) c :=
  faultParts_logFault (c.logFault code source unit detail region) c code source unit detail region

@[simp] theorem Chip.logFault_part : (c.logFault code source unit detail region).part = c.part := by
  rw [Chip.logFault_eq]; rfl
@[simp] theorem Chip.logFault_now : (c.logFault code source unit detail region).now = c.now := by
  rw [Chip.logFault_eq]; rfl
@[simp] theorem Chip.logFault_free : (c.logFault code source unit detail region).free = c.free := by
  rw [Chip.logFault_eq]; rfl
@[simp] theorem Chip.logFault_glb : (c.logFault code source unit detail region).glb = c.glb := by
  rw [Chip.logFault_eq]; rfl
@[simp] theorem Chip.logFault_alm : (c.logFault code source unit detail region).alm = c.alm := by
  rw [Chip.logFault_eq]; rfl
@[simp] theorem Chip.logFault_hns : (c.logFault code source unit detail region).hns = c.hns := by
  rw [Chip.logFault_eq]; rfl
@[simp] theorem Chip.logFault_tiles : (c.logFault code source unit detail region).tiles = c.tiles := by
  rw [Chip.logFault_eq]; rfl
@[simp] theorem Chip.logFault_uml : (c.logFault code source unit detail region).uml = c.uml := by
  rw [Chip.logFault_eq]; rfl
@[simp] theorem Chip.logFault_chans : (c.logFault code source unit detail region).chans = c.chans := by
  rw [Chip.logFault_eq]; rfl
@[simp] theorem Chip.logFault_tmes : (c.logFault code source unit detail region).tmes = c.tmes := by
  rw [Chip.logFault_eq]; rfl
@[simp] theorem Chip.logFault_kvw : (c.logFault code source unit detail region).kvw = c.kvw := by
  rw [Chip.logFault_eq]; rfl
@[simp] theorem Chip.logFault_sfe : (c.logFault code source unit detail region).sfe = c.sfe := by
  rw [Chip.logFault_eq]; rfl
@[simp] theorem Chip.logFault_aud : (c.logFault code source unit detail region).aud = c.aud := by
  rw [Chip.logFault_eq]; rfl
@[simp] theorem Chip.logFault_fhe : (c.logFault code source unit detail region).fhe = c.fhe := by
  rw [Chip.logFault_eq]; rfl
@[simp] theorem Chip.logFault_bkl : (c.logFault code source unit detail region).bkl = c.bkl := by
  rw [Chip.logFault_eq]; rfl
@[simp] theorem Chip.logFault_flash : (c.logFault code source unit detail region).flash = c.flash := by
  rw [Chip.logFault_eq]; rfl
@[simp] theorem Chip.logFault_tile (n : TileId) : (c.logFault code source unit detail region).tile n = c.tile n := by
  rw [Chip.tile, Chip.logFault_tiles, ← Chip.tile]

end

/-! ### SECTION_START (R88, R89, R172, R176, R177, R739) -/

/-- The almanac's registers once tile n has overrun. -/
def Alm.overran (a : Alm) (n : TileId) (region : BitVec 6) : Alm :=
  { a with
    overCount := satInc a.overCount
    overTile := n
    invalid := if region ∈ a.invalid then a.invalid else a.invalid ++ [region] }

theorem Alm.mem_overran_invalid (a : Alm) (n : TileId) (region : BitVec 6) : region ∈ (a.overran n region).invalid := by
  unfold Alm.overran
  dsimp only
  split
  next h => exact h
  next => simp

/-- What an overrun changes but for the fault it logs. -/
theorem Chip.haltOverrun_eq (c : Chip) (n : TileId) :
    ∃ d : Chip, (∀ b, faultParts b d = faultParts b c) ∧ d.alm = c.alm ∧ d.tiles = c.tiles ∧ d.now = c.now ∧
      c.haltOverrun n = (d.onAlm fun a => a.overran n (c.tile n).region).onTile n fun x => x.overrun c.now := by
  refine ⟨c.logFault 0x3001 (tileEid n) n.toNat (c.tile n).pc.toNat (some (c.tile n).region),
    fun b => faultParts_logFault b c _ _ _ _ _, by simp, by simp, by simp, ?_⟩
  simp [Chip.haltOverrun, Chip.onTileNow, Alm.overran]

section
variable {s : State} {n : TileId} {x : Section} (hsec : s.chip.sectionAt n = some x) (hlive : s.chip.tileLive n = true)
include hsec hlive

theorem exec_sectionStart_of_idle (hskip : (s.chip.tile n).skipDay = false) (hidle : (s.chip.tile n).inSection = false) :
    exec (.sectionStart n) s = .next { s with chip := s.chip.startSection n x } := by
  simp [execSectionStart, Chip.sectionStartAt, hsec, hlive, hskip, hidle]

theorem exec_sectionStart_of_skipped (hskip : (s.chip.tile n).skipDay = true) :
    exec (.sectionStart n) s = .next { s with chip := s.chip.onTile n fun y => { y with skipCnt := satInc y.skipCnt } } := by
  simp [execSectionStart, Chip.sectionStartAt, hsec, hlive, hskip]

theorem exec_sectionStart_of_overrun (hskip : (s.chip.tile n).skipDay = false)
    (hin : (s.chip.tile n).inSection = true) :
    exec (.sectionStart n) s = .next { s with chip := (s.chip.haltOverrun n).startSection n x } := by
  simp [execSectionStart, Chip.sectionStartAt, hsec, hlive, hskip, hin]

end

/-- What an overrun leaves of the planned accesses (R177, R739). -/
theorem Tile.overrun_micro (x : Tile) (now : Nat) :
    (∀ m ∈ (x.overrun now).micro, m ∈ x.micro ∧ (m.sec ≠ x.secNo ∨ m.prio < Tile.prioLs ∨ m.cycle ≤ now)) ∧
      (∀ m ∈ x.micro, m.sec ≠ x.secNo ∨ m.prio < Tile.prioLs → m ∈ (x.overrun now).micro) := by
  constructor
  · intro m hm
    obtain ⟨hmem, hkeep⟩ := List.mem_filter.1 hm
    simp only [Bool.or_eq_true, Bool.and_eq_true, decide_eq_true_eq, ne_eq] at hkeep
    exact ⟨hmem, by tauto⟩
  · intro m hm hkeep
    refine List.mem_filter.2 ⟨hm, ?_⟩
    simp only [Bool.or_eq_true, decide_eq_true_eq]
    tauto

/-- Settles O6: a start is one update of the tile, after the overrun's halt where the tile is still in its section. -/
theorem sectionStart : Obligations.SectionStart := by
  constructor
  · intro s n x hsec hlive y
    refine ⟨fun hskip hidle => ?_, fun hskip => ?_⟩
    · obtain ⟨t, ht, honly, htile⟩ := row_of_onTile (exec_sectionStart_of_idle hsec hlive hskip hidle) rfl
      refine ⟨t, ht, honly, ?_⟩
      rw [htile]
      exact ⟨rfl, rfl, rfl, rfl, rfl, rfl, rfl, rfl, rfl, rfl, rfl, rfl⟩
    · exact row_of_onTile (exec_sectionStart_of_skipped hsec hlive hskip) rfl
  · intro s n x hsec hlive hskip hin
    obtain ⟨d, hframe, halm, htiles, -, hhalt⟩ := s.chip.haltOverrun_eq n
    obtain ⟨hkept, hgo⟩ := (s.chip.tile n).overrun_micro s.chip.now
    have hdtile (m : TileId) : d.tile m = s.chip.tile m := by rw [Chip.tile, htiles, ← Chip.tile]
    have hrow := exec_sectionStart_of_overrun hsec hlive hskip hin
    rw [hhalt] at hrow
    have htile : (((d.onAlm fun a => a.overran n (s.chip.tile n).region).onTile n
        fun x => x.overrun s.chip.now).startSection n x).tile n =
        { (s.chip.tile n).overrun s.chip.now with
          inSection := true, gated := false, loose := x.loose, region := x.region, hold := .none, recvWait := none,
          loops := [], secNo := (s.chip.tile n).secNo + 1, pc := x.entry, nextPc := x.entry + 1 } := by
      rw [Chip.startSection, Chip.onTile_same, Chip.onTile_same, ← hdtile n]
      rfl
    refine ⟨_, hrow, ⟨rfl, ?_⟩, congrArg (fun a : Alm => satInc a.overCount) halm, rfl, ?_, ?_, ?_⟩
    · exact congrArg (fun c => { c with alm := s.chip.alm, tiles := s.chip.tiles }) (hframe s.chip)
    · exact Alm.mem_overran_invalid _ _ _
    · rw [← halm]
      rfl
    · dsimp only
      rw [htile]
      refine ⟨rfl, hkept, hgo, rfl, rfl, rfl, fun m hne => ?_⟩
      rw [Chip.startSection, Chip.onTile_ne _ _ hne, Chip.onTile_ne _ _ hne]
      exact hdtile m

end Sys2Proof.Machine
end

section
/-!
PROOFS. Proofs/AlmanacDays.lean: how the almanac starts, how a day ends and how one is judged (02_almanac). A START that arms, day
0, ticks, the ends of days with their marks, Holdover's judgement, and the statements.
-/
namespace Sys2Proof.Machine
open Sys2Proof

/-! ### Every tile, and folds over parts -/

/-- A chip that is c with c's tiles put back differs in its tiles alone. -/
theorem Chip.eq_of_tilesBack {c d : Chip} (h : { d with tiles := c.tiles } = c) : d = { c with tiles := d.tiles } := by
  rw [← h]

/-- A change of every tile touches the tiles alone. -/
theorem Chip.everyTile_eq (c : Chip) (f : Tile → Tile) : c.everyTile f = { c with tiles := (c.everyTile f).tiles } :=
  Chip.eq_of_tilesBack <|
    foldl_keeps (fun d : Chip => { d with tiles := c.tiles }) (f := fun c t => c.onTile t f) (fun _ _ => rfl) c.tileKeys c

/-! ### START (R54, R55, R65, R66, R737) -/

/-- The almanac's registers once a START has armed it (R66). -/
def Alm.started (a : Alm) (plan : Nat) : Alm :=
  { a with
    armed := true, nextPlan := some plan, dayCount := 0, yearPos := 0, early := 0, late := 0, holdCnt := 0, overCount := 0,
    tickOffset := 0x80000000, holdover := false, offRun := 0, relock := 0, day0At := none, stopReq := false }

/-- The chip once a START has armed it, before day 0 is set. -/
def Chip.started (c : Chip) : Chip :=
  (c.onAlm fun a => a.started (c.yearPlan 0)).everyTile fun t => { t with statValid := false }

theorem Chip.started_eq (c : Chip) :
    c.started = { c with alm := c.alm.started (c.yearPlan 0), tiles := c.started.tiles } := Chip.everyTile_eq _ _

theorem Chip.started_tile (c : Chip) (n : TileId) : c.started.tile n = { c.tile n with statValid := false } :=
  Chip.everyTile_tile _ _ rfl n

theorem Chip.startWritten_of_legal {c : Chip} {mode : BitVec 2} (hrun : c.alm.running = false)
    (harm : c.alm.armed = false) (hok : c.startRefused mode = false) :
    c.startWritten mode = if c.started.startsAlone mode then c.started.day0In 64 else c.started := by
  simp only [Chip.startWritten, hrun, harm, hok, Bool.or_self, Bool.false_eq_true, if_false]
  rfl

theorem Chip.stopWritten_of_idle {c : Chip} (hrun : c.alm.running = false) (harm : c.alm.armed = false) :
    c.stopWritten = c := by
  simp [Chip.stopWritten, hrun, harm]

/-- Settles O19: a legal START is the arming, with day 0 set where the mode needs no tick. -/
theorem startArms : Obligations.StartArms := by
  intro s mode stop a hup hrun harm hload hddr h1 h2 h3 h4 h5 h6 h7 h8 h9 hmode hroot
  set c := s.chip.setStartMode mode with hc
  have hstop : (if stop then c.stopWritten else c) = c := by
    rw [Chip.stopWritten_of_idle (c := c) hrun harm, ite_self]
  have hranges : c.startRanges = true := by
    simp only [Chip.startRanges, Bool.and_eq_true, decide_eq_true_eq]
    exact ⟨⟨⟨⟨⟨⟨⟨⟨h1, h2⟩, h3⟩, h4⟩, h5⟩, h7⟩, h8⟩, h6⟩, h9⟩
  have hok : c.startRefused mode = false := by
    have hroot : ¬(mode = 2 ∧ c.uml.root = true ∧ c.alm.tickSrc = 2) := hroot
    have hload : c.hns.loaded = true := hload
    have hddr : c.glb.ddrFail = 0 := hddr
    simp only [Chip.startRefused, hload, hranges, hmode, hddr]
    simpa [and_assoc] using hroot
  have hrow : exec (.start mode stop) s =
      .next { s with chip := if c.started.startsAlone mode then c.started.day0In 64 else c.started } := by
    rw [exec_start, execStart, State.run_eq, if_pos (Chip.ready_of_up hup)]
    simp only [← hc, hstop, Chip.startWritten_of_legal (c := c) hrun harm hok]
  have hstarted : ∃ ts, c.started = { c with alm := c.alm.started (c.yearPlan 0), tiles := ts } := ⟨_, c.started_eq⟩
  have htile (n : TileId) : c.started.tile n = { s.chip.tile n with statValid := false } := c.started_tile n
  generalize c.started = d at hrow hstarted htile
  obtain ⟨ts, rfl⟩ := hstarted
  split at hrow
  next halone =>
    refine ⟨_, hrow, ⟨rfl, rfl⟩, rfl, hrun, rfl, rfl, rfl, rfl, rfl, rfl, rfl, rfl, rfl, rfl, rfl, rfl, rfl, rfl,
      fun _ => ⟨rfl, rfl⟩, fun hone hsrc => ?_, htile⟩
    subst hone
    simp [Chip.startsAlone, Alm.started] at halone
    exact absurd (of_decide_eq_true halone) hsrc
  next halone =>
    refine ⟨_, hrow, ⟨rfl, rfl⟩, rfl, hrun, rfl, rfl, rfl, rfl, rfl, rfl, rfl, rfl, rfl, rfl, rfl, rfl, rfl, rfl,
      fun hzero => ?_, fun _ _ => ⟨rfl, rfl⟩, htile⟩
    simp [Chip.startsAlone, hzero] at halone

/-! ### Marks and the end of a day (R73 to R82, R324) -/

/-- What a due mark leaves on a link: on an UP one the mark. -/
def Link.marked (l : Link) (k : Nat) (d : BitVec 16) : Link := if l.state = 5 then { l with markDue := some (k, d) } else l

/-- The mark of last cycle k of day d on link n. -/
def Chip.markLink (k : Nat) (d : BitVec 16) (c : Chip) (n : Fin 6) : Chip :=
  if (c.link n).state = 5 then c.onLink n fun l => { l with markDue := some (k, d) } else c

theorem Chip.markLink_same (c : Chip) (k : Nat) (d : BitVec 16) (n : Fin 6) :
    (c.markLink k d n).link n = (c.link n).marked k d := by
  unfold Chip.markLink Link.marked
  split
  · exact c.onLink_same n _
  · rfl

theorem Chip.markLink_ne (c : Chip) (k : Nat) (d : BitVec 16) {n m : Fin 6} (h : m ≠ n) : (c.markLink k d n).link m = c.link m := by
  unfold Chip.markLink
  split
  · exact c.onLink_ne _ h
  · rfl

/-- A chip that is c with c's links put back differs in its links alone. -/
theorem Chip.eq_of_linksBack {c d : Chip} (h : { d with uml := { d.uml with links := c.uml.links } } = c) :
    d = { c with uml := { c.uml with links := d.uml.links } } := by
  rw [← h]

theorem Chip.markLinks_eq (c : Chip) (k : Nat) (d : BitVec 16) (l : List (Fin 6)) :
    l.foldl (Chip.markLink k d) c = { c with uml := { c.uml with links := (l.foldl (Chip.markLink k d) c).uml.links } } :=
  Chip.eq_of_linksBack <|
    foldl_keeps (fun x : Chip => { x with uml := { x.uml with links := c.uml.links } })
      (fun y a => by unfold Chip.markLink; split <;> rfl) l c

theorem Chip.markLinks_link (c : Chip) (k : Nat) (d : BitVec 16) {l : List (Fin 6)} (hl : l.Nodup) (n : Fin 6) :
    (l.foldl (Chip.markLink k d) c).link n = if n ∈ l then (c.link n).marked k d else c.link n := by
  induction l generalizing c with
  | nil => simp
  | cons m l ih =>
    have ⟨hm, hl⟩ := List.nodup_cons.mp hl
    rw [List.foldl_cons, ih _ hl]
    by_cases hn : n = m
    · subst hn; simp [hm, Chip.markLink_same]
    · simp [hn, Chip.markLink_ne c k d hn]

theorem Chip.dueMarks_fold (c : Chip) (k : Nat) (d : BitVec 16) {x : Chip}
    (hx : (List.finRange 6).foldl (Chip.markLink k d) c = x) :
    c.dueMarks k d =
      (x.uml.early.filter fun m => m.2.1 = d).foldl (fun c m => c.judgeMark m.1 d m.2.2.1 m.2.2.2 k)
        { x with
          uml := { x.uml with
            dayEnds := (x.uml.dayEnds ++ [(d, k)]).drop (x.uml.dayEnds.length - 7)
            early := x.uml.early.filter fun m => m.2.1 ≠ d } } := by
  subst hx
  unfold Chip.dueMarks Chip.markLink
  rfl

/-- Where no early mark of day d waits, its due mark touches the links' block alone: every UP link is to send it. -/
theorem Chip.dueMarks_eq (c : Chip) (k : Nat) (d : BitVec 16) (hearly : ∀ m ∈ c.uml.early, m.2.1 ≠ d) :
    ∃ u, c.dueMarks k d = { c with uml := u } ∧
      ∀ n, ({ c with uml := u } : Chip).link n = (c.link n).marked k d := by
  have heq := c.markLinks_eq k d (List.finRange 6)
  have hlink (n : Fin 6) : ((List.finRange 6).foldl (Chip.markLink k d) c).link n = (c.link n).marked k d := by
    rw [c.markLinks_link k d (List.nodup_finRange 6), if_pos (List.mem_finRange n)]
  have hfold := c.dueMarks_fold k d rfl
  generalize (List.finRange 6).foldl (Chip.markLink k d) c = x at heq hlink hfold
  obtain ⟨ls, rfl⟩ : ∃ ls, x = { c with uml := { c.uml with links := ls } } := ⟨_, heq⟩
  have hnone : c.uml.early.filter (fun m => m.2.1 = d) = [] :=
    List.filter_eq_nil_iff.mpr fun m hm h => hearly m hm (of_decide_eq_true h)
  rw [hnone, List.foldl_nil] at hfold
  exact ⟨_, hfold, hlink⟩

theorem Link.marked_markDue (l : Link) (k : Nat) (d : BitVec 16) :
    (l.marked k d).markDue = if l.state = 5 then some (k, d) else l.markDue := by
  unfold Link.marked
  split <;> rfl

/-- The end of a day for which no early mark waits. -/
theorem Chip.endDay_eq (c : Chip) (hearly : ∀ m ∈ c.uml.early, m.2.1 ≠ c.alm.dayCount.setWidth 16) :
    ∃ u, c.endDay = { c with alm := { c.alm with dayEnded := true }, uml := u } ∧
      ∀ n, (({ c with uml := u } : Chip).link n).markDue =
        if (c.link n).state = 5 then some (c.now, c.alm.dayCount.setWidth 16) else (c.link n).markDue := by
  obtain ⟨u, hu, hlink⟩ := (c.onAlm fun a => { a with dayEnded := true }).dueMarks_eq c.now (c.alm.dayCount.setWidth 16) hearly
  exact ⟨u, hu, fun n => (congrArg Link.markDue (hlink n)).trans (Link.marked_markDue _ _ _)⟩

/-! ### Ticks (R71 to R79) -/

theorem exec_tickIn_of_selected {s : State} {src : TickFrom} (hsrc : src ≠ .edge) (hsel : s.chip.tickSelected src = true)
    (hrun : s.chip.alm.running = true) : exec (.tickIn src) s = .next { s with chip := s.chip.tickRunning } := by
  rw [exec_tickIn, execTickIn, State.run_eq]
  cases src with
  | edge => exact absurd rfl hsrc
  | _ => simp [Chip.tickArrives, Chip.tick, hsel, hrun]

theorem exec_tickIn_of_armed {s : State} {src : TickFrom} (hsrc : src ≠ .edge) (hsel : s.chip.tickSelected src = true)
    (hrun : s.chip.alm.running = false) (harm : s.chip.alm.armed = true) :
    exec (.tickIn src) s = .next { s with chip := s.chip.tickArmed } := by
  rw [exec_tickIn, execTickIn, State.run_eq]
  cases src with
  | edge => exact absurd rfl hsrc
  | _ => simp [Chip.tickArrives, Chip.tick, hsel, hrun, harm]

theorem exec_tickIn_of_other {s : State} {src : TickFrom} (hsrc : src ≠ .edge) (hsel : s.chip.tickSelected src = false) :
    exec (.tickIn src) s = .next s := by
  rw [exec_tickIn, execTickIn, State.run_eq]
  cases src with
  | edge => exact absurd rfl hsrc
  | _ => simp [Chip.tickArrives, Chip.tick, hsel]

/-- A tick before the window of a day with no Holdover day to judge. -/
theorem Chip.tickRunning_of_early {c : Chip} (hhd : c.alm.hdOpen = false) (hk : c.alm.cycle < c.windowFrom) :
    c.tickRunning = c.onAlm fun a =>
      { a with
        tickOffset := BitVec.ofInt 32 ((a.cycle : Int) - c.nominalEnd), early := satInc a.early
        earlyTicks := a.earlyTicks + 1 } := by
  have hk' : (c.setOffset ((c.alm.cycle : Int) - c.nominalEnd)).windowFrom = c.windowFrom := rfl
  simp only [Chip.tickRunning, hhd, Bool.false_and, Bool.false_eq_true, if_false, hk', if_pos hk]
  rfl

/-- The first tick in the window of a locked day. -/
theorem Chip.tickRunning_of_ends {c : Chip} (hhd : c.alm.hdOpen = false) (hk : c.windowFrom ≤ c.alm.cycle)
    (hhold : c.alm.holdover = false) (hend : c.alm.dayEnded = false) :
    c.tickRunning = ((c.onAlm fun a =>
      { a with
        tickOffset := BitVec.ofInt 32 ((a.cycle : Int) - c.nominalEnd)
        winTicks := a.winTicks + 1 }).endDay).judgeLocked := by
  have hk' : (c.setOffset ((c.alm.cycle : Int) - c.nominalEnd)).windowFrom = c.windowFrom := rfl
  have hhold' : (c.setOffset ((c.alm.cycle : Int) - c.nominalEnd)).alm.holdover = false := hhold
  simp only [Chip.tickRunning, hhd, Bool.false_and, Bool.false_eq_true, if_false, hk', if_neg (Nat.not_lt.mpr hk), hhold']
  rw [if_neg (by simpa [Chip.setOffset] using hend)]
  rfl

theorem Chip.judgeLocked_of_tick {c : Chip} (hwin : 1 ≤ c.alm.winTicks) (hearly : c.alm.earlyTicks = 0) :
    c.judgeLocked = c.onAlm fun a => { a with offRun := 0 } := by
  simp [Chip.judgeLocked, hwin, hearly]

/-- Settles O23. -/
theorem tickRow : Obligations.TickRow := by
  refine ⟨fun s src => ?_, fun s hup => ?_, fun s src hsrc => ?_⟩
  · intro a n day hsource hrun hhold hhd hend
    have hrow : exec (.tickIn src) s = .next { s with chip := s.chip.tickRunning } := by
      refine exec_tickIn_of_selected ?_ ?_ hrun
      · rintro rfl
        simp at hsource
      · obtain ⟨rfl, h⟩ | ⟨p, rfl, h, hp⟩ | ⟨m, rfl, h, hm⟩ := hsource
        · exact decide_eq_true h
        · exact Bool.and_eq_true_iff.mpr ⟨decide_eq_true h, decide_eq_true hp⟩
        · exact Bool.and_eq_true_iff.mpr ⟨decide_eq_true h, decide_eq_true hm⟩
    refine ⟨fun hk => ?_, fun hk hearly hmarks => ?_⟩
    · rw [Chip.tickRunning_of_early hhd hk] at hrow
      exact ⟨_, hrow, ⟨rfl, rfl⟩, rfl⟩
    · rw [Chip.tickRunning_of_ends hhd hk hhold hend] at hrow
      set c : Chip := s.chip.onAlm _ with hc
      obtain ⟨u, hu, hlink⟩ := c.endDay_eq hmarks
      have hjudge := Chip.judgeLocked_of_tick (c := { c with alm := { c.alm with dayEnded := true }, uml := u })
        (Nat.le_add_left 1 a.winTicks) hearly
      rw [hu, hjudge] at hrow
      exact ⟨_, hrow, ⟨rfl, rfl⟩, rfl, hlink⟩
  · refine ⟨{ s with chip := s.chip.post 3 (.tickIn .pin) }, ?_, ⟨rfl, rfl⟩, rfl⟩
    rw [exec_tickIn, execTickIn, State.run_eq, Chip.tickArrives, if_pos (Chip.ready_of_up hup)]
  · refine ⟨exec_tickIn_of_other hsrc, fun hsel hrun harm hnone hmode => ?_, fun hsel hrun hhd hk => ?_⟩
    · have hrow := exec_tickIn_of_armed hsrc hsel hrun harm
      rw [Chip.tickArmed, hnone, hmode] at hrow
      exact ⟨_, hrow, ⟨rfl, rfl⟩, rfl, rfl⟩
    · have hrow := exec_tickIn_of_selected hsrc hsel hrun
      rw [Chip.tickRunning, hhd, decide_eq_true hk] at hrow
      exact ⟨_, hrow, ⟨rfl, rfl⟩, rfl⟩

/-! ### The end of a day without a tick (R73, R75, R78, R79, R81) -/

theorem exec_dayEndNominal_of_due {s : State} (hrun : s.chip.alm.running = true) (hend : s.chip.alm.dayEnded = false)
    (hn : s.chip.alm.cycle = s.chip.nominalEnd) (hsrc : s.chip.alm.tickSrc = 3 ∨ s.chip.alm.holdover = true) :
    exec .dayEndNominal s = .next { s with
      chip := if s.chip.endDay.alm.tickSrc ≠ 3 then s.chip.endDay.onAlm fun a => { a with
          holdCnt := satInc a.holdCnt, hdWin := a.winTicks, hdEarly := a.earlyTicks, hdOpen := true }
        else s.chip.endDay } := by
  have hdue : (s.chip.alm.running && !s.chip.alm.dayEnded && s.chip.alm.cycle = s.chip.nominalEnd &&
      (s.chip.alm.tickSrc = 3 || s.chip.alm.holdover)) = true := by
    simpa [hrun, hend, hn] using hsrc
  rw [exec_dayEndNominal, execDayEndNominal, State.run_eq, Chip.nominalDayEnd, if_pos hdue]

theorem exec_dayEndLate_of_due {s : State} (hrun : s.chip.alm.running = true) (hend : s.chip.alm.dayEnded = false)
    (hn : s.chip.alm.cycle = s.chip.nominalEnd + s.chip.alm.tickTol.toNat) (hsrc : s.chip.alm.tickSrc ≠ 3)
    (hhold : s.chip.alm.holdover = false) :
    exec .dayEndLate s = .next { s with
      chip := (s.chip.endDay.onAlm fun a => { a with late := satInc a.late }).judgeLocked } := by
  have hdue : (s.chip.alm.running && !s.chip.alm.dayEnded &&
      s.chip.alm.cycle = s.chip.nominalEnd + s.chip.alm.tickTol.toNat && s.chip.alm.tickSrc ≠ 3 &&
      !s.chip.alm.holdover) = true := by
    simpa [hrun, hend, hn, hhold] using hsrc
  rw [exec_dayEndLate, execDayEndLate, State.run_eq, Chip.lateDayEnd, if_pos hdue]

theorem Chip.judgeLocked_of_off {c : Chip} (hwin : c.alm.winTicks = 0) (hoff : c.alm.offRun.toNat < 2) :
    c.judgeLocked = c.onAlm fun a => { a with offRun := a.offRun + 1 } := by
  have hoff' : c.alm.offRun.toNat + 1 < 3 := Nat.succ_lt_succ hoff
  simp [Chip.judgeLocked, hwin, hoff']

theorem Chip.judgeLocked_of_third {c : Chip} (hwin : c.alm.winTicks = 0) (hoff : c.alm.offRun = 2) :
    c.judgeLocked = (c.onAlm fun a => { a with holdover := true, relock := 0, offRun := 0 }).logFault 0x3005
      Config.almanacEid (c.alm.tickSub.toNat * 4 + c.alm.tickSrc.toNat) 0 := by
  simp [Chip.judgeLocked, hwin, hoff]

/-- Settles O24: each end is endDay's mark, with what the day's kind adds to the almanac's registers. -/
theorem dayEnds : Obligations.DayEnds := by
  intro s a n day ends hrun hend hmarks
  obtain ⟨u, hu, hlink⟩ := s.chip.endDay_eq hmarks
  refine ⟨fun hn hsrc => ?_, fun hn hsrc hhold => ?_, fun hn hsrc hhold hwin hoff => ?_, fun hn hsrc hhold hwin hoff => ?_⟩
  · have hrow := exec_dayEndNominal_of_due hrun hend hn (.inl hsrc)
    rw [hu, if_neg (not_not_intro hsrc)] at hrow
    exact ⟨_, hrow, ⟨rfl, rfl⟩, rfl, hlink⟩
  · have hrow := exec_dayEndNominal_of_due hrun hend hn (.inr hhold)
    rw [hu, if_pos hsrc] at hrow
    exact ⟨_, hrow, ⟨rfl, rfl⟩, rfl, hlink⟩
  · have hrow := exec_dayEndLate_of_due hrun hend hn hsrc hhold
    have hjudge := Chip.judgeLocked_of_off (c := { s.chip with alm := { a with dayEnded := true, late := satInc a.late }, uml := u })
      hwin hoff
    rw [hu] at hrow
    replace hrow := hrow.trans (congrArg (fun c : Chip => Host.Outcome.next { s with chip := c }) hjudge)
    exact ⟨_, hrow, ⟨rfl, rfl⟩, rfl, hlink⟩
  · have hrow := exec_dayEndLate_of_due hrun hend hn hsrc hhold
    have hjudge := Chip.judgeLocked_of_third (c := { s.chip with alm := { a with dayEnded := true, late := satInc a.late }, uml := u })
      hwin hoff
    rw [hu] at hrow
    replace hrow := hrow.trans (congrArg (fun c : Chip => Host.Outcome.next { s with chip := c }) hjudge)
    exact ⟨_, hrow, ⟨rfl, rfl⟩, rfl, hlink⟩

/-! ### A Holdover day's judgement (R79, R80) -/

theorem exec_holdoverJudgement_of_due {s : State} (hrun : s.chip.alm.running = true) (hhd : s.chip.alm.hdOpen = true)
    (htol : s.chip.alm.tickTol ≠ 0) (hk : s.chip.alm.cycle + 1 = s.chip.alm.tickTol.toNat) :
    exec .holdoverJudgement s = .next { s with chip := s.chip.onAlm fun a =>
      let ok := a.hdWin = 1 && a.hdEarly = 0
      if ok && a.relock.toNat + 1 = 8 then { a with hdOpen := false, holdover := false, relock := 0, offRun := 0 }
      else { a with hdOpen := false, relock := if ok then a.relock + 1 else 0 } } := by
  have hdue : s.chip.judgementDue = true := by
    rw [Chip.judgementDue, hrun, hhd, if_neg htol]
    simpa using hk
  rw [exec_holdoverJudgement, execHoldoverJudgement, State.run_eq, Chip.judgeHoldover, if_pos hdue]

/-- Settles O25. -/
theorem holdoverJudged : Obligations.HoldoverJudged := by
  intro s a hrun hhd htol hk
  have hrow := exec_holdoverJudgement_of_due hrun hhd htol hk
  refine ⟨fun hwin hearly hrelock => ?_, fun hwin hearly hrelock => ?_, fun hbad => ?_⟩
  · refine ⟨_, hrow, ⟨rfl, rfl⟩, ?_⟩
    have hrelock' : a.relock.toNat + 1 ≠ 8 := by omega
    simp [a, Chip.onAlm, hwin, hearly, hrelock'] at *
  · refine ⟨_, hrow, ⟨rfl, rfl⟩, ?_⟩
    simp [a, Chip.onAlm, hwin, hearly, hrelock] at *
  · refine ⟨_, hrow, ⟨rfl, rfl⟩, ?_⟩
    have hok : (decide (a.hdWin = 1) && decide (a.hdEarly = 0)) = false := by
      rw [Bool.and_eq_false_iff]
      exact hbad.imp decide_eq_false decide_eq_false
    simp [a, Chip.onAlm, hok] at *

end Sys2Proof.Machine
end

section
/-!
PROOFS. Proofs/AlmanacCycles.lean: how day 0 and every later day begin, and the rows of a day's cycles: Feasts, the Vigil, the
latch of the plan, the settings staged (02_almanac); the almanac's stop.
-/
namespace Sys2Proof.Machine
open Sys2Proof

/-! ### Every tile that is not off -/

theorem Chip.liveTiles_nodup (c : Chip) : c.liveTiles.Nodup := by
  refine (List.Nodup.map_on ?_ List.nodup_range).filter _
  intro a ha b hb hab
  have h := congrArg BitVec.toNat hab
  simp only [List.mem_range] at ha hb
  simpa [Nat.mod_eq_of_lt ha, Nat.mod_eq_of_lt hb] using h

theorem Chip.mem_liveTiles (c : Chip) (n : TileId) : n ∈ c.liveTiles ↔ c.tileOff n = false := by
  simp only [Chip.liveTiles, List.mem_filter, Bool.not_eq_true', and_iff_right_iff_imp]
  exact fun _ => List.mem_map.mpr ⟨n.toNat, List.mem_range.mpr n.isLt, by simp⟩

/-- A change of every tile that is not off touches the tiles alone. -/
theorem Chip.liveTiles_fold (c : Chip) (f : Tile → Tile) :
    ∃ ts, c.liveTiles.foldl (fun c t => c.onTile t f) c = { c with tiles := ts } ∧
      ∀ n, ({ c with tiles := ts } : Chip).tile n = if c.tileOff n then c.tile n else f (c.tile n) := by
  have heq : c.liveTiles.foldl (fun c t => c.onTile t f) c = { c with tiles := _ } := Chip.eq_of_tilesBack <|
    foldl_keeps (fun d : Chip => { d with tiles := c.tiles }) (f := fun c t => c.onTile t f) (fun _ _ => rfl) c.liveTiles c
  refine ⟨_, heq, fun n => ?_⟩
  rw [← heq, foldl_onTile_tile f _ c.liveTiles_nodup]
  simp only [c.mem_liveTiles n]
  cases c.tileOff n <;> rfl

/-! ### What touches the channels alone -/

/-- d is c but for its memory channels. -/
def Chip.sameButChans (c d : Chip) : Prop := ∃ x, d = { c with chans := x }

theorem Chip.sameButChans_onChan {c d : Chip} (h : c.sameButChans d) (k : BitVec 3) (f : Chan → Chan) :
    c.sameButChans (d.onChan k f) := by
  obtain ⟨x, rfl⟩ := h
  exact ⟨_, rfl⟩

theorem Chip.sameButChans_foldl {α : Type} {c d : Chip} {f : Chip → α → Chip} (l : List α) (h : c.sameButChans d)
    (hf : ∀ d, c.sameButChans d → ∀ a, c.sameButChans (f d a)) : c.sameButChans (l.foldl f d) :=
  List.foldlRecOn l f h fun d hd a _ => hf d hd a

theorem Chip.sameButChans_cutGaps {c d : Chip} (h : c.sameButChans d) : c.sameButChans d.cutGaps :=
  sameButChans_foldl _ h fun _ h _ => sameButChans_foldl _ h fun _ h _ => sameButChans_onChan h _ _

theorem Chip.sameButChans_abortAll {c d : Chip} (h : c.sameButChans d) : c.sameButChans d.abortAll :=
  sameButChans_foldl _ h fun _ h _ =>
    sameButChans_foldl _ (sameButChans_onChan h _ _) fun _ h _ => sameButChans_onChan h _ _

/-! ### Day 0 (R65, R230) -/

/-- The almanac's registers on cycle 0 of day 0. -/
def Alm.day0 (a : Alm) : Alm :=
  { a with
    armed := false, running := true, cycle := 0, planCur := BitVec.ofNat 9 (a.nextPlan.getD 0), nextPlan := none
    day0At := none, dayEnded := false, lastDone := false, winTicks := 0, earlyTicks := 0, hdOpen := false, inVigil := false
    inFeast := false, invalid := [], genToday := false }

/-- The channels as day 0 finds them. -/
def Chip.day0Chans (c : Chip) : Chip :=
  (List.range 8).foldl (fun c k => c.onChan (BitVec.ofNat 3 k) fun x => { x with eccDay := none }) c.abortAll.cutGaps

theorem Chip.day0Chans_eq (c : Chip) : ∃ x, c.day0Chans = { c with chans := x } :=
  sameButChans_foldl _ (sameButChans_cutGaps (sameButChans_abortAll ⟨_, rfl⟩)) fun _ h _ => sameButChans_onChan h _ _

theorem Chip.beginDay0_eq {c : Chip} (harm : c.alm.armed = true) (hnow : c.alm.day0At = some c.now) :
    ∃ chs kvw aud uml sfe ts,
      c.beginDay0 = { c with
        alm := c.alm.day0, hns := { c.hns with skvOld := none }, chans := chs, kvw := kvw, aud := aud, uml := uml, sfe := sfe
        tiles := ts } ∧
      ∀ n, ({ c with tiles := ts } : Chip).tile n =
        if c.tileOff n then c.tile n else openWindow { c.tile n with skipDay := false, winSwitch := false } := by
  have hdue : (c.alm.armed && c.alm.day0At = some c.now) = true := by simp [harm, hnow]
  rw [Chip.beginDay0, if_pos hdue]
  extract_lets c1 c2 c3 c4 ws c5 ports aud c6 plain uml sfe c7 c8
  obtain ⟨chs, hchs⟩ : ∃ x, c3 = { c1 with chans := x } := c1.day0Chans_eq
  clear_value c3
  subst hchs
  obtain ⟨ts, h8, htile⟩ := c7.liveTiles_fold fun x => openWindow { x with skipDay := false, winSwitch := false }
  obtain ⟨u, hu, -⟩ := c8.dueMarks_eq (c8.now - 1) 0xFFFF
    (by rw [show c8.uml.early = [] from congrArg (fun d : Chip => d.uml.early) h8]; simp)
  rw [hu, show c8 = _ from h8]
  exact ⟨_, _, _, _, _, _, rfl, htile⟩

/-- Settles O22. -/
theorem day0Begins : Obligations.Day0Begins := by
  intro s harm hnow
  obtain ⟨chs, kvw, aud, uml, sfe, ts, hday, htile⟩ := Chip.beginDay0_eq harm hnow
  have hrow : exec .day0Start s = .next { s with chip := s.chip.beginDay0 } := by
    rw [exec_day0Start, execDay0Start, State.run_eq]
  rw [hday] at hrow
  refine ⟨_, hrow, rfl, rfl, rfl, rfl, rfl, rfl, rfl, rfl, rfl, rfl, rfl, rfl, fun n hlive => ?_⟩
  have hopen := htile n
  rw [hlive, if_neg Bool.false_ne_true] at hopen
  exact ⟨congrArg Tile.winOpen hopen, congrArg Tile.winDays hopen, congrArg Tile.skipDay hopen, congrArg Tile.winLen hopen,
    (congrArg Tile.sram hopen :)⟩

/-! ### The next day (R63, R93) -/

/-- The almanac's registers on cycle 0 of the next day, with no setting staged. -/
def Alm.nextDay (a : Alm) : Alm :=
  { a with
    cycle := 0, dayEnded := false, lastDone := false, dayCount := a.dayCount + 1
    yearPos := if a.yearPos.toNat + 1 < a.yearLen.toNat then a.yearPos + 1 else 0
    planCur := match a.nextPlan with | some p => BitVec.ofNat 9 p | none => a.planCur
    nextPlan := none, staged := [], winTicks := 0, earlyTicks := 0, inVigil := false, inFeast := false, invalid := []
    genToday := false }

theorem Chip.beginDay_eq {c : Chip} (hrun : c.alm.running = true) (hend : c.alm.dayEnded = true)
    (hstop : c.alm.stopReq = false) (hstaged : c.alm.staged = []) (hinvalid : c.alm.invalid = [])
    (hsrc : c.alm.nextSrc = none) :
    ∃ chs ts,
      c.beginDay = { c with alm := c.alm.nextDay, hns := { c.hns with skvOld := none }, chans := chs, tiles := ts } ∧
      ∀ n, ({ c with tiles := ts } : Chip).tile n = if c.tileOff n then c.tile n else Chip.dayOnTile false (c.tile n) := by
  have hdue : (c.alm.running && c.alm.dayEnded && !c.alm.stopReq) = true := by simp [hrun, hend, hstop]
  rw [Chip.beginDay, if_pos hdue]
  extract_lets gen c1 sfe c2 c3 c4
  have hgen : gen = false := by simp [gen, hstaged]
  have h1 : c1 = c := by simp only [c1, hstaged]; rfl
  have h2 : c2 = c := by simp only [c2, h1, hinvalid, if_true]
  have h3 : c3 = c.onAlm Alm.nextDay := by simp only [c3, h2, hgen]; rfl
  have hswitch : (c.onAlm Alm.nextDay).switchSrc = c.onAlm Alm.nextDay := by
    unfold Chip.switchSrc
    rw [show (c.onAlm Alm.nextDay).alm.nextSrc = none from hsrc]
  obtain ⟨chs, hchs⟩ := Chip.sameButChans_cutGaps (c := c.onAlm Alm.nextDay) ⟨(c.onAlm Alm.nextDay).chans, rfl⟩
  have h4 : c4 = { c with alm := c.alm.nextDay, hns := { c.hns with skvOld := none }, chans := chs } := by
    simp only [c4, h3, hswitch]; rw [hchs]; rfl
  obtain ⟨ts, hts, htile⟩ := c4.liveTiles_fold (Chip.dayOnTile false)
  rw [hgen, hts, h4]
  rw [h4] at htile
  exact ⟨_, _, rfl, htile⟩

theorem Chip.dayOnTile_skipDay (gen : Bool) (t : Tile) : (Chip.dayOnTile gen t).skipDay = false := by
  unfold Chip.dayOnTile
  dsimp only
  split <;> rfl

theorem Chip.dayOnTile_winOpen (gen : Bool) (t : Tile) : (Chip.dayOnTile gen t).winOpen = true := by
  unfold Chip.dayOnTile
  dsimp only
  split
  next h => exact h
  next => rfl

theorem Chip.dayOnTile_sram (gen : Bool) (t : Tile) : (Chip.dayOnTile gen t).sram = t.sram := by
  unfold Chip.dayOnTile
  dsimp only
  split <;> rfl

/-- Settles O26. -/
theorem dayStarts : Obligations.DayStarts := by
  intro s a hrun hend hstop hstaged hinvalid hsrc
  obtain ⟨chs, ts, hday, htile⟩ := Chip.beginDay_eq hrun hend hstop hstaged hinvalid hsrc
  have hrow : exec .dayStart s = .next { s with chip := s.chip.beginDay } := by
    rw [exec_dayStart, execDayStart, State.run_eq]
  rw [hday] at hrow
  refine ⟨_, hrow, ⟨rfl, rfl⟩, ?_, fun n => ?_⟩
  · simp only [Alm.nextDay, ← hstaged, ← hinvalid]
    rfl
  · have hn := htile n
    cases hoff : s.chip.tileOff n <;> simp only [hoff, if_true, Bool.false_eq_true, if_false] at hn
    · exact ⟨(congrArg Tile.sram hn).trans (Chip.dayOnTile_sram _ _),
        fun _ => ⟨(congrArg Tile.skipDay hn).trans (Chip.dayOnTile_skipDay _ _),
          (congrArg Tile.winOpen hn).trans (Chip.dayOnTile_winOpen _ _)⟩⟩
    · exact ⟨(congrArg Tile.sram hn :), fun h => absurd h (by simp)⟩

/-! ### Feasts and the Vigil (R57, R85, R88, R280) -/

theorem Alm.overran_invalid_of_mem (a : Alm) (n : TileId) (region : BitVec 6) {r : BitVec 6} (h : r ∈ a.invalid) :
    r ∈ (a.overran n region).invalid := by
  unfold Alm.overran
  dsimp only
  split
  next => exact h
  next => exact List.mem_append_left _ h

/-- What halting the tiles of a list changes: the fault parts, the almanac and those tiles, whose regions' records are invalid. -/
theorem Chip.haltOverruns (l : List TileId) (hl : l.Nodup) (c : Chip) :
    let d := l.foldl Chip.haltOverrun c
    (∀ b a ts, faultParts b { d with alm := a, tiles := ts } = faultParts b { c with alm := a, tiles := ts }) ∧
    d.alm.inVigil = c.alm.inVigil ∧ d.now = c.now ∧
    (∀ n, d.tile n = if n ∈ l then (c.tile n).overrun c.now else c.tile n) ∧
    (∀ r, r ∈ c.alm.invalid → r ∈ d.alm.invalid) ∧ ∀ n ∈ l, (c.tile n).region ∈ d.alm.invalid := by
  induction l generalizing c with
  | nil => exact ⟨fun _ _ _ => rfl, rfl, rfl, fun n => by simp, fun _ h => h, fun n h => by simp at h⟩
  | cons m l ih =>
    have ⟨hm, hl⟩ := List.nodup_cons.mp hl
    obtain ⟨d, hframe, halm, htiles, hnow, hhalt⟩ := c.haltOverrun_eq m
    have htile (n : TileId) : (c.haltOverrun m).tile n = if n = m then (c.tile m).overrun c.now else c.tile n := by
      have hd (k : TileId) : (d.onAlm fun a => a.overran m (c.tile m).region).tile k = c.tile k :=
        congrArg (fun ts => tget Tile.init ts k.toNat) htiles
      rw [hhalt]
      split
      next h => rw [h, Chip.onTile_same, hd]
      next h => rw [Chip.onTile_ne _ _ h, hd]
    have hinv : (c.haltOverrun m).alm = c.alm.overran m (c.tile m).region := by rw [hhalt, ← halm]; rfl
    obtain ⟨iframe, ivigil, inow, itile, iold, inew⟩ := ih hl (c.haltOverrun m)
    have hnow' : (c.haltOverrun m).now = c.now := by rw [hhalt]; exact hnow
    refine ⟨fun b a ts => (iframe b a ts).trans ?_, ivigil.trans ?_, inow.trans hnow', fun n => (itile n).trans ?_,
      fun r hr => iold r ?_, fun n hn => ?_⟩
    · rw [hhalt]
      exact congrArg (fun x : Chip => { x with alm := a, tiles := ts }) (hframe b)
    · rw [hinv]; rfl
    · rw [htile n, hnow']
      by_cases h : n = m
      · subst h; simp [hm]
      · simp [h]
    · rw [hinv]; exact Alm.overran_invalid_of_mem _ _ _ hr
    · by_cases h : n = m
      · subst h
        exact iold _ (by rw [hinv]; exact Alm.mem_overran_invalid _ _ _)
      · have hmem := inew n ((List.mem_cons.mp hn).resolve_left h)
        rwa [htile n, if_neg h] at hmem

/-- The Vigil opens: the tiles still in their sections halt, and the receive queues empty. -/
theorem exec_vigilStart_of_due {s : State} (hrun : s.chip.alm.running = true) (hin : s.chip.alm.inVigil = false)
    (hk : s.chip.alm.cycle = s.chip.vigilStart) {d : Chip}
    (hd : (s.chip.tileKeys.filter fun n => (s.chip.tile n).inSection).foldl Chip.haltOverrun
      (s.chip.onAlm fun a => { a with inVigil := true }) = d) :
    exec .vigilStart s = .next { s with
      chip := (d.everyTile fun t => { t with rxq := [] }).onFab fun f =>
        { f with rxqDrop := satAdd f.rxqDrop (d.tileKeys.map fun n => (d.tile n).rxq.length).sum } } := by
  have hdue : (s.chip.alm.running && !s.chip.alm.inVigil && s.chip.alm.cycle = s.chip.vigilStart) = true := by
    simp [hrun, hin, hk]
  subst hd
  rw [exec_vigilStart, execVigilStart, State.run_eq, Chip.openVigil, if_pos hdue]
  rfl

theorem Chip.vigilAt_of {c : Chip} {n : Nat} (hrun : c.alm.running = true) (hin : c.alm.inVigil = true)
    (hk : c.alm.cycle = c.vigilStart + n) : c.vigilAt n = true := by
  simp [Chip.vigilAt, hrun, hin, hk]

/-- Settles O27. -/
theorem dayCycleRows : Obligations.DayCycleRows := by
  intro s a vigil left hrun
  refine ⟨fun hfeast => ?_, fun hfeast => ?_, fun hin hk hidle => ?_, fun hin hk => ?_, fun hin hk => ?_, fun hin hk => ?_⟩
  · refine ⟨{ s with chip := s.chip.onAlm fun a => { a with inFeast := true } }, ?_, ⟨rfl, rfl⟩, rfl⟩
    rw [exec_feastStart, execFeastStart, State.run_eq, if_pos (Bool.and_eq_true_iff.mpr ⟨hrun, hfeast⟩)]
  · refine ⟨{ s with chip := s.chip.onAlm fun a => { a with inFeast := false } }, ?_, ⟨rfl, rfl⟩, rfl⟩
    have hno : ¬(s.chip.alm.running && s.chip.feastAt s.chip.alm.cycle) = true := by
      rw [show s.chip.feastAt s.chip.alm.cycle = false from hfeast, Bool.and_false]
      exact Bool.false_ne_true
    rw [exec_feastEnd, execFeastEnd, State.run_eq, if_neg hno]
  · have hnone : (s.chip.tileKeys.filter fun n => (s.chip.tile n).inSection) = [] :=
      List.filter_eq_nil_iff.mpr fun n _ => by simp [hidle n]
    have hrow := exec_vigilStart_of_due hrun hin hk (by rw [hnone, List.foldl_nil])
    rw [Chip.everyTile_eq] at hrow
    exact ⟨_, hrow, ⟨rfl, rfl⟩, rfl, rfl, fun n => Chip.everyTile_tile _ _ rfl n⟩
  · set halted := s.chip.tileKeys.filter fun n => (s.chip.tile n).inSection with hhalted
    obtain ⟨hframe, hvigil, -, htile, -, hinv⟩ :=
      Chip.haltOverruns halted (s.chip.tileKeys_nodup.filter _) (s.chip.onAlm fun a => { a with inVigil := true })
    have hrow := exec_vigilStart_of_due hrun hin hk (by rw [← hhalted])
    generalize halted.foldl Chip.haltOverrun (s.chip.onAlm fun a => { a with inVigil := true }) = d at hframe hvigil htile hinv hrow
    have hevery (n : TileId) := Chip.everyTile_tile d (fun t => { t with rxq := [] }) rfl n
    rw [Chip.everyTile_eq] at hrow hevery
    have hmem (n : TileId) : n ∈ halted ↔ (s.chip.tile n).inSection = true := by
      rw [hhalted, List.mem_filter, and_iff_right_iff_imp]
      intro hn
      by_contra habs
      rw [s.chip.tile_absent n habs] at hn
      exact absurd hn (by decide)
    refine ⟨_, hrow, ⟨rfl, hframe s.chip a s.chip.tiles⟩, hvigil, fun n => ⟨congrArg Tile.rxq (hevery n), ?_, fun hn =>
      hinv n ((hmem n).mpr hn)⟩⟩
    refine (congrArg Tile.inSection (hevery n)).trans ((congrArg Tile.inSection (htile n)).trans ?_)
    split
    · rfl
    next h => exact Bool.eq_false_iff.mpr fun hs => h ((hmem n).mpr hs)
  · have hrow : exec .planLatch s = .next { s with chip := s.chip.latchPlan } := by
      rw [exec_planLatch, execPlanLatch, State.run_eq]
    rw [Chip.latchPlan, if_pos (Chip.vigilAt_of hrun hin hk)] at hrow
    exact ⟨_, hrow, ⟨rfl, rfl⟩, rfl⟩
  · refine ⟨{ s with chip := s.chip.onAlm fun a => { a with
        staged := a.settings.filter fun w => w.day.toNat ≤ a.dayCount.toNat + 1
        settings := a.settings.filter fun w => a.dayCount.toNat + 1 < w.day.toNat } }, ?_, ⟨rfl, rfl⟩, rfl,
      fun w => ?_, fun w => ?_⟩
    · rw [exec_settingsStage, execSettingsStage, State.run_eq, Chip.stageSettings, if_pos (Chip.vigilAt_of hrun hin hk)]
    · exact List.mem_filter.trans (and_congr_right fun _ => decide_eq_true_iff)
    · exact List.mem_filter.trans (and_congr_right fun _ => decide_eq_true_iff)

/-! ### The almanac's stop (R68, R102, R237) -/

/-- A stopping almanac on a chip whose table of fronthaul ports holds two entries for port 0. No write gives such a table (tput
keeps one entry a key), but the statement ranges over every State. -/
def stopWithTwoPorts : State :=
  { State.reset with
    chip := { State.reset.chip with
      alm := { State.reset.chip.alm with running := true, dayEnded := true, stopReq := true }
      fhe := { State.reset.chip.fhe with ports := [(0, FhPort.init), (0, { FhPort.init with dayOfs := 1 })] } } }

theorem exec_almanacStopped_eq (s : State) : exec .almanacStopped s = .next { s with chip := s.chip.stopAlmanac } := by
  rw [exec_almanacStopped, execAlmanacStopped, State.run_eq]

theorem stopWithTwoPorts_dayOfs : (stopWithTwoPorts.chip.stopAlmanac.fhPort 0).dayOfs = 1 := by decide

/-- Refutes O28: the stop drops the port entries that are as after reset, and behind a dropped first entry for a port the
table's second one shows, whose DAY_OFS is another. -/
theorem not_almanacStops : ¬ Obligations.AlmanacStops := by
  intro h
  obtain ⟨t, c, hrow, hc, -, -, -, -, -, hports, -⟩ := h stopWithTwoPorts rfl rfl rfl rfl rfl rfl
  obtain rfl : { stopWithTwoPorts with chip := stopWithTwoPorts.chip.stopAlmanac } = t :=
    Host.Outcome.next.inj ((exec_almanacStopped_eq _).symm.trans hrow)
  have hbefore : (c.fhPort 0).dayOfs = 0 := by rw [hc]; decide
  exact absurd (stopWithTwoPorts_dayOfs.symm.trans ((hports 0).trans hbefore)) (by decide)

end Sys2Proof.Machine
end

section
/-!
PROOFS. Proofs/Registers.lean: BAR0 reads and writes (00_scope, 15_bringup, 16_regmap): what every read leaves as it was, what a read
clears, the snapshot of a pair, the writes that are ignored, and the statements.
-/
namespace Sys2Proof.Machine
open Sys2Proof

/-! ### What no read changes -/

/-- A tile but for its RC counters. -/
def Tile.butCounters (x : Tile) : Tile := { x with satAcc := 0, satRq := 0, conflictCnt := 0, clipCnt := 0, skipCnt := 0 }

/-- What no register read changes. -/
def Chip.readView (c : Chip) : List (Out) × Alm × Glb × Hns × List Host.Cell × List (Nat × Instr) × (TileId → Tile) :=
  (c.out, c.alm, c.glb, c.hns, c.hostMem, c.agenda, fun n => (c.tile n).butCounters)

theorem Chip.readView_onTile (c : Chip) (t : TileId) (f : Tile → Tile)
    (hf : ∀ x, (f x).butCounters = x.butCounters) : (c.onTile t f).readView = c.readView := by
  have htiles : (fun n => ((c.onTile t f).tile n).butCounters) = fun n => (c.tile n).butCounters := by
    funext n
    by_cases h : n = t
    · rw [h, Chip.onTile_same, hf]
    · rw [Chip.onTile_ne c f h]
  unfold Chip.readView
  rw [htiles]
  rfl

theorem Chip.readView_rcClear (c : Chip) (o : Nat) : (c.rcClear o).readView = c.readView := by
  unfold Chip.rcClear
  dsimp only
  split
  case h_17 =>
    split
    · rfl
    · refine Chip.readView_onTile _ _ _ fun x => ?_
      split <;> rfl
  all_goals (repeat' split) <;> rfl

theorem Chip.readView_read32 (c : Chip) (p : Port) (o : Nat) : (c.read32 p o).2.readView = c.readView := by
  unfold Chip.read32
  split
  · rfl
  · dsimp only
    split
    · split <;> rfl
    · rw [Chip.readView_rcClear]
      split <;> rfl

theorem Chip.readView_readSpan (c : Chip) (p : Port) (off size : Nat) : (c.readSpan p off size).2.readView = c.readView := by
  unfold Chip.readSpan
  dsimp only
  split
  · exact c.readView_read32 p _
  · exact (Chip.readView_read32 _ p _).trans (c.readView_read32 p _)

theorem Chip.readView_readBar0 (c : Chip) (p : Port) (off size : Nat) : (c.readBar0 p off size).2.readView = c.readView := by
  unfold Chip.readBar0
  split
  · exact (Chip.readView_readSpan _ p _ 4).trans (c.readView_readSpan p off 4)
  · exact c.readView_readSpan p off size

/-- A tile with RC counters of another that agrees on the rest is that other tile. -/
theorem Tile.eq_of_butCounters {x y : Tile} (h : y.butCounters = x.butCounters) :
    { y with
      satAcc := x.satAcc, satRq := x.satRq, conflictCnt := x.conflictCnt, clipCnt := x.clipCnt, skipCnt := x.skipCnt } = x :=
  congrArg (fun z : Tile => { z with
    satAcc := x.satAcc, satRq := x.satRq, conflictCnt := x.conflictCnt, clipCnt := x.clipCnt, skipCnt := x.skipCnt }) h

/-! ### One word -/

theorem Chip.readBar0_word (c : Chip) (p : Port) {off : Nat} (h : off % 4 = 0) :
    c.readBar0 p off 4 = ((c.read32 p off).1.setWidth 64, (c.read32 p off).2) := by
  have hfirst : off / 4 * 4 = off := by omega
  have hvalue (v : Word) : BitVec.ofNat 64 (v.toNat / 256 ^ (off - off) % 256 ^ 4) = v.setWidth 64 := by
    apply BitVec.eq_of_toNat_eq
    have := v.isLt
    simp [Nat.mod_eq_of_lt this]
  unfold Chip.readBar0 Chip.readSpan
  simp only [hfirst, hvalue, le_refl, if_true, Nat.reduceEqDiff, if_false]

theorem exec_rcRead_eq (s : State) (p : Port) (off : BitVec 25) (size : BitVec 4) :
    exec (.rcRead p off size) s = .next { s with chip := s.chip.answerRead p off size } := by
  rw [exec_rcRead, execRcRead, State.run_eq]

theorem exec_loHalfRead_eq (s : State) (p : Port) (off : BitVec 25) (size : BitVec 4) :
    exec (.loHalfRead p off size) s = .next { s with chip := s.chip.answerRead p off size } := by
  rw [exec_loHalfRead, execLoHalfRead, State.run_eq]

/-- The answer to a read of one aligned word. -/
theorem Chip.answerRead_word (c : Chip) (p : Port) {off : BitVec 25} (h : off.toNat % 4 = 0) :
    c.answerRead p off 4 = (c.read32 p off.toNat).2.emit (.bar0 p off ((c.read32 p off.toNat).1.setWidth 64)) := by
  unfold Chip.answerRead
  rw [show (4 : BitVec 4).toNat = 4 from rfl, c.readBar0_word p h]

/-! ### The fault counters (R16, R657) -/

section
variable {k : Nat} (hlow : 1 ≤ k) (hhigh : k ≤ 5)
include hlow hhigh

theorem Chip.peekUp_faultCount (c : Chip) : c.peekUp (0xD0000C + 4 * k) = tget 0 c.flt.counts k := by
  have hdiv : (0xD0000C + 4 * k) / 0x100000 = 0xD := by omega
  have hmod : (0xD0000C + 4 * k) % 0x100000 = 0xC + 4 * k := by omega
  have hkey : (0xC + 4 * k - 0x010) / 4 + 1 = k := by omega
  simp only [Chip.peekUp, hdiv, hmod, Chip.fltReg, hkey]
  rw [if_neg (by omega), if_neg (by omega), if_neg (by omega), if_neg (by omega), if_pos (by omega)]

theorem Chip.rcClear_faultCount (c : Chip) :
    c.rcClear (0xD0000C + 4 * k) = c.onFlt fun f => { f with counts := tput 0 f.counts k 0 } := by
  have hdiv : (0xD0000C + 4 * k) / 0x100000 = 0xD := by omega
  have hmod : (0xD0000C + 4 * k) % 0x100000 = 0xC + 4 * k := by omega
  have hkey : (0xC + 4 * k - 0x010) / 4 + 1 = k := by omega
  have hrange : 0x010 ≤ 0xC + 4 * k ∧ 0xC + 4 * k < 0x024 := by omega
  simp only [Chip.rcClear, hdiv, hmod, hkey, if_pos hrange]

theorem faultCount_plain : Chip.isLo (0xD0000C + 4 * k) = false ∧ Chip.isHi (0xD0000C + 4 * k) = false := by
  interval_cases k <;> decide

theorem Chip.read32_faultCount {c : Chip} (hready : c.ready = true) (p : Port) :
    c.read32 p (0xD0000C + 4 * k) = (tget 0 c.flt.counts k, c.onFlt fun f => { f with counts := tput 0 f.counts k 0 }) := by
  obtain ⟨hlo, hhi⟩ := faultCount_plain hlow hhigh
  have hother : ¬((0xD0000C + 4 * k) / 0x100000 = 0x6 ∧ 0x044 ≤ (0xD0000C + 4 * k) % 0x1000 ∧ (0xD0000C + 4 * k) % 0x1000 < 0x064) := by
    omega
  simp [Chip.read32, hready, hlo, hhi, hother, Chip.peek, Chip.peekUp_faultCount hlow hhigh, Chip.rcClear_faultCount hlow hhigh]

end

/-! ### The pair HIF_CMD_BASE (R17, R618) -/

theorem Chip.read32_cmdBaseLo {c : Chip} (hready : c.ready = true) (p : Port) :
    c.read32 p 0xA00010 =
      (c.hif.cmdBase.extractLsb' 0 32,
       c.onHif fun h => { h with snaps := tput 0 h.snaps (Chip.snapKey p 0xA00010) (c.hif.cmdBase.extractLsb' 32 32) }) := by
  have hlo : Chip.isLo 0xA00010 = true := by decide
  have hhi : Chip.isHi 0xA00010 = false := by decide
  have hpeek : c.peek 0xA00010 = c.hif.cmdBase.extractLsb' 0 32 := by rw [Chip.peek, hready]; rfl
  have hpeek' : c.peek 0xA00014 = c.hif.cmdBase.extractLsb' 32 32 := by rw [Chip.peek, hready]; rfl
  simp only [Chip.read32, hready, hlo, hhi, hpeek, hpeek']
  rfl

theorem Chip.read32_cmdBaseHi {c : Chip} (hready : c.ready = true) (p : Port) :
    c.read32 p 0xA00014 = (tget 0 c.hif.snaps (Chip.snapKey p 0xA00010), c) := by
  have hlo : Chip.isLo 0xA00014 = false := by decide
  have hhi : Chip.isHi 0xA00014 = true := by decide
  simp only [Chip.read32, hready, hlo, hhi]
  rfl

/-- Settles O29. -/
theorem registerReads : Obligations.RegisterReads := by
  intro s p off size k
  have hview (d : Chip) (h : d.readView = s.chip.readView) :
      d.out = s.chip.out ∧ d.alm = s.chip.alm ∧ d.glb = s.chip.glb ∧ d.hns = s.chip.hns ∧ d.hostMem = s.chip.hostMem ∧
        d.agenda = s.chip.agenda ∧ ∀ n, (d.tile n).butCounters = (s.chip.tile n).butCounters := by
    simp only [Chip.readView, Prod.mk.injEq] at h
    exact ⟨h.1, h.2.1, h.2.2.1, h.2.2.2.1, h.2.2.2.2.1, h.2.2.2.2.2.1, congrFun h.2.2.2.2.2.2⟩
  refine ⟨fun i hi => ?_, fun hready hoff hlow => ?_, fun hready hlow hhigh => ?_, fun hready => ?_⟩
  · have hrow : exec i s = .next { s with chip := s.chip.answerRead p off size } := by
      simp only [List.mem_cons, List.not_mem_nil, or_false] at hi
      obtain rfl | rfl := hi
      · exact exec_rcRead_eq s p off size
      · exact exec_loHalfRead_eq s p off size
    obtain ⟨hout, halm, hglb, hhns, hmem, hagenda, htile⟩ := hview _ (s.chip.readView_readBar0 p off.toNat size.toNat)
    exact ⟨_, _, hrow, rfl, congrArg (· ++ [_]) hout, halm, hglb, hhns, hmem, hagenda, fun n => Tile.eq_of_butCounters (htile n)⟩
  · have hpeek : s.chip.peek off.toNat = 0 := by
      rw [Chip.peek, hready, if_neg]
      simp; omega
    have hread : s.chip.read32 p off.toNat = (0, s.chip) := by simp [Chip.read32, hready, hpeek]
    have hrow := exec_rcRead_eq s p off 4
    rw [Chip.answerRead_word _ _ hoff, hread] at hrow
    exact ⟨_, hrow, rfl, rfl, rfl⟩
  · have hnat : (BitVec.ofNat 25 (0xD0000C + 4 * k)).toNat = 0xD0000C + 4 * k := by
      rw [BitVec.toNat_ofNat]; omega
    have hrow := exec_rcRead_eq s p (BitVec.ofNat 25 (0xD0000C + 4 * k)) 4
    rw [Chip.answerRead_word _ _ (by omega), hnat, Chip.read32_faultCount hlow hhigh hready] at hrow
    have hcount (j : Nat) :
        tget 0 (tput 0 s.chip.flt.counts k 0) j = if j = k then 0 else tget 0 s.chip.flt.counts j := by
      split
      next h => rw [h, tget_tput_same]
      next h => rw [tget_tput_ne _ _ _ h]
    exact ⟨_, hrow, rfl, ⟨rfl, rfl⟩, hcount⟩
  · have hrow := exec_loHalfRead_eq s p 0xA00010 4
    rw [Chip.answerRead_word _ _ (by decide), show (0xA00010 : BitVec 25).toNat = 0xA00010 from rfl,
      Chip.read32_cmdBaseLo hready] at hrow
    refine ⟨_, hrow, rfl, fun u hu hsnaps => ?_⟩
    have hrow' := exec_loHalfRead_eq u p 0xA00014 4
    have hsnap : tget 0 u.chip.hif.snaps (Chip.snapKey p 0xA00010) = s.chip.hif.cmdBase.extractLsb' 32 32 := by
      rw [hsnaps]; exact tget_tput_same _ _ _ _
    rw [Chip.answerRead_word _ _ (by decide), show (0xA00014 : BitVec 25).toNat = 0xA00014 from rfl,
      Chip.read32_cmdBaseHi hu, hsnap] at hrow'
    exact ⟨_, hrow', rfl⟩

/-! ### Writes (R12, R13, R677) -/

theorem exec_registerWrite_eq (s : State) (p : Port) (off : BitVec 25) (size : BitVec 4) (v : BitVec 64) :
    exec (.registerWrite p off size v) s = .next { s with chip := s.chip.writeBar0 off.toNat size.toNat v } := by
  rw [exec_registerWrite, execRegisterWrite, State.run_eq]

theorem Chip.writeBar0_word {c : Chip} (hready : c.ready = true) {off : Nat} (hoff : off % 4 = 0) (v : BitVec 64) :
    c.writeBar0 off 4 v = c.write32 off (v.extractLsb' 0 32) := by
  simp only [Chip.writeBar0, hready, Bool.not_true, Bool.false_eq_true, if_false, hoff, and_self, if_true]
  rfl

theorem Chip.writeBar0_pair {c : Chip} (hready : c.ready = true) {off : Nat} (hoff : off % 4 = 0) (v : BitVec 64) :
    c.writeBar0 off 8 v = (c.write32 off (v.extractLsb' 0 32)).write32 (off + 4) (v.extractLsb' 32 32) := by
  simp only [Chip.writeBar0, hready, Bool.not_true, Bool.false_eq_true, if_false, hoff, and_self, if_true]
  rfl

theorem Chip.writeBar0_ignored {c : Chip} {off size : Nat} (v : BitVec 64)
    (h : c.ready = false ∨ (size ≠ 4 ∧ size ≠ 8) ∨ off % 4 ≠ 0) : c.writeBar0 off size v = c := by
  unfold Chip.writeBar0
  obtain h | h | h := h
  · simp [h]
  · simp [h]
  · simp [h]

/-- A write of one aligned word on a chip that is READY. -/
theorem exec_registerWrite_word {s : State} (hready : s.chip.ready = true) {o : Nat} (ho : o < 2 ^ 25) (halign : o % 4 = 0)
    (p : Port) (v : BitVec 64) :
    exec (.registerWrite p (BitVec.ofNat 25 o) 4 v) s = .next { s with chip := s.chip.write32 o (v.extractLsb' 0 32) } := by
  rw [exec_registerWrite_eq, BitVec.toNat_ofNat, Nat.mod_eq_of_lt ho, show (4 : BitVec 4).toNat = 4 from rfl,
    Chip.writeBar0_word hready halign]

theorem extractLsb'_setWidth_word (v : BitVec 64) (a : Nat) :
    ((v.extractLsb' a 32).setWidth 64).extractLsb' 0 32 = v.extractLsb' a 32 := by
  ext i hi
  have h64 : i < 64 := by omega
  simp [hi, h64]

/-- A field of the low word of a value is that field of the value. -/
theorem fld_lowWord (v : BitVec 64) {a n : Nat} (h : a + n ≤ 32) : fld (v.extractLsb' 0 32) a n = v.extractLsb' a n := by
  unfold fld
  ext i hi
  have hword : a + i < 32 := by omega
  simp [hword]

theorem flag_lowWord (v : BitVec 64) {i : Nat} (h : i < 32) : flag (v.extractLsb' 0 32) i = v.getLsbD i := by
  simp [flag, h]

/-- What a locked almanac parameter is written with. -/
theorem Chip.almParam_eq {c : Chip} (hseal : c.hns.sealed = false) (f : Alm → Alm) :
    c.almParam f = if c.almLocked then c else c.onAlm f := by
  simp [Chip.almParam, Chip.unsealed, hseal]

theorem Chip.unsealed_of_sealed {c : Chip} (hseal : c.hns.sealed = true) (f : Chip → Chip) : c.unsealed f = c := by
  simp [Chip.unsealed, hseal]

/-- BKL_NOTIFY of one buckle. -/
theorem Chip.write32_buckleNotify (c : Chip) (n : BitVec 12) (v : Word) :
    c.write32 (0x300004 + 8 * n.toNat) v = c.onBuckle n fun b => { b with
      under := Chip.w1c b.under v 17, sat := Chip.w1c b.sat v 16, vector := fld v 8 6, notify := flag v 0 } := by
  have hn := n.isLt
  have hdiv : (0x300004 + 8 * n.toNat) / 0x100000 = 0x3 := by omega
  have hmod : (0x300004 + 8 * n.toNat) % 0x100000 = 4 + 8 * n.toNat := by omega
  have hplace : 4 + 8 * n.toNat < 0x8000 ∧ (4 + 8 * n.toNat) % 8 = 4 := by omega
  have hidx : BitVec.ofNat 12 ((4 + 8 * n.toNat) / 8) = n := by
    rw [show (4 + 8 * n.toNat) / 8 = n.toNat by omega]; simp
  simp only [Chip.write32, hdiv, hmod, Chip.bklWrite, if_pos hplace, hidx]

/-- The registers that the statement lists are locked by the seal (R151). -/
theorem Chip.write32_sealed {c : Chip} (hseal : c.hns.sealed = true) (v : Word) {o : Nat}
    (ho : o ∈ [0x000060, 0x100008, 0x10000C, 0x100014, 0x100018, 0x400008, 0x40000C]) : c.write32 o v = c := by
  simp only [List.mem_cons, List.not_mem_nil, or_false] at ho
  obtain rfl | rfl | rfl | rfl | rfl | rfl | rfl := ho
  all_goals simp [Chip.write32, Chip.glbWrite, Chip.almWrite, Chip.almParam, Chip.fabWrite, Chip.unsealed_of_sealed hseal]

/-- Settles O30. -/
theorem registerWrites : Obligations.RegisterWrites := by
  intro s p off size v n row
  refine ⟨fun h => ?_, fun hready hoff hlt => ?_, fun hready hseal o ho => ?_, fun hready hseal => ⟨fun hbusy => ?_, fun hrun harm => ?_⟩,
    fun hready => ?_⟩
  · rw [exec_registerWrite_eq, Chip.writeBar0_ignored]
    refine h.imp id (Or.imp (And.imp (mt fun h => ?_) (mt fun h => ?_)) id)
    · exact BitVec.eq_of_toNat_eq h
    · exact BitVec.eq_of_toNat_eq h
  · have hword (t : State) (ht : t.chip.ready = true) (o : BitVec 25) (ho : o.toNat % 4 = 0) (a : Nat) :
        exec (.registerWrite p o 4 ((v.extractLsb' a 32).setWidth 64)) t =
          .next { t with chip := t.chip.write32 o.toNat (v.extractLsb' a 32) } := by
      have h := exec_registerWrite_word ht o.isLt ho p ((v.extractLsb' a 32).setWidth 64)
      rwa [BitVec.ofNat_toNat, BitVec.setWidth_eq, extractLsb'_setWidth_word] at h
    have hnext : (off + 4).toNat = off.toNat + 4 := by
      rw [BitVec.toNat_add, show (4 : BitVec 25).toNat = 4 from rfl, Nat.mod_eq_of_lt hlt]
    refine ⟨_, hword s hready off hoff 0, fun ht => ?_⟩
    rw [hword _ ht (off + 4) (by omega) 32, hnext, exec_registerWrite_eq, show (8 : BitVec 4).toNat = 8 from rfl,
      Chip.writeBar0_pair hready hoff]
  · have hlt : o < 2 ^ 25 ∧ o % 4 = 0 := by
      simp only [List.mem_cons, List.not_mem_nil, or_false] at ho
      omega
    rw [exec_registerWrite_word hready hlt.1 hlt.2, Chip.write32_sealed hseal _ ho]
  · have hlocked : s.chip.almLocked = true := by
      rw [Chip.almLocked, Bool.or_eq_true]; exact hbusy
    rw [exec_registerWrite_word hready (by decide) (by decide),
      show s.chip.write32 0x100008 _ = s.chip.almParam _ from rfl, Chip.almParam_eq hseal, if_pos hlocked]
  · have hfree : ¬s.chip.almLocked = true := by simp [Chip.almLocked, hrun, harm]
    have hrow := exec_registerWrite_word hready (o := 0x100008) (by decide) (by decide) p v
    rw [show s.chip.write32 0x100008 _ = s.chip.almParam _ from rfl, Chip.almParam_eq hseal, if_neg hfree] at hrow
    rw [fld_lowWord v (by decide)] at hrow
    exact ⟨_, hrow, ⟨rfl, rfl⟩, rfl⟩
  · have hrow := exec_registerWrite_word hready (o := 0x300004 + 8 * n.toNat) (by omega) (by omega) p v
    rw [Chip.write32_buckleNotify, fld_lowWord v (by decide), flag_lowWord v (by decide)] at hrow
    simp only [Chip.w1c, flag_lowWord v (by decide : 17 < 32), flag_lowWord v (by decide : 16 < 32)] at hrow
    exact ⟨_, hrow, ⟨rfl, rfl⟩, Chip.onBuckle_same .., fun m hm => Chip.onBuckle_ne _ _ hm⟩

end Sys2Proof.Machine
end

section
/-!
PROOFS. Proofs/ControlRegisters.lean: the registers with an effect of their own (their chapters' register tables): freezing a channel,
the I2S ports, the links, the census banks, the command ring, a TME's submit register, SPI_RETRY.
-/
namespace Sys2Proof.Machine
open Sys2Proof

/-! ### Folds over distinct units -/

/-- A fold that changes each unit of a list alike changes each of them once, where the list names none twice. -/
theorem foldl_unit {K U : Type} [DecidableEq K] (get : Chip → K → U) {upd : Chip → K → Chip} (f : K → U → U)
    (hsame : ∀ c k, get (upd c k) k = f k (get c k)) (hne : ∀ c k j, j ≠ k → get (upd c k) j = get c j)
    {l : List K} (hl : l.Nodup) (c : Chip) (k : K) :
    get (l.foldl upd c) k = if k ∈ l then f k (get c k) else get c k := by
  induction l generalizing c with
  | nil => simp
  | cons j l ih =>
    have ⟨hj, hl⟩ := List.nodup_cons.mp hl
    rw [List.foldl_cons, ih hl]
    by_cases h : k = j
    · subst h; simp [hj, hsame]
    · simp [h, hne c j k h]

/-! ### Registers of one unit -/

theorem exec_freeze_eq {s : State} (hready : s.chip.ready = true) {k : BitVec 3} (v : Bool) (hon : s.chip.chanOn k = true) :
    exec (.freeze k v) s = .next { s with chip := s.chip.onChan k fun x => { x with freeze := v } } := by
  rw [exec_freeze, execFreeze, State.run_eq, Chip.setFreeze, hready, hon, Bool.and_self, if_pos rfl]

theorem exec_audRun_eq {s : State} (hready : s.chip.ready = true) {p : Fin 8} (v : Bool) (hon : s.chip.audOn p = true) :
    exec (.audRun p v) s = .next { s with chip := s.chip.onAud p fun x => { x with run := v } } := by
  rw [exec_audRun, execAudRun, State.run_eq, Chip.runWritten, hready, hon, Bool.and_self, if_pos rfl]

theorem exec_audArmGo_eq {s : State} (hready : s.chip.ready = true) (mask : Byte) :
    exec (.audArmGo mask) s = .next { s with chip := { s.chip with aud := { s.chip.aud with
      mask := mask, latched := mask, armed := !decide (s.chip.cyclesTo s.chip.aud.startAt < 64)
      missed := s.chip.aud.missed || decide (s.chip.cyclesTo s.chip.aud.startAt < 64) } } } := by
  rw [exec_audArmGo, execAudArmGo, State.run_eq, Chip.armGo, hready, if_neg (by decide)]

/-! ### The links (R309, R314, R333) -/

/-- A link that does not leave UP enters a state: it alone changes, and rows of its training are taken back. -/
theorem Chip.umlEnter_eq {c : Chip} {n : Fin 6} (hup : (c.link n).state ≠ 5) (st : BitVec 3) :
    c.umlEnter n st = (c.umlForget n).onLink n fun l => { l with
      state := st
      gotIdent := if st = 3 then false else l.gotIdent
      echoes := if st = 4 then 0 else l.echoes
      echoWait := false
      received := 0
      badFrames := []
      downed := if st = 5 then false else l.downed
      markDue := if st = 5 then l.markDue else none
      nextFrame := c.now + 1 } := by
  rw [Chip.umlEnter]
  simp only [hup, decide_false, Bool.false_and, Bool.false_eq_true, if_false]

/-- What a link's entry into a state changes, where it does not leave UP. -/
theorem Chip.umlEnter_frame {c : Chip} {n : Fin 6} (hup : (c.link n).state ≠ 5) (st : BitVec 3) :
    { c.umlEnter n st with uml := { (c.umlEnter n st).uml with links := c.uml.links }, agenda := c.agenda } = c ∧
    ((c.umlEnter n st).link n).state = st ∧ ((c.umlEnter n st).link n).enable = (c.link n).enable ∧
    ∀ m, m ≠ n → (c.umlEnter n st).link m = c.link m := by
  rw [Chip.umlEnter_eq hup]
  exact ⟨rfl, congrArg Link.state (Chip.onLink_same ..), (congrArg Link.enable (Chip.onLink_same ..) :),
    fun m hm => Chip.onLink_ne (c.umlForget n) _ hm⟩

theorem Chip.onLink_congr {c : Chip} {n : Fin 6} {f g : Link → Link} (h : f (c.link n) = g (c.link n)) :
    c.onLink n f = c.onLink n g := by
  unfold Chip.onLink
  rw [h]

theorem exec_linkEnable_eq {s : State} (hready : s.chip.ready = true) {n : Fin 6} (v : Bool) (hsat : s.chip.satchel = false)
    (hseal : s.chip.hns.sealed = false) (hoff : (s.chip.link n).state = 0) :
    exec (.linkEnable n v) s = .next { s with
      chip := (s.chip.onLink n fun l => { l with enable := v, cap := 0 }).umlEnter n (if v then 1 else 0) } := by
  have hst (f : Link → Link) (hf : (f (s.chip.link n)).state = (s.chip.link n).state) : ((s.chip.onLink n f).link n).state = 0 := by
    rw [Chip.onLink_same, hf, hoff]
  have hcap : (s.chip.onLink n fun l => { l with enable := v, cap := if l.state = 0 then 0 else l.cap }) =
      s.chip.onLink n fun l => { l with enable := v, cap := 0 } :=
     Chip.onLink_congr (by rw [if_pos hoff])
  rw [exec_linkEnable, execLinkEnable, State.run_eq, if_pos hready, Chip.umlCtlWritten, hsat, hseal]
  simp only [Bool.false_eq_true, if_false, Chip.umlEnable, hcap, hst (fun l => { l with enable := v, cap := 0 }) rfl]
  cases v <;> rfl

theorem exec_retrain_eq {s : State} (hready : s.chip.ready = true) {n : Fin 6} (v : Bool) (hsat : s.chip.satchel = false)
    (hseal : s.chip.hns.sealed = true) (hon : (s.chip.link n).state ≠ 0) :
    exec (.retrain n v) s = .next { s with chip := (s.chip.onLink n fun l => { l with cap := 0 }).umlEnter n 1 } := by
  rw [exec_retrain, execRetrain, State.run_eq, if_pos hready, Chip.umlCtlWritten, hsat, hseal]
  simp only [Bool.false_eq_true, if_false, if_true, Chip.umlRetrain, if_neg hon]

/-! ### Census banks, the command ring -/

theorem exec_cnsRelease_eq {s : State} (hready : s.chip.ready = true) (mask : BitVec 4) :
    exec (.cnsRelease mask) s = .next { s with chip := s.chip.cenRelease mask } := by
  rw [exec_cnsRelease, execCnsRelease, State.run_eq, if_pos hready]

/-- What releasing one bank gives. -/
def CBank.released (x : CBank) (hit : Bool) : CBank := if hit && x.valid then { x with full := false, valid := false } else x

theorem Chip.cenRelease_eq (c : Chip) (mask : BitVec 4) :
    { c.cenRelease mask with cns := { (c.cenRelease mask).cns with banks := c.cns.banks } } = c := by
  refine foldl_keeps (fun d : Chip => { d with cns := { d.cns with banks := c.cns.banks } }) (fun d b => ?_) armSlots c
  split <;> rfl

theorem Chip.cenRelease_bank (c : Chip) (mask : BitVec 4) (b : BitVec 2) :
    (c.cenRelease mask).cnsBank b = (c.cnsBank b).released (flag mask b.toNat) := by
  have hall : b ∈ armSlots := by revert b; decide
  refine (foldl_unit Chip.cnsBank (fun b x => x.released (flag mask b.toNat)) (fun d k => ?_) (fun d k j hj => ?_)
    (by decide : armSlots.Nodup) c b).trans (if_pos hall)
  · unfold CBank.released
    split
    · exact tget_tput_same _ _ _ _
    · rfl
  · split
    · exact tget_tput_ne _ _ _ fun h => hj (BitVec.eq_of_toNat_eq h)
    · rfl

theorem Chip.prodCheck_eq {c : Chip} (hlow : 4 ≤ c.hif.cmdSize.toNat) (hhigh : c.hif.cmdSize.toNat ≤ 12) :
    c.prodCheck = if 2 ^ c.hif.cmdSize.toNat < ahead16 c.hif.cmdProd c.hif.cmdCons then
      c.onHif fun h => { h with prodErr := true, halted := true } else c := by
  simp only [Chip.prodCheck, ringLog, hlow, hhigh, decide_true, Bool.true_and, decide_eq_true_eq]

theorem exec_resync_eq {s : State} (hready : s.chip.ready = true) (v : BitVec 3) :
    exec (.resync v) s = .next { s with chip := s.chip.hifCtlWritten v } := by
  rw [exec_resync, execResync, State.run_eq, if_pos hready]

/-- HIF_CTL written with RESYNC 0 while it is 1: the error is cleared, and the producer index is compared afresh. -/
theorem Chip.hifCtlWritten_of_ends {c : Chip} {v : BitVec 3} (hres : c.hif.resync = true) (hoff : v.getLsbD 1 = false) :
    c.hifCtlWritten v = (c.onHif fun h => { h with
      cmdEn := v.getLsbD 0, resync := false, dayIrq := v.getLsbD 2, prodErr := false, halted := false }).prodCheck := by
  simp only [Chip.hifCtlWritten, flag, hres, hoff, Bool.not_false, Bool.and_self, Bool.not_true, Bool.and_false]

/-! ### A TME's submit register (R367) -/

theorem leNat_drop (bs : List Byte) (k : Nat) : leNat bs / 256 ^ k = leNat (bs.drop k) := by
  induction k generalizing bs with
  | zero => simp
  | succ k ih =>
    cases bs with
    | nil => simp [leNat]
    | cons b bs =>
      have hb : leNat (b :: bs) / 256 = leNat bs := by
        have := b.isLt
        simp only [leNat]; omega
      rw [Nat.pow_succ', ← Nat.div_div_eq_div_mul, hb, ih, List.drop_succ_cons]

theorem leNat_take (bs : List Byte) (n : Nat) : leNat bs % 256 ^ n = leNat (bs.take n) := by
  induction n generalizing bs with
  | zero => simp [leNat, Nat.mod_one]
  | succ n ih =>
    cases bs with
    | nil => simp [leNat]
    | cons b bs =>
      have hb := b.isLt
      rw [List.take_succ_cons, leNat, leNat, ← ih, Nat.pow_succ', Nat.mod_mul]
      have hlow : (b.toNat + 256 * leNat bs) % 256 = b.toNat := by omega
      have hrest : (b.toNat + 256 * leNat bs) / 256 = leNat bs := by omega
      rw [hlow, hrest]

/-- The number in n bytes of a descriptor built from 64 bytes. -/
theorem dNum_descOf {bs : List Byte} (hlen : bs.length = 64) (k n : Nat) :
    dNum (descOf bs) k n = leNat ((bs.drop k).take n) := by
  have hlt : leNat bs < 2 ^ (8 * 64) := lt_of_lt_of_eq (leNat_lt bs) (by rw [hlen, Nat.pow_mul])
  have hnat : (descOf bs).toNat = leNat bs := by
    rw [descOf, List.take_of_length_le (le_of_eq hlen), BitVec.toNat_ofNat]
    exact Nat.mod_eq_of_lt hlt
  rw [dNum, hnat, leNat_drop, leNat_take]

/-- One of the equal pieces of a list. -/
theorem take_drop_flatMap {α β : Type} {f : α → List β} {n : Nat} (hf : ∀ x, (f x).length = n) :
    ∀ (xs : List α) (j : Nat) (h : j < xs.length), ((xs.flatMap f).drop (n * j)).take n = f xs[j]
  | x :: xs, 0, _ => by simp [List.flatMap_cons, hf]
  | x :: xs, j + 1, h => by
    have hskip : n * (j + 1) = (f x).length + n * j := by rw [hf, Nat.mul_succ, Nat.add_comm]
    rw [List.flatMap_cons, hskip, ← List.drop_drop, List.drop_left]
    exact take_drop_flatMap hf xs j (Nat.lt_of_succ_lt_succ h)

/-- The descriptor in a TME's submit registers. -/
def Tme.submitted (x : Tme) : Desc := descOf ((List.range 16).flatMap fun n => leBytes 4 (tget 0 x.regs n).toNat)

theorem Tme.submitted_dNum (x : Tme) {j : Nat} (hj : j < 16) : dNum x.submitted (4 * j) 4 = (tget 0 x.regs j).toNat := by
  have hlen : ((List.range 16).flatMap fun n => leBytes 4 (tget 0 x.regs n).toNat).length = 64 := by
    simp [List.length_flatMap]
  rw [Tme.submitted, dNum_descOf hlen,
    take_drop_flatMap (f := fun n => leBytes 4 (tget 0 x.regs n).toNat) (fun _ => Skv.leBytes_length _ _) _ j (by simpa using hj),
    List.getElem_range]
  have hnum := Skv.numAt_leBytes (n := 4) (v := (tget 0 x.regs j).toNat) (tget 0 x.regs j).isLt []
  rwa [List.append_nil, numAt, bytesAt, List.drop_zero, List.take_of_length_le (by simp)] at hnum

theorem exec_memTmeSubmit_eq {s : State} (hready : s.chip.ready = true) {k : BitVec 4} (hon : s.chip.clusterOn k = true) :
    exec (.memTmeSubmit k) s = .next { s with
      chip := if s.chip.tmeUsed k < 32 then
        (s.chip.tmeAccept k (s.chip.tme k).submitted).onTme k fun x => { x with result := 1 }
        else s.chip.onTme k fun x => { x with result := 2 } } := by
  rw [exec_memTmeSubmit, execMemTmeSubmit, State.run_eq, Chip.tmeSubmit, hready, hon, Bool.and_self, if_pos rfl]
  rfl

/-! ### SPI_RETRY (R138) -/

theorem exec_spiRetry_eq {s : State} (hready : s.chip.ready = true) (hload : s.chip.hns.loaded = false)
    (hjobs : s.chip.hns.jobs = []) (hrun : s.chip.alm.running = false) (harm : s.chip.alm.armed = false) :
    exec .spiRetry s = .next { s with chip := s.chip.flashLoad 2 } := by
  rw [exec_spiRetry, execSpiRetry, State.run_eq, Chip.spiRetry, hready, hload, hjobs, hrun, harm]
  rfl

/-- The loader's job of a boot. -/
def bootJob : LoadJob :=
  { src := .pcie, tag := 0, opcode := 0x10, region := 0, fromFlash := true, place := 0, length := 0, fromBoot := true }

/-- A boot's load on an idle loader begins at once: the harness in force goes. -/
theorem Chip.flashLoad_of_idle {c : Chip} {n : Nat} (hjobs : c.hns.jobs = []) (hrun : c.alm.running = false)
    (harm : c.alm.armed = false) (hseal : c.hns.sealed = false) :
    c.flashLoad n = ((c.onHns fun h => { h with bootTry := n, jobs := [bootJob] }).dropHarness.zeroBuckles).onHns fun h =>
      { h with busy := true, left := fetchTime bootJob, read := [] } := by
  have hstale : ((c.onHns fun h => { h with bootTry := n }).onHns fun h => { h with jobs := h.jobs ++ [bootJob] }).refuseStale =
      c.onHns fun h => { h with bootTry := n, jobs := [bootJob] } := by
    unfold Chip.refuseStale
    simp only [Chip.onHns, hrun, harm, hseal, hjobs, Bool.or_self, Bool.false_eq_true, if_false, List.nil_append]
  have hidle : (c.onHns fun h => { h with bootTry := n }).hns.jobs.isEmpty = true := by
    rw [show (c.onHns fun h => { h with bootTry := n }).hns.jobs = [] from hjobs]; rfl
  unfold Chip.flashLoad Chip.addJob
  simp only [hidle, if_true]
  unfold Chip.beginJob
  erw [hstale]
  rfl

theorem Chip.dropHarness_eq (c : Chip) :
    ∃ h g, c.dropHarness = { c with hns := h, glb := g } ∧ h.jobs = c.hns.jobs ∧ h.loaded = false := by
  unfold Chip.dropHarness
  exact ⟨_, _, rfl, rfl, rfl⟩

theorem Chip.zeroBuckles_eq (c : Chip) : ∃ b, c.zeroBuckles = { c with bkl := b } := ⟨_, rfl⟩

theorem Chip.flashLoad_frame {c : Chip} {n : Nat} (hjobs : c.hns.jobs = []) (hrun : c.alm.running = false)
    (harm : c.alm.armed = false) (hseal : c.hns.sealed = false) :
    ∃ h g b, c.flashLoad n = { c with hns := h, glb := g, bkl := b } ∧ h.busy = true ∧ h.loaded = false ∧ h.jobs = [bootJob] := by
  obtain ⟨h, g, hdrop, hjobs', hload⟩ := (c.onHns fun h => { h with bootTry := n, jobs := [bootJob] }).dropHarness_eq
  obtain ⟨b, hzero⟩ := Chip.zeroBuckles_eq { c with hns := h, glb := g }
  have hdrop' : (c.onHns fun h => { h with bootTry := n, jobs := [bootJob] }).dropHarness = { c with hns := h, glb := g } := hdrop
  rw [Chip.flashLoad_of_idle hjobs hrun harm hseal, hdrop', hzero]
  exact ⟨_, _, _, rfl, rfl, hload, hjobs'⟩

/-- Settles O31. -/
theorem controlRows : Obligations.ControlRows := by
  intro s hready
  refine ⟨fun k v hon => ?_, fun p v hon => ?_, fun mask => ?_, fun n v hsat hseal hoff => ?_, fun n v hsat hseal hon hup => ?_,
    fun mask => ?_, fun v hlow hhigh => ?_, ?_, fun k hon => ?_,
    fun hload hjobs hrun harm hseal => ?_⟩
  · exact ⟨_, exec_freeze_eq hready v hon, ⟨⟨rfl, rfl⟩, fun m hm => Chip.onChan_ne _ _ hm⟩, Chip.onChan_same ..⟩
  · exact ⟨_, exec_audRun_eq hready v hon, ⟨⟨rfl, rfl⟩, fun m hm => Chip.onAud_ne _ _ hm⟩, Chip.onAud_same ..⟩
  · have hrow := exec_audArmGo_eq hready mask
    refine ⟨_, hrow, ⟨rfl, rfl⟩, fun h => ?_, fun h => ?_⟩
    · simp [not_lt.mpr h]
    · simp [h]
  · have hst : ((s.chip.onLink n fun l => { l with enable := v, cap := 0 }).link n).state ≠ 5 := by
      rw [Chip.onLink_same, hoff]; decide
    obtain ⟨hframe, hstate, henable, hother⟩ := Chip.umlEnter_frame hst (if v then 1 else 0)
    refine ⟨_, exec_linkEnable_eq hready v hsat hseal hoff, ⟨rfl, ?_⟩, henable.trans ?_, hstate, fun m hm => ?_⟩
    · exact congrArg (fun c : Chip => { c with uml := { c.uml with links := s.chip.uml.links } }) hframe
    · rw [Chip.onLink_same]
    · exact (hother m hm).trans (Chip.onLink_ne _ _ hm)
  · have hst : ((s.chip.onLink n fun l => { l with cap := 0 }).link n).state ≠ 5 := by
      rw [Chip.onLink_same]; exact hup
    obtain ⟨hframe, hstate, henable, hother⟩ := Chip.umlEnter_frame hst 1
    refine ⟨_, exec_retrain_eq hready v hsat hseal hon, ⟨rfl, ?_⟩, hstate, henable.trans ?_, fun m hm => ?_⟩
    · exact congrArg (fun c : Chip => { c with uml := { c.uml with links := s.chip.uml.links } }) hframe
    · rw [Chip.onLink_same]
    · exact (hother m hm).trans (Chip.onLink_ne _ _ hm)
  · refine ⟨_, exec_cnsRelease_eq hready mask, ⟨rfl, s.chip.cenRelease_eq mask⟩, fun b => ?_⟩
    rw [Chip.cenRelease_bank]
    simp only [CBank.released, flag, Bool.and_eq_true]
  · have hrow : exec (.hifCmdProdWrite v) s = .next { s with chip := s.chip.cmdProdWritten v } := by
      rw [exec_hifCmdProdWrite, execHifCmdProdWrite, State.run_eq, if_pos hready]
    rw [Chip.cmdProdWritten, Chip.prodCheck_eq (by exact hlow) (by exact hhigh)] at hrow
    refine ⟨_, hrow, ?_, fun h => ?_, fun h => ?_⟩
    · split
      · exact ⟨rfl, rfl⟩
      · exact ⟨rfl, rfl⟩
    · have hin : ¬2 ^ s.chip.hif.cmdSize.toNat < ahead16 v s.chip.hif.cmdCons := Nat.not_lt.mpr h
      exact congrArg Chip.hif (if_neg hin)
    · exact congrArg Chip.hif (if_pos h)
  · intro v hres h0 h1 hlow hhigh far
    have hrow := exec_resync_eq hready v
    rw [Chip.hifCtlWritten_of_ends hres h1, Chip.prodCheck_eq (by exact hlow) (by exact hhigh)] at hrow
    rw [h0] at hrow
    split at hrow
    next hfar =>
      rw [show far = true from decide_eq_true hfar]
      exact ⟨_, hrow, ⟨rfl, rfl⟩, rfl⟩
    next hnear =>
      rw [show far = false from decide_eq_false hnear]
      exact ⟨_, hrow, ⟨rfl, rfl⟩, rfl⟩
  · have hrow := exec_memTmeSubmit_eq hready hon
    split at hrow
    next hroom =>
      have htme : ((s.chip.tmeAccept k (s.chip.tme k).submitted).tme k) =
          { s.chip.tme k with queue := (s.chip.tme k).queue ++ [(s.chip.tmeSlot k, (s.chip.tme k).submitted)] } :=
        Chip.onTme_same ..
      refine ⟨_, hrow, ⟨⟨rfl, rfl⟩, fun m hm => (Chip.onTme_ne _ _ hm).trans (Chip.onTme_ne s.chip _ hm)⟩, fun _ => ⟨?_,
        (s.chip.tme k).submitted, ?_, fun j hj => Tme.submitted_dNum _ hj⟩, fun h => absurd hroom (by omega)⟩
      · exact congrArg Tme.result (Chip.onTme_same ..)
      · exact (congrArg Tme.queue (Chip.onTme_same ..)).trans (congrArg Tme.queue htme)
    next hfull =>
      exact ⟨_, hrow, ⟨⟨rfl, rfl⟩, fun m hm => Chip.onTme_ne _ _ hm⟩, fun h => absurd h hfull, fun _ => Chip.onTme_same ..⟩
  · have hrow := exec_spiRetry_eq hready hload hjobs hrun harm
    obtain ⟨h, g, b, hflash, hbusy, hloaded, hjob⟩ := Chip.flashLoad_frame (n := 2) hjobs hrun harm hseal
    rw [hflash] at hrow
    exact ⟨_, hrow, ⟨rfl, rfl⟩, hbusy, hloaded, bootJob, hjob, rfl, rfl, rfl⟩

end Sys2Proof.Machine
end

section
/-!
PROOFS. Proofs/CommandChecks.lean: the checks of R588 on every opcode's row, the default matrix of R595, the session commands
(R490 to R498), and where a completion goes (R583 to R587, R598, R601).
-/
namespace Sys2Proof.Machine
open Sys2Proof

/-! ### The rows as commands -/

/-- A descriptor with a bit in bytes 32 to 63. -/
def reservedTail (d : Desc) : Prop := ∃ k, 32 ≤ k ∧ k < 64 ∧ dByte d k ≠ 0

/-- No operand list that ends by byte 32 names a byte beyond it. -/
theorem dClean_of_reservedTail {d : Desc} (h : reservedTail d) {ops : List (Nat × Nat)}
    (hops : ops.all (fun o => o.1 + o.2 ≤ 32) = true) : dClean d ops = false := by
  obtain ⟨k, hlow, hhigh, hbyte⟩ := h
  rw [dClean, List.all_eq_false]
  refine ⟨k, List.mem_range.mpr hhigh, ?_⟩
  have hnone : ops.any (fun o => o.1 ≤ k && k < o.1 + o.2) = false := by
    rw [List.any_eq_false]
    intro o ho
    have := List.all_eq_true.mp hops o ho
    simp only [decide_eq_true_eq, Bool.and_eq_true] at this ⊢
    omega
  have hk0 : k ≠ 0 := by omega
  have hk8 : ¬k < 8 := by omega
  have hbyte : ¬dByte d k = 0#8 := hbyte
  simp [hbyte, hk0, hk8, hnone]

theorem imageOps_all (src : Src) : (Chip.imageOps src).all (fun o => o.1 + o.2 ≤ 32) = true := by
  cases src <;> rfl

/-- Every listed opcode's row is a command of that opcode, whose fields refuse a bit in bytes 32 to 63. -/
theorem commandRows_command (s : State) (src : Src) (d : Desc) {r : Nat × Instr} (hr : r ∈ commandRows src d) :
    ∃ fields f, exec r.2 s = .next { s with chip := s.chip.command src d r.1 fields f } ∧
      (reservedTail d → ∀ c, fields c = false) := by
  simp only [commandRows, List.mem_cons, List.not_mem_nil, or_false] at hr
  obtain rfl | rfl | rfl | rfl | rfl | rfl | rfl | rfl | rfl | rfl | rfl | rfl | rfl | rfl | rfl | rfl := hr
  · exact ⟨_, _, rfl, fun h c => dClean_of_reservedTail h rfl⟩
  · refine ⟨_, _, rfl, fun h c => ?_⟩
    simp [Chip.reckonFields, dClean_of_reservedTail h (ops := [(8, 8), (16, 1)]) rfl]
  · refine ⟨_, _, rfl, fun h c => ?_⟩
    simp [dClean_of_reservedTail h (ops := [(8, 1), (16, 8)]) rfl]
  · refine ⟨_, _, rfl, fun h c => ?_⟩
    simp [dClean_of_reservedTail h (imageOps_all src)]
  · cases hflag : flag (dFlags d) 0
    · refine ⟨fun _ => dClean d ((20, 1) :: Chip.imageOps src) && Chip.imageOk src d, fun c => c.harnessRegion src d, ?_,
        fun h c => ?_⟩
      · simp [execHarnessRegion, hflag]
      · have hops : (((20, 1) : Nat × Nat) :: Chip.imageOps src).all (fun o => o.1 + o.2 ≤ 32) = true := by
          rw [List.all_cons, imageOps_all]; rfl
        simp [dClean_of_reservedTail h hops]
    · refine ⟨fun _ => dFlags d = 1 && dClean d [(1, 1), (20, 1)], fun c => c.harnessCancel src d, ?_, fun h c => ?_⟩
      · simp [execHarnessRegionCancel, hflag]
      · simp [dClean_of_reservedTail h (ops := [(1, 1), (20, 1)]) rfl]
  · exact ⟨_, _, rfl, fun h c => dClean_of_reservedTail h rfl⟩
  · exact ⟨_, _, rfl, fun h c => dClean_of_reservedTail h rfl⟩
  · exact ⟨_, _, rfl, fun h c => dClean_of_reservedTail h rfl⟩
  · exact ⟨_, _, rfl, fun h c => dClean_of_reservedTail h rfl⟩
  · refine ⟨_, _, rfl, fun h c => ?_⟩
    simp [dClean_of_reservedTail h (ops := Chip.buckleOps) rfl]
  · refine ⟨_, _, rfl, fun h c => ?_⟩
    simp [dClean_of_reservedTail h (ops := (1, 1) :: Chip.buckleOps) rfl]
  · refine ⟨_, _, rfl, fun h c => ?_⟩
    simp [Chip.settingsFields, dClean_of_reservedTail h (ops := [(8, 1), (10, 2), (12, 4), (16, 8), (24, 8)]) rfl]
  · refine ⟨_, _, rfl, fun h c => ?_⟩
    simp [dClean_of_reservedTail h (ops := [(8, 2), (10, 1), (16, 8)]) rfl]
  · exact ⟨_, _, rfl, fun h c => dClean_of_reservedTail h rfl⟩
  · exact ⟨_, _, rfl, fun h c => dClean_of_reservedTail h rfl⟩
  · refine ⟨_, _, rfl, fun h c => ?_⟩
    simp [dClean_of_reservedTail h (ops := [(8, 4)]) rfl]

/-! ### The steps of a command (R584, R588) -/

section
variable {s : State} {i : Instr} {src : Src} {d : Desc} {op : Nat} {fields : Chip → Bool} {f : Chip → Chip}
  (hrow : exec i s = .next { s with chip := s.chip.command src d op fields f })
include hrow

theorem exec_of_otherOpcode (hop : (dOpcode d).toNat ≠ op) : exec i s = .next s := by
  rw [hrow, Chip.command, if_pos hop]

theorem exec_of_waits (hop : (dOpcode d).toNat = op) (hstart : s.chip.mayStart src = false)
    (hnew : (src, d) ∉ s.chip.hif.waiting) : exec i s = .next { s with chip := s.chip.wait src d } := by
  have hin : s.chip.hif.waiting.contains (src, d) = false := by simpa using hnew
  rw [hrow, Chip.command, if_neg (not_not_intro hop), Chip.serve, hstart, hin]
  rfl

/-- A command that completes with a failing status alone. -/
theorem refuses_of_refuse {status : Byte}
    (h : s.chip.command src d op fields f = (s.chip.take src d).refuse src d status) : refuses s i src d status := by
  obtain ⟨r, n, hr⟩ := (s.chip.take src d).refuse_eq src d status
  exact ⟨r, n, by rw [answers, hrow, h, hr]⟩

theorem refuses_of_port (hop : (dOpcode d).toNat = op) (hstart : s.chip.mayStart src = true)
    (hissue : s.chip.mayIssue src op = false) : refuses s i src d 0x03 :=
  refuses_of_refuse hrow (by simp [Chip.command, Chip.serve, hop, hstart, hissue])

theorem refuses_of_fields (hs : served s src d op) (hf : ∀ c, fields c = false) : refuses s i src d 0x04 := by
  obtain ⟨hstart, hop, hissue⟩ := hs
  exact refuses_of_refuse hrow (by simp [Chip.command, Chip.serve, hop, hstart, hissue, hf])

end

/-- With the fields of a served command in order, the row is the opcode's effect on the chip that has taken the command. -/
theorem exec_of_served {s : State} {i : Instr} {src : Src} {d : Desc} {op : Nat} {fields : Chip → Bool} {f : Chip → Chip}
    (hrow : exec i s = .next { s with chip := s.chip.command src d op fields f }) (hs : served s src d op)
    (hf : fields (s.chip.take src d) = true) : exec i s = .next { s with chip := f (s.chip.take src d) } := by
  rw [hrow, Chip.command_of_served hs hf]

/-! ### The default matrix (R595) -/

theorem Chip.mayIssue_default {c : Chip} (hauth : c.hns.authority = []) (hseal : c.hns.sealed = false) {src : Src}
    (hstray : c.strayCmd src = false) (op : Nat) : c.mayIssue src op = c.matrixAllows src op := by
  simp [Chip.mayIssue, Chip.recordAllows, hauth, hseal, hstray]

theorem commandRows_opcodes (src : Src) (d : Desc) : (commandRows src d).map (fun r => r.1) = Chip.opcodes := rfl

/-- Settles O32. -/
theorem commandChecks : Obligations.CommandChecks := by
  intro s src d
  refine ⟨fun r hr => ?_, fun hnone hstart => ?_, fun hauth hseal => ⟨fun op => ?_, fun op => ?_, fun op => ?_, ?_⟩⟩
  · obtain ⟨fields, f, hrow, hfields⟩ := commandRows_command s src d hr
    exact ⟨exec_of_otherOpcode hrow,
      fun hop hstart hnew => ⟨_, exec_of_waits hrow hop hstart hnew, ⟨rfl, rfl⟩, rfl⟩,
      refuses_of_port hrow, fun hs htail => refuses_of_fields hrow hs (hfields htail)⟩
  · have hunlisted : Chip.opcodes.contains (dOpcode d).toNat = false := by
      rw [← Bool.not_eq_true, List.contains_iff_mem, ← commandRows_opcodes src d, List.mem_map]
      rintro ⟨r, hr, hop⟩
      exact hnone r hr hop.symm
    have hrefuse : (s.chip.take src d).refuse src d 0x09 = (s.chip.take src d).complete src (dTag d) (dOpcode d) 0x09 0 0 := by
      simp only [Chip.refuse, hunlisted, Bool.not_false, Bool.or_true, if_true]
    rw [answers, exec_badOpcode, execBadOpcode, State.run_eq, hunlisted, if_neg Bool.false_ne_true, Chip.serve, if_pos hstart,
      hrefuse]
    rfl
  · rw [Chip.mayIssue_default hauth hseal rfl]; rfl
  · rw [Chip.mayIssue_default hauth hseal rfl]
    simp [Chip.matrixAllows, or_assoc]
  · rw [Chip.mayIssue_default hauth hseal rfl]
    simp [Chip.matrixAllows]
    tauto
  · intro chip e tag op hfar
    rw [Chip.mayIssue_default hauth hseal (by simp [Chip.strayCmd, hfar])]
    simp [Chip.matrixAllows, or_assoc]

/-! ### Sessions (R490 to R498, R593, R655) -/

section
variable (c : Chip) (src : Src) (d : Desc)

@[simp] theorem Chip.take_session (i : BitVec 10) : (c.take src d).session i = c.session i := by rw [Chip.take_eq]; rfl
@[simp] theorem Chip.take_sfe : (c.take src d).sfe = c.sfe := by rw [Chip.take_eq]
@[simp] theorem Chip.take_sesClass (cls : BitVec 16) : (c.take src d).sesClass cls = c.sesClass cls := by
  rw [Chip.take_eq]; rfl
@[simp] theorem Chip.take_today32 : (c.take src d).today32 = c.today32 := by rw [Chip.take_eq]; rfl
@[simp] theorem Chip.take_adaptRoom : (c.take src d).adaptRoom = c.adaptRoom := by rw [Chip.take_eq]; rfl

end

/-- The row of a command that is served and refused in its own checks. -/
theorem refuses_of_served {s : State} {i : Instr} {src : Src} {d : Desc} {op : Nat} {fields : Chip → Bool} {f : Chip → Chip}
    {status : Byte} (hrow : exec i s = .next { s with chip := s.chip.command src d op fields f }) (hs : served s src d op)
    (hf : fields (s.chip.take src d) = true) (h : f (s.chip.take src d) = (s.chip.take src d).refuse src d status) :
    refuses s i src d status :=
  refuses_of_refuse hrow ((Chip.command_of_served hs hf).trans h)

/-- The row of a command that is served and completes DONE. -/
theorem answers_of_served {s : State} {i : Instr} {src : Src} {d : Desc} {op : Nat} {fields : Chip → Bool} {f g : Chip → Chip}
    {aux : Byte} {r : BitVec 64} (hrow : exec i s = .next { s with chip := s.chip.command src d op fields f })
    (hs : served s src d op) (hf : fields (s.chip.take src d) = true)
    (h : f (s.chip.take src d) = (g (s.chip.take src d)).done src d aux r) : answers s i src d 0 aux r g := by
  rw [answers, exec_of_served hrow hs hf, h]
  rfl

/-- The lowest free slot of a class. -/
theorem Chip.find_slot {c : Chip} {b : List Byte} {k : Nat} (hk : k < slotCount b)
    (hbusy : ∀ j, j < k → (c.session (BitVec.ofNat 10 (slotFirst b + j))).state ≠ 0)
    (hfree : (c.session (BitVec.ofNat 10 (slotFirst b + k))).state = 0) :
    ((List.range (slotCount b)).map fun k => slotFirst b + k).find?
      (fun i => (c.session (BitVec.ofNat 10 i)).state = 0) = some (slotFirst b + k) := by
  have hfirst : (List.range (slotCount b)).find?
      (fun j => decide ((c.session (BitVec.ofNat 10 (slotFirst b + j))).state = 0)) = some k := by
    rw [List.find?_range_eq_some]
    exact ⟨decide_eq_true hfree, List.mem_range.mpr hk, fun j hj => by simpa using hbusy j hj⟩
  rw [List.find?_map]
  exact congrArg (Option.map fun k => slotFirst b + k) hfirst

theorem Chip.sessionOpen_of_slot {c : Chip} {src : Src} {d : Desc} {b : List Byte} {i : Nat} (hrun : c.alm.running = true)
    (hclass : c.sesClass (BitVec.ofNat 16 (dNum d 8 2)) = some b)
    (hslot : ((List.range (slotCount b)).map fun k => slotFirst b + k).find?
      (fun i => (c.session (BitVec.ofNat 10 i)).state = 0) = some i) :
    c.sessionOpen src d =
      (c.onSession (BitVec.ofNat 10 i) fun _ => { Session.init with
        state := 1, cls := BitVec.ofNat 16 (dNum d 8 2), bindDay := c.today32 + 2
        cookie := BitVec.ofNat 32 (dNum d 12 4) }).done src d 0 (BitVec.ofNat 64 (i + (c.today32 + 2).toNat * 2 ^ 32)) := by
  simp only [Chip.sessionOpen, hrun, Bool.not_true, Bool.false_eq_true, if_false, hclass, hslot]

/-- A CLOSE that is possible. -/
theorem Chip.sessionClose_of_open {c : Chip} {src : Src} {d : Desc} (hn : dNum d 8 2 < 1024)
    (hst : (c.session (BitVec.ofNat 10 (dNum d 8 2))).state = 1 ∨ (c.session (BitVec.ofNat 10 (dNum d 8 2))).state = 2) :
    c.sessionClose src d =
      (let e := c.onSession (BitVec.ofNat 10 (dNum d 8 2)) fun x => { x with state := 3, closeDay := c.today32 + 2 }
       ({ e with sfe := { e.sfe with holdq := e.sfe.holdq.filter fun j => j ≠ BitVec.ofNat 10 (dNum d 8 2) } } : Chip)).done
        src d 0 (c.alm.dayCount + 2) := by
  have hgo : ¬(decide (1024 ≤ dNum d 8 2) || !(decide ((c.session (BitVec.ofNat 10 (dNum d 8 2))).state = 1) ||
      decide ((c.session (BitVec.ofNat 10 (dNum d 8 2))).state = 2))) = true := by
    simpa [hn, or_iff_not_imp_left] using hst
  simp only [Chip.sessionClose, if_neg hgo]
  rfl

theorem Chip.sessionClose_of_bad {c : Chip} {src : Src} {d : Desc}
    (h : 1024 ≤ dNum d 8 2 ∨ ((c.session (BitVec.ofNat 10 (dNum d 8 2))).state ≠ 1 ∧
      (c.session (BitVec.ofNat 10 (dNum d 8 2))).state ≠ 2)) : c.sessionClose src d = c.refuse src d 0x04 := by
  have hbad : (decide (1024 ≤ dNum d 8 2) || !(decide ((c.session (BitVec.ofNat 10 (dNum d 8 2))).state = 1) ||
      decide ((c.session (BitVec.ofNat 10 (dNum d 8 2))).state = 2))) = true := by
    simpa using h
  simp only [Chip.sessionClose, if_pos hbad]

section
variable {c : Chip} {src : Src} {d : Desc} {b : List Byte} (hn : dNum d 8 2 < 1024)
  (hst : (c.session (BitVec.ofNat 10 (dNum d 8 2))).state = 2)
  (hadapt : (c.session (BitVec.ofNat 10 (dNum d 8 2))).adapt = false)
  (hheld : BitVec.ofNat 10 (dNum d 8 2) ∉ c.sfe.holdq)
  (hclass : c.sesClass (c.session (BitVec.ofNat 10 (dNum d 8 2))).cls = some b) (hok : Chip.sesAdaptOk b = true)
include hn hst hadapt hheld hclass hok

theorem Chip.sessionAdapt_of_room (hroom : c.adaptRoom = true) :
    c.sessionAdapt src d =
      (c.onSession (BitVec.ofNat 10 (dNum d 8 2)) fun x => { x with adapt := true, adaptDay := c.alm.dayCount + 2 }).done
        src d 0 (c.alm.dayCount + 2) := by
  simp [Chip.sessionAdapt, hn, hst, hadapt, hheld, hclass, hok, hroom, Chip.startAdapt]

theorem Chip.sessionAdapt_of_held (hroom : c.adaptRoom = false) (hlen : c.sfe.holdq.length < 64) :
    ∃ (r : BitVec 64) (n : Nat), c.sessionAdapt src d =
      ({ c with sfe := { c.sfe with holdq := c.sfe.holdq ++ [BitVec.ofNat 10 (dNum d 8 2)] }, free := n } : Chip).complete
        src (dTag d) (dOpcode d) 0x01 (BitVec.ofNat 8 (c.sfe.holdq.length + 1)) r := by
  refine ⟨(c.drawBits 64).1, c.free + 1, ?_⟩
  simp [Chip.sessionAdapt, hn, hst, hadapt, hheld, hclass, hok, hroom, hlen, Chip.drawBits]

end

/-- Settles O34. -/
theorem sessionCommands : Obligations.SessionCommands := by
  intro s src d b k today i slot
  have hcls : BitVec.ofNat 16 (dNum d 8 2) = d.extractLsb' 64 16 := ofNat_dNum d le_rfl
  have hcookie : BitVec.ofNat 32 (dNum d 12 4) = d.extractLsb' 96 32 := ofNat_dNum d le_rfl
  have hi : BitVec.ofNat 10 (dNum d 8 2) = i := ofNat_dNum d (by decide)
  refine ⟨fun hs hclean => ⟨fun hrun => ?_, fun hrun hclass => ?_, fun hrun hclass hk hbusy hfree => ?_⟩,
    fun hs hclean => ⟨fun hn hst => ?_, fun hbad => ?_⟩,
    fun hs hclean hn hst hadapt hheld hclass hok => ⟨fun hroom => ?_, fun hroom hlen => ?_⟩⟩
  · exact refuses_of_served rfl hs hclean (by simp [Chip.sessionOpen, hrun])
  · exact refuses_of_served rfl hs hclean (by simp [Chip.sessionOpen, hrun, hcls, hclass])
  · refine answers_of_served rfl hs hclean ((Chip.sessionOpen_of_slot (i := Chip.slotFirst b + k) (by simpa using hrun)
      (by rw [hcls]; simpa using hclass) ?_).trans ?_)
    · exact Chip.find_slot hk (by simpa using hbusy) (by simpa using hfree)
    · rw [hcls, hcookie, Chip.take_today32]; rfl
  · rw [← hi] at hst ⊢
    refine answers_of_served rfl hs hclean ((Chip.sessionClose_of_open hn (by simpa using hst)).trans ?_)
    rw [Chip.take_today32, Chip.take_alm]; rfl
  · rw [← hi] at hbad
    exact refuses_of_served rfl hs hclean (Chip.sessionClose_of_bad (by simpa using hbad))
  · rw [← hi] at *
    refine answers_of_served rfl hs hclean ((Chip.sessionAdapt_of_room hn (by simpa using hst) (by simpa using hadapt)
      (by simpa using hheld) (by simpa using hclass) hok ?_).trans ?_)
    · rw [Chip.take_adaptRoom]; exact decide_eq_true hroom
    · rw [Chip.take_alm]
  · rw [← hi] at *
    obtain ⟨r, n, hr⟩ := Chip.sessionAdapt_of_held (c := s.chip.take src d) (src := src) hn (by simpa using hst) (by simpa using hadapt)
      (by simpa using hheld) (by simpa using hclass) hok
      (by rw [Chip.take_adaptRoom]; exact decide_eq_false (Nat.not_lt.mpr hroom)) (by simpa using hlen)
    refine ⟨r, n, ?_⟩
    rw [answers, exec_of_served rfl hs hclean, hr, Chip.take_sfe]

end Sys2Proof.Machine
end

section
/-!
PROOFS. Proofs/Completions.lean: where a completion goes (R583 to R587, R598, R601): the queue, the host's ring, or a packet.
-/
namespace Sys2Proof.Machine
open Sys2Proof

/-! ### Bytes and lines -/

theorem leBytes_leNat (bs : List Byte) : leBytes bs.length (leNat bs) = bs := by
  induction bs with
  | nil => rfl
  | cons b bs ih =>
    have hb := b.isLt
    have hlow : BitVec.ofNat 8 (b.toNat + 256 * leNat bs) = b := by
      apply BitVec.eq_of_toNat_eq
      rw [BitVec.toNat_ofNat]; omega
    have hrest : (b.toNat + 256 * leNat bs) / 256 = leNat bs := by omega
    rw [List.length_cons, leNat, leBytes, hlow, hrest, ih]

/-- The bytes of a line that was built from them. -/
theorem lineBytes_lineOf {bs : List Byte} (h : bs.length ≤ 32) : lineBytes (lineOf bs) bs.length = bs := by
  have hlt : leNat bs < 2 ^ 256 := lt_of_lt_of_le (leNat_lt bs) (by
    calc 256 ^ bs.length ≤ 256 ^ 32 := Nat.pow_le_pow_right (by decide) h
      _ = 2 ^ 256 := by norm_num)
  rw [lineBytes, lineOf, List.take_of_length_le h, BitVec.toNat_ofNat, Nat.mod_eq_of_lt hlt, leBytes_leNat]

/-- A packet keeps a payload of its LEN. -/
theorem lineBytes_cutLine {bs : List Byte} (h : bs.length ≤ 32) :
    lineBytes (cutLine (lineOf bs) bs.length) bs.length = bs := by
  rw [cutLine, lineBytes_lineOf h, lineBytes_lineOf h]

/-! ### Packets sent (R271, R276) -/

/-- A packet of a VC other than 1 waits for its place at the router, with the source's header fields. -/
theorem Chip.send_outq {c : Chip} {e : Eid} {p : Packet} (hvc : p.vc ≠ 1) (delay : Nat) :
    ((c.send e p delay).endp e).outq = (c.endp e).outq ++ [⟨(c.stamp e p).1, c.now + delay⟩] := by
  have hstamp : ((c.stamp e p).2.endp e).outq = (c.endp e).outq := by
    rw [Chip.stamp, Chip.onEndp_same]
  rw [Chip.send, if_neg hvc, ← hstamp]
  exact congrArg Endp.outq (Chip.onEndp_same ..)

/-! ### Completions -/

theorem Chip.completionBytes_length (k : Completion) (phase : Bool) : (Chip.completionBytes k phase).length = 16 := by
  simp [Chip.completionBytes, Skv.leBytes_length]

/-- A completion that is no REFUSED_PORT, on the PCIe ring. -/
theorem Chip.complete_pcie {c : Chip} {st : Byte} (hst : st ≠ 0x03) (tag : Word) (op aux : Byte) (r : BitVec 64) :
    c.complete .pcie tag op st aux r =
      ((c.hostWrite (c.hif.cplBase.toNat + 16 * (c.hif.cplProd.toNat % 2 ^ c.hif.cplSize.toNat))
        (Chip.completionBytes ⟨tag, op, st, 0, aux, r⟩ ((c.hif.cplProd.toNat / 2 ^ c.hif.cplSize.toNat) % 2 = 0))).onHif fun h =>
          { h with cplProd := h.cplProd + 1 }).vector 0 := by
  simp only [Chip.complete, if_neg hst]
  rfl

theorem Chip.vector_of_masked {c : Chip} {v : Nat} (h : flag (tget msixMasked c.hif.msix v) 96 = true) :
    c.vector v = c.onHif fun x => { x with pba := x.pba ||| (1 <<< v) } := by
  simp only [Chip.vector, h, if_true]

section
variable {c : Chip} {st : Byte} (hst : st ≠ 0x03) (tag : Word) (op aux : Byte) (r : BitVec 64)
include hst

theorem Chip.complete_i3c : c.complete .i3c tag op st aux r =
    (c.onI3c fun x => { x with cpls := x.cpls ++ [⟨tag, op, st, 1, aux, r⟩] }).emit (.ibi c.i3cAddress 0x01) := by
  simp only [Chip.complete, if_neg hst]
  rfl

theorem Chip.complete_jtag : c.complete .jtag tag op st aux r =
    c.onJtag fun x => { x with cpls := x.cpls ++ [⟨tag, op, st, 2, aux, r⟩] } := by
  simp only [Chip.complete, if_neg hst]
  rfl

theorem Chip.complete_umaed (chip : BitVec 16) (e : Eid) (t : BitVec 16) : c.complete (.umaed chip e t) tag op st aux r =
    c.send eidCmd (packet chip tCmdRsp 2 e 16 0 t (lineOf (completionBytes ⟨tag, op, st, 3, aux, r⟩ false))) := by
  simp only [Chip.complete, if_neg hst]
  rfl

end

/-- Settles O36. -/
theorem completionPorts : Obligations.CompletionPorts := by
  intro c tag op st aux r hst bytes done
  refine ⟨?_, ?_, ?_, ?_, fun chip e t => ?_, fun hmask => ?_⟩
  · exact congrArg Chip.hif (Chip.complete_i3c hst tag op aux r)
  · exact congrArg Chip.out (Chip.complete_i3c hst tag op aux r)
  · exact congrArg Chip.hif (Chip.complete_jtag hst tag op aux r)
  · exact (congrArg Chip.out (Chip.complete_jtag hst tag op aux r) :)
  · have hout := Chip.send_outq (c := c) (e := eidCmd) (p := packet chip tCmdRsp 2 e 16 0 t
      (lineOf (Chip.completionBytes ⟨tag, op, st, 3, aux, r⟩ false))) (show (2 : BitVec 2) ≠ 1 by decide) 0
    rw [← Chip.complete_umaed hst] at hout
    refine ⟨_, hout, rfl, rfl, rfl, rfl, rfl, ?_⟩
    have hlen := Chip.completionBytes_length ⟨tag, op, st, 3, aux, r⟩ false
    have hline := lineBytes_cutLine (bs := Chip.completionBytes ⟨tag, op, st, 3, aux, r⟩ false) (by rw [hlen]; decide)
    rw [hlen] at hline
    exact hline
  · have hdone : done .pcie = _ := Chip.complete_pcie hst tag op aux r
    rw [Chip.vector_of_masked (by exact hmask)] at hdone
    generalize done .pcie = e at hdone
    subst hdone
    have hbytes (phase : Bool) : Chip.completionBytes ⟨tag, op, st, 0, aux, r⟩ phase = bytes (if phase then 0x80 else 0) := by
      cases phase <;> rfl
    have hlen := Chip.completionBytes_length ⟨tag, op, st, 0, aux, r⟩
      (decide ((c.hif.cplProd.toNat / 2 ^ c.hif.cplSize.toNat) % 2 = 0))
    refine ⟨rfl, rfl, fun j hj => ?_, fun a ha => ?_⟩
    · refine (mget_mwrite_in _ _ _ j (by rw [hlen]; exact hj)).trans ?_
      rw [hbytes]
      by_cases hphase : (c.hif.cplProd.toNat / 2 ^ c.hif.cplSize.toNat) % 2 = 0 <;> simp [hphase]
    · refine mget_mwrite_out _ _ _ a ?_
      rw [hlen]
      by_contra h
      exact ha (a - (c.hif.cplBase.toNat + 16 * (c.hif.cplProd.toNat % 2 ^ c.hif.cplSize.toNat))) (by omega) (by omega)

end Sys2Proof.Machine
end

section
/-!
PROOFS. Proofs/LoaderCommands.lean: the commands of the loader, RECKON, CENSUS and the buckle commands (03_harness, 13_host,
14_census).
-/
namespace Sys2Proof.Machine
open Sys2Proof

/-! ### Full loads (R133, R135) -/

section
variable (c : Chip) (src : Src) (d : Desc)

@[simp] theorem Chip.take_part : (c.take src d).part = c.part := by rw [Chip.take_eq]
@[simp] theorem Chip.take_region (r : BitVec 6) : (c.take src d).region r = c.region r := by rw [Chip.take_eq]; rfl
@[simp] theorem Chip.take_namedRegion : (c.take src d).namedRegion d = c.namedRegion d := by rw [Chip.take_eq]; rfl
@[simp] theorem Chip.take_isHere (chip : BitVec 16) : (c.take src d).isHere chip = c.isHere chip := by rw [Chip.take_eq]; rfl
@[simp] theorem Chip.take_cns : (c.take src d).cns = c.cns := by rw [Chip.take_eq]
@[simp] theorem Chip.take_reckonFields : (c.take src d).reckonFields src d = c.reckonFields src d := by
  rw [Chip.take_eq]; rfl
@[simp] theorem Chip.take_cyclesTo (t : Lts) : (c.take src d).cyclesTo t = c.cyclesTo t := by rw [Chip.take_eq]; rfl

end

/-- A job that joins an idle loader begins at once. -/
theorem Chip.addJob_of_idle {c : Chip} (hjobs : c.hns.jobs = []) (j : LoadJob) :
    c.addJob j = (c.onHns fun h => { h with jobs := [j] }).beginJob := by
  have hidle : c.hns.jobs.isEmpty = true := by rw [hjobs]; rfl
  have hone : (c.onHns fun h => { h with jobs := h.jobs ++ [j] }) = c.onHns fun h => { h with jobs := [j] } := by
    simp only [Chip.onHns, hjobs, List.nil_append]
  simp only [Chip.addJob, hidle, if_true, hone]

/-- A full load begins: the harness in force goes, and every buckle's count with it. -/
theorem Chip.beginJob_of_full {c : Chip} {j : LoadJob} (hjobs : c.hns.jobs = [j]) (hfull : Chip.isFull j = true)
    (hrun : c.alm.running = false) (harm : c.alm.armed = false) (hseal : c.hns.sealed = false) :
    c.beginJob = (c.dropHarness.zeroBuckles).onHns fun h =>
      { h with busy := true, left := if !j.fromBoot && j.length = 0 then 0 else Chip.fetchTime j, read := [] } := by
  have hstale : c.refuseStale = c := by
    simp only [Chip.refuseStale, hrun, harm, hseal, Bool.or_self, Bool.false_eq_true, if_false]
  simp only [Chip.beginJob, hstale, hjobs, hfull, if_true]

/-- What a full load's start leaves of the harness in force. -/
theorem Chip.dropHarness_gone (c : Chip) :
    ∃ h g, c.dropHarness = { c with hns := h, glb := g } ∧ h.loaded = false ∧ h.records = [] ∧ h.jobs = c.hns.jobs ∧
      g.profile = 3 ∧ g.epoch = c.glb.epoch := by
  unfold Chip.dropHarness
  exact ⟨_, _, rfl, rfl, rfl, rfl, rfl, rfl⟩

/-- A value that every entry of a table has, and the default too, is what any place of it reads. -/
theorem tget_all {α β : Type} {d : α} {g : α → β} {v : β} (hd : g d = v) {t : Table α} (ht : ∀ e ∈ t, g e.2 = v) (k : Nat) :
    g (tget d t k) = v := by
  induction t with
  | nil => exact hd
  | cons e t ih =>
    obtain ⟨i, x⟩ := e
    simp only [tget]
    split
    · exact ht (i, x) (by simp)
    · exact ih fun e he => ht e (by simp [he])

theorem Chip.zeroBuckles_count (c : Chip) (n : BitVec 12) : (c.zeroBuckles.buckle n).count = 0 := by
  refine tget_all (g := Buckle.count) rfl (fun e he => ?_) n.toNat
  obtain ⟨f, -, rfl⟩ := List.mem_map.mp (List.mem_of_mem_filter he)
  rfl

theorem Chip.zeroBuckles_frame (c : Chip) :
    ∃ b, c.zeroBuckles = { c with bkl := b } ∧ ∀ n, (({ c with bkl := b } : Chip).buckle n).count = 0 :=
  ⟨_, rfl, c.zeroBuckles_count⟩

/-- Nothing to discard: the loader is idle. -/
theorem Chip.discardJobs_of_idle {c : Chip} (hjobs : c.hns.jobs = []) (p : LoadJob → Bool) : c.discardJobs p = c := by
  have hsame : (c.onHns fun h => { h with jobs := h.jobs.filter fun j => Chip.isFull j || !(p j) }) = c := by
    simp only [Chip.onHns, hjobs, List.filter_nil]
    rw [← hjobs]
  simp only [Chip.discardJobs, hsame]
  simp only [hjobs, List.filter_nil, List.foldl_nil, Bool.false_eq_true, if_false]

theorem Chip.beginJob_of_region {c : Chip} {j : LoadJob} (hjobs : c.hns.jobs = [j]) (hfull : Chip.isFull j = false) :
    c.beginJob = c.onHns fun h =>
      { h with busy := true, left := if !j.fromBoot && j.length = 0 then 0 else Chip.fetchTime j, read := [] } := by
  have hstale : c.refuseStale = c := by
    unfold Chip.refuseStale
    split
    · have hkeep : (c.onHns fun h => { h with jobs := h.jobs.dropWhile Chip.isFull }) = c := by
        simp only [Chip.onHns, hjobs, List.dropWhile_cons, hfull, Bool.false_eq_true, if_false]
        rw [← hjobs]
      simp only [hjobs, List.takeWhile_cons, hfull, Bool.false_eq_true, if_false, List.foldl_nil, hkeep]
    · rfl
  simp only [Chip.beginJob, hstale, hjobs, hfull, Bool.false_eq_true, if_false]

theorem not_sealed_of_served_load {s : State} {src : Src} {d : Desc} (h : served s src d 0x10) : s.chip.hns.sealed = false := by
  obtain ⟨-, -, hissue⟩ := h
  simp only [Chip.mayIssue, decide_true, Bool.true_and, Bool.and_eq_true, Bool.not_eq_true'] at hissue
  exact hissue.2

theorem isFull_jobOf {src : Src} {d : Desc} {r : BitVec 6} : Chip.isFull (Chip.jobOf src d r) = decide ((dOpcode d).toNat = 0x10) := by
  simp only [Chip.isFull, Chip.jobOf]
  congr 1
  exact propext ⟨fun h => congrArg BitVec.toNat h, fun h => BitVec.eq_of_toNat_eq h⟩

/-- HARNESS_LOAD with nothing under way. -/
theorem harnessLoad_starts {s : State} {src : Src} {d : Desc} (hs : served s src d 0x10)
    (hclean : dClean d (Chip.imageOps src) = true) (hok : Chip.imageOk src d = true) (hrun : s.chip.alm.running = false)
    (harm : s.chip.alm.armed = false) (hjobs : s.chip.hns.jobs = []) :
    exec (.harnessLoad src d) s = .next { s with
      chip := (((s.chip.take src d).onHns fun h => { h with jobs := [Chip.jobOf src d 0] }).dropHarness.zeroBuckles).onHns
        fun h => { h with
          busy := true
          left := if !(Chip.jobOf src d 0).fromBoot && (Chip.jobOf src d 0).length = 0 then 0
            else Chip.fetchTime (Chip.jobOf src d 0)
          read := [] } } := by
  have hfields : (dClean d (Chip.imageOps src) && Chip.imageOk src d) = true := by rw [hclean, hok]; rfl
  have hseal := not_sealed_of_served_load hs
  have hfull : Chip.isFull (Chip.jobOf src d 0) = true := by rw [isFull_jobOf, opcode_of_served hs]; rfl
  have hjobs' : (s.chip.take src d).hns.jobs = [] := by rw [Chip.take_hns, hjobs]
  rw [exec_of_served rfl hs hfields, Chip.harnessLoad, Chip.take_alm, hrun, harm, Bool.or_self, if_neg Bool.false_ne_true,
    Chip.discardJobs_of_idle hjobs', Chip.addJob_of_idle hjobs', Chip.beginJob_of_full rfl hfull (by simpa using hrun)
      (by simpa using harm) (by simpa using hseal)]

/-- HARNESS_REGION with nothing under way. -/
theorem Chip.harnessRegion_starts {c : Chip} {src : Src} {d : Desc} {r : BitVec 6} (hop : (dOpcode d).toNat ≠ 0x10)
    (hnamed : c.namedRegion d = some r) (hidle : (c.region r).state = 0) (hjobs : c.hns.jobs = []) :
    c.harnessRegion src d =
      ((c.onRegion r fun x => { x with state := 1 }).onHns fun h => { h with jobs := [jobOf src d r] }).onHns fun h => { h with
        busy := true
        left := if !(jobOf src d r).fromBoot && (jobOf src d r).length = 0 then 0 else fetchTime (jobOf src d r)
        read := [] } := by
  have hfull : isFull (jobOf src d r) = false := by rw [isFull_jobOf]; exact decide_eq_false hop
  have hzero : ¬((c.region r).state ≠ 0) := not_not_intro hidle
  simp only [Chip.harnessRegion, hnamed, if_neg hzero]
  rw [Chip.addJob_of_idle (by exact hjobs), Chip.beginJob_of_region rfl hfull]

theorem Chip.harnessRegion_of_busy {c : Chip} {src : Src} {d : Desc} {r : BitVec 6} (hnamed : c.namedRegion d = some r)
    (hbusy : (c.region r).state ≠ 0) : c.harnessRegion src d = c.refuse src d 0x05 := by
  simp only [Chip.harnessRegion, hnamed, if_pos hbusy]

/-- A pending region image is taken back before its day. -/
theorem Chip.harnessCancel_of_pending {c : Chip} {src : Src} {d : Desc} {r : BitVec 6} (hnamed : c.namedRegion d = some r)
    (hst : (c.region r).state = 2) (hday : c.alm.running = false ∨ c.alm.dayCount.toNat < (c.region r).applyDay.toNat) :
    c.harnessCancel src d = (c.onRegion r fun y => { y with state := 0, image := none }).refuse src d 0x00 := by
  have hgo : ¬(c.alm.running && decide ((c.region r).applyDay.toNat ≤ c.alm.dayCount.toNat)) = true := by
    rw [Bool.and_eq_true, decide_eq_true_eq]
    rintro ⟨hrun, hle⟩
    obtain h | h := hday
    · rw [h] at hrun; exact Bool.false_ne_true hrun
    · omega
  have hnat : (c.region r).state.toNat = 2 := by rw [hst]; rfl
  simp only [Chip.harnessCancel, hnamed, Chip.cancelRegion, hnat, if_neg hgo]

theorem Chip.harnessCancel_of_due {c : Chip} {src : Src} {d : Desc} {r : BitVec 6} (hnamed : c.namedRegion d = some r)
    (hst : (c.region r).state = 2) (hrun : c.alm.running = true) (hday : (c.region r).applyDay.toNat ≤ c.alm.dayCount.toNat) :
    c.harnessCancel src d = c.refuse src d 0x05 := by
  have hnat : (c.region r).state.toNat = 2 := by rw [hst]; rfl
  simp only [Chip.harnessCancel, hnamed, Chip.cancelRegion, hnat, hrun, hday, decide_true, Bool.and_self, if_true]

/-! ### RECKON to a peer (R617) -/

theorem Chip.send_vc1 {c : Chip} {e : Eid} {p : Packet} (hvc : p.vc = 1) :
    c.send e p = c.onEndp e fun x => { x with queue := x.queue ++ [p] } := by
  rw [Chip.send, if_pos hvc]

/-- Packets of VC1 sent one after another wait in the endpoint's queue. -/
theorem Chip.foldl_send_vc1 {α : Type} {e : Eid} {p : α → Packet} (hvc : ∀ a, (p a).vc = 1) (l : List α) (c : Chip) :
    ∃ fab, l.foldl (fun c a => c.send e (p a)) c = { c with fab := fab } ∧
      (({ c with fab := fab } : Chip).endp e).queue = (c.endp e).queue ++ l.map p := by
  induction l generalizing c with
  | nil => exact ⟨c.fab, rfl, (List.append_nil _).symm⟩
  | cons a l ih =>
    obtain ⟨fab, hfold, hqueue⟩ := ih (c.send e (p a))
    have hsend := Chip.send_vc1 (c := c) (e := e) (hvc a)
    have hone : ((c.send e (p a)).endp e).queue = (c.endp e).queue ++ [p a] := by
      rw [hsend]; exact congrArg Endp.queue (Chip.onEndp_same ..)
    refine ⟨fab, ?_, ?_⟩
    · rw [List.foldl_cons, hfold, hsend]; rfl
    · have hqueue' : (({ c with fab := fab } : Chip).endp e).queue = ((c.send e (p a)).endp e).queue ++ l.map p := hqueue
      rw [hqueue', hone, List.append_assoc]; rfl

/-! ### CENSUS (R633, R634) -/

/-- A completion changes the host interface, host memory, what the ports put out and the fabric. -/
theorem Chip.complete_eq (c : Chip) (src : Src) (tag : Word) (op st aux : Byte) (r : BitVec 64) :
    ∃ hif mem out fab, c.complete src tag op st aux r = { c with hif := hif, hostMem := mem, out := out, fab := fab } := by
  have hcount : ∃ hif, (if st = 0x03 then c.onHif fun h => { h with refused := satInc h.refused } else c) =
      { c with hif := hif } := by
    split
    · exact ⟨_, rfl⟩
    · exact ⟨c.hif, rfl⟩
  obtain ⟨hif, hcount⟩ := hcount
  unfold Chip.complete
  simp only [hcount]
  cases src with
  | pcie => exact ⟨_, _, _, _, Chip.vector_eq _ _⟩
  | i3c => exact ⟨_, _, _, _, rfl⟩
  | jtag => exact ⟨_, _, _, _, rfl⟩
  | umaed chip e t => exact ⟨_, _, _, _, Chip.send_eq _ _ _ _⟩

theorem Chip.onArm_same (c : Chip) (a : BitVec 2) (x : Arm) : (c.onArm a x).arm a = x := tget_tput_same _ _ _ _

theorem Chip.onArm_ne (c : Chip) {a b : BitVec 2} (x : Arm) (h : b ≠ a) : (c.onArm a x).arm b = c.arm b :=
  tget_tput_ne _ _ _ fun hk => h (BitVec.eq_of_toNat_eq hk)

/-- A first trigger, with no latch made or pending and DRIVE 0. -/
theorem Chip.trigger_of_quiet {c : Chip} (hpend : c.cns.pending = []) (hmade : c.cns.made = []) (hdrive : c.cns.drive = false)
    (l : Latch) :
    c.trigger l = (c.onCns fun k => { k with pending := [{ l with at_ := c.now + 16 }] }).post 16 .censusLatch := by
  have hpin : c.drivePin = c := by simp only [Chip.drivePin, hdrive, Bool.false_eq_true, if_false]
  simp only [Chip.trigger, hpin, ite_self, hpend, hmade, List.any_nil, Bool.or_self, Bool.false_and, Bool.false_eq_true,
    if_false]
  have hone : (c.onCns fun k => { k with pending := k.pending ++ [{ l with at_ := c.now + 16 }] }) =
      c.onCns fun k => { k with pending := [{ l with at_ := c.now + 16 }] } := by
    simp only [Chip.onCns, hpend, List.nil_append]
  rw [hone]

theorem Chip.census_now {c : Chip} {src : Src} {d : Desc} (hmode : dNum d 8 1 = 0) (hpend : c.cns.pending = [])
    (hmade : c.cns.made = []) (hdrive : c.cns.drive = false) :
    c.census src d =
      (c.onCns fun k => { k with pending := [⟨c.now + 16, 2, 0, 0, 0, some (src, dTag d)⟩] }).post 16 .censusLatch := by
  simp only [Chip.census, hmode, if_true, Chip.trigger_of_quiet hpend hmade hdrive, hpend]
  rfl

/-- A census armed at its target in the lowest slot. -/
theorem Chip.census_armed {c : Chip} {src : Src} {d : Desc} (hmode : dNum d 8 1 = 1) (hrun : c.alm.running = true)
    (hahead : 64 ≤ c.cyclesTo (d.extractLsb' 128 64)) (hfree : (c.arm 0).state = 0) :
    ∃ ag, c.census src d =
      ({ c.onArm 0 ⟨1, d.extractLsb' 128 64, 0⟩ with agenda := ag } : Chip).done src d 0 (d.extractLsb' 128 64) := by
  have hslot : armSlots.find? (fun a => decide ((c.arm a).state = 0)) = some 0 := by
    rw [armSlots, List.find?_cons, decide_eq_true hfree]
  have hgo : ¬(!c.alm.running || decide (c.cyclesTo (fld d 128 64) < 64) || decide (c.cyclesTo (fld d 128 64) < 64)) = true := by
    have hnot : ¬c.cyclesTo (fld d 128 64) < 64 := not_lt.mpr hahead
    simp [hrun, hnot]
  have hone : dNum d 8 1 ≠ 2 := by omega
  have hzero : dNum d 8 1 ≠ 0 := by omega
  simp only [Chip.census, if_neg hzero, if_neg hone, if_neg hgo, Chip.armSlot, hslot, Option.map_some]
  split
  · exact ⟨_, by rw [hmode]; rfl⟩
  · exact ⟨c.agenda, by rw [hmode]; rfl⟩

/-! ### Buckle commands (R594, R606) -/

/-- What a buckle command's send leaves: the operation under way, and one more packet. -/
theorem Chip.buckleGo_here {c : Chip} {src : Src} {d : Desc} (hhere : c.isHere (d.extractLsb' 64 16) = true) (op payload : Nat) :
    c.buckleGo src d op payload =
      (c.send eidCmd (packet 0xFFFF tBuckleOp 3 eidBuckle 4 0 (BitVec.ofNat 16 (op * 4096 + dNum d 10 2))
        (BitVec.ofNat 256 payload))).onBkl fun k => { k with waits := k.waits ++ [⟨src, dTag d, dOpcode d, 0⟩] } := by
  have hchip : BitVec.ofNat 16 (dNum d 8 2) = d.extractLsb' 64 16 := ofNat_dNum d le_rfl
  simp only [Chip.buckleGo, hchip, hhere, if_true]

theorem Chip.buckleGo_away {c : Chip} {src : Src} {d : Desc} (haway : c.isHere (d.extractLsb' 64 16) = false) (op payload : Nat) :
    c.buckleGo src d op payload =
      (c.send eidCmd (packet (d.extractLsb' 64 16) tBuckleOp 1 eidBuckle 4 0 (BitVec.ofNat 16 (op * 4096 + dNum d 10 2))
        (BitVec.ofNat 256 payload))).onBkl fun k => { k with remote := k.remote ++ [⟨src, dTag d, dOpcode d, 0⟩] } := by
  have hchip : BitVec.ofNat 16 (dNum d 8 2) = d.extractLsb' 64 16 := ofNat_dNum d le_rfl
  simp only [Chip.buckleGo, hchip, haway, Bool.false_eq_true, if_false]

/-- A field read as a number, as a wide value. -/
theorem ofNat_dNum_wide (d : Desc) {k n w : Nat} :
    BitVec.ofNat w (dNum d k n) = (d.extractLsb' (8 * k) (8 * n)).setWidth w := by
  rw [← ofNat_dNum d (le_refl (8 * n))]
  have hlt : dNum d k n < 2 ^ (8 * n) := by
    rw [Nat.pow_mul]; exact Nat.mod_lt _ (by positivity)
  apply BitVec.eq_of_toNat_eq
  rw [BitVec.toNat_setWidth, BitVec.toNat_ofNat, BitVec.toNat_ofNat, Nat.mod_eq_of_lt hlt]

/-- With more operands allowed a clean descriptor stays clean. -/
theorem dClean_cons {d : Desc} {ops : List (Nat × Nat)} (h : dClean d ops = true) (o : Nat × Nat) : dClean d (o :: ops) = true := by
  simp only [dClean, List.all_eq_true, List.any_cons, Bool.or_eq_true] at h ⊢
  intro k hk
  obtain h | h := h k hk
  · exact .inl h
  · exact .inr (.inr h)

/-- A descriptor with no FLAGS operand and no bit outside its operands has FLAGS 0. -/
theorem dFlags_of_clean {d : Desc} {ops : List (Nat × Nat)} (h : dClean d ops = true)
    (hops : ops.any (fun o => decide (o.1 ≤ 1) && decide (1 < o.1 + o.2)) = false) : dFlags d = 0 := by
  have h1 := List.all_eq_true.mp h 1 (by decide)
  rw [hops] at h1
  have hbyte : dByte d 1 = 0 := by simpa using h1
  exact hbyte

theorem exec_harnessRegion_of_load {s : State} {src : Src} {d : Desc} (hflag : flag (dFlags d) 0 = false) :
    exec (.harnessRegion src d) s = .next { s with
      chip := s.chip.command src d 0x11 (fun _ => dClean d ((20, 1) :: Chip.imageOps src) && Chip.imageOk src d) fun c =>
        c.harnessRegion src d } := by
  rw [exec_harnessRegion, execHarnessRegion, State.run_eq, hflag, if_neg Bool.false_ne_true]

theorem exec_harnessRegionCancel_of_flag {s : State} {src : Src} {d : Desc} (hflag : dFlags d = 1) :
    exec (.harnessRegionCancel src d) s = .next { s with
      chip := s.chip.command src d 0x11 (fun _ => dFlags d = 1 && dClean d [(1, 1), (20, 1)]) fun c => c.harnessCancel src d } := by
  have hset : flag (dFlags d) 0 = true := by rw [hflag]; rfl
  rw [exec_harnessRegionCancel, execHarnessRegionCancel, State.run_eq, hset, Bool.not_true, if_neg Bool.false_ne_true]

theorem exec_reckon_command (s : State) (src : Src) (d : Desc) :
    exec (.reckon src d) s = .next { s with
      chip := s.chip.command src d 0x02 (fun c => c.reckonFields src d) fun c => c.reckon src d } := rfl

theorem exec_census_command (s : State) (src : Src) (d : Desc) :
    exec (.census src d) s = .next { s with
      chip := s.chip.command src d 0x03 (fun _ => dClean d [(8, 1), (16, 8)] && dNum d 8 1 ≤ 2) fun c => c.census src d } := rfl

theorem exec_buckleSet_command (s : State) (src : Src) (d : Desc) :
    exec (.buckleSet src d) s = .next { s with
      chip := s.chip.command src d 0x30 (fun _ => dClean d Chip.buckleOps && dNum d 10 2 < 4096 && dNum d 15 1 = 0) fun c =>
        c.buckleGo src d 3 (dNum d 12 3) } := rfl

theorem exec_buckleFasten_command (s : State) (src : Src) (d : Desc) :
    exec (.buckleFasten src d) s = .next { s with
      chip := s.chip.command src d 0x31
        (fun _ => dClean d ((1, 1) :: Chip.buckleOps) && (dFlags d).toNat ≤ 1 && dNum d 10 2 < 4096 &&
          (flag (dFlags d) 0 || (1 ≤ dNum d 12 4 && dNum d 12 4 < 2 ^ 24)))
        fun c => if flag (dFlags d) 0 then c.buckleGo src d 2 0
          else if dNum d 12 4 = 1 then c.buckleGo src d 0 0 else c.buckleGo src d 1 (dNum d 12 4) } := rfl

/-- The 128 packets of a record for a peer (R617). -/
theorem Chip.reckonLines_eq (c : Chip) (d : Desc) (bytes : List Byte) :
    ∃ fab, c.reckonLines d bytes = { c with fab := fab } ∧
      (({ c with fab := fab } : Chip).endp eidCmd).queue.length = (c.endp eidCmd).queue.length + 128 := by
  obtain ⟨fab, hfold, hqueue⟩ := Chip.foldl_send_vc1 (e := eidCmd) (p := fun i =>
    packet (BitVec.ofNat 16 (dNum d 8 2)) tDataWr 1 (BitVec.ofNat 9 (dNum d 10 2)) 32
      (BitVec.ofNat 24 (dNum d 12 3 + 32 * i)) 0 (lineOf (bytesAt bytes (32 * i) 32))) (fun _ => rfl) (List.range 128) c
  exact ⟨fab, hfold, by rw [hqueue, List.length_append, List.length_map, List.length_range]⟩

/-- Settles O35. -/
theorem loaderCommands : Obligations.LoaderCommands := by
  intro s src d r c
  obtain ⟨hif, hhif⟩ : ∃ hif, s.chip.take src d = { s.chip with hif := hif } := ⟨_, s.chip.take_eq src d⟩
  have hback : { s.chip.take src d with bkl := s.chip.bkl, fab := s.chip.fab, hif := s.chip.hif } = s.chip := by rw [hhif]
  have hchif : hif = c.hif := (congrArg Chip.hif hhif).symm
  refine ⟨fun hs hclean hok => ⟨fun hact => ?_, fun hrun harm hjobs => ?_⟩,
    fun hs hflag hclean hok hnamed => ⟨fun hbusy => ?_, fun hidle hjobs => ?_⟩,
    fun hs hflag hclean hnamed hst => ⟨fun hday => ?_, fun hrun hday => ?_⟩,
    fun hs hfields => ⟨?_, ?_, ?_, ?_⟩,
    fun hs hclean => ⟨fun hmode hpend hmade hdrive => ?_, fun hmode hrun hahead hfree => ?_⟩,
    fun hs hclean hnum hhigh hhere => ?_, fun hs hclean hnum hone haway => ?_⟩
  · have hfields : (dClean d (Chip.imageOps src) && Chip.imageOk src d) = true := by rw [hclean, hok]; rfl
    refine refuses_of_served rfl hs hfields ?_
    have hact : ((s.chip.take src d).alm.running || (s.chip.take src d).alm.armed) = true := by
      rw [Chip.take_alm, Bool.or_eq_true]; exact hact
    simp only [Chip.harnessLoad, if_pos hact]
  · have hrow := harnessLoad_starts hs hclean hok hrun harm hjobs
    rw [hhif] at hrow
    obtain ⟨h, g, hdrop, hloaded, hrecs, hjob, hprofile, hepoch⟩ := Chip.dropHarness_gone
      (({ s.chip with hif := hif } : Chip).onHns fun h => { h with jobs := [Chip.jobOf src d 0] })
    rw [hdrop] at hrow
    obtain ⟨b, hzero, hcount⟩ := Chip.zeroBuckles_frame
      { ({ s.chip with hif := hif } : Chip).onHns fun h => { h with jobs := [Chip.jobOf src d 0] } with hns := h, glb := g }
    rw [hzero] at hrow
    exact ⟨_, hrow, ⟨rfl, rfl⟩, hchif, hjob, rfl, hloaded, hrecs, hprofile, hepoch, hcount⟩
  · have hfields : (dClean d ((20, 1) :: Chip.imageOps src) && Chip.imageOk src d) = true := by rw [hclean, hok]; rfl
    exact refuses_of_served (exec_harnessRegion_of_load hflag) hs hfields
      (Chip.harnessRegion_of_busy (by rw [Chip.take_namedRegion, hnamed]) (by rw [Chip.take_region]; exact hbusy))
  · have hfields : (dClean d ((20, 1) :: Chip.imageOps src) && Chip.imageOk src d) = true := by rw [hclean, hok]; rfl
    have hrow := exec_of_served (exec_harnessRegion_of_load hflag) hs hfields
    have hop : (dOpcode d).toNat ≠ 0x10 := by rw [opcode_of_served hs]; decide
    rw [Chip.harnessRegion_starts hop (by rw [Chip.take_namedRegion, hnamed]) (by rw [Chip.take_region]; exact hidle)
      (by rw [Chip.take_hns]; exact hjobs), hhif] at hrow
    have hsame := Chip.onRegion_same { s.chip with hif := hif } r fun x => { x with state := 1 }
    have hother (q : BitVec 6) (hq : q ≠ r) :=
      Chip.onRegion_ne { s.chip with hif := hif } (fun x => { x with state := 1 }) hq
    exact ⟨_, hrow, ⟨rfl, rfl⟩, hchif, rfl, rfl, hsame, hother⟩
  · have hfields : (dFlags d = 1 && dClean d [(1, 1), (20, 1)]) = true := by rw [hclean, Bool.and_true]; exact decide_eq_true hflag
    have hrow := exec_of_served (exec_harnessRegionCancel_of_flag hflag) hs hfields
    rw [Chip.harnessCancel_of_pending (by rw [Chip.take_namedRegion, hnamed]) (by rw [Chip.take_region]; exact hst)
      (by rw [Chip.take_alm, Chip.take_region]; exact hday)] at hrow
    obtain ⟨v, n, hv⟩ := Chip.refuse_eq ((s.chip.take src d).onRegion r fun y => { y with state := 0, image := none }) src d 0
    rw [hv] at hrow
    exact ⟨v, n, hrow⟩
  · have hfields : (dFlags d = 1 && dClean d [(1, 1), (20, 1)]) = true := by rw [hclean, Bool.and_true]; exact decide_eq_true hflag
    exact refuses_of_served (exec_harnessRegionCancel_of_flag hflag) hs hfields
      (Chip.harnessCancel_of_due (by rw [Chip.take_namedRegion, hnamed]) (by rw [Chip.take_region]; exact hst)
        (by rw [Chip.take_alm]; exact hrun) (by rw [Chip.take_alm, Chip.take_region]; exact hday))
  · rintro rfl
    exact answers_of_served rfl hs (by rw [Chip.take_reckonFields]; exact hfields) (by rw [← s.chip.take_lts Src.i3c d]; rfl)
  · rintro rfl
    exact answers_of_served rfl hs (by rw [Chip.take_reckonFields]; exact hfields) (by rw [← s.chip.take_lts Src.jtag d]; rfl)
  · rintro rfl
    exact answers_of_served rfl hs (by rw [Chip.take_reckonFields]; exact hfields) (by rw [← s.chip.take_lts Src.pcie d]; rfl)
  · rintro chip e tag rfl
    have hrow := exec_of_served (exec_reckon_command ..) hs (by rw [Chip.take_reckonFields]; exact hfields)
    obtain ⟨fab, hfab, hqueue⟩ := Chip.reckonLines_eq c d (c.reckoning 3 (dNum d 16 1))
    have hgo : c.reckon (.umaed chip e tag) d = ({ c with fab := fab } : Chip).onBkl fun k =>
        { k with remote := k.remote ++ [⟨.umaed chip e tag, dTag d, dOpcode d, c.lts⟩] } :=
      congrArg (fun x : Chip => x.onBkl fun k =>
        { k with remote := k.remote ++ [⟨.umaed chip e tag, dTag d, dOpcode d, c.lts⟩] }) hfab
    replace hrow := hrow.trans (congrArg (fun x : Chip => Host.Outcome.next { s with chip := x }) hgo)
    refine ⟨_, hrow, ?_, ?_, rfl, hback⟩
    · rw [← s.chip.take_lts (.umaed chip e tag) d]
      exact congrArg (fun b : Bkl => { b with remote := b.remote ++ [(⟨.umaed chip e tag, dTag d, dOpcode d, c.lts⟩ : BklWait)] })
        (congrArg Chip.bkl hhif)
    · have hsame : c.endp eidCmd = s.chip.endp eidCmd :=
        (congrArg (fun x : Chip => x.endp eidCmd) hhif).trans rfl
      exact hqueue.trans (by rw [hsame])
  · have hfields : (dClean d [(8, 1), (16, 8)] && decide (dNum d 8 1 ≤ 2)) = true := by rw [hclean, hmode]; rfl
    have hrow := exec_of_served (exec_census_command ..) hs hfields
    rw [hhif, Chip.census_now hmode (by exact hpend) (by exact hmade) (by exact hdrive)] at hrow
    exact ⟨_, hrow, rfl, rfl, rfl, rfl⟩
  · have hfields : (dClean d [(8, 1), (16, 8)] && decide (dNum d 8 1 ≤ 2)) = true := by rw [hclean, hmode]; rfl
    have hrow := exec_of_served (exec_census_command ..) hs hfields
    obtain ⟨ag, hag⟩ := Chip.census_armed (c := { s.chip with hif := hif }) (src := src) hmode hrun hahead hfree
    rw [hhif, hag, Chip.done] at hrow
    obtain ⟨hif', mem, out, fab, hdone⟩ := Chip.complete_eq
      { ({ s.chip with hif := hif } : Chip).onArm 0 ⟨1, d.extractLsb' 128 64, 0⟩ with agenda := ag } src (dTag d) (dOpcode d) 0 0
        (d.extractLsb' 128 64)
    rw [hdone] at hrow
    have hsame := Chip.onArm_same { s.chip with hif := hif } 0 ⟨1, d.extractLsb' 128 64, 0⟩
    have hother (a : BitVec 2) (ha : a ≠ 0) := Chip.onArm_ne { s.chip with hif := hif } ⟨1, d.extractLsb' 128 64, 0⟩ ha
    exact ⟨_, hrow, hsame, hother⟩
  · have hfields : (dClean d Chip.buckleOps && decide (dNum d 10 2 < 4096) && decide (dNum d 15 1 = 0)) = true := by
      simp [hclean, hnum, hhigh]
    have hrow := exec_of_served (exec_buckleSet_command ..) hs hfields
    rw [Chip.buckleGo_here (by rw [Chip.take_isHere]; exact hhere), ofNat_dNum_wide, Chip.send_eq] at hrow
    refine ⟨_, hrow, ?_, rfl, rfl, hback⟩
    exact congrArg (fun b : Bkl => { b with waits := b.waits ++ [(⟨src, dTag d, dOpcode d, 0⟩ : BklWait)] }) (congrArg Chip.bkl hhif)
  · have hflags : dFlags d = 0 := dFlags_of_clean hclean rfl
    have hun : flag (dFlags d) 0 = false := by rw [hflags]; rfl
    have hfields : (dClean d ((1, 1) :: Chip.buckleOps) && decide ((dFlags d).toNat ≤ 1) && decide (dNum d 10 2 < 4096) &&
        (flag (dFlags d) 0 || (decide (1 ≤ dNum d 12 4) && decide (dNum d 12 4 < 2 ^ 24)))) = true := by
      simp [dClean_cons hclean, hflags, hnum, hone]
    have hrow := exec_of_served (exec_buckleFasten_command ..) hs hfields
    rw [hun, if_neg Bool.false_ne_true, if_pos hone, Chip.buckleGo_away (by rw [Chip.take_isHere]; exact haway), Nat.zero_mul,
      Nat.zero_add, Chip.send_eq] at hrow
    refine ⟨_, hrow, ?_, rfl, rfl, hback⟩
    exact congrArg (fun b : Bkl => { b with remote := b.remote ++ [(⟨src, dTag d, dOpcode d, 0⟩ : BklWait)] }) (congrArg Chip.bkl hhif)

end Sys2Proof.Machine
end

section
/-!
PROOFS. Proofs/HostPorts.lean: the I3C and JTAG ports (R587, R597 to R602) and the PCIe port's rows (R570 to R577, R596, R672, R676).
-/
namespace Sys2Proof.Machine
open Sys2Proof

/-! ### A port that no reset holds -/

theorem Chip.inReset_iff (c : Chip) : c.inReset = true ↔ c.glb.phase = .held := by
  unfold Chip.inReset
  split
  next h => simp [h]
  next h => simpa using h

theorem Chip.onPort_of_held {c : Chip} (h : c.glb.phase = .held) (f : Chip → Chip) : c.onPort f = c := by
  rw [Chip.onPort, if_pos (c.inReset_iff.mpr h)]

theorem Chip.onPort_of_free {c : Chip} (h : c.glb.phase ≠ .held) (f : Chip → Chip) : c.onPort f = f c := by
  rw [Chip.onPort, if_neg (mt c.inReset_iff.mp h)]

/-- The row of a port instruction on a chip that no reset holds. -/
theorem exec_of_onPort {s : State} {i : Instr} {f : Chip → Chip} (hrow : exec i s = .next { s with chip := s.chip.onPort f })
    (h : s.chip.glb.phase ≠ .held) : exec i s = .next { s with chip := f s.chip } := by
  rw [hrow, Chip.onPort_of_free h]

theorem exec_of_onPort_held {s : State} {i : Instr} {f : Chip → Chip}
    (hrow : exec i s = .next { s with chip := s.chip.onPort f }) (h : s.chip.glb.phase = .held) : exec i s = .next s := by
  rw [hrow, Chip.onPort_of_held h]

/-- Every host port row but the PCIe ones is an instruction of a port that a reset holds. -/
theorem portRow_onPort (s : State) (bytes : List Byte) (n : BitVec 13) (a : BitVec 7) (d : Desc) (v : BitVec 64) (w : Line)
    (code : Byte) {i : Instr}
    (hi : i ∈ [Instr.i3cCommandWrite bytes, .i3cCompletionRead, .i3cStatusRead, .i3cReckoningRead n, .i3cDynamicAddress a,
      .jtagCmd d, .jtagCpl, .jtagRecord, .dbgAddr v, .dbgData w, .idcode, .extest, .samplePreload, .bypass code]) :
    ∃ f, exec i s = .next { s with chip := s.chip.onPort f } := by
  simp only [List.mem_cons, List.not_mem_nil, or_false] at hi
  obtain rfl | rfl | rfl | rfl | rfl | rfl | rfl | rfl | rfl | rfl | rfl | rfl | rfl | rfl := hi
  all_goals exact ⟨_, rfl⟩

/-! ### I3C and JTAG (R597 to R599) -/

/-- A row that has put out what the chip puts out here, and has left of the chip only h. -/
theorem put_of_exec {s : State} {i : Instr} {c : Chip} {h : Hif} {out : List Out} (hrow : exec i s = .next { s with chip := c })
    (hc : c = { s.chip with hif := h, out := s.chip.out ++ out }) :
    ∃ t, exec i s = .next t ∧ keepsBut (fun c => { c with hif := s.chip.hif, out := s.chip.out }) s t ∧
      t.chip.hif = h ∧ t.chip.out = s.chip.out ++ out := by
  subst hc
  exact ⟨_, hrow, ⟨rfl, rfl⟩, rfl, rfl⟩

theorem not_isEmpty_eq_decide {α : Type} [DecidableEq α] (l : List α) : (!l.isEmpty) = decide (l ≠ []) := by
  cases l <;> rfl

/-- What nothing put out leaves of the output. -/
theorem Chip.out_append_nil (c : Chip) (h : Hif) : { c with hif := h, out := c.out ++ [] } = { c with hif := h } := by
  rw [List.append_nil]

/-- One more packet in an endpoint's queue changes the fabric alone. -/
theorem Chip.onEndp_fab (c : Chip) (e : Eid) (p : Packet) :
    ∃ fab, (c.onEndp e fun x => { x with queue := x.queue ++ [p] }) = { c with fab := fab } ∧
      (({ c with fab := fab } : Chip).endp e).queue = (c.endp e).queue ++ [p] := by
  have hsame := Chip.onEndp_same c e fun x => { x with queue := x.queue ++ [p] }
  exact ⟨_, rfl, congrArg Endp.queue hsame⟩

/-- The DEBUG packet of a write that DBG_ADDR names (R599 Table 10). -/
def debugWrite (addr : BitVec 64) (w : Line) : Packet :=
  { packet (fld addr 0 16) tDataWr 1 (fld addr 16 9)
      (match fldNat addr 49 2 with | 0 => 4 | 1 => 8 | 2 => 16 | _ => 32) (fld addr 25 24) 0 w with debug := true }

theorem Chip.debugData_of_write {c : Chip} {w : Line} (hopen : c.glb.debugLock = false) (hauth : c.hns.authority = [])
    (hwrite : c.hif.jtag.dbgAddr.getLsbD 51 = true) :
    c.debugData w = ((c.onJtag fun j => { j with ir := 0x19 }).emit (.jtag 256 c.hif.jtag.dbgData.toNat)).onEndp eidCmd fun x =>
      { x with queue := x.queue ++ [debugWrite c.hif.jtag.dbgAddr w] } := by
  have hyes : (c.onJtag fun j => { j with ir := 0x19 }).debugAllowed = true := by
    simp [Chip.debugAllowed, Chip.onJtag, hopen, hauth]
  have hset : flag (((c.onJtag fun j => { j with ir := 0x19 }).emit
      (.jtag 256 (c.onJtag fun j => { j with ir := 0x19 }).hif.jtag.dbgData.toNat)).hif.jtag.dbgAddr) 51 = true := hwrite
  rw [Chip.debugData, if_pos hyes, Chip.debugAccess, if_pos hset, Chip.send_vc1 rfl]
  rfl

/-- Settles O37. -/
theorem hostPortRows : Obligations.HostPortRows := by
  intro s bytes n a d v w code i3c jtag put i3cIs jtagIs scans
  refine ⟨fun hheld i hi => ?_, fun hfree => ⟨fun hlen => ?_, fun hlen hbusy => ?_, fun hlen hidle => ?_, fun hnone => ?_,
    fun k ks hsome => ?_, ?_, ?_, ?_, fun hpend => ?_, fun hpend => ?_, fun hnone => ?_, fun k ks hsome => ?_, ?_, ?_,
    fun hlock => ?_, fun hopen hauth hwrite => ?_, ?_, ?_, ?_, ?_⟩⟩
  · obtain ⟨f, hrow⟩ := portRow_onPort s bytes n a d v w code hi
    exact exec_of_onPort_held hrow hheld
  · refine put_of_exec (exec_of_onPort rfl hfree) ?_
    rw [Chip.out_append_nil, Chip.i3cWrite, if_pos hlen]
    rfl
  · refine put_of_exec (exec_of_onPort rfl hfree) ?_
    have hbusy : (s.chip.i3cPoint 0x00).hif.i3c.busy = true := hbusy
    simp only [Chip.out_append_nil, Chip.i3cWrite, if_neg (not_not_intro hlen), hbusy, if_true]
    rfl
  · refine put_of_exec (exec_of_onPort rfl hfree) ?_
    have hidle : (s.chip.i3cPoint 0x00).hif.i3c.busy = false := hidle
    simp only [Chip.out_append_nil, Chip.i3cWrite, if_neg (not_not_intro hlen), hidle, Bool.false_eq_true, if_false]
    rfl
  · refine put_of_exec (exec_of_onPort rfl hfree) ?_
    have hnone : (s.chip.i3cPoint 0x40).hif.i3c.cpls = [] := hnone
    simp only [Chip.i3cCpl, hnone]
    rfl
  · refine put_of_exec (exec_of_onPort rfl hfree) ?_
    have hsome : (s.chip.i3cPoint 0x40).hif.i3c.cpls = k :: ks := hsome
    simp only [Chip.i3cCpl, hsome]
    rfl
  · refine put_of_exec (exec_of_onPort rfl hfree) ?_
    simp only [Chip.i3cStatus, not_isEmpty_eq_decide]
    rfl
  · exact put_of_exec (exec_of_onPort rfl hfree) rfl
  · refine put_of_exec (exec_of_onPort rfl hfree) ?_
    rw [Chip.out_append_nil]
    rfl
  · refine put_of_exec (exec_of_onPort rfl hfree) ?_
    have hpend : (s.chip.onJtag fun j => { j with ir := 0x10 }).hif.jtag.pendingCmd = true := hpend
    simp only [Chip.out_append_nil, Chip.jtagCommand, hpend, if_true]
    rfl
  · refine put_of_exec (exec_of_onPort rfl hfree) ?_
    have hpend : (s.chip.onJtag fun j => { j with ir := 0x10 }).hif.jtag.pendingCmd = false := hpend
    simp only [Chip.out_append_nil, Chip.jtagCommand, hpend, Bool.false_eq_true, if_false]
    rfl
  · refine put_of_exec (exec_of_onPort rfl hfree) ?_
    have hnone : (s.chip.onJtag fun j => { j with ir := 0x11 }).hif.jtag.cpls = [] := hnone
    simp only [Chip.jtagCompletion, hnone]
    rfl
  · refine put_of_exec (exec_of_onPort rfl hfree) ?_
    have hsome : (s.chip.onJtag fun j => { j with ir := 0x11 }).hif.jtag.cpls = k :: ks := hsome
    simp only [Chip.jtagCompletion, hsome]
    rfl
  · exact put_of_exec (exec_of_onPort rfl hfree) rfl
  · refine put_of_exec (exec_of_onPort rfl hfree) ?_
    rw [Chip.out_append_nil]
    rfl
  · refine put_of_exec (exec_of_onPort rfl hfree) ?_
    have hno : (s.chip.onJtag fun j => { j with ir := 0x19 }).debugAllowed = false := by
      simp [Chip.debugAllowed, Chip.onJtag, hlock]
    simp only [Chip.debugData, hno, Bool.false_eq_true, if_false]
    rfl
  · have hrow := exec_of_onPort (i := .dbgData w) (f := fun c => c.debugData w) rfl hfree
    rw [Chip.debugData_of_write hopen hauth hwrite] at hrow
    obtain ⟨fab, hfab, hqueue⟩ := Chip.onEndp_fab ((s.chip.onJtag fun j => { j with ir := 0x19 }).emit
      (.jtag 256 s.chip.hif.jtag.dbgData.toNat)) eidCmd (debugWrite s.chip.hif.jtag.dbgAddr w)
    rw [hfab] at hrow
    exact ⟨_, hrow, ⟨rfl, rfl⟩, rfl, debugWrite jtag.dbgAddr w, hqueue, rfl, rfl, rfl, rfl, rfl, rfl⟩
  · exact put_of_exec (exec_of_onPort rfl hfree) rfl
  · exact exec_of_onPort (i := .extest) (f := fun c => c.boundaryScan 0x00) rfl hfree
  · exact exec_of_onPort (i := .samplePreload) (f := fun c => c.boundaryScan 0x01) rfl hfree
  · exact put_of_exec (exec_of_onPort rfl hfree) rfl

/-! ### TLPs (R573, R576, R677) -/

theorem exec_barTlp_eq (s : State) (t : Tlp) : exec (.barTlp t) s = .next { s with chip := s.chip.barTlp t } := rfl

/-- A write of one aligned line is one piece. -/
theorem Chip.pieces_line {x : Nat} (h : x % 32 = 0) : pieces x 32 = [(0, 32)] := by
  simp [pieces, piecesFrom, h]

theorem Chip.barTlp_of_bar2 {c : Chip} {t : Tlp} (hbar : t.bar4 = false) (hoff : t.off.toNat < 2 ^ 27) : c.barTlp t =
    if t.write then
      if !c.ready then c
      else if partialBe t then c.onHif fun h => { h with badTlp := satInc h.badTlp }
      else c.barWrite t t.off.toNat
    else if !c.ready then c.emit (.tlp t.id true (List.replicate t.count 0xFF))
    else c.onHif fun h =>
      { h with reads := h.reads ++ [⟨t.id, false, t.off.toNat, t.off.toNat, t.count, pieces t.off.toNat t.count, [], false⟩] } := by
  have hin : ¬2 ^ 27 ≤ t.off.toNat := Nat.not_le.mpr hoff
  simp only [Chip.barTlp, hbar, Bool.not_false, Bool.true_and, decide_eq_true_eq, if_neg hin, Bool.false_eq_true, if_false]

/-- The packet of a BAR2 write of one aligned line. -/
theorem Chip.barWrite_line {c : Chip} {t : Tlp} (hbar : t.bar4 = false) (hlen : t.data.length = 32) (halign : t.off.toNat % 32 = 0) :
    c.barWrite t t.off.toNat = c.onEndp eidHost fun x => { x with queue := x.queue ++
      [packet 0xFFFF tDataWr 1 (BitVec.ofNat 9 (t.off.toNat / 524288)) 32 (BitVec.ofNat 24 (t.off.toNat % 524288)) 0
        (lineOf t.data)] } := by
  have hdata : bytesAt t.data 0 32 = t.data := by
    simp [bytesAt, ← hlen]
  have htarget : barTarget false (t.off.toNat + 0) = (BitVec.ofNat 9 (t.off.toNat / 524288), t.off.toNat % 524288) := rfl
  simp only [Chip.barWrite, hlen, Chip.pieces_line halign, List.foldl_cons, List.foldl_nil, hdata, hbar, Bool.false_and,
    Bool.false_eq_true, if_false, Chip.hostSend, htarget]
  exact Chip.send_vc1 rfl

/-! ### Configuration space (R570, R571) -/

/-- A word that the tables fix whole reads that value, whatever the free value. -/
theorem free_and_all (w v : Word) : (w &&& ~~~(0xFFFFFFFF : Word)) ||| (v &&& 0xFFFFFFFF) = v := by
  have hall : (0xFFFFFFFF : Word) = BitVec.allOnes 32 := by decide
  rw [hall, BitVec.not_allOnes, BitVec.and_zero, BitVec.zero_or, BitVec.and_allOnes]

/-- The BARs and the ROM register as they read. -/
theorem Chip.cfgRead_bars (c : Chip) (w : Word) :
    c.cfgRead 0x10 w = tget 0 c.hif.cfg 4 &&& 0xFE000000 ∧ c.cfgRead 0x14 w = 0 ∧
    c.cfgRead 0x18 w = (tget 0 c.hif.cfg 6 &&& 0xF8000000) ||| 0x4 ∧ c.cfgRead 0x1C w = tget 0 c.hif.cfg 7 ∧
    c.cfgRead 0x20 w = 0xC ∧ c.cfgRead 0x24 w = tget 0 c.hif.cfg 9 &&& 0xFFFFFFFC ∧ c.cfgRead 0x30 w = 0 :=
  ⟨free_and_all w _, free_and_all w _, free_and_all w _, free_and_all w _, free_and_all w _, free_and_all w _,
    free_and_all w _⟩

/-- Settles O38. -/
theorem pcieRows : Obligations.PcieRows := by
  intro s tlp off v width speed
  refine ⟨fun hbar hoff => ⟨fun hwrite hready hlen halign => ⟨fun hfirst hlast => ?_, fun hpart => ?_⟩, fun hwrite hready => ?_,
    fun hread hready => ?_, fun hread hready => ?_⟩, fun hready => ?_, ?_, fun hfree => ⟨?_, ?_, ?_, fun w => ?_⟩⟩
  · have hrow := exec_barTlp_eq s tlp
    have hwhole : Chip.partialBe tlp = false := by simp [Chip.partialBe, hfirst, hlast]
    rw [Chip.barTlp_of_bar2 hbar hoff, hwrite, hready, hwhole, Bool.not_true, if_pos rfl, if_neg Bool.false_ne_true,
      if_neg Bool.false_ne_true, Chip.barWrite_line hbar hlen halign] at hrow
    obtain ⟨fab, hfab, hqueue⟩ := Chip.onEndp_fab s.chip eidHost (packet 0xFFFF tDataWr 1
      (BitVec.ofNat 9 (tlp.off.toNat / 524288)) 32 (BitVec.ofNat 24 (tlp.off.toNat % 524288)) 0 (lineOf tlp.data))
    rw [hfab] at hrow
    have hline := lineBytes_lineOf (bs := tlp.data) (le_of_eq hlen)
    rw [hlen] at hline
    exact ⟨_, hrow, ⟨rfl, rfl⟩, _, hqueue, rfl, rfl, rfl, rfl, hline⟩
  · have hrow := exec_barTlp_eq s tlp
    have hpart : Chip.partialBe tlp = true := by
      rw [Chip.partialBe, hlen, Bool.or_eq_true]
      exact hpart.imp decide_eq_true decide_eq_true
    rw [Chip.barTlp_of_bar2 hbar hoff, hwrite, hready, hpart] at hrow
    exact ⟨_, hrow, ⟨rfl, rfl⟩, rfl⟩
  · rw [exec_barTlp_eq, Chip.barTlp_of_bar2 hbar hoff, hwrite, hready]
    rfl
  · have hrow := exec_barTlp_eq s tlp
    rw [Chip.barTlp_of_bar2 hbar hoff, hread, hready] at hrow
    exact ⟨_, hrow, rfl, rfl, rfl⟩
  · have hrow := exec_barTlp_eq s tlp
    rw [Chip.barTlp_of_bar2 hbar hoff, hread, hready] at hrow
    exact ⟨_, _, hrow, ⟨rfl, rfl⟩, rfl, rfl, rfl, rfl, rfl⟩
  · refine ⟨{ s with chip := (s.chip.onHif fun h => { h with linkUp := true, width := width, speed := speed }).onGlb fun g =>
      { g with hostAbsent := false } }, ?_, ⟨rfl, rfl⟩, rfl, rfl⟩
    rw [exec_dlUp, execDlUp, State.run_eq, if_pos hready]
  · exact ⟨_, rfl, ⟨rfl, rfl⟩, rfl, rfl⟩
  · exact ⟨_, exec_of_onPort rfl hfree, ⟨rfl, rfl⟩, rfl, rfl⟩
  · exact ⟨_, exec_of_onPort rfl hfree, rfl, ⟨rfl, rfl⟩, tget_tput_same _ _ _ _⟩
  · exact ⟨_, exec_of_onPort rfl hfree, rfl⟩
  · exact s.chip.cfgRead_bars w

end Sys2Proof.Machine
end

section
/-!
PROOFS. Proofs/HarnessRows.lean: the loader's jobs (03_harness, R129 to R149): how a job ends and the loader goes idle, what a full image
that comes into force leaves alone, and the verdicts on full images and on images of a region.
-/
namespace Sys2Proof.Machine
open Sys2Proof

/-! ### The end of the loader's only job -/

/-- The loader goes idle when its only job ends, on an almanac that runs too. -/
theorem Chip.endJob_of_last {c : Chip} {j : LoadJob} (hjobs : c.hns.jobs = [j]) :
    c.endJob = c.onHns fun h => { h with jobs := [], busy := false, left := 0, read := [] } := by
  have hdrop : (c.onHns fun h => { h with jobs := h.jobs.drop 1, busy := false, left := 0, read := [] }) =
      c.onHns fun h => { h with jobs := [], busy := false, left := 0, read := [] } := by
    simp only [Chip.onHns, hjobs, List.drop_succ_cons, List.drop_nil]
  unfold Chip.endJob
  rw [hdrop]
  unfold Chip.beginJob Chip.refuseStale
  split
  · rfl
  · rfl

theorem Chip.vector_hns (c : Chip) (h : Hns) (v : Nat) :
    ({ c with hns := h } : Chip).vector v = { c.vector v with hns := h } := by
  unfold Chip.vector
  dsimp only
  cases flag (tget msixMasked c.hif.msix v) 96 <;> rfl

theorem Chip.send_hns (c : Chip) (h : Hns) (e : Eid) (p : Packet) (delay : Nat) :
    ({ c with hns := h } : Chip).send e p delay = { c.send e p delay with hns := h } := by
  unfold Chip.send
  split <;> rfl

/-- A completion reads nothing of the loader's state. -/
theorem Chip.complete_hns (c : Chip) (h : Hns) (src : Src) (tag : Word) (op st aux : Byte) (r : BitVec 64) :
    ({ c with hns := h } : Chip).complete src tag op st aux r = { c.complete src tag op st aux r with hns := h } := by
  obtain ⟨hif, hcount, hcount'⟩ : ∃ hif,
      (if st = 0x03 then c.onHif fun x => { x with refused := satInc x.refused } else c) = { c with hif := hif } ∧
      (if st = 0x03 then ({ c with hns := h } : Chip).onHif fun x => { x with refused := satInc x.refused }
        else { c with hns := h }) = { c with hns := h, hif := hif } := by
    split
    · exact ⟨_, rfl, rfl⟩
    · exact ⟨c.hif, rfl, rfl⟩
  unfold Chip.complete
  rw [hcount, hcount']
  cases src with
  | pcie =>
    dsimp only [Chip.onHif, Chip.hostWrite]
    exact Chip.vector_hns { c with hif := _, hostMem := _ } h 0
  | i3c => rfl
  | jtag => rfl
  | umaed chip e t => exact Chip.send_hns { c with hif := hif } h eidCmd _ 0

/-! ### Verdicts on full images (R129, R136, R137) -/

section
variable {c : Chip} {j : LoadJob} (hjobs : c.hns.jobs = [j])
include hjobs

theorem Chip.fullDue_of (hfull : Chip.isFull j = true) (hleft : c.hns.left = 0) (hwait : c.hns.waitDdr = none) :
    c.fullDue = some j := by
  simp only [Chip.fullDue, hjobs, hfull, hleft, hwait, decide_true, Option.isNone_none, Bool.and_self, if_true]

/-- A full image that fails names its step and status, and the loader goes idle. -/
theorem Chip.loadFailed_of_step (hdue : c.fullDue = some j) (hboot : j.fromBoot = false) (hstep : (c.jobVerdict j).step ≠ 0) :
    c.loadFailed =
      { c.complete j.src j.tag j.opcode (c.jobVerdict j).status (BitVec.ofNat 8 (c.jobVerdict j).step)
          (Img.harnessId c.hns.read) with
        hns := { c.hns with
          failStep := BitVec.ofNat 8 (c.jobVerdict j).step, failStatus := (c.jobVerdict j).status
          jobs := [], busy := false, left := 0, read := [] } } := by
  have hv : c.jobVerdict j ≠ Img.pass := fun h => hstep (by rw [h]; rfl)
  have hnote : c.noteFailure (c.jobVerdict j) = { c with hns := { c.hns with
      failStep := BitVec.ofNat 8 (c.jobVerdict j).step, failStatus := (c.jobVerdict j).status } } := by
    rw [Chip.noteFailure, if_neg hstep]; rfl
  unfold Chip.loadFailed
  simp only [hdue, if_neg hv, hboot, Chip.completeJob, Bool.false_and, Bool.false_eq_true, if_false, hnote,
    Chip.complete_hns]
  exact Chip.endJob_of_last hjobs

/-- LOADED sets, and the loader goes idle. -/
theorem Chip.loadComplete_of_wait {id : BitVec 64} {digest : BitVec 256} {signed : Bool}
    (hwait : c.hns.waitDdr = some (id, digest, signed)) :
    ∃ hif mem out fab, c.loadComplete =
      { c with
        hif := hif, hostMem := mem, out := out, fab := fab
        hns := { c.hns with
          loaded := true, id := id, digest := digest, signed := signed, waitDdr := none
          source := if j.fromFlash then 2 else 1
          jobs := [], busy := false, left := 0, read := [] } } := by
  unfold Chip.loadComplete
  simp only [hjobs, hwait]
  unfold Chip.completeJob
  split
  · exact ⟨_, _, _, _, Chip.endJob_of_last hjobs⟩
  · obtain ⟨hif, mem, out, fab, h⟩ := Chip.complete_eq (c.onHns fun h => { h with
      loaded := true, id := id, digest := digest, signed := signed, waitDdr := none
      source := if j.fromFlash then 2 else 1 }) j.src j.tag j.opcode 0x00 (BitVec.ofNat 8 0) id
    rw [h]
    exact ⟨hif, mem, out, fab, Chip.endJob_of_last hjobs⟩

end

/-! ### What an image that comes into force leaves alone -/

/-- The cycle and LOADED, which a full image's installation and the channels' training leave alone. -/
def Chip.clockLoaded (c : Chip) : Nat × Bool := (c.now, c.hns.loaded)

@[simp] theorem Chip.onLink_clockLoaded (c : Chip) (n : Fin 6) (f : Link → Link) :
    (c.onLink n f).clockLoaded = c.clockLoaded := rfl

@[simp] theorem Chip.vc0Late_clockLoaded (c : Chip) (e : Eid) (p : Packet) : (c.vc0Late e p).clockLoaded = c.clockLoaded := by
  unfold Chip.vc0Late
  dsimp only
  split
  · rw [Chip.clockLoaded, Chip.logFault_now, Chip.logFault_hns]; rfl
  · rfl

@[simp] theorem Chip.lateEgress_clockLoaded (c : Chip) (n : Fin 6) : (c.lateEgress n).clockLoaded = c.clockLoaded := by
  unfold Chip.lateEgress
  exact foldl_keeps Chip.clockLoaded (fun y f => y.vc0Late_clockLoaded _ _) _ c

@[simp] theorem Chip.umlEnter_clockLoaded (c : Chip) (n : Fin 6) (st : BitVec 3) :
    (c.umlEnter n st).clockLoaded = c.clockLoaded := by
  unfold Chip.umlEnter
  split
  · exact c.lateEgress_clockLoaded n
  · rfl

@[simp] theorem Chip.umlEnable_clockLoaded (c : Chip) (n : Fin 6) (on : Bool) :
    (c.umlEnable n on).clockLoaded = c.clockLoaded := by
  unfold Chip.umlEnable
  dsimp only
  split
  · exact Chip.umlEnter_clockLoaded _ _ _
  · split
    · exact Chip.umlEnter_clockLoaded _ _ _
    · rfl

@[simp] theorem Chip.setTaps_clockLoaded (c : Chip) (links : List Rec) (n : Fin 6) :
    (c.setTaps links n).clockLoaded = c.clockLoaded := by
  unfold Chip.setTaps
  split <;> rfl

@[simp] theorem Chip.install_clockLoaded (c : Chip) (b : List Byte) : (c.install b).clockLoaded = c.clockLoaded := by
  unfold Chip.install
  split
  · refine (foldl_keeps Chip.clockLoaded (fun y n => y.umlEnable_clockLoaded n _) _ _).trans ?_
    exact foldl_keeps Chip.clockLoaded (fun y n => y.setTaps_clockLoaded _ n) _ _
  · rfl

@[simp] theorem Chip.train_clockLoaded (c : Chip) (fail : Byte) : (c.train fail).clockLoaded = c.clockLoaded := by
  unfold Chip.train
  exact foldl_keeps (f := Chip.startDevices) Chip.clockLoaded (fun _ _ => rfl) _ c

/-- Training sets DDR_FAIL and DDR_READY of the enabled channels alone, each channel one of them. -/
theorem Chip.train_ddr (c : Chip) (fail : Byte) :
    (c.train fail).glb.ddrFail &&& ~~~fail = 0 ∧ (c.train fail).glb.ddrReady &&& fail = 0 := by
  refine ⟨?_, ?_⟩
  · show (fail &&& _) &&& ~~~fail = 0
    rw [BitVec.and_comm fail, BitVec.and_assoc, BitVec.and_not_self]; exact BitVec.and_zero
  · show (~~~fail &&& _) &&& fail = 0
    rw [BitVec.and_comm (~~~fail), BitVec.and_assoc, BitVec.not_and_self]; exact BitVec.and_zero

/-- What DDR training leaves, of a full image that has passed step 10. -/
theorem Chip.ddrTraining_of_pass {c : Chip} {j : LoadJob} (hdue : c.fullDue = some j) (hpass : c.jobVerdict j = Img.pass)
    (fail : Byte) :
    ∃ (d : Chip) (w : _), c.ddrTraining fail = (d.onHns fun h => { h with busy := false, waitDdr := some w }).post 0 .harnessLoadComplete ∧
      d.clockLoaded = c.clockLoaded ∧ d.flash = c.flash ∧ d.glb.ddrFail &&& ~~~fail = 0 ∧ d.glb.ddrReady &&& fail = 0 := by
  refine ⟨(c.install c.hns.read).train fail,
    (Img.harnessId c.hns.read, BitVec.ofNat 256 (leNat (Img.digest c.hns.read)), Img.signed c.hns.read), ?_, by simp, ?_, Chip.train_ddr _ _⟩
  · unfold Chip.ddrTraining
    simp only [hdue, hpass, if_true]
  · exact congrArg Fixed.flash (((c.install c.hns.read).train_fixed fail).trans (c.install_fixed c.hns.read))

/-! ### Verdicts on images of a region (R142, R143, R149) -/

section
variable {c : Chip} {j : LoadJob} (hjobs : c.hns.jobs = [j]) (hfull : Chip.isFull j = false) (hleft : c.hns.left = 0)
include hjobs hfull hleft

/-- A region's image that fails leaves its region IDLE. -/
theorem Chip.regionVerified_of_step (hstep : (c.jobVerdict j).step ≠ 0) (hboot : j.fromBoot = false) :
    ∃ hif mem out fab free, c.regionVerified =
      { c with
        hif := hif, hostMem := mem, out := out, fab := fab, free := free
        hns := { c.hns with
          failStep := BitVec.ofNat 8 (c.jobVerdict j).step, failStatus := (c.jobVerdict j).status
          regions := tput Region.init c.hns.regions j.region.toNat { c.region j.region with state := 0 }
          jobs := [], busy := false, left := 0, read := [] } } := by
  have hv : c.jobVerdict j ≠ Img.pass := fun h => hstep (by rw [h]; rfl)
  unfold Chip.regionVerified
  simp only [hjobs, hfull, hleft, ne_eq, not_true, decide_false, Bool.or_self, Bool.false_eq_true, if_false, if_neg hv,
    Chip.noteFailure, if_neg hstep, Chip.failJob, Chip.completeJob, hboot]
  obtain ⟨hif, mem, out, fab, h⟩ := Chip.complete_eq
    { (c.onHns fun h => { h with failStep := BitVec.ofNat 8 (c.jobVerdict j).step, failStatus := (c.jobVerdict j).status }).onRegion
        j.region fun x => { x with state := 0 } with free := c.free + 1 }
    j.src j.tag j.opcode (c.jobVerdict j).status (BitVec.ofNat 8 (c.jobVerdict j).step) (Config.freeBits 64 c.free)
  refine ⟨hif, mem, out, fab, _, (congrArg Chip.endJob h).trans (Chip.endJob_of_last hjobs)⟩

/-- A region's image that passes on an almanac that runs waits for its day. -/
theorem Chip.regionVerified_of_pass (hpass : c.jobVerdict j = Img.pass) (hrun : c.alm.running = true) :
    ∃ hif mem out fab x, c.regionVerified =
      { c with
        hif := hif, hostMem := mem, out := out, fab := fab
        hns := { c.hns with
          regions := tput Region.init c.hns.regions j.region.toNat x
          jobs := [], busy := false, left := 0, read := [] } } ∧ x.state = 2 ∧ x.image.isSome = true := by
  unfold Chip.regionVerified
  obtain ⟨x, hpend, hstate, himage⟩ : ∃ x, c.pendRegion j.region c.hns.read ((Img.allRecords c.hns.read).getD []) =
      { c with hns := { c.hns with regions := tput Region.init c.hns.regions j.region.toNat x } } ∧ x.state = 2 ∧
      x.image.isSome = true := ⟨_, rfl, rfl, rfl⟩
  have hrun' : (c.pendRegion j.region c.hns.read ((Img.allRecords c.hns.read).getD [])).alm.running = true := hrun
  simp only [hjobs, hfull, hleft, ne_eq, not_true, decide_false, Bool.or_self, Bool.false_eq_true, if_false, hpass, if_true,
    hrun', Chip.completeJob]
  rw [hpend]
  split
  · exact ⟨_, _, _, _, x, Chip.endJob_of_last hjobs, hstate, himage⟩
  · obtain ⟨hif, mem, out, fab, h⟩ := Chip.complete_eq
      { c with hns := { c.hns with regions := tput Region.init c.hns.regions j.region.toNat x } }
      j.src j.tag j.opcode 0x00 (BitVec.ofNat 8 0)
      (({ c with hns := { c.hns with regions := tput Region.init c.hns.regions j.region.toNat x } } : Chip).region
        j.region).applyDay
    exact ⟨hif, mem, out, fab, x, (congrArg Chip.endJob h).trans (Chip.endJob_of_last hjobs), hstate, himage⟩

end

/-! ### The boot (R678) -/

section
variable {s : State} (hready : s.chip.ready = true) (hload : s.chip.hns.loaded = false) (hjobs : s.chip.hns.jobs = [])
  (htry : s.chip.hns.bootTry = 0)
include hready hload hjobs htry

theorem exec_boot_eq :
    exec .boot s = .next { s with chip := match s.chip.glb.bootSel.toNat with
      | 0 => s.chip
      | 1 => s.chip.flashLoad 1
      | 2 => s.chip.flashLoad 1
      | _ => s.chip.onGlb fun g => { g with bootSelErr := true } } := by
  rw [exec_boot, execBoot, State.run_eq, Chip.boot]
  simp only [hready, hload, hjobs, htry, List.isEmpty_nil, Bool.not_false, decide_true, Bool.and_self, if_true] <;> rfl

theorem exec_boot_of_flash (hsel : s.chip.glb.bootSel = 1 ∨ s.chip.glb.bootSel = 2) :
    exec .boot s = .next { s with chip := s.chip.flashLoad 1 } := by
  rw [exec_boot_eq hready hload hjobs htry]
  obtain h | h := hsel <;> rw [h] <;> rfl

end

/-- Settles O39. -/
theorem harnessRows : Obligations.HarnessRows := by
  intro s fail j id digest signed
  refine ⟨fun hready hload hjobs htry => ⟨fun hsel => ?_, fun hsel => ?_, fun hsel hrun harm hseal => ?_⟩,
    fun hjobs hfull hleft hwait => ⟨fun n st hv hn hboot hrun harm hseal => ?_, fun hpass => ⟨?_, ?_⟩⟩, fun hjobs hwait => ?_,
    fun hjobs hfull hleft hv hboot hrun harm hseal hstep => ?_, fun hjobs hfull hleft hpass hrun => ?_⟩
  · rw [exec_boot_eq hready hload hjobs htry, hsel]
    rfl
  · rw [exec_boot_eq hready hload hjobs htry, hsel]
    exact ⟨_, rfl, ⟨rfl, rfl⟩, rfl⟩
  · obtain ⟨h, g, b, heq, hbusy, -, hjob⟩ := Chip.flashLoad_frame (n := 1) hjobs hrun harm hseal
    have hrow := exec_boot_of_flash hready hload hjobs htry hsel
    rw [heq] at hrow
    exact ⟨_, bootJob, hrow, ⟨rfl, rfl⟩, hjob, rfl, rfl, rfl, hbusy⟩
  · have hdue := Chip.fullDue_of hjobs hfull hleft hwait
    have hrow : exec .fullLoadFailed s = .next { s with chip := s.chip.loadFailed } := rfl
    rw [Chip.loadFailed_of_step hjobs hdue hboot (by rw [hv]; exact hn), hv] at hrow
    obtain ⟨hif, mem, out, fab, hcpl⟩ := s.chip.complete_eq j.src j.tag j.opcode st (BitVec.ofNat 8 n) (Img.harnessId s.chip.hns.read)
    rw [hcpl] at hrow ⊢
    refine ⟨_, hrow, ⟨rfl, rfl⟩, ?_, rfl⟩
    dsimp only
    rw [hleft]
  · have hdue := Chip.fullDue_of hjobs hfull hleft hwait
    rw [exec_fullLoadFailed, execFullLoadFailed, State.run_eq, Chip.loadFailed]
    simp only [hdue, hpass, if_true]
  · have hrow : exec (.ddrTraining fail) s = .next { s with chip := s.chip.ddrTraining fail } := rfl
    obtain ⟨d, w, heq, hkeep, hflash, hbad, hgood⟩ :=
      Chip.ddrTraining_of_pass (Chip.fullDue_of hjobs hfull hleft hwait) hpass fail
    obtain ⟨hnow, hload⟩ := Prod.ext_iff.mp hkeep
    rw [heq] at hrow
    refine ⟨_, hrow, rfl, rfl, hload, rfl, ?_, hbad, hgood, hflash⟩
    rw [← show d.now = s.chip.now from hnow]
    exact List.mem_append_right _ List.mem_cons_self
  · have hrow : exec .harnessLoadComplete s = .next { s with chip := s.chip.loadComplete } := rfl
    obtain ⟨hif, mem, out, fab, heq⟩ := Chip.loadComplete_of_wait hjobs hwait
    rw [heq] at hrow
    exact ⟨_, hrow, ⟨rfl, rfl⟩, fun _ _ _ => rfl⟩
  · have hrow : exec .regionVerifyDone s = .next { s with chip := s.chip.regionVerified } := rfl
    obtain ⟨hif, mem, out, fab, free, heq⟩ := Chip.regionVerified_of_step hjobs hfull hleft hstep hboot
    rw [heq] at hrow
    exact ⟨_, hrow, ⟨rfl, rfl⟩, congrArg Region.state (tget_tput_same ..), rfl, rfl, rfl, rfl⟩
  · have hrow : exec .regionVerifyDone s = .next { s with chip := s.chip.regionVerified } := rfl
    obtain ⟨hif, mem, out, fab, x, heq, hstate, himage⟩ := Chip.regionVerified_of_pass hjobs hfull hleft hpass hrun
    rw [heq] at hrow
    have hx : tget Region.init (tput Region.init s.chip.hns.regions j.region.toNat x) j.region.toNat = x := tget_tput_same ..
    exact ⟨_, hrow, rfl, (congrArg Region.state hx).trans hstate, (congrArg (fun r => r.image.isSome) hx).trans himage, rfl, rfl,
      rfl, rfl⟩

end Sys2Proof.Machine
end

section
/-!
PROOFS. Proofs/VigilReleases.lean: what goes out on Vigil cycle 16 (R86, R470, R579) and the switch of a region's copies from Vigil
cycle 64 on (R141, R144, R145).
-/
namespace Sys2Proof.Machine
open Sys2Proof

/-! ### What a switch of copies leaves alone -/

/-- The loader, the almanac, the global block, the host interface and host memory: what a switch's work on sessions,
descriptors, ports and tiles leaves alone. -/
def Chip.ruling (c : Chip) : Hns × Alm × Glb × Hif × List Host.Cell := (c.hns, c.alm, c.glb, c.hif, c.hostMem)

@[simp] theorem Chip.onWalker_ruling (c : Chip) (w : BitVec 4) (f : Walker → Walker) : (c.onWalker w f).ruling = c.ruling := rfl

@[simp] theorem Chip.onDesc_ruling (c : Chip) (w : BitVec 4) (d : Nat) (f : KvDesc → KvDesc) :
    (c.onDesc w d f).ruling = c.ruling := rfl

@[simp] theorem Chip.dropMoves_ruling (c : Chip) (w : BitVec 4) (d : Nat) : (c.dropMoves w d).ruling = c.ruling := by
  unfold Chip.dropMoves
  dsimp only
  split
  · split <;> rfl
  · rfl

@[simp] theorem Chip.kvClose_ruling (c : Chip) (w : BitVec 4) (d : Nat) : (c.kvClose w d).ruling = c.ruling :=
  c.dropMoves_ruling w d

@[simp] theorem Chip.stopSession_ruling (c : Chip) (i : BitVec 10) : (c.stopSession i).ruling = c.ruling := by
  unfold Chip.stopSession
  split
  · rfl
  · exact (foldl_keeps Chip.ruling (by intros; simp) _ _).trans (foldl_keeps Chip.ruling (by intros; rfl) _ _)

@[simp] theorem Chip.freeSession_ruling (c : Chip) (i : BitVec 10) (u : Bool) : (c.freeSession i u).ruling = c.ruling :=
  c.stopSession_ruling i

@[simp] theorem Chip.sessionsRewritten_ruling (c : Chip) (cls : BitVec 16) (a b : List Byte) :
    (c.sessionsRewritten cls a b).ruling = c.ruling := by
  unfold Chip.sessionsRewritten
  dsimp only
  split
  · rfl
  · refine foldl_keeps Chip.ruling (fun y i => ?_) _ _
    split
    · exact y.freeSession_ruling i true
    · rfl

@[simp] theorem Chip.classRewritten_ruling (c : Chip) (cls : BitVec 16) (a b : List Byte) :
    (c.classRewritten cls a b).ruling = c.ruling := by
  unfold Chip.classRewritten
  have hfall (w : BitVec 4) (ds : List Nat) :
      (ds.foldl (fun c d => c.onDesc w d fun x => { x with fallFrom := none }) (c.forgetNotices w cls)).ruling = c.ruling :=
    foldl_keeps Chip.ruling (by intros; rfl) _ _
  split
  · exact hfall _ _
  · refine (foldl_keeps Chip.ruling (fun y d => ?_) _ _).trans (hfall _ _)
    dsimp only
    split
    · exact y.dropMoves_ruling _ d
    · rfl

@[simp] theorem Chip.zeroPortRegs_ruling (c : Chip) (r : Rec) : (c.zeroPortRegs r).ruling = c.ruling := by
  unfold Chip.zeroPortRegs
  dsimp only
  split
  · split <;> rfl
  · split <;> rfl
  · rfl

@[simp] theorem Chip.loadPortRegs_ruling (c : Chip) (r : Rec) : (c.loadPortRegs r).ruling = c.ruling := by
  unfold Chip.loadPortRegs
  dsimp only
  split
  · split <;> rfl
  · split <;> rfl
  · rfl

@[simp] theorem Chip.onTile_ruling (c : Chip) (n : TileId) (f : Tile → Tile) : (c.onTile n f).ruling = c.ruling := rfl

@[simp] theorem Chip.zeroShadow_ruling (c : Chip) (map : List Byte) (copy : Bool) : (c.zeroShadow map copy).ruling = c.ruling := by
  unfold Chip.zeroShadow
  exact foldl_keeps Chip.ruling (by intros; rfl) _ _

@[simp] theorem Chip.writeTileRecs_ruling (c : Chip) (rs : List Rec) : (c.writeTileRecs rs).ruling = c.ruling :=
  foldl_keeps (f := Chip.writeTileRec) Chip.ruling (fun _ _ => rfl) _ _

/-- The switch of a region's copies merges its image, and changes the region once the rest is done. -/
theorem Chip.switchRegion_eq {c : Chip} {r : BitVec 6} {i : RegionImage} (himage : (c.region r).image = some i) :
    ∃ (d : Chip) (old : _) (owners : _), d.ruling = ({ c.hns with
        skvOld := old, records := Chip.mergeRecs c.hns.records (r, i), plans := Chip.mergePlans c.hns.plans (r, i),
        owners := owners }, c.alm, c.glb, c.hif, c.hostMem) ∧
      c.switchRegion r = d.onRegion r fun x => { x with state := 0, id16 := i.id.setWidth 16, copy := !x.copy, image := none } := by
  unfold Chip.switchRegion
  split
  next h => exact absurd (himage.symm.trans h) (by simp)
  next i' h =>
    obtain rfl : i = i' := Option.some.inj (himage.symm.trans h)
    extract_lets _ old body c1 c2 fresh c3 c4 c5 map c6 c7
    have h2 : c2.ruling = c.ruling :=
      (foldl_keeps Chip.ruling (by intros; simp) _ c1).trans (foldl_keeps Chip.ruling (by intros; simp) _ c)
    have h7 : c7.ruling = c3.ruling := calc
      c7.ruling = c6.ruling := foldl_keeps Chip.ruling (by intros; rfl) _ c6
      _ = c5.ruling := by rw [Chip.writeTileRecs_ruling, Chip.zeroShadow_ruling]
      _ = c4.ruling := foldl_keeps Chip.ruling (by intros; simp) _ c4
      _ = c3.ruling := foldl_keeps Chip.ruling (by intros; simp) _ c3
    simp only [Chip.ruling, Prod.mk.injEq] at h2
    obtain ⟨hhns, halm, hglb, hhif, hmem⟩ := h2
    refine ⟨c7, c3.hns.skvOld, c3.hns.owners, h7.trans ?_, rfl⟩
    simp only [Chip.ruling, c3, Chip.onHns, hhns, halm, hglb, hhif, hmem]
    rfl

/-! ### Tables of one entry -/

/-- A value other than the default put over a table's only entry. -/
theorem tput_only {α : Type} [DecidableEq α] {d x v : α} (k : Nat) (hv : v ≠ d) : tput d [(k, x)] k v = [(k, v)] := by
  simp [tput, terase, tins, hv]

theorem tget_only {α : Type} {d x : α} (k : Nat) : tget d [(k, x)] k = x := if_pos rfl

/-! ### Vigil cycle 16 (R86, R470, R579) -/

section
variable {c : Chip} (hstreams : c.sfe.streams = []) (hwrote : c.sfe.wrote = false)
include hstreams hwrote

/-- With no stream to hand back, only the walkers' events and the two vectors go out. -/
theorem Chip.releaseDay_of_quiet (hvigil : c.vigilAt 16 = true) {d : Chip}
    (hevents : c.eventWalkers.foldl (fun c w => c.releaseEvents w) c = d) (hsfe : d.sfe = c.sfe) :
    c.releaseDay =
      if d.kvw.map (fun (kw : Nat × Walker) => kw.2.evtProd) ≠ c.kvw.map (fun (kw : Nat × Walker) => kw.2.evtProd) then
        (if d.hif.dayIrq then d.vector 3 else d).vector 4
      else if d.hif.dayIrq then d.vector 3 else d := by
  have hback : c.backStreams = [] := by simp [Chip.backStreams, hstreams]
  have hd : d.sfe.wrote = false := by rw [hsfe, hwrote]
  simp only [Chip.releaseDay, hvigil, if_true, hback, List.foldl_nil, hevents, hd, List.isEmpty_nil, Bool.not_true,
    Bool.or_self, Bool.false_eq_true, if_false]

/-- With no walker's event of the day, DAY_IRQ alone raises its vector. -/
theorem Chip.releaseDay_of_idle (hvigil : c.vigilAt 16 = true) (hkvw : c.kvw = []) :
    c.releaseDay = if c.hif.dayIrq then c.vector 3 else c := by
  rw [Chip.releaseDay_of_quiet hstreams hwrote hvigil (d := c) (by simp [Chip.eventWalkers, hkvw]) rfl, if_neg (by simp)]

end

theorem Chip.vector_kvw (c : Chip) (k : Table Walker) (v : Nat) :
    ({ c with kvw := k } : Chip).vector v = { c.vector v with kvw := k } := by
  unfold Chip.vector
  dsimp only
  cases flag (tget msixMasked c.hif.msix v) 96 <;> rfl

/-- The walker whose one event of the day has gone to its ring. -/
def Walker.released (x : Walker) : Walker :=
  { x with events := [], evtProd := BitVec.ofNat 16 ((x.evtProd.toNat + 1) % 2 ^ x.evtSize.toNat) }

theorem Walker.ne_init_of_ring {x : Walker} (h : 4 ≤ x.evtSize.toNat) : x ≠ Walker.init := by
  rintro rfl
  exact absurd h (by decide)

/-- The next place of a ring of 16 entries or more is another one. -/
theorem Walker.released_evtProd_ne {x : Walker} (hlow : 4 ≤ x.evtSize.toNat) (hhigh : x.evtSize.toNat < 16)
    (hprod : x.evtProd.toNat < 2 ^ x.evtSize.toNat) : x.released.evtProd ≠ x.evtProd := by
  have hsize : 2 ^ 4 ≤ 2 ^ x.evtSize.toNat := Nat.pow_le_pow_right (by decide) hlow
  have hbig : 2 ^ x.evtSize.toNat ≤ 2 ^ 15 := Nat.pow_le_pow_right (by decide) (by omega)
  intro h
  have hnat := congrArg BitVec.toNat h
  have hlt := Nat.mod_lt (x.evtProd.toNat + 1) (Nat.two_pow_pos x.evtSize.toNat)
  simp only [Walker.released, BitVec.toNat_ofNat] at hnat
  rw [Nat.mod_eq_of_lt (by omega)] at hnat
  by_cases hlast : x.evtProd.toNat + 1 < 2 ^ x.evtSize.toNat
  · rw [Nat.mod_eq_of_lt hlast] at hnat
    omega
  · rw [show x.evtProd.toNat + 1 = 2 ^ x.evtSize.toNat by omega, Nat.mod_self] at hnat
    omega

/-- A ring that takes one more event: its size is legal, its two indices lie in it, and it is not full (R470). -/
structure Walker.HasRoom (x : Walker) : Prop where
  low : 4 ≤ x.evtSize.toNat
  high : x.evtSize.toNat < 16
  prod : x.evtProd.toNat < 2 ^ x.evtSize.toNat
  cons : x.evtCons.toNat < 2 ^ x.evtSize.toNat
  room : (x.evtProd.toNat + 1) % 2 ^ x.evtSize.toNat ≠ x.evtCons.toNat

/-- An event goes to its place of a ring with room. -/
theorem Chip.writeEvent_of_room {c : Chip} {w : BitVec 4} (h : (c.walker w).HasRoom) (e : KvEvent) :
    c.writeEvent w e =
      (c.hostWrite ((c.walker w).evtBase.toNat + 16 * (c.walker w).evtProd.toNat) (Chip.eventBytes w e)).onWalker w fun x =>
        { x with evtProd := BitVec.ofNat 16 ((x.evtProd.toNat + 1) % 2 ^ (c.walker w).evtSize.toNat) } := by
  have hring : ringLog (c.walker w).evtSize.toNat 4 16 = true := by simp [ringLog, h.low, h.high.le]
  unfold Chip.writeEvent
  simp only [hring, Nat.mod_eq_of_lt h.cons, Nat.mod_eq_of_lt h.prod, h.room, decide_false, Bool.not_true, Bool.or_self,
    Bool.false_eq_true, if_false]

/-- The only walker that is not as after reset changes, and stays so. -/
theorem Chip.onWalker_only {c : Chip} {w : BitVec 4} {x : Walker} (h : c.kvw = [(w.toNat, x)]) {f : Walker → Walker}
    (hf : f x ≠ Walker.init) : c.onWalker w f = { c with kvw := [(w.toNat, f x)] } := by
  have hx : c.walker w = x := by rw [Chip.walker, h]; exact tget_only _
  rw [Chip.onWalker, hx, h, tput_only _ hf]

section
variable {c : Chip} {w : BitVec 4} {e : KvEvent} (hkvw : c.kvw = [(w.toNat, c.walker w)])
  (hevents : (c.walker w).events = [e]) (hroom : (c.walker w).HasRoom)
include hkvw hevents hroom

/-- The day's one event goes to its ring. -/
theorem Chip.releaseEvents_one :
    c.releaseEvents w = { c with
      hostMem := mwrite c.hostMem ((c.walker w).evtBase.toNat + 16 * (c.walker w).evtProd.toNat) (Chip.eventBytes w e)
      kvw := [(w.toNat, (c.walker w).released)] } := by
  have hempty := Chip.onWalker_only hkvw (f := fun x => { x with events := [] }) (Walker.ne_init_of_ring (by exact hroom.low))
  have hw : ({ c with kvw := [(w.toNat, { c.walker w with events := [] })] } : Chip).walker w =
      { c.walker w with events := [] } := tget_only _
  unfold Chip.releaseEvents
  dsimp only
  rw [hevents, hempty, List.foldl_cons, List.foldl_nil,
    Chip.writeEvent_of_room (by rw [hw]; exact ⟨hroom.1, hroom.2, hroom.3, hroom.4, hroom.5⟩), hw]
  exact Chip.onWalker_only (x := { c.walker w with events := [] }) (by rfl) (Walker.ne_init_of_ring (by exact hroom.low))

/-- The day's one event goes to its ring, and vector 4 follows it. -/
theorem Chip.releaseDay_of_one (hvigil : c.vigilAt 16 = true) (hstreams : c.sfe.streams = []) (hwrote : c.sfe.wrote = false)
    (hirq : c.hif.dayIrq = false) :
    c.releaseDay = { ({ c with
        hostMem := mwrite c.hostMem ((c.walker w).evtBase.toNat + 16 * (c.walker w).evtProd.toNat) (Chip.eventBytes w e) } :
          Chip).vector 4 with
      kvw := [(w.toNat, (c.walker w).released)] } := by
  have hone : c.eventWalkers = [w] := by
    rw [Chip.eventWalkers, hkvw]
    simp [hevents]
  rw [Chip.releaseDay_of_quiet hstreams hwrote hvigil
    (by rw [hone, List.foldl_cons, List.foldl_nil, Chip.releaseEvents_one hkvw hevents hroom]) (by rfl), if_pos]
  · simp only [hirq, Bool.false_eq_true, if_false]
    exact Chip.vector_kvw { c with
      hostMem := mwrite c.hostMem ((c.walker w).evtBase.toNat + 16 * (c.walker w).evtProd.toNat) (Chip.eventBytes w e) } _ 4
  · rw [hkvw]
    simp [Walker.released_evtProd_ne hroom.low hroom.high hroom.prod]

end

/-! ### The rows of a region's switch (R141, R144, R145) -/

section
variable {c : Chip} {r : BitVec 6} (hregions : c.hns.regions = [(r.toNat, c.region r)])
include hregions

theorem Chip.regionKeys_only (p : Region → Bool) : c.regionKeys p = if p (c.region r) then [r] else [] := by
  rw [Chip.regionKeys, hregions]
  cases hp : p (c.region r) <;> simp [hp]

theorem Chip.applyDue_of_due (hvigil : c.vigilAt 64 = true) (hstate : (c.region r).state = 2)
    (hday : (c.region r).applyDay.toNat ≤ c.alm.dayCount.toNat) :
    c.applyDue = { c with hns := { c.hns with regions := [(r.toNat, { c.region r with state := 3 })] } } := by
  have hne : ({ c.region r with state := 3 } : Region) ≠ Region.init := fun h =>
    absurd (show (3 : BitVec 2) = 0 from congrArg Region.state h) (by decide)
  rw [Chip.applyDue, if_pos hvigil, Chip.regionKeys_only hregions, if_pos (by simp [hstate, hday]), List.foldl_cons,
    List.foldl_nil, Chip.onRegion, hregions, tput_only _ hne]

theorem Chip.applyDue_of_early (hvigil : c.vigilAt 64 = true)
    (hlate : (c.region r).state ≠ 2 ∨ c.alm.dayCount.toNat < (c.region r).applyDay.toNat) : c.applyDue = c := by
  have hno : ¬ (decide ((c.region r).state = 2) && decide ((c.region r).applyDay.toNat ≤ c.alm.dayCount.toNat)) = true := by
    simp only [Bool.and_eq_true, decide_eq_true_eq]
    rintro ⟨hstate, hday⟩
    obtain h | h := hlate
    · exact h hstate
    · omega
  rw [Chip.applyDue, if_pos hvigil, Chip.regionKeys_only hregions, if_neg hno, List.foldl_nil]

variable (hrun : c.alm.running = true) (hin : c.alm.inVigil = true) (hlow : c.vigilStart + 64 < c.alm.cycle)
  (hhigh : c.alm.cycle ≤ c.vigilStart + 767)
include hrun hin hlow hhigh

/-- After Vigil cycle 64 the region that is APPLYING switches, and no other does. -/
theorem Chip.applyDue_of_later :
    c.applyDue = if (c.region r).state = 3 then c.switchRegion r else c := by
  have h64 : ¬ c.vigilAt 64 = true := by simp [Chip.vigilAt, hrun, hin]; omega
  have hin' : (c.alm.running && c.alm.inVigil && decide (64 < c.vigilCycle) && decide (c.vigilCycle ≤ 767)) = true := by
    have hcycle : c.vigilCycle = c.alm.cycle - c.vigilStart := rfl
    simp only [hrun, hin, Bool.true_and, Bool.and_eq_true, decide_eq_true_eq]
    omega
  rw [Chip.applyDue, if_neg h64, if_pos hin', Chip.applying, Chip.regionKeys_only hregions]
  by_cases h : (c.region r).state = 3
  · rw [if_pos h, if_pos (decide_eq_true h)]
    rfl
  · rw [if_neg h, if_neg (by simpa using h)]
    rfl

end

theorem Chip.applyDue_of_outside {c : Chip} (h : c.alm.running = false ∨ c.alm.inVigil = false ∨
    c.alm.cycle < c.vigilStart + 64 ∨ c.vigilStart + 767 < c.alm.cycle) : c.applyDue = c := by
  have h64 : ¬ c.vigilAt 64 = true := by
    simp only [Chip.vigilAt, Bool.and_eq_true, decide_eq_true_eq]
    rintro ⟨⟨hrun, hin⟩, hcycle⟩
    rw [hrun, hin] at h
    simp only [Bool.true_eq_false, false_or] at h
    omega
  have hout : ¬ (c.alm.running && c.alm.inVigil && decide (64 < c.vigilCycle) && decide (c.vigilCycle ≤ 767)) = true := by
    have hcycle : c.vigilCycle = c.alm.cycle - c.vigilStart := rfl
    simp only [Bool.and_eq_true, decide_eq_true_eq]
    rintro ⟨⟨⟨hrun, hin⟩, hlow⟩, hhigh⟩
    rw [hrun, hin] at h
    simp only [Bool.true_eq_false, false_or] at h
    omega
  rw [Chip.applyDue, if_neg h64, if_neg hout]

/-- Settles O40. -/
theorem vigilReleases : Obligations.VigilReleases := by
  intro s r image w e
  have hrelease : exec .outputRelease s = .next { s with chip := s.chip.releaseDay } := rfl
  have happly : exec .regionApply s = .next { s with chip := s.chip.applyDue } := rfl
  refine ⟨fun h16 => ?_, fun hout => ?_, fun h16 hstreams hwrote hkvw => ?_,
    fun h16 hstreams hwrote hirq hkvw hevents hlow hhigh hprod hcons hroom => ?_, fun hregions => ⟨fun h64 hstate hday => ?_,
      fun h64 hlate => ?_, fun hrun hin hlow hhigh hstate => ?_, fun hrun hin hlow hhigh hstate himage => ?_⟩⟩
  · rw [hrelease, Chip.releaseDay, if_neg (by simp [h16])]
  · rw [happly, Chip.applyDue_of_outside hout]
  · rw [hrelease, Chip.releaseDay_of_idle hstreams hwrote h16 hkvw]
  · rw [Chip.releaseDay_of_one hkvw hevents ⟨hlow, hhigh, hprod, hcons, hroom⟩ h16 hstreams hwrote hirq, Chip.vector_eq] at hrelease
    exact ⟨_, hrelease, tget_only _, ⟨rfl, rfl⟩, rfl⟩
  · rw [happly, Chip.applyDue_of_due hregions h64 hstate hday]
  · rw [happly, Chip.applyDue_of_early hregions h64 hlate]
  · rw [happly, Chip.applyDue_of_later hregions hrun hin hlow hhigh, if_neg hstate]
  · obtain ⟨d, old, owners, hkeep, hswitch⟩ := Chip.switchRegion_eq himage
    rw [Chip.applyDue_of_later hregions hrun hin hlow hhigh, if_pos hstate, hswitch] at happly
    simp only [Chip.ruling, Prod.mk.injEq] at hkeep
    obtain ⟨hhns, halm, hglb, hhif, hmem⟩ := hkeep
    have hregion : d.region r = s.chip.region r := by rw [Chip.region, hhns]; rfl
    refine ⟨_, happly, rfl, (Chip.onRegion_same ..).trans (by rw [hregion]), ?_, ?_, halm, hglb, hhif, hmem⟩
    · exact congrArg Hns.records hhns
    · exact congrArg Hns.plans hhns

end Sys2Proof.Machine
end

section
/-!
PROOFS. Proofs/FaultUnit.lean: what the fault unit's own registers hold after an occurrence (R643 to R651), and the buckle file's
operations (R606 to R613).
-/
namespace Sys2Proof.Machine
open Sys2Proof

/-! ### The fault unit's registers -/

section
variable (c : Chip)

theorem Chip.vector_flt (v : Nat) : (c.vector v).flt = c.flt := by
  rw [Chip.vector_eq]

theorem Chip.send_flt (e : Eid) (p : Packet) (delay : Nat) : (c.send e p delay).flt = c.flt := by
  rw [Chip.send_eq]

theorem Chip.drivePin_flt : c.drivePin.flt = c.flt := by
  unfold Chip.drivePin
  split <;> rfl

theorem Chip.trigger_flt (l : Latch) (lead : Nat) : (c.trigger l lead).flt = c.flt := by
  unfold Chip.trigger
  extract_lets t shared soon d d'
  have hd : d.flt = c.flt := by
    dsimp only [d]
    split
    · exact c.drivePin_flt
    · rfl
  split
  · rfl
  · split
    · exact hd
    · exact hd

/-- What a new entry sets off touches no register of the fault unit. -/
theorem Chip.newEntry_flt (e : FltEntry) : (c.newEntry e).flt = c.flt := by
  unfold Chip.newEntry
  extract_lets k d d'
  have hd : d.flt = c.flt := c.vector_flt 1
  have hd' : d'.flt = c.flt := by
    dsimp only [d']
    split
    · rw [Chip.send_flt, hd]
    · exact hd
  split
  · rw [Chip.trigger_flt, hd']
  · exact hd'

variable (e : FltEntry)

/-- The unit's registers once an occurrence has been counted. -/
def Flt.counted (f : Flt) (e : FltEntry) : Flt :=
  { f with
    counts := tput 0 f.counts (Chip.faultClass e.code) (satInc (tget 0 f.counts (Chip.faultClass e.code)))
    fatal := f.fatal || (Chip.faultClass e.code = 5 && !e.remote) }

/-- An occurrence that merges counts in its entry (R647). -/
theorem Chip.takeFault_flt_of_merge {i : Nat} (h : c.mergePlace e = some i) :
    (c.takeFault e).flt = { c.flt.counted e with
      log := tput FltEntry.init c.flt.log i
        { tget FltEntry.init c.flt.log i with count := satInc (tget FltEntry.init c.flt.log i).count } } := by
  have h' : (c.onFlt fun f => f.counted e).mergePlace e = some i := h
  unfold Chip.takeFault
  dsimp only
  erw [h']
  rfl

/-- With room an occurrence that merges with none becomes the newest entry (R645). -/
theorem Chip.takeFault_flt_of_room (h : c.mergePlace e = none) (hroom : c.unacked < 256) :
    (c.takeFault e).flt = { c.flt.counted e with
      log := tput FltEntry.init c.flt.log (c.flt.tail.toNat % 256) { e with seq := c.flt.tail }
      tail := c.flt.tail + 1 } := by
  have h' : (c.onFlt fun f => f.counted e).mergePlace e = none := h
  have hroom' : (c.onFlt fun f => f.counted e).unacked < 256 := hroom
  unfold Chip.takeFault
  dsimp only
  erw [h']
  dsimp only
  erw [if_pos hroom', Chip.newEntry_flt]
  rfl

/-- With no room a new entry overflows, a FATAL one alone excepted (R649). -/
theorem Chip.takeFault_of_full (h : c.mergePlace e = none) (hfull : 256 ≤ c.unacked) (hclass : Chip.faultClass e.code ≠ 5) :
    c.takeFault e = c.onFlt fun f => { f.counted e with overflow := satInc f.overflow } := by
  have h' : (c.onFlt fun f => f.counted e).mergePlace e = none := h
  have hfull' : ¬ (c.onFlt fun f => f.counted e).unacked < 256 := not_lt.mpr hfull
  unfold Chip.takeFault
  dsimp only
  erw [h']
  dsimp only
  erw [if_neg hfull', if_neg hclass]
  rfl

/-- Every occurrence counts in its class, and one of this chip of class FATAL sets FATAL (R645). -/
theorem Chip.takeFault_counted :
    (c.takeFault e).flt.counts = (c.flt.counted e).counts ∧ (c.takeFault e).flt.fatal = (c.flt.counted e).fatal := by
  unfold Chip.takeFault
  dsimp only
  split
  · exact ⟨rfl, rfl⟩
  · split
    · rw [Chip.newEntry_flt]; exact ⟨rfl, rfl⟩
    · split
      · rw [Chip.newEntry_flt]; exact ⟨rfl, rfl⟩
      · exact ⟨rfl, rfl⟩

theorem Chip.takeFault_count :
    tget 0 (c.takeFault e).flt.counts (Chip.faultClass e.code) = satInc (tget 0 c.flt.counts (Chip.faultClass e.code)) := by
  rw [(c.takeFault_counted e).1]
  exact tget_tput_same ..

/-- A logged fault counts in the class of its code. -/
theorem Chip.logFault_count (code : BitVec 16) (source : Eid) (unit detail : Nat) (region : Option (BitVec 6)) :
    tget 0 (c.logFault code source unit detail region).flt.counts (Chip.faultClass code) =
      satInc (tget 0 c.flt.counts (Chip.faultClass code)) :=
  c.takeFault_count _

end

/-! ### Buckle operations (R606, R607, R608, R613) -/

/-- An operation changes neither NOTIFY nor the vector's number. -/
theorem BklOp.apply_notify (b : Buckle) (op : BklOp) : (op.apply b).notify = b.notify := by
  cases op with
  | add n => dsimp only [BklOp.apply]; split <;> rfl
  | sub => dsimp only [BklOp.apply]; split <;> rfl
  | put v => rfl

theorem Chip.wakeTiles_eq (c : Chip) (n : BitVec 12) : ∃ ts, c.wakeTiles n = { c with tiles := ts } := ⟨_, rfl⟩

/-- Without a notice a remote operation changes its buckle and the tiles that wait for it alone. -/
theorem Chip.bklOp_of_silent {c : Chip} {p : Packet} (haddr : p.addr = 0)
    (hsilent : (c.buckle (auxBuckle p.aux)).notify = false) (hremote : c.fromCommand p = false) (op : BklOp) :
    c.bklOp p op = (c.onBuckle (auxBuckle p.aux) fun b => op.apply b).wakeTiles (auxBuckle p.aux) := by
  have hnotify : (c.onBuckle (auxBuckle p.aux) fun b => op.apply b).bklNotify (auxBuckle p.aux) op =
      c.onBuckle (auxBuckle p.aux) fun b => op.apply b := by
    unfold Chip.bklNotify
    cases op with
    | add n =>
      dsimp only
      rw [Chip.onBuckle_same, BklOp.apply_notify, hsilent, Bool.false_and, if_neg (by decide)]
    | sub => rfl
    | put v => rfl
  have hreport : ((c.onBuckle (auxBuckle p.aux) fun b => op.apply b).wakeTiles (auxBuckle p.aux)).fromCommand p = false := hremote
  unfold Chip.bklOp
  rw [if_neg (not_not.mpr haddr)]
  dsimp only
  rw [hnotify, Chip.bklReport, hreport, if_neg (by decide)]

/-- A buckle's operation without a notice, as the row of its packet runs it. -/
theorem bklOp_gives {s : State} {i : Instr} {p : Packet} {op : BklOp} (hrow : exec i s = .next { s with chip := s.chip.bklOp p op })
    (haddr : p.addr = 0) (hsilent : (s.chip.buckle (auxBuckle p.aux)).notify = false) (hremote : s.chip.fromCommand p = false) :
    ∃ t, exec i s = .next t ∧ t.chip.buckle (auxBuckle p.aux) = op.apply (s.chip.buckle (auxBuckle p.aux)) ∧
      (∀ m, m ≠ auxBuckle p.aux → t.chip.buckle m = s.chip.buckle m) ∧
      keepsBut (fun c => { c with bkl := s.chip.bkl, tiles := s.chip.tiles }) s t := by
  obtain ⟨ts, hwake⟩ := (s.chip.onBuckle (auxBuckle p.aux) fun b => op.apply b).wakeTiles_eq (auxBuckle p.aux)
  rw [Chip.bklOp_of_silent haddr hsilent hremote, hwake] at hrow
  exact ⟨_, hrow, Chip.onBuckle_same s.chip _ fun b => op.apply b,
    fun m hm => Chip.onBuckle_ne s.chip (fun b => op.apply b) hm, ⟨rfl, rfl⟩⟩

/-- A FASTEN's buckle, as its count and SAT show (R607). -/
theorem BklOp.apply_add (b : Buckle) (k : Nat) : (BklOp.add k).apply b =
    if b.count.toNat + k < 2 ^ 24 then { b with count := BitVec.ofNat 24 (b.count.toNat + k) }
    else { b with count := 0xFFFFFF, sat := true } := by
  dsimp only [BklOp.apply]
  by_cases h : b.count.toNat + k < 2 ^ 24
  · rw [if_pos h, if_pos (by omega)]
  · rw [if_neg h, if_neg (by omega)]

/-- Settles O43. -/
theorem buckleAndFault : Obligations.BuckleAndFault := by
  refine ⟨fun s p haddr => ⟨fun hsilent hremote => ⟨?_, ?_, ?_, ?_⟩, ?_⟩, fun s p => ⟨fun hal hk => ?_, fun hal hlow hhigh => ?_⟩⟩
  · obtain ⟨t, hrow, hsame, hother, hkeep⟩ := bklOp_gives (i := .fasten p) (op := .add 1) rfl haddr hsilent hremote
    exact ⟨t, hrow, hsame.trans (BklOp.apply_add _ _), hother, hkeep⟩
  · obtain ⟨t, hrow, hsame, hother, hkeep⟩ :=
      bklOp_gives (i := .fastenN p) (op := .add (Chip.bklArg p).toNat) rfl haddr hsilent hremote
    exact ⟨t, hrow, hsame.trans (BklOp.apply_add _ _), hother, hkeep⟩
  · exact bklOp_gives (i := .unfasten p) (op := .sub) rfl haddr hsilent hremote
  · obtain ⟨t, hrow, hsame, hother, hkeep⟩ := bklOp_gives (i := .set p) (op := .put (Chip.bklArg p)) rfl haddr hsilent hremote
    refine ⟨t, hrow, hsame.trans ?_, hother, hkeep⟩
    rw [BitVec.ofNat_toNat, BitVec.setWidth_eq]
    rfl
  · have hrow : exec (.reservedBuckleOp p) s = .next { s with
        chip := (s.chip.onBkl fun k => { k with badOp := satInc k.badOp }).logFault 0x2003 eidBuckle eidBuckle.toNat
          (headerDetail p).toNat } := by
      rw [exec_reservedBuckleOp, execReservedBuckleOp, State.run_eq, if_neg (not_not.mpr haddr)]
    refine ⟨_, hrow, ⟨rfl, ?_⟩, Chip.logFault_bkl .., Chip.logFault_count ..⟩
    exact congrArg (fun c : Chip => { c with bkl := s.chip.bkl }) (faultParts_logFault s.chip _ _ _ _ _ _)
  · have hnot : ¬ (1 ≤ Chip.faultClass (Chip.remoteEntry p).code ∧ Chip.faultClass (Chip.remoteEntry p).code ≤ 5) := by omega
    have hrow : exec (.fault eidFault p) s = .next { s with
        chip := s.chip.onFlt fun f => { f with fwdDrop := satInc f.fwdDrop } } := by
      rw [exec_fault, execFault, State.run_eq, Chip.faultPacket, if_neg (by simp [hal])]
      dsimp only
      rw [if_neg hnot]
    exact ⟨_, hrow, ⟨rfl, rfl⟩, rfl⟩
  · have hrow : exec (.fault eidFault p) s = .next { s with chip := s.chip.takeFault (Chip.remoteEntry p) } := by
      rw [exec_fault, execFault, State.run_eq, Chip.faultPacket, if_neg (by simp [hal])]
      dsimp only
      rw [if_pos ⟨hlow, hhigh⟩]
    have hremote : (Chip.remoteEntry p).remote = true := rfl
    generalize Chip.remoteEntry p = x at *
    have hfatal : (s.chip.flt.counted x).fatal = s.chip.flt.fatal := by simp [Flt.counted, hremote]
    refine ⟨_, hrow, ⟨rfl, faultParts_takeFault _ _ _⟩, Chip.takeFault_count _ _,
      (s.chip.takeFault_counted _).2.trans hfatal, fun i hi => ?_, fun hnone hroom => ?_, fun hnone hfull hclass => ?_⟩
    · have hflt := s.chip.takeFault_flt_of_merge x hi
      exact ⟨(congrArg Flt.tail hflt :), (congrArg (fun f : Flt => tget FltEntry.init f.log i) hflt).trans (tget_tput_same ..)⟩
    · have hflt := s.chip.takeFault_flt_of_room x hnone hroom
      exact ⟨(congrArg Flt.tail hflt :), (congrArg (fun f : Flt => tget FltEntry.init f.log (s.chip.flt.tail.toNat % 256)) hflt).trans
        (tget_tput_same ..)⟩
    · have hflt := congrArg Chip.flt (s.chip.takeFault_of_full x hnone hfull hclass)
      refine hflt.trans ?_
      dsimp only [Flt.counted] at hfatal
      dsimp only [Chip.onFlt, Flt.counted]
      rw [hfatal]

end Sys2Proof.Machine
end

section
/-!
PROOFS. Proofs/Arrivals.lean: what a packet does where it arrives (R167, R168, R275, R279, R367, R432, R451): at a tile, a response
slot, the command port, a channel's window, a Tensor Move Engine, a KV walker.
-/
namespace Sys2Proof.Machine
open Sys2Proof

/-! ### Entries of a page list -/

theorem setAt_eq_set {α : Type} (l : List α) (k : Nat) (v : α) : setAt l k v = l.set k v := by
  induction l generalizing k with
  | nil => rfl
  | cons a l ih =>
    cases k with
    | zero => rfl
    | succ k => exact congrArg (a :: ·) (ih k)

theorem Kv.setPage_pages (d : KvDesc) (k : Nat) (f : Page → Page) : (Kv.setPage d k f).pages = d.pages.modify k f := by
  unfold Kv.setPage
  split
  next h => rw [List.modify_eq_self (List.getElem?_eq_none_iff.mp h)]
  next p h =>
    refine List.ext_getElem? fun m => ?_
    rw [setAt_eq_set, List.getElem?_set', List.getElem?_modify]
    by_cases hm : k = m
    · subst hm
      simp [h]
    · simp [hm]

theorem Kv.foldl_setPage_length (f : Nat → Page → Page) (k n : Nat) (d : KvDesc) :
    ((List.range n).foldl (fun x i => Kv.setPage x (k + i) (f i)) d).pages.length = d.pages.length :=
  foldl_keeps (fun x : KvDesc => x.pages.length) (by intro y i; rw [Kv.setPage_pages, List.length_modify]) _ d

/-- n entries in a row from entry k on change, each once. -/
theorem Kv.foldl_setPage_getElem? (f : Nat → Page → Page) (k n : Nat) (d : KvDesc) (m : Nat) :
    ((List.range n).foldl (fun x i => Kv.setPage x (k + i) (f i)) d).pages[m]? =
      if k ≤ m ∧ m < k + n then (d.pages[m]?).map (f (m - k)) else d.pages[m]? := by
  induction n with
  | zero => rw [if_neg (by omega)]; rfl
  | succ n ih =>
    rw [List.range_succ, List.foldl_append, List.foldl_cons, List.foldl_nil, Kv.setPage_pages, List.getElem?_modify, ih]
    by_cases hm : k + n = m
    · subst hm
      rw [if_neg (by omega), if_pos (by omega)]
      simp
    · by_cases hin : k ≤ m ∧ m < k + n
      · rw [if_pos hin, if_pos (by omega)]
        simp [hm]
      · rw [if_neg hin, if_neg (by omega)]
        simp [hm]

/-! ### Endpoints (log 1, R52, R573) -/

section
variable {s : State} {e : Eid} {i : Instr} {f : Chip → Chip} (hi : exec i s = atEndpoint e s f)
include hi

theorem exec_of_noEid (he : isEid e = false) : exec i s = .fault (.noSuchUnit e) := by
  rw [hi, atEndpoint, if_neg (by simp [he])]

theorem exec_of_unassigned (he : isEid e = true) (hun : s.chip.unassigned e = true) : exec i s = .next s := by
  rw [hi, atEndpoint, if_pos he, State.run_eq, Chip.arrives, if_pos hun]

theorem exec_of_endpoint (he : isEid e = true) (hun : s.chip.unassigned e = false) :
    exec i s = .next { s with chip := f s.chip } := by
  rw [hi, atEndpoint, if_pos he, State.run_eq, Chip.arrives, if_neg (by simp [hun])]

end

theorem isEid_tileEid (n : TileId) : isEid (tileEid n) = true := by
  have h : (tileEid n).toNat = n.toNat := by
    rw [tileEid, BitVec.toNat_ofNat, Nat.mod_eq_of_lt (by omega)]
  simp [isEid, isTileEid, h, n.isLt]

theorem tileOf_tileEid (n : TileId) : Chip.tileOf (tileEid n) = some n := by
  have h : (tileEid n).toNat = n.toNat := by
    rw [tileEid, BitVec.toNat_ofNat, Nat.mod_eq_of_lt (by omega)]
  simp [Chip.tileOf, isTileEid, h, n.isLt]

theorem Chip.unassigned_tileEid (c : Chip) (n : TileId) : c.unassigned (tileEid n) = c.tileOff n := by
  have h : (tileEid n).toNat = n.toNat := by
    rw [tileEid, BitVec.toNat_ofNat, Nat.mod_eq_of_lt (by omega)]
  simp [Chip.unassigned, isTileEid, h, n.isLt]

/-! ### A tile (R167, R168) -/

section
variable {c : Chip} {n : TileId} {e : Eid} {p : Packet} {port : RPort} {notify : Option Packet}
  (haddr : p.addr.toNat < 0x080000) (hal : p.addr.toNat % pktLen p = 0)
include haddr hal

/-- An unplanned write waits in the tile's buffer of 8, or is lost where that is full. -/
theorem Chip.tileWrite_of_unplanned (hvc : p.vc ≠ 0) : c.tileWrite n e p port notify =
    if (c.tile n).ingress.length < 8 then
      c.onTile n fun x => { x with ingress := x.ingress ++ [⟨p.addr.setWidth 19, pktLen p, p.payload, notify⟩] }
    else c := by
  have hrx : p.addr ≠ 0x080000 := by
    intro h
    rw [h] at haddr
    exact absurd haddr (by decide)
  unfold Chip.tileWrite
  dsimp only
  rw [if_neg hrx, if_neg (by simp [hal]; omega), if_neg hvc]

theorem Chip.tileRead_of_aligned : c.tileRead n e p = c.onTile n fun x => { x with reads := x.reads ++ [p] } := by
  unfold Chip.tileRead
  rw [if_neg (by simp [hal]; omega)]

end

/-! ### Response slots (R275, R278, R279) -/

theorem Chip.responseArrives_of_late {c : Chip} {e : Eid} {p : Packet} (hal : Chip.addrAligned p = true)
    (hlate : (tget RspSlot.init (c.endp e).slots (tagSlot p.aux).toNat).busy = false ∨
      (tget RspSlot.init (c.endp e).slots (tagSlot p.aux).toNat).inc ≠ tagInc p.aux) :
    c.responseArrives e p = c.onFab fun f => { f with lateRsp := satInc f.lateRsp } := by
  unfold Chip.responseArrives
  dsimp only
  rw [if_neg (by simp [hal]), if_neg]
  simp only [Bool.and_eq_true, decide_eq_true_eq, not_and]
  intro hbusy hinc
  obtain h | h := hlate
  · exact absurd (h.symm.trans hbusy) (by decide)
  · exact h hinc

theorem Chip.responseArrives_of_other {c : Chip} {e : Eid} {p : Packet} (hal : Chip.addrAligned p = true)
    (hbusy : (tget RspSlot.init (c.endp e).slots (tagSlot p.aux).toNat).busy = true)
    (hinc : (tget RspSlot.init (c.endp e).slots (tagSlot p.aux).toNat).inc = tagInc p.aux)
    (huse : (tget RspSlot.init (c.endp e).slots (tagSlot p.aux).toNat).use = .other) :
    c.responseArrives e p = c.freeRsp e (tagSlot p.aux).toNat false := by
  unfold Chip.responseArrives
  dsimp only
  rw [if_neg (by simp [hal]), if_pos (by simp [hbusy, hinc]), huse]
  rfl

theorem Chip.freeRsp_slot (c : Chip) (e : Eid) (k : Nat) :
    tget RspSlot.init ((c.freeRsp e k false).endp e).slots k =
      ⟨false, (tget RspSlot.init (c.endp e).slots k).inc, none, 0, .other⟩ := by
  rw [Chip.freeRsp, Chip.onEndp_same]
  exact tget_tput_same ..

/-! ### Tensor Move Engines (R367) -/

section
variable {c : Chip} {w : BitVec 4} {p : Packet} (hon : c.clusterOn w = true) (hvc : p.vc = 1) (hlen : p.len = 3)
include hon hvc hlen

theorem Chip.tmePacket_low (haddr : p.addr = 0) : c.tmePacket w p = c.onTme w fun x => { x with half := some p.payload } := by
  simp [Chip.tmePacket, hon, hvc, hlen, haddr]

theorem Chip.tmePacket_high {lo : Line} (haddr : p.addr = 0x20) (hhalf : (c.tme w).half = some lo) :
    ∃ q, c.tmePacket w p =
      (c.onTme w fun x => { x with half := none }).onTme w fun x => { x with queue := x.queue ++ [(q, p.payload ++ lo)] } := by
  unfold Chip.tmePacket
  dsimp only
  rw [if_neg (by simp [hon]), if_neg (by rw [haddr]; simp), if_pos (by simp [hvc, hlen, haddr]), hhalf]
  exact ⟨_, rfl⟩

end

/-! ### Scores and notices (R451, R461) -/

theorem Chip.kvDesc_onDesc (c : Chip) (w : BitVec 4) (d : Nat) (f : KvDesc → KvDesc) :
    (c.onDesc w d f).kvDesc w d = f (c.kvDesc w d) := by
  rw [Chip.kvDesc, Chip.onDesc, Chip.onWalker_same]
  exact tget_tput_same ..

/-- The scores of one DATA_WR land in the entries it names. -/
theorem Chip.kvScore_eq {c : Chip} {w : BitVec 4} {p : Packet} {d j : Nat} (hd : d < 256) (hj : j < 0x400) (hvc : p.vc ≠ 2)
    (htype : p.type = tDataWr) (hlen : p.len = 0) (hal : j % 4 = 0) (haddr : p.addr.toNat = 0x100000 + 0x400 * d + j) :
    c.kvScore w p = if (c.kvDesc w d).isOpen then
      c.onDesc w d fun x =>
        (List.range 4).foldl (fun x i => Kv.setPage x (j + i) fun q => { q with score := lineByte p.payload i }) x
    else c := by
  have h4 : pktLen p = 4 := by rw [pktLen, hlen]; rfl
  have hdesc : (p.addr.toNat - 0x100000) / 0x400 = d := by omega
  have hplace : (p.addr.toNat - 0x100000) % 0x400 = j := by omega
  unfold Chip.kvScore
  dsimp only
  rw [h4, hdesc, hplace, if_neg]
  simp only [Bool.or_eq_true, decide_eq_true_eq, not_or]
  exact ⟨⟨⟨⟨hvc, not_not.mpr htype⟩, by omega⟩, by omega⟩, by omega⟩

/-- The first notice of a class is kept and goes on to the other neighbour. -/
theorem Chip.kvNotice_of_first {c : Chip} {w : BitVec 4} {p : Packet} {r : Rec} (hvc : p.vc = 1) (hlen : p.len = 1)
    (hclass : (c.ringClasses w).find? (fun r => r.target = p.payload.extractLsb' 0 16) = some r)
    (hheld : c.heldNotice w (p.payload.extractLsb' 0 16) = none) :
    c.kvNotice w p =
      (c.keepNotice w (p.payload.extractLsb' 0 16) (p.payload.extractLsb' 16 48)).sendNotice w (p.payload.extractLsb' 0 16)
        (p.payload.extractLsb' 16 48) (if p.schip = Kv.prevChip r.body then Kv.nextChip r.body else Kv.prevChip r.body) := by
  unfold Chip.kvNotice
  rw [if_neg (by simp [hvc, hlen])]
  dsimp only [fld]
  rw [hclass, hheld]
  rfl

theorem Chip.heldNotice_keepNotice (c : Chip) (w : BitVec 4) (cls : BitVec 16) (d0 : BitVec 48) :
    (c.keepNotice w cls d0).heldNotice w cls = some d0 := by
  rw [Chip.heldNotice, Chip.keepNotice, Chip.onWalker_same]
  have hgone : ((c.walker w).notices.filter fun n => n.1 ≠ cls).find? (fun n => n.1 = cls) = none :=
    List.find?_eq_none.mpr (by simp)
  dsimp only
  rw [List.find?_append, hgone]
  simp

/-- Settles O42. -/
theorem arrivals : Obligations.Arrivals := by
  intro s e p port n k w
  have htile (hoff : s.chip.tileOff n = false) {i : Instr} {f : Chip → Chip} (hi : exec i s = atEndpoint (tileEid n) s f) :=
    exec_of_endpoint hi (isEid_tileEid n) ((s.chip.unassigned_tileEid n).trans hoff)
  refine ⟨fun he => ?_, fun he hun => ?_, fun hoff haddr hal => ⟨fun hvc hfull => ⟨?_, ?_⟩, fun hvc hroom => ⟨?_, ?_⟩, ?_⟩,
    fun he hun hal hlate => ?_, fun he hun hal hbusy hinc huse => ?_, fun hsat hlen haddr => ?_, fun hhere => ?_,
    fun hon hvc hlen haddr => ?_, fun hoff => ?_, fun lo hon hvc hlen haddr hhalf => ?_,
    fun d j hd hj hvc htype hlen hal haddr => ⟨fun hclosed => ?_, fun hopen hpages => ?_⟩,
    fun r hvc hlen hclass hheld => ?_⟩
  · simp only [List.forall_mem_cons, List.not_mem_nil, false_imp_iff, implies_true, and_true]
    exact ⟨exec_of_noEid rfl he, exec_of_noEid rfl he, exec_of_noEid rfl he, exec_of_noEid rfl he, exec_of_noEid rfl he,
      exec_of_noEid rfl he⟩
  · simp only [List.forall_mem_cons, List.not_mem_nil, false_imp_iff, implies_true, and_true]
    exact ⟨exec_of_unassigned rfl he hun, exec_of_unassigned rfl he hun, exec_of_unassigned rfl he hun,
      exec_of_unassigned rfl he hun, exec_of_unassigned rfl he hun, exec_of_unassigned rfl he hun⟩
  · rw [htile hoff rfl, Chip.dataArrives, tileOf_tileEid]
    dsimp only
    rw [Chip.tileWrite_of_unplanned haddr hal hvc, if_neg (by omega)]
  · rw [htile hoff rfl, Chip.notifyArrives, tileOf_tileEid]
    dsimp only
    rw [Chip.tileWrite_of_unplanned haddr hal hvc, if_neg (by omega)]
  · have hrow := htile hoff (i := .dataWr (tileEid n) p port) rfl
    rw [Chip.dataArrives, tileOf_tileEid] at hrow
    dsimp only at hrow
    rw [Chip.tileWrite_of_unplanned haddr hal hvc, if_pos hroom] at hrow
    exact ⟨_, hrow, ⟨⟨rfl, rfl⟩, fun m hm => Chip.onTile_ne s.chip _ hm⟩, Chip.onTile_same ..⟩
  · have hrow := htile hoff (i := .dataWrNotify (tileEid n) p port) rfl
    rw [Chip.notifyArrives, tileOf_tileEid] at hrow
    dsimp only at hrow
    rw [Chip.tileWrite_of_unplanned haddr hal hvc, if_pos hroom] at hrow
    exact ⟨_, hrow, ⟨⟨rfl, rfl⟩, fun m hm => Chip.onTile_ne s.chip _ hm⟩, Chip.onTile_same ..⟩
  · have hrow := htile hoff (i := .readReq (tileEid n) p) rfl
    rw [Chip.readArrives, tileOf_tileEid] at hrow
    dsimp only at hrow
    rw [Chip.tileRead_of_aligned haddr hal] at hrow
    exact ⟨_, hrow, ⟨⟨rfl, rfl⟩, fun m hm => Chip.onTile_ne s.chip _ hm⟩, Chip.onTile_same ..⟩
  · simp only [List.forall_mem_cons, List.not_mem_nil, false_imp_iff, implies_true, and_true]
    have hboth {i : Instr} (hi : exec i s = atEndpoint e s fun c => c.responseArrives e p) :=
      (exec_of_endpoint hi he hun).trans (congrArg (fun c : Chip => Host.Outcome.next { s with chip := c })
        (Chip.responseArrives_of_late hal hlate))
    exact ⟨⟨_, hboth rfl, ⟨rfl, rfl⟩, rfl⟩, ⟨_, hboth rfl, ⟨rfl, rfl⟩, rfl⟩⟩
  · simp only [List.forall_mem_cons, List.not_mem_nil, false_imp_iff, implies_true, and_true]
    have hboth {i : Instr} (hi : exec i s = atEndpoint e s fun c => c.responseArrives e p) :=
      (exec_of_endpoint hi he hun).trans (congrArg (fun c : Chip => Host.Outcome.next { s with chip := c })
        (Chip.responseArrives_of_other hal hbusy hinc huse))
    exact ⟨⟨_, hboth rfl, ⟨rfl, rfl⟩, Chip.freeRsp_slot ..⟩, ⟨_, hboth rfl, ⟨rfl, rfl⟩, Chip.freeRsp_slot ..⟩⟩
  · have hun : s.chip.unassigned eidCmd = false := by
      rw [Chip.unassigned, if_neg (by decide), if_pos (by decide), hsat, Bool.false_and]
    have hrow := exec_of_endpoint (i := .cmd eidCmd p) rfl (by decide) hun
    rw [Chip.cmdArrives, if_pos (by simp [hlen, haddr])] at hrow
    exact ⟨_, hrow, ⟨rfl, rfl⟩, rfl⟩
  · have hrow : exec (.memWinWrite k p) s = .next { s with chip := s.chip.setWindow k p } := rfl
    rw [Chip.setWindow, if_pos hhere] at hrow
    have hchan := s.chip.onChan_same k fun x => { x with win := tput 0 x.win p.seid.toNat (p.payload.extractLsb' 0 9) }
    refine ⟨_, hrow, ⟨⟨rfl, rfl⟩, fun m hm => Chip.onChan_ne s.chip _ hm⟩, ?_, fun j => ?_⟩
    · rw [hchan]
    · rw [hchan]
      exact tget_tput ..
  · have hrow : exec (.tmeDescriptorPacket w p) s = .next { s with chip := s.chip.tmePacket w p } := rfl
    rw [Chip.tmePacket_low hon hvc hlen haddr] at hrow
    exact ⟨_, hrow, ⟨⟨rfl, rfl⟩, fun m hm => Chip.onTme_ne s.chip _ hm⟩, Chip.onTme_same ..⟩
  · rw [exec_tmeDescriptorPacket, execTmeDescriptorPacket, State.run_eq, Chip.tmePacket]
    simp only [hoff, Bool.not_false, if_true]
  · have hrow : exec (.tmeDescriptorPacket w p) s = .next { s with chip := s.chip.tmePacket w p } := rfl
    obtain ⟨q, hq⟩ := Chip.tmePacket_high hon hvc hlen haddr hhalf
    rw [hq] at hrow
    refine ⟨_, q, hrow, ⟨⟨rfl, rfl⟩, fun m hm => ?_⟩, ?_⟩
    · exact (Chip.onTme_ne _ _ hm).trans (Chip.onTme_ne s.chip _ hm)
    · refine (Chip.onTme_same ..).trans ?_
      rw [Chip.onTme_same]
  · have hrow : exec (.scoreWrite w p) s = .next { s with chip := s.chip.kvScore w p } := rfl
    rw [hrow, Chip.kvScore_eq hd hj hvc htype hlen hal haddr, hclosed, if_neg (by decide)]
  · have hrow : exec (.scoreWrite w p) s = .next { s with chip := s.chip.kvScore w p } := rfl
    rw [Chip.kvScore_eq hd hj hvc htype hlen hal haddr, if_pos hopen] at hrow
    have hlength := Kv.foldl_setPage_length (fun i q => { q with score := lineByte p.payload i }) j 4 (s.chip.kvDesc w d)
    have hpage := Kv.foldl_setPage_getElem? (fun i q => { q with score := lineByte p.payload i }) j 4 (s.chip.kvDesc w d)
    have hdesc := Chip.kvDesc_onDesc s.chip w d fun x =>
        (List.range 4).foldl (fun x i => Kv.setPage x (j + i) fun q => { q with score := lineByte p.payload i }) x
    rw [← hdesc] at hlength hpage
    generalize (fun x : KvDesc =>
      (List.range 4).foldl (fun x i => Kv.setPage x (j + i) fun q => { q with score := lineByte p.payload i }) x) = f at *
    refine ⟨_, hrow, ⟨⟨rfl, rfl⟩, fun m hm => Chip.onWalker_ne s.chip _ hm⟩, hlength, hpage⟩
  · have hrow : exec (.ringNotice w p) s = .next { s with chip := s.chip.kvNotice w p } := rfl
    rw [Chip.kvNotice_of_first hvc hlen hclass hheld, Chip.sendNotice, Chip.send_vc1 rfl] at hrow
    exact ⟨_, hrow, ⟨rfl, rfl⟩, Chip.heldNotice_keepNotice s.chip _ _ _, _, congrArg Endp.queue (Chip.onEndp_same ..), rfl, rfl⟩

end Sys2Proof.Machine
end

section
/-!
PROOFS. Proofs/UmaedTraining.lean: the states of a Umaed link (R309 to R316) and the marks that register on it (R325 to R330). A
step of a link's training changes that link and the rows to come; one that logs, the parts of faultParts too.
-/
namespace Sys2Proof.Machine
open Sys2Proof

theorem not_decide_and {p : Prop} [Decidable p] {b : Bool} (h : ¬ p) : ¬ (decide p && b) = true := by
  simp [h]

/-! ### What a step of a link changes -/

/-- From c to d link n and the rows to come alone have changed. -/
structure Chip.TrainStep (n : Fin 6) (c d : Chip) : Prop where
  frame : ∀ l a, ({ d with uml := { d.uml with links := l }, agenda := a } : Chip) =
    { c with uml := { c.uml with links := l }, agenda := a }
  other : ∀ m, m ≠ n → d.link m = c.link m

/-- From c to d link n and what a logged fault may change alone have changed. -/
structure Chip.FaultStep (n : Fin 6) (c d : Chip) : Prop where
  frame : ∀ b l, faultParts b { d with uml := { d.uml with links := l } } = faultParts b { c with uml := { c.uml with links := l } }
  other : ∀ m, m ≠ n → d.link m = c.link m

section
variable {n : Fin 6} {b c d : Chip}

theorem Chip.TrainStep.trans (h : Chip.TrainStep n b c) (g : Chip.TrainStep n c d) : Chip.TrainStep n b d :=
  ⟨fun l a => (g.frame l a).trans (h.frame l a), fun m hm => (g.other m hm).trans (h.other m hm)⟩

theorem Chip.FaultStep.trans (h : Chip.FaultStep n b c) (g : Chip.FaultStep n c d) : Chip.FaultStep n b d :=
  ⟨fun x l => (g.frame x l).trans (h.frame x l), fun m hm => (g.other m hm).trans (h.other m hm)⟩

theorem Chip.FaultStep.refl (n : Fin 6) (c : Chip) : Chip.FaultStep n c c := ⟨fun _ _ => rfl, fun _ _ => rfl⟩

theorem Chip.TrainStep.toFault (h : Chip.TrainStep n c d) : Chip.FaultStep n c d :=
  ⟨fun b l => (congrArg (faultParts b) (h.frame l b.agenda) :), h.other⟩

theorem Chip.TrainStep.onLink (c : Chip) (n : Fin 6) (f : Link → Link) : Chip.TrainStep n c (c.onLink n f) :=
  ⟨fun _ _ => rfl, fun _ hm => c.onLink_ne f hm⟩

theorem Chip.TrainStep.post (c : Chip) (n : Fin 6) (k : Nat) (i : Instr) : Chip.TrainStep n c (c.post k i) :=
  ⟨fun _ _ => rfl, fun _ _ => rfl⟩

theorem Chip.TrainStep.umlForget (c : Chip) (n : Fin 6) : Chip.TrainStep n c (c.umlForget n) :=
  ⟨fun _ _ => rfl, fun _ _ => rfl⟩

theorem Chip.TrainStep.keeps {s : State} (h : Chip.TrainStep n s.chip d) :
    keepsBut (fun c => { c with uml := { c.uml with links := s.chip.uml.links }, agenda := s.chip.agenda }) s { s with chip := d } :=
  ⟨rfl, h.frame s.chip.uml.links s.chip.agenda⟩

theorem Chip.FaultStep.keeps {s : State} (h : Chip.FaultStep n s.chip d) :
    keepsBut (fun c => faultParts s.chip { c with uml := { c.uml with links := s.chip.uml.links } }) s { s with chip := d } :=
  ⟨rfl, h.frame s.chip s.chip.uml.links⟩

theorem Chip.FaultStep.of_uml {n : Fin 6} (hparts : ∀ b, faultParts b d = faultParts b c) (huml : d.uml = c.uml) :
    Chip.FaultStep n c d :=
  ⟨fun b l => by
    have h := congrArg (fun x : Chip => { x with uml := { c.uml with links := l } }) (hparts b)
    rw [← huml] at h ⊢
    exact h, fun m _ => by rw [Chip.link, huml, ← Chip.link]⟩

theorem Chip.FaultStep.logFault (c : Chip) (n : Fin 6) (code : BitVec 16) (source : Eid) (unit detail : Nat) :
    Chip.FaultStep n c (c.logFault code source unit detail) :=
  .of_uml (fun b => faultParts_logFault b c _ _ _ _ _) (c.logFault_uml _ _ _ _ _)

theorem Chip.FaultStep.send (c : Chip) (n : Fin 6) (e : Eid) (p : Packet) : Chip.FaultStep n c (c.send e p) :=
  .of_uml (fun b => faultParts_send b c _ _ _) (by rw [Chip.send_eq])

end

/-! ### A VC0 packet that is late (R271, R315) -/

section
variable (c : Chip)

theorem faultParts_vc0Late (b : Chip) (e : Eid) (p : Packet) : faultParts b (c.vc0Late e p) = faultParts b c := by
  unfold Chip.vc0Late
  dsimp only
  split
  · rw [faultParts_logFault]; rfl
  · rfl

theorem Chip.vc0Late_uml (e : Eid) (p : Packet) : (c.vc0Late e p).uml = c.uml := by
  unfold Chip.vc0Late
  dsimp only
  split
  · rw [Chip.logFault_uml]; rfl
  · rfl

theorem Chip.vc0Late_now (e : Eid) (p : Packet) : (c.vc0Late e p).now = c.now := by
  unfold Chip.vc0Late
  dsimp only
  split
  · rw [Chip.logFault_now]; rfl
  · rfl

theorem faultParts_lateEgress (b : Chip) (n : Fin 6) : faultParts b (c.lateEgress n) = faultParts b c := by
  unfold Chip.lateEgress
  exact foldl_keeps (faultParts b) (fun y f => faultParts_vc0Late y b _ _) _ c

theorem Chip.lateEgress_uml (n : Fin 6) : (c.lateEgress n).uml = c.uml := by
  unfold Chip.lateEgress
  exact foldl_keeps Chip.uml (fun y f => y.vc0Late_uml _ _) _ c

theorem Chip.lateEgress_now (n : Fin 6) : (c.lateEgress n).now = c.now := by
  unfold Chip.lateEgress
  exact foldl_keeps Chip.now (fun y f => y.vc0Late_now _ _) _ c

/-! ### A link enters a state (R309) -/

/-- The link once it has entered a state on cycle `now`. -/
def Link.entered (l : Link) (st : BitVec 3) (now : Nat) : Link :=
  { l with
    state := st
    gotIdent := if st = 3 then false else l.gotIdent
    echoes := if st = 4 then 0 else l.echoes
    echoWait := false
    received := 0
    badFrames := []
    downed := if st = 5 then false else l.downed
    markDue := if st = 5 then l.markDue else none
    nextFrame := now + 1 }

variable (n : Fin 6) (st : BitVec 3)

theorem Chip.umlEnter_link : (c.umlEnter n st).link n = (c.link n).entered st c.now := by
  unfold Chip.umlEnter
  split
  · refine (Chip.onLink_same ..).trans ?_
    have hlink : ((c.lateEgress n).umlForget n).link n = c.link n := congrArg (fun u : Uml => tget Link.init u.links n.val) (c.lateEgress_uml n)
    rw [hlink, Chip.lateEgress_now]
    rfl
  · exact Chip.onLink_same ..

theorem Chip.FaultStep.umlEnter : Chip.FaultStep n c (c.umlEnter n st) := by
  unfold Chip.umlEnter
  split
  · exact (Chip.FaultStep.of_uml (fun b => faultParts_lateEgress c b n) (c.lateEgress_uml n)).trans
      ((Chip.TrainStep.umlForget _ n).trans (Chip.TrainStep.onLink _ n _)).toFault
  · exact ((Chip.TrainStep.umlForget c n).trans (Chip.TrainStep.onLink _ n _)).toFault

end

theorem Chip.TrainStep.umlEnter {c : Chip} {n : Fin 6} (hup : (c.link n).state ≠ 5) (st : BitVec 3) :
    Chip.TrainStep n c (c.umlEnter n st) := by
  rw [Chip.umlEnter_eq hup]
  exact (Chip.TrainStep.umlForget c n).trans (Chip.TrainStep.onLink _ n _)

theorem Chip.umlEnter_now {c : Chip} {n : Fin 6} (hup : (c.link n).state ≠ 5) (st : BitVec 3) :
    (c.umlEnter n st).now = c.now := by
  rw [Chip.umlEnter_eq hup]; rfl

theorem Chip.umlEnter_flt {c : Chip} {n : Fin 6} (hup : (c.link n).state ≠ 5) (st : BitVec 3) :
    (c.umlEnter n st).flt = c.flt := by
  rw [Chip.umlEnter_eq hup]; rfl

/-! ### A pass through training that fails (R310) -/

section
variable (c : Chip) (n : Fin 6)

/-- A failed pass counts, names its state, logs UMAED_TRAIN and goes back to DETECT. -/
theorem Chip.trainFail_step (hup : (c.link n).state ≠ 5) :
    Chip.FaultStep n c (c.trainFail n) ∧ ((c.trainFail n).link n).state = 1 ∧
      ((c.trainFail n).link n).cause = (c.link n).state ∧ ((c.trainFail n).link n).trainCnt = satInc (c.link n).trainCnt ∧
      tget 0 (c.trainFail n).flt.counts 4 = satInc (tget 0 c.flt.counts 4) := by
  let d := (c.onLink n fun l => { l with trainCnt := satInc l.trainCnt, cause := (c.link n).state }).logFault 0x4003 (eidUmaed n)
    n.val (c.link n).state.toNat
  have hd : c.trainFail n = d.umlEnter n 1 := rfl
  have hlink : d.link n = { c.link n with trainCnt := satInc (c.link n).trainCnt, cause := (c.link n).state } := by
    rw [Chip.link, Chip.logFault_uml, ← Chip.link, Chip.onLink_same]
  have hup' : (d.link n).state ≠ 5 := by rw [hlink]; exact hup
  rw [hd, Chip.umlEnter_link, Chip.umlEnter_flt hup', hlink]
  refine ⟨?_, rfl, rfl, rfl, Chip.logFault_count ..⟩
  exact (Chip.TrainStep.onLink c n _).toFault.trans ((Chip.FaultStep.logFault _ n _ _ _ _).trans (Chip.FaultStep.umlEnter d n 1))

end

/-! ### A lane fails (R313), the link goes down (R316) -/

theorem Link.inUp_lane {l : Link} {lane : BitVec 2} (hstate : l.state = 5) (hlane : l.lanesOk.getLsbD lane.toNat = true) :
    (decide (l.state = 5) && flag l.lanesOk lane.toNat) = true := by
  rw [hstate, flag, hlane]; rfl

section
variable {c : Chip} {n : Fin 6} (hstate : (c.link n).state = 5)
include hstate

/-- The width that the lanes left to a link allow. -/
theorem Chip.umlLaneFail_of_width {lane : BitVec 2} (hlane : (c.link n).lanesOk.getLsbD lane.toNat = true) {w : BitVec 2}
    (hw : Uml.widest (Uml.offered ((c.link n).lanesOk &&& ~~~((1 : BitVec 4) <<< lane.toNat)) (c.minWidth n) &&&
      Uml.noWider (c.link n).cap &&& (c.link n).peerWidths &&& Uml.noWider (c.link n).width) = some w) :
    ∃ d : Chip, c.umlLaneFail n lane = d.umlEnter n 4 ∧ Chip.FaultStep n c d ∧
      d.link n = { c.link n with
        lanesOk := (c.link n).lanesOk &&& ~~~((1 : BitVec 4) <<< lane.toNat), degraded := true, width := w, cap := w } := by
  let lanes := (c.link n).lanesOk &&& ~~~((1 : BitVec 4) <<< lane.toNat)
  let c1 := c.onLink n fun l => { l with lanesOk := lanes, degraded := true }
  let c2 := c1.logFault 0x4004 (eidUmaed n) n.val (lanes.toNat + 256 * w.toNat)
  have hoffer : c1.umlOffer n = Uml.offered lanes (c.minWidth n) &&& Uml.noWider (c.link n).cap := by
    rw [Chip.umlOffer, Chip.onLink_same]; rfl
  refine ⟨c2.onLink n fun l => { l with width := w, cap := w }, ?_, ?_, ?_⟩
  · unfold Chip.umlLaneFail
    dsimp only
    rw [if_pos (Link.inUp_lane hstate hlane)]
    erw [hoffer, hw]
  · exact (Chip.TrainStep.onLink c n _).toFault.trans ((Chip.FaultStep.logFault c1 n _ _ _ _).trans (Chip.TrainStep.onLink c2 n _).toFault)
  · rw [Chip.onLink_same, Chip.link, Chip.logFault_uml, ← Chip.link, Chip.onLink_same]

/-- With no width left a lane's failure brings LINK_DOWN; the width it logs is free. -/
theorem Chip.umlLaneFail_of_none {lane : BitVec 2} (hlane : (c.link n).lanesOk.getLsbD lane.toNat = true)
    (hw : Uml.widest (Uml.offered ((c.link n).lanesOk &&& ~~~((1 : BitVec 4) <<< lane.toNat)) (c.minWidth n) &&&
      Uml.noWider (c.link n).cap &&& (c.link n).peerWidths &&& Uml.noWider (c.link n).width) = none) :
    ∃ detail, c.umlLaneFail n lane =
      (({ c.onLink n fun l => { l with
          lanesOk := (c.link n).lanesOk &&& ~~~((1 : BitVec 4) <<< lane.toNat), degraded := true } with
            free := c.free + 1 } : Chip).logFault 0x4004 (eidUmaed n) n.val detail).post 0 (.linkDown n) := by
  let lanes := (c.link n).lanesOk &&& ~~~((1 : BitVec 4) <<< lane.toNat)
  have hoffer : (c.onLink n fun l => { l with lanesOk := lanes, degraded := true }).umlOffer n =
      Uml.offered lanes (c.minWidth n) &&& Uml.noWider (c.link n).cap := by
    rw [Chip.umlOffer, Chip.onLink_same]; rfl
  unfold Chip.umlLaneFail
  dsimp only
  rw [if_pos (Link.inUp_lane hstate hlane)]
  erw [hoffer, hw]
  exact ⟨_, rfl⟩

/-- A link that no width is left to enters DOWN, and what it queues is dropped and counted. -/
theorem Chip.umlDown_of_none (hw : Uml.widest (c.umlOffer n &&& (c.link n).peerWidths) = none) :
    Chip.FaultStep n c (c.umlDown n) ∧ (c.umlDown n).link n = { (c.link n).entered 6 c.now with
      downed := true, egress := [], downDrop := satAdd (c.link n).downDrop (c.link n).egress.length } := by
  let d := (c.umlEnter n 6).logFault 0x4005 (eidUmaed n) n.val 0
  let e := d.onLink n fun l => { l with
    downed := true, egress := [], downDrop := satAdd l.downDrop (c.link n).egress.length }
  have hdown : c.umlDown n = (c.link n).egress.foldl
      (fun c f => if isRequest f.pkt then c.send (eidUmaed n) (poisonResponse f.pkt) else c) e := by
    unfold Chip.umlDown
    dsimp only
    rw [if_pos (by simp [hstate, hw])]
  have he : Chip.FaultStep n c e ∧ e.link n = { (c.link n).entered 6 c.now with
      downed := true, egress := [], downDrop := satAdd (c.link n).downDrop (c.link n).egress.length } := by
    refine ⟨(Chip.FaultStep.umlEnter c n 6).trans ((Chip.FaultStep.logFault _ n _ _ _ _).trans (Chip.TrainStep.onLink d n _).toFault), ?_⟩
    rw [Chip.onLink_same, Chip.link, Chip.logFault_uml, ← Chip.link, Chip.umlEnter_link]
    rfl
  rw [hdown]
  refine List.foldlRecOn (motive := fun y => Chip.FaultStep n c y ∧ y.link n = _) _ _ he fun y hy f _ => ?_
  split
  · refine ⟨hy.1.trans (Chip.FaultStep.send y n _ _), ?_⟩
    rw [Chip.send_eq]
    exact hy.2
  · exact hy

end

/-! ### The states in order (R309 to R312) -/

section
variable {c : Chip} {n : Fin 6}

/-- A step that changes link n, which is not in UP, and then takes it into a state. -/
theorem Chip.umlEnter_step (hup : (c.link n).state ≠ 5) {f : Link → Link} (hf : (f (c.link n)).state = (c.link n).state)
    (st : BitVec 3) :
    Chip.TrainStep n c ((c.onLink n f).umlEnter n st) ∧ ((c.onLink n f).umlEnter n st).now = c.now ∧
      ((c.onLink n f).umlEnter n st).link n = (f (c.link n)).entered st c.now := by
  have hup' : ((c.onLink n f).link n).state ≠ 5 := by rw [Chip.onLink_same, hf]; exact hup
  refine ⟨(Chip.TrainStep.onLink c n f).trans (.umlEnter hup' st), Chip.umlEnter_now hup' st, ?_⟩
  rw [Chip.umlEnter_link, Chip.onLink_same]
  rfl

theorem Chip.umlDetect_step {lanes : BitVec 4} (hstate : (c.link n).state = 1) (hlanes : c.minWidth n ≤ Uml.laneCount lanes) :
    Chip.TrainStep n c (c.umlDetect n lanes) ∧
      (c.umlDetect n lanes).link n = ({ c.link n with lanesOk := lanes } : Link).entered 2 c.now ∧
      (c.now + 1250000, .adaptTimeout n) ∈ (c.umlDetect n lanes).agenda := by
  have hup : (c.link n).state ≠ 5 := by rw [hstate]; decide
  obtain ⟨hstep, hnow, hlink⟩ := Chip.umlEnter_step hup (f := fun l => { l with lanesOk := lanes }) rfl 2
  have heq : c.umlDetect n lanes =
      ((c.onLink n fun l => { l with lanesOk := lanes }).umlEnter n 2).post 1250000 (.adaptTimeout n) :=
    if_pos (by simp [hstate, hlanes])
  rw [heq]
  exact ⟨hstep.trans (.post _ n _ _), hlink, List.mem_append_right _ (List.mem_singleton.mpr (by rw [hnow]))⟩

theorem Chip.umlAdapted_step {lanes : BitVec 4} (hstate : (c.link n).state = 2)
    (hlanes : c.minWidth n ≤ Uml.laneCount ((c.link n).lanesOk &&& lanes)) :
    Chip.TrainStep n c (c.umlAdapted n lanes) ∧ ∃ w, (c.umlAdapted n lanes).link n =
      { ({ c.link n with lanesOk := (c.link n).lanesOk &&& lanes, peerWidths := 0, width := 0 } : Link).entered 3 c.now with
        width := w } := by
  have hup : (c.link n).state ≠ 5 := by rw [hstate]; decide
  obtain ⟨hstep, -, hlink⟩ := Chip.umlEnter_step hup
    (f := fun l => { l with lanesOk := (c.link n).lanesOk &&& lanes, peerWidths := 0, width := 0 }) rfl 3
  unfold Chip.umlAdapted
  dsimp only
  rw [if_pos (by simp [hstate, hlanes])]
  generalize (c.onLink n fun l => { l with lanesOk := (c.link n).lanesOk &&& lanes, peerWidths := 0, width := 0 }).umlEnter n 3 =
    d at hstep hlink ⊢
  refine ⟨(hstep.trans (.onLink d n _)).trans (.post _ n _ _), d.trainWidth n, ?_⟩
  refine (Chip.onLink_same d n fun l => { l with width := d.trainWidth n }).trans ?_
  rw [hlink]

theorem Chip.umlIdentEnd_step {w : BitVec 2} (hstate : (c.link n).state = 3)
    (hw : Uml.widest (c.umlOffer n &&& (c.link n).peerWidths) = some w) (hident : (c.link n).gotIdent = true)
    (hpeer : (c.link n).peer = c.peerChip n) :
    Chip.TrainStep n c (c.umlIdentEnd n) ∧
      (c.umlIdentEnd n).link n = ({ c.link n with width := w } : Link).entered 4 c.now := by
  have hup : (c.link n).state ≠ 5 := by rw [hstate]; decide
  obtain ⟨hstep, -, hlink⟩ := Chip.umlEnter_step hup (f := fun l => { l with width := w }) rfl 4
  unfold Chip.umlIdentEnd
  dsimp only
  rw [if_neg (not_not.mpr hstate), hw]
  dsimp only
  rw [if_pos (by simp [hident, hpeer])]
  exact ⟨hstep, hlink⟩

theorem Chip.umlIdentEnd_of_fail (hstate : (c.link n).state = 3)
    (hfail : Uml.widest (c.umlOffer n &&& (c.link n).peerWidths) = none ∨ (c.link n).gotIdent = false ∨
      (c.link n).peer ≠ c.peerChip n) : c.umlIdentEnd n = c.trainFail n := by
  unfold Chip.umlIdentEnd
  dsimp only
  rw [if_neg (not_not.mpr hstate)]
  split
  next w hw =>
    rw [hw] at hfail
    refine if_neg ?_
    simp only [Bool.and_eq_true, decide_eq_true_eq, not_and]
    intro hident hpeer
    obtain h | h | h := hfail
    · exact absurd h (by simp)
    · exact absurd (h.symm.trans hident) (by decide)
    · exact h hpeer
  next => rfl

section
variable (hstate : (c.link n).state = 4) (hechoes : (c.link n).echoes = 16)
include hstate hechoes

theorem Chip.umlAligned_eq :
    c.umlAligned n =
      if 16 < (c.link n).rounds / 2 then
        (c.onLink n fun l => { l with delay := BitVec.ofNat 32 ((c.link n).rounds / 2) }).trainFail n
      else (c.onLink n fun l => { l with delay := BitVec.ofNat 32 ((c.link n).rounds / 2) }).umlEnter n 5 := by
  unfold Chip.umlAligned
  dsimp only
  rw [if_pos (by simp [hstate, hechoes])]

theorem Chip.umlAligned_step (hd : (c.link n).rounds / 2 ≤ 16) :
    Chip.TrainStep n c (c.umlAligned n) ∧ (c.umlAligned n).link n =
      ({ c.link n with delay := BitVec.ofNat 32 ((c.link n).rounds / 2) } : Link).entered 5 c.now := by
  have hup : (c.link n).state ≠ 5 := by rw [hstate]; decide
  obtain ⟨hstep, -, hlink⟩ := Chip.umlEnter_step hup
    (f := fun l => { l with delay := BitVec.ofNat 32 ((c.link n).rounds / 2) }) rfl 5
  rw [Chip.umlAligned_eq hstate hechoes, if_neg (by omega)]
  exact ⟨hstep, hlink⟩

theorem Chip.umlAligned_fails (hd : 16 < (c.link n).rounds / 2) :
    Chip.FaultStep n c (c.umlAligned n) ∧ ((c.umlAligned n).link n).state = 1 ∧
      ((c.umlAligned n).link n).cause = (c.link n).state ∧ ((c.umlAligned n).link n).trainCnt = satInc (c.link n).trainCnt ∧
      tget 0 (c.umlAligned n).flt.counts 4 = satInc (tget 0 c.flt.counts 4) := by
  rw [Chip.umlAligned_eq hstate hechoes, if_pos hd]
  have hlink := Chip.onLink_same c n fun l => { l with delay := BitVec.ofNat 32 ((c.link n).rounds / 2) }
  obtain ⟨hstep, hst', hcause, hcnt, hflt⟩ :=
    Chip.trainFail_step (c.onLink n fun l => { l with delay := BitVec.ofNat 32 ((c.link n).rounds / 2) }) n
      (by rw [hlink, hstate]; decide)
  rw [hlink] at hcause hcnt
  exact ⟨(Chip.TrainStep.onLink c n _).toFault.trans hstep, hst', hcause, hcnt, hflt⟩

end

end

/-! ### Marks (R325, R326, R329) -/

theorem Chip.umlMark_of_stopped {c : Chip} {n : Fin 6} {d skew : BitVec 16} (hpar : c.umlParent n = true)
    (hrun : c.alm.running = false) (harm : c.alm.armed = false) :
    c.umlMark n d skew = { c with uml := { c.uml with skew := skew + BitVec.ofNat 16 (Uml.lag (c.link n).width) } } := by
  unfold Chip.umlMark
  simp only [hpar, hrun, harm, if_true, Bool.false_eq_true, if_false]

theorem Chip.umlMark_of_foreign {c : Chip} {n : Fin 6} {d skew : BitVec 16} (hpar : c.umlParent n = false)
    (hrun : c.alm.running = false) : c.umlMark n d skew = c := by
  unfold Chip.umlMark
  simp only [hpar, hrun, Bool.false_eq_true, if_false, Bool.not_false, if_true, ite_self]

/-- The root's start mark brings the muster. -/
theorem Chip.umlMark_of_muster {c : Chip} {n : Fin 6} {skew : BitVec 16} (hpar : c.umlParent n = true)
    (harm : c.alm.armed = true) (hday : c.alm.day0At = none) :
    c.umlMark n 0xFFFF skew =
      (({ c with uml := { c.uml with skew := skew + BitVec.ofNat 16 (Uml.lag (c.link n).width) } } : Chip).onLink n fun l =>
        { l with markOffset := 0 }).day0In 1 := by
  unfold Chip.umlMark
  simp only [hpar, harm, if_true, Bool.not_true, Bool.false_eq_true, if_false]
  exact if_pos (by rw [Chip.onLink]; exact congrArg Option.isNone hday)

/-- Settles O45. -/
theorem umaedTraining : Obligations.UmaedTraining := by
  refine ⟨fun s n lanes lane => ?_, fun s n d skew => ⟨fun hpar hrun => ?_, fun hpar hrun harm => ?_, fun hpar harm hday hd => ?_⟩⟩
  · have hdetect : exec (.laneSignalDetect n lanes) s = .next { s with chip := s.chip.umlDetect n lanes } := rfl
    have hadapt : exec (.adaptDone n lanes) s = .next { s with chip := s.chip.umlAdapted n lanes } := rfl
    have htimeout : exec (.adaptTimeout n) s =
      .next { s with chip := if (s.chip.link n).state = 2 then s.chip.trainFail n else s.chip } := rfl
    have hident : exec (.identEnd n) s = .next { s with chip := s.chip.umlIdentEnd n } := rfl
    have halign : exec (.alignDone n) s = .next { s with chip := s.chip.umlAligned n } := rfl
    have hlane : exec (.laneFail n lane) s = .next { s with chip := s.chip.umlLaneFail n lane } := rfl
    have hdown : exec (.linkDown n) s = .next { s with chip := s.chip.umlDown n } := rfl
    have hother {a b : BitVec 3} (h : (s.chip.link n).state = a) (hab : a ≠ b) : (s.chip.link n).state ≠ b := h ▸ hab
    refine ⟨fun hst hok => ?_, fun hst hok => ?_, fun hst => ?_, fun hst => ⟨fun w hw hid hpeer => ?_, fun hfail => ?_⟩,
      fun hst hechoes => ⟨fun hd => ?_, fun hd => ?_⟩, fun hst => ?_, fun hst => ⟨?_, ?_⟩, fun hst => ?_, fun hst => ?_,
      fun hst => ⟨?_, ?_⟩, fun hst => ⟨fun hdead => ?_, fun hok hw => ?_, fun w hok hw => ?_, fun hw => ?_, fun hw => ?_⟩⟩
    · obtain ⟨hstep, hlink, hrow⟩ := Chip.umlDetect_step hst hok
      exact ⟨_, hdetect, ⟨hstep.keeps, hstep.other, by rw [hlink]; rfl⟩, by rw [hlink]; rfl, hrow⟩
    · obtain ⟨hstep, w, hlink⟩ := Chip.umlAdapted_step hst hok
      exact ⟨_, hadapt, ⟨hstep.keeps, hstep.other, by rw [hlink]; rfl⟩, by rw [hlink]; rfl, by rw [hlink]; rfl⟩
    · obtain ⟨hstep, hst', hcause, hcnt, hflt⟩ := s.chip.trainFail_step n (hother hst (by decide))
      rw [if_pos hst] at htimeout
      exact ⟨_, htimeout, hstep.keeps, hstep.other, hst', hcause, hcnt, hflt⟩
    · obtain ⟨hstep, hlink⟩ := Chip.umlIdentEnd_step hst hw hid hpeer
      exact ⟨_, hident, ⟨hstep.keeps, hstep.other, by rw [hlink]; rfl⟩, by rw [hlink]; rfl, by rw [hlink]; rfl⟩
    · obtain ⟨hstep, hst', hcause, hcnt, hflt⟩ := s.chip.trainFail_step n (hother hst (by decide))
      rw [Chip.umlIdentEnd_of_fail hst hfail] at hident
      exact ⟨_, hident, hstep.keeps, hstep.other, hst', hcause, hcnt, hflt⟩
    · obtain ⟨hstep, hlink⟩ := Chip.umlAligned_step hst hechoes hd
      exact ⟨_, halign, ⟨hstep.keeps, hstep.other, by rw [hlink]; rfl⟩, by rw [hlink]; rfl, by rw [hlink]; rfl⟩
    · obtain ⟨hstep, hst', hcause, hcnt, hflt⟩ := Chip.umlAligned_fails hst hechoes hd
      exact ⟨_, halign, hstep.keeps, hstep.other, hst', hcause, hcnt, hflt⟩
    · rw [hdetect, Chip.umlDetect, if_neg (not_decide_and hst)]
    · rw [hadapt, Chip.umlAdapted]
      dsimp only
      rw [if_neg (not_decide_and hst)]
    · rw [htimeout, if_neg hst]
    · rw [hident, Chip.umlIdentEnd]
      exact congrArg (fun c : Chip => Host.Outcome.next { s with chip := c }) (if_pos hst)
    · rw [halign, Chip.umlAligned]
      dsimp only
      rw [if_neg (not_decide_and hst)]
    · rw [hlane, Chip.umlLaneFail]
      dsimp only
      rw [if_neg (not_decide_and hst)]
    · rw [hdown, Chip.umlDown]
      dsimp only
      rw [if_neg (not_decide_and hst)]
    · rw [hlane, Chip.umlLaneFail]
      dsimp only
      rw [if_neg (by rw [flag, hdead]; simp)]
    · obtain ⟨detail, hfail⟩ := Chip.umlLaneFail_of_none hst hok hw
      rw [hfail] at hlane
      refine ⟨_, hlane, ⟨rfl, ?_⟩, ?_, ?_, Chip.logFault_count ..⟩
      · exact (congrArg (fun c : Chip => { c with uml := { c.uml with links := s.chip.uml.links }, free := s.chip.free })
          (faultParts_logFault s.chip _ _ _ _ _ _) :)
      · exact (congrArg (fun u : Uml => tget Link.init u.links n.val) (Chip.logFault_uml ..) :).trans (tget_tput_same ..)
      · exact List.mem_append_right _ (List.mem_singleton.mpr (by rw [Chip.logFault_now]; rfl))
    · obtain ⟨d, hfail, hstep, hlink⟩ := Chip.umlLaneFail_of_width hst hok hw
      have hall := hstep.trans (Chip.FaultStep.umlEnter d n 4)
      have hlink' := d.umlEnter_link n 4
      rw [hfail] at hlane
      rw [hlink] at hlink'
      exact ⟨_, hlane, hall.keeps, congrArg Link.state hlink', congrArg Link.width hlink', congrArg Link.degraded hlink',
        congrArg Link.cap hlink', congrArg Link.lanesOk hlink'⟩
    · obtain ⟨w, hw'⟩ := Option.ne_none_iff_exists'.mp hw
      rw [hdown, Chip.umlDown]
      dsimp only
      rw [if_neg (by simp [hw'])]
    · obtain ⟨hstep, hlink⟩ := Chip.umlDown_of_none hst hw
      exact ⟨_, hdown, hstep.keeps, congrArg Link.state hlink, congrArg Link.downed hlink, congrArg Link.egress hlink,
        congrArg Link.downDrop hlink⟩
  · have hrow : exec (.markRegister n d skew) s = .next { s with chip := s.chip.umlMark n d skew } := rfl
    rw [hrow, Chip.umlMark_of_foreign hpar hrun]
  · have hrow : exec (.markRegister n d skew) s = .next { s with chip := s.chip.umlMark n d skew } := rfl
    rw [Chip.umlMark_of_stopped hpar hrun harm] at hrow
    exact ⟨_, hrow, ⟨rfl, rfl⟩, rfl⟩
  · have hrow : exec (.markRegister n d skew) s = .next { s with chip := s.chip.umlMark n d skew } := rfl
    rw [hd] at hrow ⊢
    rw [Chip.umlMark_of_muster hpar harm hday] at hrow
    exact ⟨_, hrow, ⟨rfl, rfl⟩, rfl, tget_tput_same .., rfl, rfl⟩

end Sys2Proof.Machine
end

section
/-!
PROOFS. Proofs/UmaedFrames.lean: frames of a Umaed link (R297 to R308, R312, R315, R324): what a received codeword counts, the credits
of its frame, and the frames that FRAME_SEND starts.
-/
namespace Sys2Proof.Machine
open Sys2Proof

/-! ### Credits (R306, R315) -/

/-- The link once one pool's counts of a good frame have been taken. -/
def Link.credit (l : Link) (k : Nat) (sent ret : Byte) : Link :=
  { l with
    rcvd := tput 0 l.rcvd k sent
    freed := tput 0 l.freed k (tget 0 l.freed k + (sent - tget 0 l.rcvd k))
    lost := satAdd l.lost (sent - tget 0 l.rcvd k).toNat
    retSeen := if l.state = 5 then tput 0 l.retSeen k ret else l.retSeen }

/-- The link once both pools' counts of a good frame have been taken. -/
def Link.credited (l : Link) (f : Frame) : Link :=
  (l.credit (2 * (f.fseq.toNat % 4)) f.sentA f.retA).credit (2 * (f.fseq.toNat % 4) + 1) f.sentB f.retB

theorem Chip.umlGood_link (c : Chip) (n : Fin 6) (f : Frame) : (c.umlGood n f).link n = (c.link n).credited f := by
  unfold Chip.umlGood Chip.umlCredits
  rw [Chip.onLink_same, Chip.onLink_same]
  rfl

theorem Chip.TrainStep.umlGood (c : Chip) (n : Fin 6) (f : Frame) : Chip.TrainStep n c (c.umlGood n f) := by
  unfold Chip.umlGood Chip.umlCredits
  exact (Chip.TrainStep.onLink c n _).trans (.onLink _ n _)

section
variable (l : Link) (f : Frame)

theorem Link.credited_coming : (l.credited f).coming = l.coming := rfl

/-- What was sent and did not come counts as lost. -/
theorem Link.credited_lost : (l.credited f).lost =
    satAdd (satAdd l.lost (f.sentA - tget 0 l.rcvd (2 * (f.fseq.toNat % 4))).toNat)
      (f.sentB - tget 0 l.rcvd (2 * (f.fseq.toNat % 4) + 1)).toNat := by
  simp [Link.credited, Link.credit, tget_tput_ne]

theorem Link.credited_rcvd (k : Nat) : tget 0 (l.credited f).rcvd k =
    if k = 2 * (f.fseq.toNat % 4) then f.sentA else if k = 2 * (f.fseq.toNat % 4) + 1 then f.sentB else tget 0 l.rcvd k := by
  simp only [Link.credited, Link.credit, tget_tput]
  by_cases h : k = 2 * (f.fseq.toNat % 4)
  · rw [if_pos h, if_neg (by omega), if_pos h]
  · rw [if_neg h, if_neg h]

theorem Link.credited_retSeen (k : Nat) : tget 0 (l.credited f).retSeen k =
    if l.state ≠ 5 then tget 0 l.retSeen k
    else if k = 2 * (f.fseq.toNat % 4) then f.retA
    else if k = 2 * (f.fseq.toNat % 4) + 1 then f.retB else tget 0 l.retSeen k := by
  unfold Link.credited
  by_cases hup : l.state = 5
  · have hone : (l.credit (2 * (f.fseq.toNat % 4)) f.sentA f.retA).retSeen = tput 0 l.retSeen (2 * (f.fseq.toNat % 4)) f.retA :=
      if_pos hup
    have htwo : ((l.credit (2 * (f.fseq.toNat % 4)) f.sentA f.retA).credit (2 * (f.fseq.toNat % 4) + 1) f.sentB f.retB).retSeen =
      tput 0 (l.credit (2 * (f.fseq.toNat % 4)) f.sentA f.retA).retSeen (2 * (f.fseq.toNat % 4) + 1) f.retB := if_pos hup
    rw [htwo, hone, if_neg (not_not.mpr hup), tget_tput, tget_tput]
    by_cases h : k = 2 * (f.fseq.toNat % 4)
    · rw [if_pos h, if_neg (by omega), if_pos h]
    · rw [if_neg h, if_neg h]
  · have hone : (l.credit (2 * (f.fseq.toNat % 4)) f.sentA f.retA).retSeen = l.retSeen := if_neg hup
    have htwo : ((l.credit (2 * (f.fseq.toNat % 4)) f.sentA f.retA).credit (2 * (f.fseq.toNat % 4) + 1) f.sentB f.retB).retSeen =
      (l.credit (2 * (f.fseq.toNat % 4)) f.sentA f.retA).retSeen := if_neg hup
    rw [htwo, hone, if_pos hup]

theorem Link.credited_freed (k : Nat) : tget 0 (l.credited f).freed k =
    if k = 2 * (f.fseq.toNat % 4) then tget 0 l.freed k + (f.sentA - tget 0 l.rcvd k)
    else if k = 2 * (f.fseq.toNat % 4) + 1 then tget 0 l.freed k + (f.sentB - tget 0 l.rcvd k) else tget 0 l.freed k := by
  simp only [Link.credited, Link.credit, tget_tput]
  by_cases h : k = 2 * (f.fseq.toNat % 4)
  · rw [if_neg (by omega), if_pos h, if_pos h, h]
  · rw [if_neg h]
    by_cases h' : k = 2 * (f.fseq.toNat % 4) + 1
    · rw [if_pos h', if_pos h', if_neg (by omega), if_neg (by omega), if_neg (by omega), h']
    · rw [if_neg h', if_neg h', if_neg h]

end

/-! ### A codeword received (R297, R307, R313) -/

section
variable {n : Fin 6} {c d : Chip}

theorem Chip.TrainStep.refl (n : Fin 6) (c : Chip) : Chip.TrainStep n c c := ⟨fun _ _ => rfl, fun _ _ => rfl⟩

theorem Chip.TrainStep.now (h : Chip.TrainStep n c d) : d.now = c.now := (congrArg Chip.now (h.frame [] []) :)

theorem Chip.TrainStep.flt (h : Chip.TrainStep n c d) : d.flt = c.flt := (congrArg Chip.flt (h.frame [] []) :)

theorem Chip.TrainStep.fab (h : Chip.TrainStep n c d) : d.fab = c.fab := (congrArg Chip.fab (h.frame [] []) :)

theorem Chip.TrainStep.isHere (h : Chip.TrainStep n c d) (chip : BitVec 16) : d.isHere chip = c.isHere chip :=
  (congrArg (fun c : Chip => c.isHere chip) (h.frame [] []) :)

end

section
variable (c : Chip) (n : Fin 6) (fec : Fec)

/-- A codeword's part in the test of R313 touches the test's own two fields of the link and the rows to come. -/
theorem Chip.umlLanes_step : Chip.TrainStep n c (c.umlLanes n fec) ∧
    (∃ received bad, (c.umlLanes n fec).link n = { c.link n with received := received, badFrames := bad }) ∧
    ((c.link n).state ≠ 5 → (c.umlLanes n fec).agenda = c.agenda) := by
  unfold Chip.umlLanes
  dsimp only
  split
  · exact ⟨.refl n c, ⟨_, _, rfl⟩, fun _ => rfl⟩
  next h =>
    refine ⟨?_, ?_, fun hst => absurd hst h⟩
    · exact List.foldlRecOn (motive := fun y => Chip.TrainStep n c y) _ _ (.onLink c n _) fun y hy k _ => hy.trans (.post y n _ _)
    · refine ⟨_, _, (foldl_keeps (fun y : Chip => y.link n) (by intros; rfl) _ _).trans (Chip.onLink_same ..)⟩

/-- The chip once a codeword that can be corrected has been counted. -/
@[irreducible] def Chip.corrected : Chip :=
  (if (Uml.wrong fec).isEmpty then c else c.onLink n fun l => { l with fecCorr := satInc l.fecCorr }).umlLanes n fec

theorem Chip.corrected_step : Chip.TrainStep n c (c.corrected n fec) ∧
    (∃ corr received bad, (c.corrected n fec).link n =
        { c.link n with fecCorr := corr, received := received, badFrames := bad } ∧
      corr = if Uml.wrong fec = [] then (c.link n).fecCorr else satInc (c.link n).fecCorr) ∧
    ((c.link n).state ≠ 5 → (c.corrected n fec).agenda = c.agenda) := by
  unfold Chip.corrected
  by_cases h : Uml.wrong fec = []
  · simp only [h, List.isEmpty_nil, if_true]
    obtain ⟨hstep, ⟨received, bad, hlink⟩, hagenda⟩ := c.umlLanes_step n fec
    exact ⟨hstep, ⟨_, received, bad, hlink, rfl⟩, hagenda⟩
  · rw [if_neg (by simp [h]), if_neg h]
    obtain ⟨hstep, ⟨received, bad, hlink⟩, hagenda⟩ :=
      (c.onLink n fun l => { l with fecCorr := satInc l.fecCorr }).umlLanes_step n fec
    rw [Chip.onLink_same] at hlink hagenda
    exact ⟨(Chip.TrainStep.onLink c n _).trans hstep, ⟨_, received, bad, hlink, rfl⟩, hagenda⟩

end

section
variable {c : Chip} {n : Fin 6} {r : Codeword} (take : Chip → Chip)

theorem Chip.umlFrameIn_of_still (h : (c.link n).state.toNat < 3 ∨ 5 < (c.link n).state.toNat) : c.umlFrameIn n r take = c := by
  unfold Chip.umlFrameIn
  exact if_pos (by simpa using h)

variable (hlow : 3 ≤ (c.link n).state.toNat) (hhigh : (c.link n).state.toNat ≤ 5)
include hlow hhigh

theorem Chip.umlFrameIn_of_correctable (hfec : (Uml.wrong r.fec).length ≤ 15) :
    c.umlFrameIn n r take = if r.frame.width = 3 then (c.corrected n r.fec).umlBad n
      else (take (c.corrected n r.fec)).umlGood n r.frame := by
  unfold Chip.umlFrameIn Chip.corrected
  dsimp only
  rw [if_neg (by simp; omega), if_pos (by simp [Uml.correctable, hfec])]

theorem Chip.umlFrameIn_of_uncorrectable (hfec : 15 < (Uml.wrong r.fec).length) :
    c.umlFrameIn n r take = ((c.onLink n fun l => { l with fecUncorr := satInc l.fecUncorr }).logFault 0x4001 (eidUmaed n) n.val
      r.frame.fseq.toNat).umlLanes n r.fec := by
  unfold Chip.umlFrameIn
  dsimp only
  rw [if_neg (by simp; omega), if_neg (by simp [Uml.correctable, hfec])]

end

/-! ### What a good frame counts -/

/-- The link y has what the credits of a frame start from as l has it, its codeword counted. -/
structure Link.SameCredits (l : Link) (fec : Fec) (y : Link) : Prop where
  fecCorr : y.fecCorr = if Uml.wrong fec = [] then l.fecCorr else satInc l.fecCorr
  lost : y.lost = l.lost
  rcvd : y.rcvd = l.rcvd
  retSeen : y.retSeen = l.retSeen
  freed : y.freed = l.freed
  state : y.state = l.state

/-- What link l's counts have become in x, which has received frame f. -/
structure Link.Counted (l : Link) (f : Frame) (fec : Fec) (x : Link) : Prop where
  fecCorr : x.fecCorr = if Uml.wrong fec = [] then l.fecCorr else satInc l.fecCorr
  lost : x.lost = satAdd (satAdd l.lost (f.sentA - tget 0 l.rcvd (2 * (f.fseq.toNat % 4))).toNat)
    (f.sentB - tget 0 l.rcvd (2 * (f.fseq.toNat % 4) + 1)).toNat
  rcvd : ∀ k, tget 0 x.rcvd k =
    if k = 2 * (f.fseq.toNat % 4) then f.sentA else if k = 2 * (f.fseq.toNat % 4) + 1 then f.sentB else tget 0 l.rcvd k
  retSeen : ∀ k, tget 0 x.retSeen k =
    if l.state ≠ 5 then tget 0 l.retSeen k
    else if k = 2 * (f.fseq.toNat % 4) then f.retA
    else if k = 2 * (f.fseq.toNat % 4) + 1 then f.retB else tget 0 l.retSeen k
  freed : ∀ k, tget 0 x.freed k =
    if k = 2 * (f.fseq.toNat % 4) then tget 0 l.freed k + (f.sentA - tget 0 l.rcvd k)
    else if k = 2 * (f.fseq.toNat % 4) + 1 then tget 0 l.freed k + (f.sentB - tget 0 l.rcvd k) else tget 0 l.freed k

theorem Link.SameCredits.counted {l y : Link} {fec : Fec} (h : l.SameCredits fec y) (f : Frame) :
    l.Counted f fec (y.credited f) where
  fecCorr := h.fecCorr
  lost := by rw [Link.credited_lost, h.lost, h.rcvd]
  rcvd k := by rw [Link.credited_rcvd, h.rcvd]
  retSeen k := by rw [Link.credited_retSeen, h.retSeen, h.state]
  freed k := by rw [Link.credited_freed, h.freed, h.rcvd]

section
variable {c e : Chip} {n : Fin 6} {r : Codeword} {take : Chip → Chip} (hlow : 3 ≤ (c.link n).state.toNat)
  (hhigh : (c.link n).state.toNat ≤ 5) (hfec : (Uml.wrong r.fec).length ≤ 15)
include hlow hhigh hfec

/-- A frame of a reserved WIDTH is a bad one. -/
theorem Chip.umlFrameIn_of_badWidth (hw : r.frame.width = 3) :
    Chip.TrainStep n c (c.umlFrameIn n r take) ∧
      ((c.umlFrameIn n r take).link n).badFrame = satInc (c.link n).badFrame ∧
      ((c.umlFrameIn n r take).link n).rcvd = (c.link n).rcvd := by
  obtain ⟨hstep, ⟨corr, received, bad, hlink, -⟩, -⟩ := c.corrected_step n r.fec
  have hbad : ((c.corrected n r.fec).umlBad n).link n = { c.link n with
      fecCorr := corr, received := received, badFrames := bad, badFrame := satInc (c.link n).badFrame } := by
    rw [Chip.umlBad, Chip.onLink_same, hlink]
  rw [Chip.umlFrameIn_of_correctable take hlow hhigh hfec, if_pos hw, hbad]
  exact ⟨hstep.trans (.onLink _ n _), rfl, rfl⟩

/-- A good frame whose type's part changes nothing of the credits counts its own. -/
theorem Chip.umlFrameIn_of_good (hw : r.frame.width ≠ 3) (htake : take (c.corrected n r.fec) = e)
    (hstep : Chip.TrainStep n (c.corrected n r.fec) e) (hsame : (c.link n).SameCredits r.fec (e.link n)) :
    Chip.TrainStep n c (c.umlFrameIn n r take) ∧
      (c.link n).Counted r.frame r.fec ((c.umlFrameIn n r take).link n) ∧
      (c.umlFrameIn n r take).link n = (e.link n).credited r.frame ∧ (c.umlFrameIn n r take).agenda = e.agenda := by
  rw [Chip.umlFrameIn_of_correctable take hlow hhigh hfec, if_neg hw, htake, Chip.umlGood_link]
  exact ⟨((c.corrected_step n r.fec).1.trans hstep).trans (.umlGood e n _), hsame.counted _, rfl, rfl⟩

end

/-- A codeword that cannot be corrected counts and logs; its frame takes nothing. -/
theorem Chip.umlFrameIn_uncorrectable_step {c : Chip} {n : Fin 6} {r : Codeword} (take : Chip → Chip)
    (hlow : 3 ≤ (c.link n).state.toNat) (hhigh : (c.link n).state.toNat ≤ 5) (hfec : 15 < (Uml.wrong r.fec).length) :
    Chip.FaultStep n c (c.umlFrameIn n r take) ∧
      (∃ received bad, (c.umlFrameIn n r take).link n =
        { c.link n with fecUncorr := satInc (c.link n).fecUncorr, received := received, badFrames := bad }) ∧
      tget 0 (c.umlFrameIn n r take).flt.counts 4 = satInc (tget 0 c.flt.counts 4) := by
  rw [Chip.umlFrameIn_of_uncorrectable take hlow hhigh hfec]
  let d := (c.onLink n fun l => { l with fecUncorr := satInc l.fecUncorr }).logFault 0x4001 (eidUmaed n) n.val r.frame.fseq.toNat
  obtain ⟨hstep, ⟨received, bad, hlink⟩, -⟩ := d.umlLanes_step n r.fec
  have hd : d.link n = { c.link n with fecUncorr := satInc (c.link n).fecUncorr } := by
    rw [Chip.link, Chip.logFault_uml, ← Chip.link, Chip.onLink_same]
  rw [hd] at hlink
  refine ⟨?_, ⟨received, bad, hlink⟩, ?_⟩
  · exact (Chip.TrainStep.onLink c n _).toFault.trans ((Chip.FaultStep.logFault _ n _ _ _ _).trans hstep.toFault)
  · rw [hstep.flt]
    exact Chip.logFault_count ..

/-! ### What a frame does by its type (R303, R308, R309, R311, R312) -/

section
variable {c : Chip} {n : Fin 6}

/-- An IDENT frame tells IDENT alone of the peer. -/
theorem Chip.umlIdent_step (c : Chip) (n : Fin 6) (i : Ident) : Chip.TrainStep n c (c.umlIdent n i) ∧
    (c.umlIdent n i).link n =
      if (c.link n).state = 3 then { c.link n with peer := i.chip, peerWidths := i.widths, gotIdent := true } else c.link n := by
  unfold Chip.umlIdent
  split
  · exact ⟨.onLink c n _, Chip.onLink_same ..⟩
  · exact ⟨.refl n c, rfl⟩

theorem Chip.umlEcho_of_idle {trip : BitVec 16} (h : (c.link n).state ≠ 4 ∨ (c.link n).echoWait = false ∨ 16 ≤ (c.link n).echoes) :
    c.umlEcho n trip = c := by
  unfold Chip.umlEcho
  dsimp only
  refine if_neg ?_
  simp only [Bool.and_eq_true, decide_eq_true_eq, not_and]
  rintro ⟨hst, hwait⟩
  obtain h | h | h := h
  · exact absurd hst h
  · exact absurd (h.symm.trans hwait) (by decide)
  · omega

/-- The answer to an ECHO_REQ is taken, and the sixteenth one ends ALIGN 256 frame periods on. -/
theorem Chip.umlEcho_step {trip : BitVec 16} (hst : (c.link n).state = 4) (hwait : (c.link n).echoWait = true)
    (hechoes : (c.link n).echoes < 16) :
    Chip.TrainStep n c (c.umlEcho n trip) ∧
      (c.umlEcho n trip).link n =
        { c.link n with echoes := (c.link n).echoes + 1, echoWait := false, rounds := trip.toNat - 64 } ∧
      ((c.link n).echoes = 15 → (c.now + 256 * Uml.period (c.link n).width, .alignDone n) ∈ (c.umlEcho n trip).agenda) := by
  have hheard := Chip.onLink_same c n fun l => { l with echoes := l.echoes + 1, echoWait := false, rounds := trip.toNat - 64 }
  unfold Chip.umlEcho
  dsimp only
  rw [if_pos (by simp [hst, hwait, hechoes])]
  split
  next => exact ⟨(Chip.TrainStep.onLink c n _).trans (.post _ n _ _), hheard, fun _ => List.mem_append_right _ (List.mem_singleton.mpr rfl)⟩
  next h => exact ⟨.onLink c n _, hheard, fun h15 => absurd (by omega) h⟩

/-- A DATA frame that brings nothing, or that comes outside UP, does nothing of its own. -/
theorem Chip.umlData_of_empty {f : Frame} (h : (c.link n).state ≠ 5 ∨ (f.packets = [] ∧ f.mark = false)) : c.umlData n f = c := by
  unfold Chip.umlData
  obtain h | ⟨hps, hmark⟩ := h
  · rw [if_pos h]
  · rw [hps, hmark]
    simp

/-- A DATA frame with one packet takes it; its mark posts a row alone. -/
theorem Chip.umlData_of_one {f : Frame} {i : Nat} {p : Packet} (hst : (c.link n).state = 5) (hps : f.packets = [(i, p)]) :
    Chip.TrainStep n (c.umlTake n i p) (c.umlData n f) ∧ (c.umlData n f).link n = (c.umlTake n i p).link n := by
  unfold Chip.umlData
  rw [if_neg (not_not.mpr hst), hps]
  dsimp only [List.foldl_cons, List.foldl_nil]
  split
  · exact ⟨.post _ n _ _, rfl⟩
  · exact ⟨.refl n _, rfl⟩

end

/-! ### One packet of a good frame (R254, R263, R308) -/

section
variable {c : Chip} {n : Fin 6} {i : Nat} {p : Packet}

theorem Chip.umlTake_of_badCrc (hcrc : p.crc ≠ packetCrc p) :
    (c.umlTake n i p).link n = { c.link n with crcDrop := satInc (c.link n).crcDrop } ∧
      tget 0 (c.umlTake n i p).flt.counts 4 = satInc (tget 0 c.flt.counts 4) := by
  unfold Chip.umlTake
  rw [if_pos hcrc]
  refine ⟨?_, Chip.logFault_count ..⟩
  rw [Chip.link, Chip.logFault_uml, ← Chip.link, Chip.onLink_same]

/-- A packet to this chip goes on into the mesh. -/
theorem Chip.umlTake_of_here (hcrc : p.crc = packetCrc p) (hmc : p.mc = false) (hhere : c.isHere p.dchip = true) :
    (p.vc = 1 → ((c.umlTake n i p).link n).coming = (c.link n).coming ++ [⟨p, c.now + i⟩]) ∧
    (p.vc ≠ 1 → ((c.umlTake n i p).endp (eidUmaed n)).outq = (c.endp (eidUmaed n)).outq ++ [⟨p, c.now + i⟩]) := by
  have hhere' (f : Link → Link) : (c.onLink n f).isHere p.dchip = true := hhere
  unfold Chip.umlTake
  rw [if_neg (not_not.mpr hcrc)]
  dsimp only
  unfold Chip.umlPacket
  dsimp only
  rw [if_neg (by simp [hmc]), if_pos (hhere' _)]
  refine ⟨fun hvc => ?_, fun hvc => ?_⟩
  · rw [if_pos hvc, Chip.onLink_same, Chip.onLink_same]
    rfl
  · rw [if_neg hvc, Chip.onEndp_same]
    rfl

end

/-! ### Frames sent (R302, R304, R324) -/

/-- From c to d link n and what the ports put out alone have changed. -/
structure Chip.OutStep (n : Fin 6) (c d : Chip) : Prop where
  frame : ∀ l o, ({ d with uml := { d.uml with links := l }, out := o } : Chip) =
    { c with uml := { c.uml with links := l }, out := o }
  other : ∀ m, m ≠ n → d.link m = c.link m

theorem Chip.OutStep.trans {n : Fin 6} {b c d : Chip} (h : Chip.OutStep n b c) (g : Chip.OutStep n c d) : Chip.OutStep n b d :=
  ⟨fun l o => (g.frame l o).trans (h.frame l o), fun m hm => (g.other m hm).trans (h.other m hm)⟩

theorem Chip.OutStep.onLink (c : Chip) (n : Fin 6) (f : Link → Link) : Chip.OutStep n c (c.onLink n f) :=
  ⟨fun _ _ => rfl, fun _ hm => c.onLink_ne f hm⟩

theorem Chip.OutStep.emit (c : Chip) (n : Fin 6) (o : Out) : Chip.OutStep n c (c.emit o) :=
  ⟨fun _ _ => rfl, fun _ _ => rfl⟩

/-- A day mark goes with a DATA frame after its day's last cycle. -/
def Link.marks (l : Link) (now : Nat) (ftype : BitVec 4) : Bool :=
  ftype = 0 && (match l.markDue with | some (k, _) => decide (k < now) | none => false)

/-- The control field and the packets of a frame that starts on cycle `now`. -/
def Link.outFrame (l : Link) (skew : BitVec 16) (now : Nat) (ftype : BitVec 4) (ps : List Packet) : Frame :=
  { fseq := l.fseq
    mark := l.marks now ftype
    markOfs := if l.marks now ftype then BitVec.ofNat 7 (now - (l.markDue.getD (0, 0)).1 - 1) else 0
    markDay := if l.marks now ftype then (l.markDue.getD (0, 0)).2 else 0
    skew := skew
    sentA := tget 0 l.sentCum (2 * (l.fseq.toNat % 4))
    sentB := tget 0 l.sentCum (2 * (l.fseq.toNat % 4) + 1)
    retA := tget 0 l.freed (2 * (l.fseq.toNat % 4))
    retB := tget 0 l.freed (2 * (l.fseq.toNat % 4) + 1)
    width := l.width
    packets := (ps.zipIdx).map fun p => (p.2, p.1) }

/-- The link once it has started frame g, the scrambler's next state given. -/
def Link.started (l : Link) (g : Frame) (scr : BitVec 58) : Link :=
  { l with scr := scr, fseq := l.fseq + 1, markDue := if g.mark then none else l.markDue }

theorem Chip.sendFrame_eq (c : Chip) (n : Fin 6) (ftype : BitVec 4) (ps : List Packet) (ident : Option Ident) :
    let g := (c.link n).outFrame c.uml.skew c.now ftype ps
    let sent := Uml.scramble (c.link n).scr (Uml.frameBits ftype g ident)
    c.sendFrame n ftype ps ident = (c.onLink n fun l => l.started g sent.2).emit
      (.umaed n ftype g ident (Uml.spread (Uml.activeLanes (c.link n).lanesOk (c.link n).width) (Uml.codeword sent.1))) := by
  intro g sent
  unfold Chip.sendFrame
  dsimp only
  rfl

/-- Filling slots takes packets out of the link's queue, and touches its credits and turns besides. -/
theorem Chip.fillSlots_frame (now k : Nat) (l : Link) :
    ({ (Chip.fillSlots now k l).2 with egress := l.egress, sentCum := l.sentCum, turn := l.turn } : Link) = l ∧
      ∀ q ∈ (Chip.fillSlots now k l).2.egress, q ∈ l.egress := by
  induction k generalizing l with
  | zero => exact ⟨rfl, fun _ hq => hq⟩
  | succ k ih =>
    unfold Chip.fillSlots
    split
    · exact ⟨rfl, fun _ hq => hq⟩
    next f h =>
      obtain ⟨hframe, hmem⟩ := ih { l with
        egress := l.egress.erase f
        sentCum := tput 0 l.sentCum (Chip.poolKey f.pkt) (tget 0 l.sentCum (Chip.poolKey f.pkt) + 1)
        turn := tput 0 l.turn f.pkt.vc.toNat ((f.input + 1) % 13) }
      refine ⟨?_, fun q hq => List.mem_of_mem_erase (hmem q hq)⟩
      exact (congrArg (fun x : Link => { x with egress := l.egress, sentCum := l.sentCum, turn := l.turn }) hframe :)

/-- What the start of a frame on link n gives, between s and t. -/
def FrameSent (s t : State) (n : Fin 6) (ftype : BitVec 4) (g : Frame) (i : Option Ident) : Prop :=
  let l := s.chip.link n
  let sent := Uml.scramble l.scr (Uml.frameBits ftype g i)
  t.chip.out = s.chip.out ++
    [.umaed n ftype g i (Uml.spread (Uml.activeLanes l.lanesOk l.width) (Uml.codeword sent.1))] ∧
  keepsBut (fun c => { c with uml := { c.uml with links := s.chip.uml.links }, out := s.chip.out }) s t ∧
  (∀ m, m ≠ n → t.chip.link m = s.chip.link m) ∧ (t.chip.link n).scr = sent.2 ∧ (t.chip.link n).fseq = l.fseq + 1 ∧
  g.fseq = l.fseq ∧ g.width = l.width ∧ g.skew = s.chip.uml.skew ∧
  g.sentA = tget 0 (t.chip.link n).sentCum (2 * (l.fseq.toNat % 4)) ∧
  g.sentB = tget 0 (t.chip.link n).sentCum (2 * (l.fseq.toNat % 4) + 1) ∧
  g.retA = tget 0 l.freed (2 * (l.fseq.toNat % 4)) ∧ g.retB = tget 0 l.freed (2 * (l.fseq.toNat % 4) + 1)

section
variable {s : State} {c d : Chip} {n : Fin 6} {ftype : BitVec 4} {ps : List Packet} {ident : Option Ident} {next : Nat} {wait : Bool}

/-- The link and the outputs once a frame has been started from chip c. -/
theorem Chip.sendFrame_step (c : Chip) (n : Fin 6) (ftype : BitVec 4) (ps : List Packet) (ident : Option Ident) :
    let g := (c.link n).outFrame c.uml.skew c.now ftype ps
    let sent := Uml.scramble (c.link n).scr (Uml.frameBits ftype g ident)
    Chip.OutStep n c (c.sendFrame n ftype ps ident) ∧
      (c.sendFrame n ftype ps ident).out = c.out ++
        [.umaed n ftype g ident (Uml.spread (Uml.activeLanes (c.link n).lanesOk (c.link n).width) (Uml.codeword sent.1))] ∧
      (c.sendFrame n ftype ps ident).link n = (c.link n).started g sent.2 := by
  intro g sent
  rw [Chip.sendFrame_eq]
  exact ⟨(Chip.OutStep.onLink c n _).trans (.emit _ n _), rfl, c.onLink_same n fun l => l.started g sent.2⟩

/-- A frame that starts on a link whose queue may have been emptied of what fills it. -/
theorem frameSent_of (hstep : Chip.OutStep n s.chip c) (hout : c.out = s.chip.out)
    (hlink : ({ c.link n with
        egress := (s.chip.link n).egress, sentCum := (s.chip.link n).sentCum, turn := (s.chip.link n).turn } : Link) =
      s.chip.link n)
    (hd : Chip.OutStep n (c.sendFrame n ftype ps ident) d) (hdout : d.out = (c.sendFrame n ftype ps ident).out)
    (hdlink : d.link n = { (c.sendFrame n ftype ps ident).link n with nextFrame := next, echoWait := wait }) :
    FrameSent s { s with chip := d } n ftype ((c.link n).outFrame s.chip.uml.skew s.chip.now ftype ps) ident := by
  have hskew : c.uml.skew = s.chip.uml.skew := (congrArg (fun c : Chip => c.uml.skew) (hstep.frame [] []) :)
  have hnow : c.now = s.chip.now := (congrArg Chip.now (hstep.frame [] []) :)
  obtain ⟨hsend, hsent, hstarted⟩ := c.sendFrame_step n ftype ps ident
  have hscr : (c.link n).scr = (s.chip.link n).scr := (congrArg Link.scr hlink :)
  have hlanes : (c.link n).lanesOk = (s.chip.link n).lanesOk := (congrArg Link.lanesOk hlink :)
  have hwidth : (c.link n).width = (s.chip.link n).width := (congrArg Link.width hlink :)
  have hfseq : (c.link n).fseq = (s.chip.link n).fseq := (congrArg Link.fseq hlink :)
  have hfreed : (c.link n).freed = (s.chip.link n).freed := (congrArg Link.freed hlink :)
  rw [hskew, hnow] at hsent hstarted
  rw [hscr] at hsent hstarted
  rw [hlanes, hwidth] at hsent
  have hall := (hstep.trans hsend).trans hd
  rw [hstarted] at hdlink
  dsimp only [FrameSent]
  rw [hdout, hsent, hout, hdlink]
  refine ⟨rfl, ⟨rfl, hall.frame _ _⟩, hall.other, rfl, ?_, hfseq, hwidth, rfl, ?_, ?_, ?_, ?_⟩
  · exact congrArg (· + 1) hfseq
  · rw [← hfseq]; rfl
  · rw [← hfseq]; rfl
  · rw [← hfseq, ← hfreed]; rfl
  · rw [← hfseq, ← hfreed]; rfl

end

/-! ### FRAME_SEND by the state (R302 to R305) -/

section
variable {c : Chip} {n : Fin 6}

theorem Chip.umlFrame_of_still (h : c.now < (c.link n).nextFrame ∨ (c.link n).state.toNat < 3 ∨ 5 < (c.link n).state.toNat) :
    c.umlFrame n = c := by
  unfold Chip.umlFrame
  dsimp only
  refine if_pos ?_
  simpa [or_assoc] using h

/-- The next frame of a link that sends one comes a frame period later. -/
def Chip.framed (c : Chip) (n : Fin 6) : Chip := c.onLink n fun l => { l with nextFrame := c.now + Uml.period l.width }

variable (hdue : (c.link n).nextFrame ≤ c.now)
include hdue

theorem Chip.umlFrame_of_ident (hst : (c.link n).state = 3) :
    ∃ stepping, c.umlFrame n = (c.sendFrame n 2 [] (some ⟨c.glb.chipId, n.val, c.umlOffer n, stepping⟩)).framed n := by
  unfold Chip.umlFrame
  dsimp only
  rw [if_neg (by simp [hst]; omega), hst, show BitVec.toNat (3 : BitVec 3) = 3 from rfl]
  exact ⟨_, rfl⟩

theorem Chip.umlFrame_of_echo (hst : (c.link n).state = 4) (hechoes : (c.link n).echoes < 16)
    (hwait : (c.link n).echoWait = false) :
    c.umlFrame n = ((c.sendFrame n 3 []).onLink n fun l => { l with echoWait := true }).framed n := by
  unfold Chip.umlFrame
  dsimp only
  rw [if_neg (by simp [hst]; omega), hst, show BitVec.toNat (4 : BitVec 3) = 4 from rfl]
  exact congrArg (fun d : Chip => d.framed n) ((if_pos hechoes).trans (if_neg (by simp [hwait])))

theorem Chip.umlFrame_of_idle (hst : (c.link n).state = 4) (hechoes : (c.link n).echoes = 16) :
    c.umlFrame n = (c.sendFrame n 1 []).framed n := by
  unfold Chip.umlFrame
  dsimp only
  rw [if_neg (by simp [hst]; omega), hst, show BitVec.toNat (4 : BitVec 3) = 4 from rfl]
  exact congrArg (fun d : Chip => d.framed n) (if_neg (by omega))

theorem Chip.umlFrame_of_data (hst : (c.link n).state = 5) (hegress : ∀ q ∈ (c.link n).egress, q.pkt.vc ≠ 0) :
    c.umlFrame n = ((c.onLink n fun _ => (Chip.fillSlots c.now 13 (c.link n)).2).sendFrame n 0
        (Chip.fillSlots c.now 13 (c.link n)).1).framed n := by
  have hlate (g : Queued → Bool) : ((Chip.fillSlots c.now 13 (c.link n)).2.egress.filter fun f =>
      decide (f.pkt.vc = 0) && g f) = [] := by
    refine List.filter_eq_nil_iff.mpr fun f hf => ?_
    have hvc := hegress f ((Chip.fillSlots_frame c.now 13 (c.link n)).2 f hf)
    exact not_decide_and hvc
  have hdata : c.sendData n = (c.onLink n fun _ => (Chip.fillSlots c.now 13 (c.link n)).2).sendFrame n 0
      (Chip.fillSlots c.now 13 (c.link n)).1 := by
    unfold Chip.sendData
    simp only [Bool.and_assoc, hlate, List.foldl_nil]
  unfold Chip.umlFrame
  dsimp only
  rw [if_neg (by simp [hst]; omega), hst, show BitVec.toNat (5 : BitVec 3) = 5 from rfl]
  exact congrArg (fun d : Chip => d.framed n) hdata

end

section
variable {s : State} {n : Fin 6} {c : Chip} {ftype : BitVec 4} {ps : List Packet} {ident : Option Ident}

theorem Chip.framed_link (c : Chip) (n : Fin 6) :
    (c.framed n).link n = { c.link n with nextFrame := c.now + Uml.period (c.link n).width } := Chip.onLink_same ..

/-- A frame started from chip c, with the cycle of the next one. -/
theorem frameSent_framed (hstep : Chip.OutStep n s.chip c) (hout : c.out = s.chip.out)
    (hlink : ({ c.link n with
        egress := (s.chip.link n).egress, sentCum := (s.chip.link n).sentCum, turn := (s.chip.link n).turn } : Link) =
      s.chip.link n) :
    FrameSent s { s with chip := (c.sendFrame n ftype ps ident).framed n } n ftype
      ((c.link n).outFrame s.chip.uml.skew s.chip.now ftype ps) ident ∧
    ∃ scr, ((c.sendFrame n ftype ps ident).framed n).link n =
      { (c.link n).started ((c.link n).outFrame s.chip.uml.skew s.chip.now ftype ps) scr with
        nextFrame := s.chip.now + Uml.period (s.chip.link n).width } := by
  have hskew : c.uml.skew = s.chip.uml.skew := (congrArg (fun c : Chip => c.uml.skew) (hstep.frame [] []) :)
  have hnow : c.now = s.chip.now := (congrArg Chip.now (hstep.frame [] []) :)
  have hwidth : (c.link n).width = (s.chip.link n).width := (congrArg Link.width hlink :)
  obtain ⟨hsend, -, hstarted⟩ := c.sendFrame_step n ftype ps ident
  have hnow' : (c.sendFrame n ftype ps ident).now = s.chip.now := (congrArg Chip.now (hsend.frame [] []) :).trans hnow
  obtain ⟨scr, hstarted⟩ : ∃ scr, (c.sendFrame n ftype ps ident).link n =
    (c.link n).started ((c.link n).outFrame c.uml.skew c.now ftype ps) scr := ⟨_, hstarted⟩
  refine ⟨frameSent_of hstep hout hlink (.onLink _ n _) rfl (Chip.framed_link _ n), scr, ?_⟩
  rw [Chip.framed_link, hstarted, hnow', hskew, hnow]
  dsimp only [Link.started]
  rw [hwidth]

/-- An ECHO_REQ started, which waits for its answer. -/
theorem frameSent_echo (s : State) (n : Fin 6) :
    FrameSent s { s with chip := ((s.chip.sendFrame n 3 []).onLink n fun l => { l with echoWait := true }).framed n } n 3
      ((s.chip.link n).outFrame s.chip.uml.skew s.chip.now 3 []) none ∧
    ((((s.chip.sendFrame n 3 []).onLink n fun l => { l with echoWait := true }).framed n).link n).echoWait = true ∧
    ((((s.chip.sendFrame n 3 []).onLink n fun l => { l with echoWait := true }).framed n).link n).nextFrame =
      s.chip.now + Uml.period (s.chip.link n).width := by
  obtain ⟨hsend, -, hstarted⟩ := s.chip.sendFrame_step n 3 [] none
  have hnow' : (s.chip.sendFrame n 3 []).now = s.chip.now := (congrArg Chip.now (hsend.frame [] []) :)
  have hlink := Chip.framed_link ((s.chip.sendFrame n 3 []).onLink n fun l => { l with echoWait := true }) n
  rw [Chip.onLink_same] at hlink
  refine ⟨frameSent_of ⟨fun _ _ => rfl, fun _ _ => rfl⟩ rfl rfl ((Chip.OutStep.onLink _ n _).trans (.onLink _ n _)) rfl hlink, ?_, ?_⟩
  · rw [hlink]
  · rw [hlink, hstarted]
    exact congrArg (· + _) hnow'

/-- An ECHO_RSP started. -/
theorem frameSent_answer (s : State) (n : Fin 6) :
    FrameSent s { s with chip := s.chip.sendFrame n 4 [] } n 4 ((s.chip.link n).outFrame s.chip.uml.skew s.chip.now 4 []) none :=
  frameSent_of ⟨fun _ _ => rfl, fun _ _ => rfl⟩ rfl rfl ⟨fun _ _ => rfl, fun _ _ => rfl⟩ rfl rfl

end

/-! ### A DATA frame received (R254, R303, R306, R308) -/

section
variable {s : State} {n : Fin 6} {f : Frame} {fec : Fec} (hlow : 3 ≤ (s.chip.link n).state.toNat)
  (hhigh : (s.chip.link n).state.toNat ≤ 5) (hfec : (Uml.wrong fec).length ≤ 15) (hw : f.width ≠ 3)
include hlow hhigh hfec hw

theorem exec_dataFrame_good :
    exec (.dataFrame n f fec) s = .next { s with chip := ((s.chip.corrected n fec).umlData n f).umlGood n f } := by
  rw [exec_dataFrame, execDataFrame, State.run_eq,
    Chip.umlFrameIn_of_correctable (r := ⟨f, fec⟩) (fun c => c.umlData n f) hlow hhigh hfec, if_neg hw]

omit hlow hhigh hfec hw in
/-- A DATA frame that brings one packet of a wrong CRC counts it, and logs it. -/
theorem Chip.dataFrame_badCrc {c : Chip} {i : Nat} {p : Packet} (hst : (c.link n).state = 5) (hps : f.packets = [(i, p)])
    (hcrc : p.crc ≠ packetCrc p) :
    ((((c.corrected n fec).umlData n f).umlGood n f).link n).crcDrop = satInc (c.link n).crcDrop ∧
      tget 0 (((c.corrected n fec).umlData n f).umlGood n f).flt.counts 4 = satInc (tget 0 c.flt.counts 4) := by
  obtain ⟨hstep, ⟨corr, received, bad, hlink, -⟩, -⟩ := c.corrected_step n fec
  have hst' : ((c.corrected n fec).link n).state = 5 := by rw [hlink]; exact hst
  obtain ⟨htake, hdata⟩ := Chip.umlData_of_one (f := f) hst' hps
  obtain ⟨hdrop, hcount⟩ := Chip.umlTake_of_badCrc (c := c.corrected n fec) (n := n) (i := i) hcrc
  rw [Chip.umlGood_link, hdata, hdrop, hlink, (Chip.TrainStep.umlGood _ n f).flt, htake.flt, hcount, hstep.flt]
  exact ⟨rfl, rfl⟩

omit hlow hhigh hfec hw in
/-- A DATA frame that brings one packet to this chip hands it on into the mesh. -/
theorem Chip.dataFrame_here {c : Chip} {i : Nat} {p : Packet} (hst : (c.link n).state = 5) (hps : f.packets = [(i, p)])
    (hcrc : p.crc = packetCrc p) (hmc : p.mc = false) (hhere : c.isHere p.dchip = true) :
    (p.vc = 1 → ((((c.corrected n fec).umlData n f).umlGood n f).link n).coming = (c.link n).coming ++ [⟨p, c.now + i⟩]) ∧
    (p.vc ≠ 1 → ((((c.corrected n fec).umlData n f).umlGood n f).endp (eidUmaed n)).outq =
      (c.endp (eidUmaed n)).outq ++ [⟨p, c.now + i⟩]) := by
  obtain ⟨hstep, ⟨corr, received, bad, hlink, -⟩, -⟩ := c.corrected_step n fec
  have hst' : ((c.corrected n fec).link n).state = 5 := by rw [hlink]; exact hst
  obtain ⟨htake, hdata⟩ := Chip.umlData_of_one (f := f) hst' hps
  obtain ⟨hmesh, hrest⟩ := Chip.umlTake_of_here (c := c.corrected n fec) (n := n) (i := i) hcrc hmc (by rw [hstep.isHere, hhere])
  refine ⟨fun hvc => ?_, fun hvc => ?_⟩
  · rw [Chip.umlGood_link, hdata, Link.credited_coming, hmesh hvc, hlink, hstep.now]
  · have hone := hrest hvc
    rw [hstep.now] at hone
    have hfab : (((c.corrected n fec).umlData n f).umlGood n f).fab = ((c.corrected n fec).umlTake n i p).fab := by
      rw [(Chip.TrainStep.umlGood _ n f).fab, htake.fab]
    rw [Chip.endp, hfab, ← Chip.endp, hone, Chip.endp, hstep.fab, ← Chip.endp]

end

/-- The rows of a received frame, each with what its frame does by its type. -/
theorem exec_frame_rows (s : State) (n : Fin 6) (f : Frame) (fec : Fec) (body : Ident) (trip : BitVec 16) :
    ∀ i ∈ [Instr.dataFrame n f fec, .idleTrain n ⟨f, fec⟩, .ident n body ⟨f, fec⟩, .echoReq (n, ⟨f, fec⟩),
      .echoRsp (n, ⟨f, fec⟩) trip], ∃ take, exec i s = .next { s with chip := s.chip.umlFrameIn n ⟨f, fec⟩ take } := by
  simp only [List.forall_mem_cons, List.not_mem_nil, false_imp_iff, implies_true, and_true]
  exact ⟨⟨_, rfl⟩, ⟨_, rfl⟩, ⟨_, rfl⟩, ⟨_, rfl⟩, ⟨_, rfl⟩⟩

/-! ### The types of a good frame -/

section
variable {c : Chip} {n : Fin 6} {f : Frame} {fec : Fec} (hlow : 3 ≤ (c.link n).state.toNat)
  (hhigh : (c.link n).state.toNat ≤ 5) (hfec : (Uml.wrong fec).length ≤ 15) (hw : f.width ≠ 3)
include hlow hhigh hfec hw

/-- A frame whose type's part changes nothing counts, and nothing else of the link changes. -/
theorem Chip.quietFrame_good {take : Chip → Chip} (htake : take (c.corrected n fec) = c.corrected n fec) :
    Chip.TrainStep n c (c.umlFrameIn n ⟨f, fec⟩ take) ∧ (c.link n).Counted f fec ((c.umlFrameIn n ⟨f, fec⟩ take).link n) ∧
      ((c.umlFrameIn n ⟨f, fec⟩ take).link n).state = (c.link n).state ∧
      ((c.umlFrameIn n ⟨f, fec⟩ take).link n).echoes = (c.link n).echoes := by
  obtain ⟨-, ⟨corr, received, bad, hlink, hcorr⟩, -⟩ := c.corrected_step n fec
  obtain ⟨hstep, hcount, hres, -⟩ := Chip.umlFrameIn_of_good (r := ⟨f, fec⟩) hlow hhigh hfec hw htake (.refl n _)
    (by rw [hlink]; exact ⟨hcorr, rfl, rfl, rfl, rfl, rfl⟩)
  refine ⟨hstep, hcount, ?_, ?_⟩
  · rw [hres, hlink]; rfl
  · rw [hres, hlink]; rfl

theorem Chip.identFrame_good (body : Ident) :
    Chip.TrainStep n c (c.umlFrameIn n ⟨f, fec⟩ fun c => c.umlIdent n body) ∧
      (c.link n).Counted f fec ((c.umlFrameIn n ⟨f, fec⟩ fun c => c.umlIdent n body).link n) ∧
      ∃ y : Link, (c.umlFrameIn n ⟨f, fec⟩ fun c => c.umlIdent n body).link n = y.credited f ∧ y.state = (c.link n).state ∧
        ((c.link n).state = 3 → y.peer = body.chip ∧ y.peerWidths = body.widths ∧ y.gotIdent = true) ∧
        ((c.link n).state ≠ 3 → y.peer = (c.link n).peer ∧ y.gotIdent = (c.link n).gotIdent) := by
  obtain ⟨-, ⟨corr, received, bad, hlink, hcorr⟩, -⟩ := c.corrected_step n fec
  obtain ⟨hident, hpeer⟩ := (c.corrected n fec).umlIdent_step n body
  rw [hlink] at hpeer
  have hsame : (c.link n).SameCredits fec (((c.corrected n fec).umlIdent n body).link n) := by
    rw [hpeer]
    split
    · exact ⟨hcorr, rfl, rfl, rfl, rfl, rfl⟩
    · exact ⟨hcorr, rfl, rfl, rfl, rfl, rfl⟩
  obtain ⟨hstep, hcount, hres, -⟩ := Chip.umlFrameIn_of_good (r := ⟨f, fec⟩) (take := fun c => c.umlIdent n body)
    hlow hhigh hfec hw rfl hident hsame
  refine ⟨hstep, hcount, _, hres, hsame.state, fun h3 => ?_, fun h3 => ?_⟩
  · rw [hpeer, if_pos h3]
    exact ⟨rfl, rfl, rfl⟩
  · rw [hpeer, if_neg h3]
    exact ⟨rfl, rfl⟩

theorem Chip.echoReqFrame_good :
    Chip.TrainStep n c (c.umlFrameIn n ⟨f, fec⟩ fun c => if (c.link n).state = 4 then c.post 64 (.echoRspSend n) else c) ∧
      (c.link n).Counted f fec
        ((c.umlFrameIn n ⟨f, fec⟩ fun c => if (c.link n).state = 4 then c.post 64 (.echoRspSend n) else c).link n) ∧
      ((c.umlFrameIn n ⟨f, fec⟩ fun c => if (c.link n).state = 4 then c.post 64 (.echoRspSend n) else c).link n).state =
        (c.link n).state ∧
      ((c.link n).state = 4 →
        (c.umlFrameIn n ⟨f, fec⟩ fun c => if (c.link n).state = 4 then c.post 64 (.echoRspSend n) else c).agenda =
          c.agenda ++ [(c.now + 64, .echoRspSend n)]) := by
  obtain ⟨hcorrected, ⟨corr, received, bad, hlink, hcorr⟩, hagenda⟩ := c.corrected_step n fec
  let take : Chip → Chip := fun c => if (c.link n).state = 4 then c.post 64 (.echoRspSend n) else c
  have htake : Chip.TrainStep n (c.corrected n fec) (take (c.corrected n fec)) ∧
      (take (c.corrected n fec)).link n = (c.corrected n fec).link n := by
    dsimp only [take]
    split
    · exact ⟨.post _ n _ _, rfl⟩
    · exact ⟨.refl n _, rfl⟩
  obtain ⟨hstep, hcount, hres, hrows⟩ := Chip.umlFrameIn_of_good (r := ⟨f, fec⟩) (take := take)
    hlow hhigh hfec hw rfl htake.1 (by rw [htake.2, hlink]; exact ⟨hcorr, rfl, rfl, rfl, rfl, rfl⟩)
  refine ⟨hstep, hcount, ?_, fun h4 => ?_⟩
  · rw [hres, htake.2, hlink]; rfl
  · have hpost : take (c.corrected n fec) = (c.corrected n fec).post 64 (.echoRspSend n) := if_pos (by rw [hlink]; exact h4)
    refine hrows.trans ?_
    rw [hpost]
    exact congrArg₂ (fun (a : List (Nat × Instr)) (k : Nat) => a ++ [(k + 64, Instr.echoRspSend n)])
      (hagenda (by rw [h4]; decide)) hcorrected.now

theorem Chip.echoRspFrame_good {trip : BitVec 16} (hst : (c.link n).state = 4) (hwait : (c.link n).echoWait = true)
    (hechoes : (c.link n).echoes < 16) :
    Chip.TrainStep n c (c.umlFrameIn n ⟨f, fec⟩ fun c => c.umlEcho n trip) ∧
      (c.link n).Counted f fec ((c.umlFrameIn n ⟨f, fec⟩ fun c => c.umlEcho n trip).link n) ∧
      ((c.link n).echoes = 15 → (c.now + 256 * Uml.period (c.link n).width, .alignDone n) ∈
        (c.umlFrameIn n ⟨f, fec⟩ fun c => c.umlEcho n trip).agenda) ∧
      ∃ y : Link, (c.umlFrameIn n ⟨f, fec⟩ fun c => c.umlEcho n trip).link n = y.credited f ∧ y.state = (c.link n).state ∧
        y.echoes = (c.link n).echoes + 1 ∧ y.echoWait = false ∧ y.rounds = trip.toNat - 64 := by
  obtain ⟨hcorrected, ⟨corr, received, bad, hlink, hcorr⟩, -⟩ := c.corrected_step n fec
  obtain ⟨hecho, hheard, hlast⟩ := Chip.umlEcho_step (c := c.corrected n fec) (n := n) (trip := trip) (by rw [hlink]; exact hst)
    (by rw [hlink]; exact hwait) (by rw [hlink]; exact hechoes)
  rw [hlink] at hheard hlast
  obtain ⟨hstep, hcount, hres, hrows⟩ := Chip.umlFrameIn_of_good (r := ⟨f, fec⟩) (take := fun c => c.umlEcho n trip)
    hlow hhigh hfec hw rfl hecho (by rw [hheard]; exact ⟨hcorr, rfl, rfl, rfl, rfl, rfl⟩)
  refine ⟨hstep, hcount, fun h15 => ?_, _, hres, ?_⟩
  · rw [hrows, ← hcorrected.now]
    exact hlast h15
  · rw [hheard]
    exact ⟨rfl, rfl, rfl, rfl⟩

end

/-! ### The rows together -/

section
variable {s : State} {n : Fin 6} (hdue : (s.chip.link n).nextFrame ≤ s.chip.now)
include hdue

theorem exec_frameSend_ident (hst : (s.chip.link n).state = 3) :
    ∃ t g i, exec (.frameSend n) s = .next t ∧ FrameSent s t n 2 g (some i) ∧ g.packets = [] ∧ g.mark = false ∧
      i.chip = s.chip.glb.chipId ∧ i.link = n.val ∧ i.widths = s.chip.umlOffer n ∧
      (t.chip.link n).nextFrame = s.chip.now + Uml.period (s.chip.link n).width := by
  obtain ⟨stepping, heq⟩ := Chip.umlFrame_of_ident hdue hst
  have hrow : exec (.frameSend n) s = .next { s with chip := s.chip.umlFrame n } := rfl
  obtain ⟨hsent, scr, hlink⟩ := frameSent_framed (s := s) (c := s.chip) (n := n) (ftype := 2) (ps := [])
    (ident := some ⟨s.chip.glb.chipId, n.val, s.chip.umlOffer n, stepping⟩) ⟨fun _ _ => rfl, fun _ _ => rfl⟩ rfl rfl
  rw [heq] at hrow
  exact ⟨_, _, _, hrow, hsent, rfl, rfl, rfl, rfl, rfl, congrArg Link.nextFrame hlink⟩

theorem exec_frameSend_idle (hst : (s.chip.link n).state = 4) (hechoes : (s.chip.link n).echoes = 16) :
    ∃ t g, exec (.frameSend n) s = .next t ∧ FrameSent s t n 1 g none ∧ g.packets = [] ∧ g.mark = false ∧
      (t.chip.link n).nextFrame = s.chip.now + Uml.period (s.chip.link n).width := by
  have hrow : exec (.frameSend n) s = .next { s with chip := s.chip.umlFrame n } := rfl
  obtain ⟨hsent, scr, hlink⟩ := frameSent_framed (s := s) (c := s.chip) (n := n) (ftype := 1) (ps := []) (ident := none)
    ⟨fun _ _ => rfl, fun _ _ => rfl⟩ rfl rfl
  rw [Chip.umlFrame_of_idle hdue hst hechoes] at hrow
  exact ⟨_, _, hrow, hsent, rfl, rfl, congrArg Link.nextFrame hlink⟩

/-- A DATA frame takes what fills its slots, and the day mark that is due. -/
theorem exec_frameSend_data (hst : (s.chip.link n).state = 5) (hegress : ∀ q ∈ (s.chip.link n).egress, q.pkt.vc ≠ 0) :
    ∃ t g, exec (.frameSend n) s = .next t ∧ FrameSent s t n 0 g none ∧
      g.packets = ((Chip.fillSlots s.chip.now 13 (s.chip.link n)).1.zipIdx).map (fun p => (p.2, p.1)) ∧
      (t.chip.link n).egress = (Chip.fillSlots s.chip.now 13 (s.chip.link n)).2.egress ∧
      (t.chip.link n).nextFrame = s.chip.now + Uml.period (s.chip.link n).width ∧
      ((s.chip.link n).markDue = none → g.mark = false) ∧
      (∀ k d, (s.chip.link n).markDue = some (k, d) →
        (s.chip.now ≤ k → g.mark = false ∧ (t.chip.link n).markDue = (s.chip.link n).markDue) ∧
        (k < s.chip.now → g.mark = true ∧ g.markOfs = BitVec.ofNat 7 (s.chip.now - k - 1) ∧ g.markDay = d ∧
          (t.chip.link n).markDue = none)) := by
  have hrow : exec (.frameSend n) s = .next { s with chip := s.chip.umlFrame n } := rfl
  obtain ⟨hframe, -⟩ := Chip.fillSlots_frame s.chip.now 13 (s.chip.link n)
  rw [Chip.umlFrame_of_data hdue hst hegress] at hrow
  generalize (Chip.fillSlots s.chip.now 13 (s.chip.link n)).1 = ps at *
  generalize (Chip.fillSlots s.chip.now 13 (s.chip.link n)).2 = l at *
  have hl : (s.chip.onLink n fun _ => l).link n = l := Chip.onLink_same ..
  obtain ⟨hsent, scr, hlink⟩ := frameSent_framed (s := s) (c := s.chip.onLink n fun _ => l) (n := n) (ftype := 0) (ps := ps)
    (ident := none) (.onLink s.chip n _) rfl (by rw [hl]; exact hframe)
  rw [hl] at hsent hlink
  have hdueEq : l.markDue = (s.chip.link n).markDue := (congrArg Link.markDue hframe :)
  have hmarks : l.marks s.chip.now 0 = match (s.chip.link n).markDue with | some (k, _) => decide (k < s.chip.now) | none => false := by
    rw [Link.marks, hdueEq]
    rfl
  refine ⟨_, _, hrow, hsent, rfl, (congrArg Link.egress hlink :), (congrArg Link.nextFrame hlink :), fun hnone => ?_,
    fun k d hk => ⟨fun hlate => ?_, fun hpast => ?_⟩⟩
  · exact hmarks.trans (by rw [hnone])
  · have hno : l.marks s.chip.now 0 = false := hmarks.trans (by rw [hk]; exact decide_eq_false (by omega))
    refine ⟨hno, (congrArg Link.markDue hlink :).trans ?_⟩
    rw [← hdueEq]
    exact if_neg (by rw [show (l.outFrame s.chip.uml.skew s.chip.now 0 ps).mark = false from hno]; decide)
  · have hyes : l.marks s.chip.now 0 = true := hmarks.trans (by rw [hk]; exact decide_eq_true hpast)
    have hget : l.markDue.getD (0, 0) = (k, d) := by rw [hdueEq, hk]; rfl
    refine ⟨hyes, (if_pos hyes).trans (by rw [hget]), (if_pos hyes).trans (by rw [hget]), (congrArg Link.markDue hlink :).trans ?_⟩
    exact if_pos hyes

end

/-- Settles O44. -/
theorem umaedFrames : Obligations.UmaedFrames := by
  intro s n f fec body trip
  refine ⟨fun hst i hi => ?_, fun hlow hhigh hfec i hi => ?_, fun hlow hhigh hfec => ⟨fun hw i hi => ?_, fun hw =>
    ⟨?_, ?_, ?_, ?_, ?_⟩⟩, ?_, fun hst => ?_, fun hst => ?_, fun h => ?_, fun hdue => ⟨fun hst => ?_, fun hst hechoes hwait => ?_,
    fun hst hechoes => ?_, fun hst hegress => ?_⟩⟩
  · obtain ⟨take, hrow⟩ := exec_frame_rows s n f fec body trip i hi
    rw [hrow, Chip.umlFrameIn_of_still take hst]
  · obtain ⟨take, hrow⟩ := exec_frame_rows s n f fec body trip i hi
    obtain ⟨hstep, ⟨received, bad, hlink⟩, hcount⟩ := Chip.umlFrameIn_uncorrectable_step (r := ⟨f, fec⟩) take hlow hhigh hfec
    refine ⟨_, hrow, hstep.keeps, ?_, hstep.other, hcount⟩
    dsimp only
    rw [hlink]
  · obtain ⟨take, hrow⟩ := exec_frame_rows s n f fec body trip i hi
    obtain ⟨hstep, hbad, hrcvd⟩ := Chip.umlFrameIn_of_badWidth (r := ⟨f, fec⟩) (take := take) hlow hhigh hfec hw
    exact ⟨_, hrow, ⟨hstep.keeps, hstep.other⟩, hbad, hrcvd⟩
  · obtain ⟨hstep, hcount, hstate, -⟩ := Chip.quietFrame_good hlow hhigh hfec hw (take := id) rfl
    exact ⟨_, rfl, ⟨hstep.keeps, hstep.other⟩,
      ⟨hcount.fecCorr, hcount.lost, fun k _ => ⟨hcount.rcvd k, hcount.retSeen k, hcount.freed k⟩⟩, hstate⟩
  · obtain ⟨hstep, hcount, y, hlink, hstate, hident, hother⟩ := Chip.identFrame_good hlow hhigh hfec hw body
    refine ⟨_, rfl, ⟨hstep.keeps, hstep.other⟩,
      ⟨hcount.fecCorr, hcount.lost, fun k _ => ⟨hcount.rcvd k, hcount.retSeen k, hcount.freed k⟩⟩, ?_, fun h3 => ?_, fun h3 => ?_⟩
    · dsimp only
      rw [hlink]; exact hstate
    · dsimp only
      rw [hlink]; exact hident h3
    · dsimp only
      rw [hlink]; exact hother h3
  · obtain ⟨hstep, hcount, hstate, hrow⟩ := Chip.echoReqFrame_good hlow hhigh hfec hw
    exact ⟨_, rfl, ⟨hstep.keeps, hstep.other⟩,
      ⟨hcount.fecCorr, hcount.lost, fun k _ => ⟨hcount.rcvd k, hcount.retSeen k, hcount.freed k⟩⟩, hstate, hrow⟩
  · by_cases hecho : (s.chip.link n).state = 4 ∧ (s.chip.link n).echoWait = true ∧ (s.chip.link n).echoes < 16
    · obtain ⟨h4, hwait, hechoes⟩ := hecho
      obtain ⟨hstep, hcount, hlast, y, hlink, hstate, hheard, hdone, hrounds⟩ :=
        Chip.echoRspFrame_good hlow hhigh hfec hw h4 hwait hechoes (trip := trip)
      refine ⟨_, rfl, ⟨hstep.keeps, hstep.other⟩,
        ⟨hcount.fecCorr, hcount.lost, fun k _ => ⟨hcount.rcvd k, hcount.retSeen k, hcount.freed k⟩⟩, ?_,
        fun _ _ _ => ?_, fun h => ?_⟩
      · dsimp only
        rw [hlink]; exact hstate
      · dsimp only
        rw [hlink]; exact ⟨hheard, hdone, hrounds, hlast⟩
      · obtain h | h := h
        · exact absurd h4 h
        · exact absurd (h.symm.trans hwait) (by decide)
    · obtain ⟨hstep, hcount, hstate, hechoes⟩ := Chip.quietFrame_good hlow hhigh hfec hw (take := fun c => c.umlEcho n trip) (by
        obtain ⟨-, ⟨corr, received, bad, hlink, -⟩, -⟩ := s.chip.corrected_step n fec
        refine Chip.umlEcho_of_idle ?_
        rw [hlink]
        by_contra hno
        simp only [not_or, not_not, Bool.not_eq_false, not_le] at hno
        exact hecho hno)
      exact ⟨_, rfl, ⟨hstep.keeps, hstep.other⟩,
        ⟨hcount.fecCorr, hcount.lost, fun k _ => ⟨hcount.rcvd k, hcount.retSeen k, hcount.freed k⟩⟩, hstate,
        fun h4 hwait hlt => absurd ⟨h4, hwait, hlt⟩ hecho, fun _ => hechoes⟩
  · have hrow := exec_dataFrame_good hlow hhigh hfec hw
    have hlink := Chip.umlGood_link ((s.chip.corrected n fec).umlData n f) n f
    refine ⟨_, hrow, rfl, ?_, ?_, fun hquiet => ?_, fun i p hst hps => ⟨fun hcrc => ?_, fun hcrc hmc hhere => ?_⟩⟩
    · dsimp only
      rw [hlink, Link.credited_rcvd, if_pos rfl]
    · dsimp only
      rw [hlink, Link.credited_rcvd, if_neg (by omega), if_pos rfl]
    · obtain ⟨hstep, hcount, hstate, -⟩ := Chip.quietFrame_good hlow hhigh hfec hw (take := fun c => c.umlData n f) (by
        obtain ⟨-, ⟨corr, received, bad, hlink, -⟩, -⟩ := s.chip.corrected_step n fec
        exact Chip.umlData_of_empty (by rw [hlink]; exact hquiet))
      rw [Chip.umlFrameIn_of_correctable (r := ⟨f, fec⟩) (fun c => c.umlData n f) hlow hhigh hfec, if_neg hw] at hstep hcount hstate
      exact ⟨⟨hstep.keeps, hstep.other⟩,
        ⟨hcount.fecCorr, hcount.lost, fun k _ => ⟨hcount.rcvd k, hcount.retSeen k, hcount.freed k⟩⟩, hstate⟩
    · exact Chip.dataFrame_badCrc hst hps hcrc
    · exact Chip.dataFrame_here hst hps hcrc hmc hhere
  · exact ⟨_, rfl, ⟨⟨rfl, rfl⟩, fun m hm => Chip.onLink_ne s.chip _ hm⟩, Chip.onLink_same ..⟩
  · rw [exec_echoRspSend, execEchoRspSend, State.run_eq, if_neg hst]
  · have hrow : exec (.echoRspSend n) s = .next { s with chip := s.chip.sendFrame n 4 [] } := by
      rw [exec_echoRspSend, execEchoRspSend, State.run_eq, if_pos hst]
    exact ⟨_, _, hrow, frameSent_answer s n, rfl, rfl⟩
  · rw [exec_frameSend, execFrameSend, State.run_eq, Chip.umlFrame_of_still h]
  · exact exec_frameSend_ident hdue hst
  · have hrow : exec (.frameSend n) s = .next { s with chip := s.chip.umlFrame n } := rfl
    rw [Chip.umlFrame_of_echo hdue hst hechoes hwait] at hrow
    obtain ⟨hsent, hwait', hnext⟩ := frameSent_echo s n
    exact ⟨_, _, hrow, hsent, rfl, rfl, hwait', hnext⟩
  · exact exec_frameSend_idle hdue hst hechoes
  · exact exec_frameSend_data hdue hst hegress

end Sys2Proof.Machine
end

section
/-!
PROOFS. Proofs/DramPlanned.lean: the planned commands of an LPDDR5X channel (R342, R349 to R358): when an issue is skipped, what rows,
check buffers, refresh debt and GAPs become, and the lines that a plan reads and writes.
-/
namespace Sys2Proof.Machine
open Sys2Proof

/-! ### What a step of a channel changes -/

/-- From c to d channel k alone has changed. -/
structure Chip.ChanStep (k : BitVec 3) (c d : Chip) : Prop where
  frame : ∀ l, ({ d with chans := l } : Chip) = { c with chans := l }
  other : ∀ m, m ≠ k → d.chan m = c.chan m

section
variable {k : BitVec 3} {b c d : Chip}

theorem Chip.ChanStep.refl (k : BitVec 3) (c : Chip) : Chip.ChanStep k c c := ⟨fun _ => rfl, fun _ _ => rfl⟩

theorem Chip.ChanStep.trans (h : Chip.ChanStep k b c) (g : Chip.ChanStep k c d) : Chip.ChanStep k b d :=
  ⟨fun l => (g.frame l).trans (h.frame l), fun m hm => (g.other m hm).trans (h.other m hm)⟩

theorem Chip.ChanStep.onChan (c : Chip) (k : BitVec 3) (f : Chan → Chan) : Chip.ChanStep k c (c.onChan k f) :=
  ⟨fun _ => rfl, fun _ hm => c.onChan_ne f hm⟩

theorem Chip.ChanStep.onBank (c : Chip) (k : BitVec 3) (j : Nat) (f : Bank → Bank) : Chip.ChanStep k c (c.onBank k j f) :=
  .onChan c k _

theorem Chip.ChanStep.only {s : State} (h : Chip.ChanStep k s.chip d) : onlyChan k s { s with chip := d } :=
  ⟨⟨rfl, h.frame s.chip.chans⟩, h.other⟩

theorem Chip.ChanStep.lineAddr (h : Chip.ChanStep k c d) (bank row col : Nat) : d.lineAddr k bank row col = c.lineAddr k bank row col :=
  (congrArg (fun c : Chip => c.lineAddr k bank row col) (h.frame []) :)

theorem Chip.ChanStep.rdLat (h : Chip.ChanStep k c d) : d.rdLat k = c.rdLat k := (congrArg (fun c : Chip => c.rdLat k) (h.frame []) :)

theorem Chip.ChanStep.now (h : Chip.ChanStep k c d) : d.now = c.now := (congrArg Chip.now (h.frame []) :)

/-- A packet that is sent reads nothing of the channels. -/
theorem Chip.send_chans (c : Chip) (l : Table Chan) (e : Eid) (p : Packet) (delay : Nat) :
    ({ c with chans := l } : Chip).send e p delay = { c.send e p delay with chans := l } := by
  unfold Chip.send
  split <;> rfl

theorem Chip.ChanStep.send_fab (h : Chip.ChanStep k c d) (e : Eid) (p : Packet) (delay : Nat) :
    (d.send e p delay).fab = (c.send e p delay).fab := by
  have hd := d.send_chans [] e p delay
  have hc := c.send_chans [] e p delay
  rw [h.frame []] at hd
  exact (congrArg Chip.fab (hd.symm.trans hc) :)

end

/-! ### One bank -/

section
variable (c : Chip) (k : BitVec 3) (f : Bank → Bank)

theorem Chip.onChan_bank {g : Chan → Chan} (hg : ∀ x, (g x).banks = x.banks) (j : Nat) : (c.onChan k g).bank k j = c.bank k j := by
  rw [Chip.bank, Chip.onChan_same, hg]
  rfl

theorem Chip.onBank_same (b : Nat) : (c.onBank k b f).bank k b = f (c.bank k b) := by
  rw [Chip.bank, Chip.onBank, Chip.onChan_same]
  exact tget_tput_same ..

theorem Chip.onBank_ne {b j : Nat} (h : j ≠ b) : (c.onBank k b f).bank k j = c.bank k j := by
  rw [Chip.bank, Chip.onBank, Chip.onChan_same]
  exact tget_tput_ne _ _ _ h

theorem Chip.onBank_bank (b j : Nat) : (c.onBank k b f).bank k j = if j = b then f (c.bank k j) else c.bank k j := by
  by_cases h : j = b
  · rw [if_pos h, h, Chip.onBank_same]
  · rw [if_neg h, Chip.onBank_ne c k f h]

theorem Chip.onBank_chan (b : Nat) : (c.onBank k b f).chan k =
    { c.chan k with banks := tput Bank.init (c.chan k).banks b (f (c.bank k b)) } := Chip.onChan_same ..

end

/-! ### When an issue is skipped (R357, R359) -/

section
variable {c : Chip} {k : BitVec 3}

theorem Chip.inEmergency_of_none (h : (c.chan k).emergUntil = []) (rank : Nat) : c.inEmergency k rank = false := by
  rw [Chip.inEmergency, h]
  rfl

theorem Chip.skippedBy_of_none (hem : (c.chan k).emergUntil = []) (hdbg : (c.chan k).dbg = []) (bs : List Nat) :
    c.skippedBy k bs = none := by
  have hd (b : Nat) : c.inDebug k b = false := by rw [Chip.inDebug, hdbg]; rfl
  simp [Chip.skippedBy, Chip.inEmergency_of_none hem, hd]

theorem Chip.skippedBy_of_emergency {b : Nat} (hb : b < 32) (h : c.inEmergency k (b / 16) = true) :
    c.skippedBy k [b] = some (.rank (b / 16)) := by
  have hrank : b / 16 = 0 ∨ b / 16 = 1 := by omega
  unfold Chip.skippedBy Chip.rankOf
  simp only [List.any_cons, List.any_nil, Bool.or_false]
  obtain hr | hr := hrank <;> rw [hr] at h ⊢
  · rw [h]
    exact if_pos rfl
  · rw [h]
    exact (if_neg Bool.false_ne_true).trans (if_pos rfl)

theorem Chip.planned_of_stopped (hrun : c.alm.running = false) (bs : List Nat) (skip f : Chip → Chip) : c.planned k bs skip f = c := by
  simp only [Chip.planned, Chip.planLive, hrun, Bool.false_and, Bool.false_eq_true, if_false]

variable (hrun : c.alm.running = true) (htr : c.trained k = true)
include hrun htr

theorem Chip.planned_of_open (hem : (c.chan k).emergUntil = []) (hdbg : (c.chan k).dbg = []) (bs : List Nat)
    (skip f : Chip → Chip) : c.planned k bs skip f = f c := by
  simp only [Chip.planned, Chip.planLive, hrun, htr, Bool.and_self, if_true, Chip.skippedBy_of_none hem hdbg]

theorem Chip.planned_of_emergency {b : Nat} (hb : b < 32) (h : c.inEmergency k (b / 16) = true) (skip f : Chip → Chip) :
    c.planned k [b] skip f = skip (c.countSkip k (.rank (b / 16))) := by
  simp only [Chip.planned, Chip.planLive, hrun, htr, Bool.and_self, if_true, Chip.skippedBy_of_emergency hb h]

end

/-- A skipped issue counts, and counts in its rank's window. -/
theorem Chip.countSkip_rank (c : Chip) (k : BitVec 3) (r : Nat) : Chip.ChanStep k c (c.countSkip k (.rank r)) ∧
    (c.countSkip k (.rank r)).chan k = { c.chan k with
      skipCnt := satInc (c.chan k).skipCnt
      emergSkip := tput 0 (c.chan k).emergSkip r (tget 0 (c.chan k).emergSkip r + 1) } := by
  unfold Chip.countSkip
  refine ⟨(Chip.ChanStep.onChan c k _).trans (.onChan _ k _), ?_⟩
  dsimp only
  rw [Chip.onChan_same, Chip.onChan_same]

/-! ### Rows and check buffers (R342, R349) -/

/-- The check area of a row lies on lines of its own, one after the other. -/
theorem Chip.lineAddr_div (c : Chip) (k : BitVec 3) (b r n : Nat) :
    c.lineAddr k b r n / 32 = c.lineAddr k b r 0 / 32 + n := by
  unfold Chip.lineAddr
  split <;> omega

theorem Chip.lineAddr_line (c : Chip) (k : BitVec 3) (b r n : Nat) : c.lineAddr k b r n / 32 * 32 = c.lineAddr k b r n := by
  unfold Chip.lineAddr
  split <;> omega

/-- A list of places with their values, as a table. -/
theorem tget_places {α : Type} [DecidableEq α] (d : α) (f : Nat → α) (l : List Nat) (n : Nat) (hn : n ∈ l) :
    tget d ((l.map fun n => (n, f n)).filter fun w => w.2 ≠ d) n = f n := by
  induction l with
  | nil => exact absurd hn (by simp)
  | cons m l ih =>
    rw [List.map_cons, List.filter_cons]
    by_cases hm : m = n
    · subst hm
      split
      next => exact if_pos rfl
      next h =>
        have hd : f m = d := by simpa using h
        by_cases hin : m ∈ l
        · exact ih hin
        · rw [hd]
          refine tget_absent d _ m ?_
          simp only [List.mem_map, List.mem_filter, not_exists, not_and]
          rintro w ⟨⟨j, hj, rfl⟩, -⟩ hjm
          exact hin (hjm ▸ hj)
    · have hin : n ∈ l := (List.mem_cons.mp hn).resolve_left fun h => hm h.symm
      split
      · exact (if_neg hm).trans (ih hin)
      · exact ih hin

/-- Values put at places one after another from a on. -/
theorem tget_foldl_tput {α : Type} [DecidableEq α] (d : α) (f : Nat → α) (a n : Nat) (t : Table α) (j : Nat) :
    tget d ((List.range n).foldl (fun t i => tput d t (a + i) (f i)) t) j =
      if a ≤ j ∧ j < a + n then f (j - a) else tget d t j := by
  induction n with
  | zero => rw [if_neg (by omega)]; rfl
  | succ n ih =>
    rw [List.range_succ, List.foldl_append, List.foldl_cons, List.foldl_nil, tget_tput, ih]
    by_cases hj : j = a + n
    · rw [if_pos hj, if_pos (by omega), hj, Nat.add_sub_cancel_left]
    · rw [if_neg hj]
      by_cases hin : a ≤ j ∧ j < a + n
      · rw [if_pos hin, if_pos (by omega)]
      · rw [if_neg hin, if_neg (by omega)]

/-- ACT opens the row, and its check area comes into the bank's buffer. -/
theorem Chip.activate_spec (c : Chip) (k : BitVec 3) (b : Nat) (row : BitVec 18) :
    Chip.ChanStep k c (c.activate k b row) ∧ ({ (c.activate k b row).chan k with banks := (c.chan k).banks } : Chan) = c.chan k ∧
      ({ (c.activate k b row).bank k b with check := (c.bank k b).check } : Bank) =
        { c.bank k b with row := some row, dirty := false } ∧
      (∀ n, n < 60 → tget Ecc.clean ((c.activate k b row).bank k b).check n =
        tget Ecc.clean (c.chan k).ecc (c.lineAddr k b row.toNat n / 32)) ∧
      ∀ j, j ≠ b → (c.activate k b row).bank k j = c.bank k j := by
  let words : Table Ecc := ((List.range 60).map fun n => (n, tget Ecc.clean (c.chan k).ecc (c.lineAddr k b row.toNat n / 32))).filter
    fun w => w.2 ≠ .clean
  have heq : c.activate k b row = (c.onBank k b fun x => { x with row := some row }).onBank k b fun x =>
      { x with check := words, dirty := false } := by
    unfold Chip.activate Chip.loadCheck
    rw [Chip.onBank_same]
    dsimp only
    rw [Chip.onBank_chan]
    rfl
  have hbank : (c.activate k b row).bank k b = { c.bank k b with row := some row, check := words, dirty := false } := by
    rw [heq, Chip.onBank_same, Chip.onBank_same]
  refine ⟨?_, ?_, ?_, fun n hn => ?_, fun j hj => ?_⟩
  · rw [heq]; exact (Chip.ChanStep.onBank c k b _).trans (.onBank _ k b _)
  · rw [heq, Chip.onBank_chan, Chip.onBank_chan]
  · rw [hbank]
  · rw [hbank]; exact tget_places _ _ _ n (List.mem_range.mpr hn)
  · rw [heq, Chip.onBank_ne _ k _ hj, Chip.onBank_ne _ k _ hj]

/-- A bank that a precharge closed. -/
def Bank.closed (x : Bank) : Bank := { x with row := none, check := [], dirty := false }

section
variable (c : Chip) (k : BitVec 3) (b : Nat)

theorem Chip.storeCheck_of_clean (h : (c.bank k b).dirty = false ∨ (c.bank k b).row = none) : c.storeCheck k b = c := by
  unfold Chip.storeCheck
  dsimp only
  split
  next => rfl
  next r hr =>
    rw [if_neg]
    exact h.elim (fun hd => by rw [hd]; exact Bool.false_ne_true) (fun hn => by simp [hn] at hr)

/-- The words of the check areas with those of row r of bank b from its check buffer. -/
def Chip.eccStored (r : BitVec 18) : Table Ecc :=
  (List.range 60).foldl (fun t n => tput Ecc.clean t (c.lineAddr k b r.toNat n / 32) (tget Ecc.clean (c.bank k b).check n))
    (c.chan k).ecc

theorem Chip.storeCheck_of_dirty {r : BitVec 18} (hd : (c.bank k b).dirty = true) (hr : (c.bank k b).row = some r) :
    c.storeCheck k b = (c.onChan k fun y => { y with ecc := c.eccStored k b r }).onBank k b fun y => { y with dirty := false } := by
  have hset : (c.onChan k fun y => { y with ecc := c.eccStored k b r }) = c.onChan k fun y =>
      { y with
        ecc := (List.range 60).foldl
          (fun t n => tput Ecc.clean t (c.lineAddr k b r.toNat n / 32) (tget Ecc.clean (c.bank k b).check n)) y.ecc } := rfl
  rw [hset]
  unfold Chip.storeCheck
  dsimp only
  rw [hr]
  dsimp only
  rw [if_pos hd]

theorem Chip.tget_eccStored (r : BitVec 18) (i : Nat) :
    tget Ecc.clean (c.eccStored k b r) i =
      if c.lineAddr k b r.toNat 0 / 32 ≤ i ∧ i < c.lineAddr k b r.toNat 0 / 32 + 60 then
        tget Ecc.clean (c.bank k b).check (i - c.lineAddr k b r.toNat 0 / 32)
      else tget Ecc.clean (c.chan k).ecc i := by
  have hput : (fun (t : Table Ecc) n => tput Ecc.clean t (c.lineAddr k b r.toNat n / 32) (tget Ecc.clean (c.bank k b).check n)) =
      fun t n => tput Ecc.clean t (c.lineAddr k b r.toNat 0 / 32 + n) (tget Ecc.clean (c.bank k b).check n) := by
    funext t n
    rw [Chip.lineAddr_div c k b r.toNat n]
  rw [Chip.eccStored, hput, tget_foldl_tput]

theorem Chip.eccStored_in (r : BitVec 18) {n : Nat} (hn : n < 60) :
    tget Ecc.clean (c.eccStored k b r) (c.lineAddr k b r.toNat n / 32) = tget Ecc.clean (c.bank k b).check n := by
  rw [Chip.tget_eccStored, Chip.lineAddr_div c k b r.toNat n, if_pos (by omega), Nat.add_sub_cancel_left]

theorem Chip.eccStored_out (r : BitVec 18) {i : Nat} (hi : ∀ n, n < 60 → i ≠ c.lineAddr k b r.toNat n / 32) :
    tget Ecc.clean (c.eccStored k b r) i = tget Ecc.clean (c.chan k).ecc i := by
  rw [Chip.tget_eccStored, if_neg]
  rintro ⟨hlo, hhi⟩
  have h := hi (i - c.lineAddr k b r.toNat 0 / 32) (by omega)
  rw [Chip.lineAddr_div] at h
  omega

/-- A precharge closes its bank alone, and changes nothing else but check areas. -/
theorem Chip.precharge_spec : Chip.ChanStep k c (c.precharge k b) ∧
    ({ (c.precharge k b).chan k with banks := (c.chan k).banks, ecc := (c.chan k).ecc } : Chan) = c.chan k ∧
    (c.precharge k b).bank k b = (c.bank k b).closed ∧ ∀ j, j ≠ b → (c.precharge k b).bank k j = c.bank k j := by
  unfold Chip.precharge
  by_cases h : (c.bank k b).dirty = false ∨ (c.bank k b).row = none
  · rw [Chip.storeCheck_of_clean c k b h]
    exact ⟨.onBank c k b _, by rw [Chip.onBank_chan], Chip.onBank_same .., fun j hj => Chip.onBank_ne c k _ hj⟩
  · obtain ⟨hd, hr⟩ := not_or.mp h
    obtain ⟨r, hr⟩ := Option.ne_none_iff_exists'.mp hr
    rw [Chip.storeCheck_of_dirty c k b (Bool.eq_true_of_not_eq_false hd) hr]
    refine ⟨((Chip.ChanStep.onChan c k _).trans (.onBank _ k b _)).trans (.onBank _ k b _), ?_, ?_, fun j hj => ?_⟩
    · rw [Chip.onBank_chan, Chip.onBank_chan, Chip.onChan_same]
    · rw [Chip.onBank_same, Chip.onBank_same, Chip.onChan_bank]
      · rfl
      · exact fun _ => rfl
    · rw [Chip.onBank_ne _ k _ hj, Chip.onBank_ne _ k _ hj, Chip.onChan_bank]
      exact fun _ => rfl

theorem Chip.precharge_ecc_of_clean (h : (c.bank k b).dirty = false ∨ (c.bank k b).row = none) :
    ((c.precharge k b).chan k).ecc = (c.chan k).ecc := by
  rw [Chip.precharge, Chip.storeCheck_of_clean c k b h, Chip.onBank_chan]

theorem Chip.precharge_ecc_of_dirty {r : BitVec 18} (hd : (c.bank k b).dirty = true) (hr : (c.bank k b).row = some r) :
    ((c.precharge k b).chan k).ecc = c.eccStored k b r := by
  rw [Chip.precharge, Chip.storeCheck_of_dirty c k b hd hr, Chip.onBank_chan, Chip.onBank_chan, Chip.onChan_same]

end

/-- Precharges of a list of banks. -/
theorem Chip.foldl_precharge_spec (k : BitVec 3) (l : List Nat) (c : Chip) :
    let d := l.foldl (fun c b => c.precharge k b) c
    Chip.ChanStep k c d ∧ ({ d.chan k with banks := (c.chan k).banks, ecc := (c.chan k).ecc } : Chan) = c.chan k ∧
      (∀ j, d.bank k j = if j ∈ l then (c.bank k j).closed else c.bank k j) ∧
      ((∀ j ∈ l, (c.bank k j).dirty = false) → (d.chan k).ecc = (c.chan k).ecc) := by
  induction l generalizing c with
  | nil => exact ⟨.refl k c, rfl, fun j => (if_neg (List.not_mem_nil)).symm, fun _ => rfl⟩
  | cons b l ih =>
    obtain ⟨hstep, hchan, hbank, hecc⟩ := ih (c.precharge k b)
    obtain ⟨hstep1, hchan1, hsame, hne⟩ := Chip.precharge_spec c k b
    have hone (j : Nat) : (c.precharge k b).bank k j = if j = b then (c.bank k j).closed else c.bank k j := by
      by_cases hj : j = b
      · rw [if_pos hj, hj, hsame]
      · rw [if_neg hj, hne j hj]
    refine ⟨hstep1.trans hstep, ?_, fun j => ?_, fun hclean => ?_⟩
    · have h := congrArg (fun x : Chan => ({ x with banks := (c.chan k).banks, ecc := (c.chan k).ecc } : Chan)) hchan
      exact h.trans hchan1
    · rw [List.foldl_cons, hbank, hone]
      by_cases hl : j ∈ l
      · rw [if_pos hl, if_pos (List.mem_cons_of_mem _ hl)]
        split <;> rfl
      · rw [if_neg hl]
        exact if_congr (by simp [hl]) rfl rfl
    · rw [List.foldl_cons, hecc fun j hj => ?_, Chip.precharge_ecc_of_clean c k b (.inl (hclean b List.mem_cons_self))]
      rw [hone]
      split
      · rfl
      · exact hclean j (List.mem_cons_of_mem _ hj)

theorem Chip.mem_rankBanks (r j : Nat) : j ∈ Chip.rankBanks r ↔ 16 * r ≤ j ∧ j < 16 * r + 16 := by
  simp only [Chip.rankBanks, List.mem_map, List.mem_range]
  exact ⟨fun ⟨i, hi, hj⟩ => by omega, fun h => ⟨j - 16 * r, by omega, by omega⟩⟩

/-! ### Refresh debt (R355) -/

theorem Chip.addDebt_spec (c : Chip) (k : BitVec 3) (r : Nat) (d : Int) :
    ({ (c.addDebt k r d).chan k with debt := (c.chan k).debt } : Chan) = c.chan k ∧
      (c.addDebt k r d).debtOf k r = max (-128) (min 128 (c.debtOf k r + d)) ∧
      ∀ j, j ≠ r → (c.addDebt k r d).debtOf k j = c.debtOf k j := by
  unfold Chip.addDebt
  refine ⟨by rw [Chip.onChan_same], ?_, fun j hj => ?_⟩
  · rw [Chip.debtOf, Chip.onChan_same]
    dsimp only
    rw [tget_tput_same, clampInt_fst (by decide), min_comm]
    rfl
  · rw [Chip.debtOf, Chip.onChan_same]
    exact tget_tput_ne _ _ _ hj

/-! ### GAPs (R354) -/

/-- What is done to each bank of a list that names none twice. -/
theorem Chip.foldl_onBank_spec (k : BitVec 3) (f : Bank → Bank) (l : List Nat) (hl : l.Nodup) (c : Chip) :
    let d := l.foldl (fun c b => c.onBank k b f) c
    Chip.ChanStep k c d ∧ ({ d.chan k with banks := (c.chan k).banks } : Chan) = c.chan k ∧
      ∀ j, d.bank k j = if j ∈ l then f (c.bank k j) else c.bank k j := by
  induction l generalizing c with
  | nil => exact ⟨.refl k c, rfl, fun j => (if_neg (List.not_mem_nil)).symm⟩
  | cons b l ih =>
    obtain ⟨hb, hl⟩ := List.nodup_cons.mp hl
    obtain ⟨hstep, hchan, hbank⟩ := ih hl (c.onBank k b f)
    refine ⟨(Chip.ChanStep.onBank c k b f).trans hstep, ?_, fun j => ?_⟩
    · have h := congrArg (fun x : Chan => ({ x with banks := (c.chan k).banks } : Chan)) hchan
      exact h.trans (by rw [Chip.onBank_chan])
    · rw [List.foldl_cons, hbank, Chip.onBank_bank]
      by_cases hj : j = b
      · subst hj
        rw [if_neg hb, if_pos rfl, if_pos List.mem_cons_self]
      · rw [if_neg hj]
        exact if_congr (by simp [hj]) rfl rfl

/-! ### Planned writes and reads (R342, R351, R352) -/

section
variable (c : Chip) (k : BitVec 3) (b col : Nat)

theorem Chip.planWrite_of_closed (h : (c.bank k b).row = none) (slot : Nat) : c.planWrite k b col slot = c := by
  rw [Chip.planWrite, h]

/-- A planned write puts the slot's value of four cycles before at its place, and its check word in the bank's buffer. -/
theorem Chip.planWrite_spec {r : BitVec 18} (h : (c.bank k b).row = some r) (slot : Nat) :
    Chip.ChanStep k c (c.planWrite k b col slot) ∧
      ({ (c.planWrite k b col slot).chan k with cells := (c.chan k).cells, banks := (c.chan k).banks } : Chan) = c.chan k ∧
      ((c.planWrite k b col slot).chan k).cells =
        mwrite (c.chan k).cells (c.lineAddr k b r.toNat col) (lineBytes (c.slotBefore k slot)) ∧
      (c.planWrite k b col slot).bank k b =
        { c.bank k b with check := tput Ecc.clean (c.bank k b).check col .clean, dirty := true } ∧
      ∀ j, j ≠ b → (c.planWrite k b col slot).bank k j = c.bank k j := by
  have heq : c.planWrite k b col slot = (c.onChan k fun x =>
      { x with cells := mwrite x.cells (c.lineAddr k b r.toNat col) (lineBytes (c.slotBefore k slot)) }).onBank k b fun x =>
        { x with check := tput Ecc.clean x.check col .clean, dirty := true } := by
    rw [Chip.planWrite, h]
  rw [heq]
  refine ⟨(Chip.ChanStep.onChan c k _).trans (.onBank _ k b _), ?_, ?_, ?_, fun j hj => ?_⟩
  · rw [Chip.onBank_chan, Chip.onChan_same]
  · rw [Chip.onBank_chan, Chip.onChan_same]
  · rw [Chip.onBank_same, Chip.onChan_bank]
    exact fun _ => rfl
  · rw [Chip.onBank_ne _ k _ hj, Chip.onChan_bank]
    exact fun _ => rfl

/-- The bytes of a line that is written, and those beside it. -/
theorem mget_mwrite_line (m : List Host.Cell) (a : Nat) (l : Line) :
    (∀ j, j < 32 → mget (mwrite m a (lineBytes l)) (a + j) = l.extractLsb' (8 * j) 8) ∧
      ∀ j, j < a ∨ a + 32 ≤ j → mget (mwrite m a (lineBytes l)) j = mget m j := by
  refine ⟨fun j hj => ?_, fun j hj => mget_mwrite_out _ m a j (by rw [lineBytes_length]; exact hj)⟩
  rw [mget_mwrite_in _ m a j (by rw [lineBytes_length]; exact hj), lineBytes_getD l hj]

theorem Chip.planRead_of_clean {r : BitVec 18} (h : (c.bank k b).row = some r) (hc : tget Ecc.clean (c.bank k b).check col = .clean) :
    c.planRead k b col = (some (mline (c.chan k).cells (c.lineAddr k b r.toNat col)), c) := by
  rw [Chip.planRead, h, hc]
  unfold Chip.readChecked
  dsimp only
  rw [Chip.lineAddr_line]

end

/-! ### The rows -/

section
variable {s : State} {k : BitVec 3}

theorem run_planned_of_stopped (hrun : s.chip.alm.running = false) (bs : List Nat) (skip f : Chip → Chip) :
    (s.run fun c => c.planned k bs skip f) = .next s := by
  rw [State.run_eq, Chip.planned_of_stopped hrun]

theorem run_openGap_of_stopped (hrun : s.chip.alm.running = false) (mask : Word) (n : Nat) :
    (s.run fun c => c.openGap k mask n) = .next s := by
  have h : s.chip.openGap k mask n = s.chip := by
    rw [Chip.openGap, Chip.planLive, hrun]
    exact if_neg Bool.false_ne_true
  rw [State.run_eq, h]

/-- In a stopped almanac a plan issues nothing (R740). -/
theorem plan_of_stopped (hrun : s.chip.alm.running = false) (b : BitVec 5) (row : BitVec 18) (col slot : BitVec 6) (n : TileId)
    (line : BitVec 14) (rank : Bool) (rate : BitVec 3) (mask : Word) (len : BitVec 16) (hot : Bool) :
    ∀ i ∈ [Instr.act k b row, .rd32 k b col n line, .rd64 k b col n line, .wr32 k b col slot, .wr64 k b col slot, .pre k b,
           .prea k rank, .refpb k b, .refab k rank, .mrr4 k rank rate hot, .zqlat k rank, .gap k mask len],
      exec i s = .next s := by
  simp only [List.forall_mem_cons, List.not_mem_nil, false_imp_iff, implies_true, and_true]
  refine ⟨?_, ?_, ?_, ?_, ?_, ?_, ?_, ?_, ?_, ?_, ?_, run_openGap_of_stopped hrun mask len.toNat⟩ <;>
    exact run_planned_of_stopped hrun _ _ _

variable (hrun : s.chip.alm.running = true) (htr : s.chip.trained k = true)
include hrun htr

theorem run_planned_of_open (hem : (s.chip.chan k).emergUntil = []) (hdbg : (s.chip.chan k).dbg = []) (bs : List Nat)
    (skip f : Chip → Chip) : (s.run fun c => c.planned k bs skip f) = .next { s with chip := f s.chip } := by
  rw [State.run_eq, Chip.planned_of_open hrun htr hem hdbg]

theorem run_planned_of_emergency {b : BitVec 5} (h : s.chip.inEmergency k (b.toNat / 16) = true) (skip f : Chip → Chip) :
    (s.run fun c => c.planned k [b.toNat] skip f) =
      .next { s with chip := skip (s.chip.countSkip k (.rank (b.toNat / 16))) } := by
  rw [State.run_eq, Chip.planned_of_emergency hrun htr b.isLt h]

end

/-- The GAPs of a bank with one more, to the end of its n cycles; those that are over are gone. -/
def Bank.withGap (now n : Nat) (x : Bank) : Bank := { x with gaps := (x.gaps.filter fun g => now < g) ++ [now + n] }

theorem Chip.foldl_openGap (k : BitVec 3) (n : Nat) (l : List Nat) (c : Chip) :
    l.foldl (fun c b => c.onBank k b fun x => { x with gaps := (x.gaps.filter fun g => c.now < g) ++ [c.now + n] }) c =
      l.foldl (fun d b => d.onBank k b (Bank.withGap c.now n)) c := by
  induction l generalizing c with
  | nil => rfl
  | cons b l ih => exact ih (c.onBank k b (Bank.withGap c.now n))

/-- A GAP opens on each bank of its mask, beside those open on it. -/
theorem Chip.openGap_spec {c : Chip} {k : BitVec 3} (hrun : c.alm.running = true) (htr : c.trained k = true)
    (hem : (c.chan k).emergUntil = []) (hdbg : (c.chan k).dbg = []) (mask : Word) (n : Nat) :
    Chip.ChanStep k c (c.openGap k mask n) ∧ ({ (c.openGap k mask n).chan k with banks := (c.chan k).banks } : Chan) = c.chan k ∧
      ∀ j, (c.openGap k mask n).bank k j =
        if j < 32 ∧ mask.getLsbD j = true then
          { c.bank k j with gaps := ((c.bank k j).gaps.filter fun g => c.now < g) ++ [c.now + n] }
        else c.bank k j := by
  have heq : c.openGap k mask n = ((List.range 32).filter fun b => flag mask b).foldl
      (fun d b => d.onBank k b (Bank.withGap c.now n)) c := by
    unfold Chip.openGap
    simp only [Chip.planLive, hrun, htr, Bool.and_self, if_true, Chip.skippedBy_of_none hem hdbg, Option.isNone_none,
      List.filter_true, Chip.foldl_openGap]
  rw [heq]
  obtain ⟨hstep, hchan, hbank⟩ := Chip.foldl_onBank_spec k (Bank.withGap c.now n) _
    (List.nodup_range.filter fun b => flag mask b) c
  refine ⟨hstep, hchan, fun j => (hbank j).trans (if_congr ?_ rfl rfl)⟩
  simp [flag]

/-! ### The packets of a planned read (R351) -/

/-- The packet that takes a line to a tile's line. -/
def planData (n : TileId) (line : Nat) (l : Line) (flags : BitVec 5) : Packet :=
  packet 0xFFFF tDataWr 0 (tileEid n) 32 (BitVec.ofNat 24 (line * 32)) 0 l flags

theorem Chip.planReadTo_of_clean (c : Chip) (k : BitVec 3) (b col : Nat) {r : BitVec 18} (h : (c.bank k b).row = some r)
    (hc : tget Ecc.clean (c.bank k b).check col = .clean) (n : TileId) (line late : Nat) :
    c.planReadTo k b col n line late = c.send (eidChannel k)
      (planData n line (mline (c.chan k).cells (c.lineAddr k b r.toNat col)) 0) (c.rdLat k + late) := by
  rw [Chip.planReadTo, Chip.planRead_of_clean c k b col h hc]
  rfl

/-- Two lines that a planned read reads one after the other. -/
theorem Chip.planReadTo_twice (c : Chip) (k : BitVec 3) (b col : Nat) {r : BitVec 18} (h : (c.bank k b).row = some r)
    (hc : tget Ecc.clean (c.bank k b).check col = .clean) (hc1 : tget Ecc.clean (c.bank k b).check (col + 1) = .clean)
    (n : TileId) (line : Nat) :
    (c.planReadTo k b col n line 0).planReadTo k b (col + 1) n (line + 1) 1 =
      (c.send (eidChannel k) (planData n line (mline (c.chan k).cells (c.lineAddr k b r.toNat col)) 0) (c.rdLat k)).send
        (eidChannel k) (planData n (line + 1) (mline (c.chan k).cells (c.lineAddr k b r.toNat (col + 1))) 0) (c.rdLat k + 1) := by
  rw [Chip.planReadTo_of_clean c k b col h hc]
  generalize hd : c.send (eidChannel k) (planData n line (mline (c.chan k).cells (c.lineAddr k b r.toNat col)) 0)
    (c.rdLat k + 0) = d
  have heq : d = { c with fab := d.fab } := by rw [← hd]; exact Chip.send_eq ..
  have hbank : d.bank k b = c.bank k b := by rw [heq]; rfl
  have hline : mline (d.chan k).cells (d.lineAddr k b r.toNat (col + 1)) =
      mline (c.chan k).cells (c.lineAddr k b r.toNat (col + 1)) := by rw [heq]; rfl
  have hlat : d.rdLat k = c.rdLat k := by rw [heq]; rfl
  rw [Chip.planReadTo_of_clean d k b (col + 1) (hbank ▸ h) (hbank ▸ hc1), hline, hlat]

/-! ### O46 -/

/-- A channel one of whose issues an emergency window of rank r skipped. -/
def Chan.skippedIn (x : Chan) (r : Nat) : Chan :=
  { x with skipCnt := satInc x.skipCnt, emergSkip := tput 0 x.emergSkip r (tget 0 x.emergSkip r + 1) }

section
variable (s : State) (k : BitVec 3)

section
variable (hrun : s.chip.alm.running = true) (htr : s.chip.trained k = true)
include hrun htr

theorem run_planned_skipped {b : BitVec 5} (h : s.chip.inEmergency k (b.toNat / 16) = true) (f : Chip → Chip) :
    ∃ t, (s.run fun c => c.planned k [b.toNat] id f) = .next t ∧ onlyChan k s t ∧
      t.chip.chan k = (s.chip.chan k).skippedIn (b.toNat / 16) := by
  obtain ⟨hstep, hchan⟩ := s.chip.countSkip_rank k (b.toNat / 16)
  exact ⟨_, run_planned_of_emergency hrun htr h id f, hstep.only, hchan⟩

/-- A skipped planned read sends a POISON packet. -/
theorem rd32_skipped {b : BitVec 5} (h : s.chip.inEmergency k (b.toNat / 16) = true) (col : BitVec 6) (n : TileId)
    (line : BitVec 14) :
    ∃ t, exec (.rd32 k b col n line) s = .next t ∧
      keepsBut (fun c => { c with chans := s.chip.chans, fab := s.chip.fab }) s t ∧
      t.chip.chan k = (s.chip.chan k).skippedIn (b.toNat / 16) ∧
      t.chip.fab = (s.chip.send (eidChannel k) (planData n line.toNat 0 0b00010) (s.chip.rdLat k)).fab := by
  obtain ⟨hstep, hchan⟩ := s.chip.countSkip_rank k (b.toNat / 16)
  have hrow : exec (.rd32 k b col n line) s = .next { s with
      chip := (s.chip.countSkip k (.rank (b.toNat / 16))).planPacket k n line.toNat none 0 } :=
    run_planned_of_emergency hrun htr h _ _
  have hsend : (s.chip.countSkip k (.rank (b.toNat / 16))).planPacket k n line.toNat none 0 =
      (s.chip.countSkip k (.rank (b.toNat / 16))).send (eidChannel k) (planData n line.toNat 0 0b00010) (s.chip.rdLat k) := by
    rw [← hstep.rdLat]
    rfl
  rw [hsend] at hrow
  refine ⟨_, hrow, ⟨rfl, ?_⟩, ?_, hstep.send_fab ..⟩
  · dsimp only
    rw [Chip.send_eq]
    exact (congrArg (fun c : Chip => { c with fab := s.chip.fab }) (hstep.frame s.chip.chans) :)
  · dsimp only
    rw [Chip.send_eq]
    exact hchan

variable (hem : (s.chip.chan k).emergUntil = []) (hdbg : (s.chip.chan k).dbg = [])
include hem hdbg

theorem act_row (b : BitVec 5) (row : BitVec 18) :
    exec (.act k b row) s = .next { s with chip := s.chip.activate k b.toNat row } := run_planned_of_open hrun htr hem hdbg ..

theorem pre_row (b : BitVec 5) : exec (.pre k b) s = .next { s with chip := s.chip.precharge k b.toNat } :=
  run_planned_of_open hrun htr hem hdbg ..

theorem prea_row (rank : Bool) : exec (.prea k rank) s = .next { s with
    chip := (Chip.rankBanks (b1 rank)).foldl (fun c b => c.precharge k b) s.chip } := run_planned_of_open hrun htr hem hdbg ..

theorem refpb_row (b : BitVec 5) : exec (.refpb k b) s = .next { s with chip := s.chip.addDebt k (b.toNat / 16) (-1) } :=
  run_planned_of_open hrun htr hem hdbg ..

theorem refab_row (rank : Bool) : exec (.refab k rank) s = .next { s with chip := s.chip.addDebt k (b1 rank) (-16) } :=
  run_planned_of_open hrun htr hem hdbg ..

theorem mrr4_row (rank : Bool) (rate : BitVec 3) (hot : Bool) :
    exec (.mrr4 k rank rate hot) s = .next { s with chip := s.chip.readMr4 k rank rate hot } :=
  run_planned_of_open hrun htr hem hdbg ..

theorem wr32_row (b : BitVec 5) (col slot : BitVec 6) :
    exec (.wr32 k b col slot) s = .next { s with chip := s.chip.planWrite k b.toNat col.toNat slot.toNat } :=
  run_planned_of_open hrun htr hem hdbg ..

theorem wr64_row (b : BitVec 5) (col slot : BitVec 6) :
    exec (.wr64 k b col slot) s = .next { s with
      chip := (s.chip.planWrite k b.toNat col.toNat slot.toNat).planWrite k b.toNat (col.toNat + 1) (slot.toNat + 1) } :=
  run_planned_of_open hrun htr hem hdbg ..

theorem rd32_row (b : BitVec 5) (col : BitVec 6) (n : TileId) (line : BitVec 14) :
    exec (.rd32 k b col n line) s = .next { s with
      chip := s.chip.planReadTo k b.toNat col.toNat n line.toNat 0 } := run_planned_of_open hrun htr hem hdbg ..

theorem rd64_row (b : BitVec 5) (col : BitVec 6) (n : TileId) (line : BitVec 14) :
    exec (.rd64 k b col n line) s = .next { s with
      chip := (s.chip.planReadTo k b.toNat col.toNat n line.toNat 0).planReadTo k b.toNat (col.toNat + 1) n
        (line.toNat + 1) 1 } := run_planned_of_open hrun htr hem hdbg ..

end

theorem Chip.readMr4_hot (c : Chip) (rank : Bool) (rate : BitVec 3) : c.readMr4 k rank rate true =
    (c.onChan k fun x => { x with derate := 4 }).logFault 0x1002 (eidChannel k) k.toNat (b1 rank) := rfl

theorem Chip.readMr4_cool (c : Chip) (rank : Bool) (rate : BitVec 3) : c.readMr4 k rank rate false =
    c.onChan k fun x => { x with derate := if rate.toNat ≤ 1 then 1 else if rate.toNat < 4 then 2 else 4 } := rfl

end

theorem Chip.ChanStep.addDebt (c : Chip) (k : BitVec 3) (r : Nat) (d : Int) : Chip.ChanStep k c (c.addDebt k r d) := .onChan c k _

theorem refresh_spec (s : State) (k : BitVec 3) {i : Instr} {r : Nat} {d : Int} (hrow : exec i s = .next { s with chip := s.chip.addDebt k r d }) :
    ∃ t, exec i s = .next t ∧ onlyChan k s t ∧
      ({ t.chip.chan k with debt := (s.chip.chan k).debt } : Chan) = s.chip.chan k ∧
      t.chip.debtOf k r = max (-128) (min 128 (s.chip.debtOf k r + d)) ∧
      ∀ j, j ≠ r → t.chip.debtOf k j = s.chip.debtOf k j :=
  ⟨_, hrow, (Chip.ChanStep.addDebt s.chip k r d).only, s.chip.addDebt_spec k r d⟩

section
variable (s : State) (k : BitVec 3) (hrun : s.chip.alm.running = true) (htr : s.chip.trained k = true)
  (hem : (s.chip.chan k).emergUntil = []) (hdbg : (s.chip.chan k).dbg = [])
include hrun htr hem hdbg

/-- PRE in words: the bank closes; its check buffer goes back if a write changed it (R342). -/
theorem pre_spec (b : BitVec 5) :
    ∃ t, exec (.pre k b) s = .next t ∧ onlyChan k s t ∧
      ({ t.chip.chan k with banks := (s.chip.chan k).banks, ecc := (s.chip.chan k).ecc } : Chan) = s.chip.chan k ∧
      t.chip.bank k b.toNat = (s.chip.bank k b.toNat).closed ∧ (∀ j, j ≠ b.toNat → t.chip.bank k j = s.chip.bank k j) ∧
      ((s.chip.bank k b.toNat).dirty = false ∨ (s.chip.bank k b.toNat).row = none →
        (t.chip.chan k).ecc = (s.chip.chan k).ecc) ∧
      ∀ r, (s.chip.bank k b.toNat).dirty = true → (s.chip.bank k b.toNat).row = some r →
        (∀ n, n < 60 → tget Ecc.clean (t.chip.chan k).ecc (s.chip.lineAddr k b.toNat r.toNat n / 32) =
          tget Ecc.clean (s.chip.bank k b.toNat).check n) ∧
        ∀ i, (∀ n, n < 60 → i ≠ s.chip.lineAddr k b.toNat r.toNat n / 32) →
          tget Ecc.clean (t.chip.chan k).ecc i = tget Ecc.clean (s.chip.chan k).ecc i := by
  obtain ⟨hstep, hchan, hsame, hne⟩ := s.chip.precharge_spec k b.toNat
  refine ⟨_, pre_row s k hrun htr hem hdbg b, hstep.only, hchan, hsame, hne,
    s.chip.precharge_ecc_of_clean k b.toNat, fun r hd hr => ?_⟩
  dsimp only
  rw [s.chip.precharge_ecc_of_dirty k b.toNat hd hr]
  exact ⟨fun n hn => s.chip.eccStored_in k b.toNat r hn, fun i hi => s.chip.eccStored_out k b.toNat r hi⟩

theorem prea_spec (rank : Bool) :
    ∃ t, exec (.prea k rank) s = .next t ∧ onlyChan k s t ∧
      ({ t.chip.chan k with banks := (s.chip.chan k).banks, ecc := (s.chip.chan k).ecc } : Chan) = s.chip.chan k ∧
      (∀ j, t.chip.bank k j =
        if 16 * b1 rank ≤ j ∧ j < 16 * b1 rank + 16 then (s.chip.bank k j).closed else s.chip.bank k j) ∧
      ((∀ j ∈ Chip.rankBanks (b1 rank), (s.chip.bank k j).dirty = false) →
        (t.chip.chan k).ecc = (s.chip.chan k).ecc) := by
  obtain ⟨hstep, hchan, hbank, hecc⟩ := Chip.foldl_precharge_spec k (Chip.rankBanks (b1 rank)) s.chip
  exact ⟨_, prea_row s k hrun htr hem hdbg rank, hstep.only, hchan,
    fun j => (hbank j).trans (if_congr (Chip.mem_rankBanks _ j) rfl rfl), hecc⟩

theorem mrr4_hot_spec (rank : Bool) (rate : BitVec 3) :
    ∃ t, exec (.mrr4 k rank rate true) s = .next t ∧
      keepsBut (fun c => faultParts s.chip { c with chans := s.chip.chans }) s t ∧
      t.chip.chan k = { s.chip.chan k with derate := 4 } ∧
      tget 0 t.chip.flt.counts 1 = satInc (tget 0 s.chip.flt.counts 1) := by
  have hrow := mrr4_row s k hrun htr hem hdbg rank rate true
  rw [Chip.readMr4_hot] at hrow
  refine ⟨_, hrow, ⟨rfl, ?_⟩, ?_, Chip.logFault_count ..⟩
  · exact congrArg (fun c : Chip => { c with chans := s.chip.chans }) (faultParts_logFault s.chip _ _ _ _ _ _)
  · dsimp only
    rw [Chip.chan, Chip.logFault_chans]
    exact s.chip.onChan_same k _

theorem wr32_spec (b : BitVec 5) (col slot : BitVec 6) {r : BitVec 18} (hr : (s.chip.bank k b.toNat).row = some r) :
    ∃ t, exec (.wr32 k b col slot) s = .next t ∧ onlyChan k s t ∧
      ({ t.chip.chan k with cells := (s.chip.chan k).cells, banks := (s.chip.chan k).banks } : Chan) = s.chip.chan k ∧
      (∀ j, j < 32 → mget (t.chip.chan k).cells (s.chip.lineAddr k b.toNat r.toNat col.toNat + j) =
        (s.chip.slotBefore k slot.toNat).extractLsb' (8 * j) 8) ∧
      (∀ j, j < s.chip.lineAddr k b.toNat r.toNat col.toNat ∨ s.chip.lineAddr k b.toNat r.toNat col.toNat + 32 ≤ j →
        mget (t.chip.chan k).cells j = mget (s.chip.chan k).cells j) ∧
      ({ t.chip.bank k b.toNat with check := (s.chip.bank k b.toNat).check } : Bank) =
        { s.chip.bank k b.toNat with dirty := true } ∧
      (∀ c, tget Ecc.clean (t.chip.bank k b.toNat).check c =
        if c = col.toNat then .clean else tget Ecc.clean (s.chip.bank k b.toNat).check c) ∧
      ∀ j, j ≠ b.toNat → t.chip.bank k j = s.chip.bank k j := by
  obtain ⟨hstep, hchan, hcells, hsame, hne⟩ := s.chip.planWrite_spec k b.toNat col.toNat hr slot.toNat
  obtain ⟨hin, hout⟩ := mget_mwrite_line (s.chip.chan k).cells (s.chip.lineAddr k b.toNat r.toNat col.toNat)
    (s.chip.slotBefore k slot.toNat)
  refine ⟨_, wr32_row s k hrun htr hem hdbg b col slot, hstep.only, hchan, ?_, ?_, ?_, ?_, hne⟩
  · dsimp only; rw [hcells]; exact hin
  · dsimp only; rw [hcells]; exact hout
  · dsimp only; rw [hsame]
  · intro c
    dsimp only
    rw [hsame]
    dsimp only
    rw [tget_tput]

/-- WR64 writes a second line after what WR32 writes. -/
theorem wr64_spec (b : BitVec 5) (col slot : BitVec 6) {r : BitVec 18} (hr : (s.chip.bank k b.toNat).row = some r) :
    ∃ t u, exec (.wr64 k b col slot) s = .next t ∧ onlyChan k s t ∧ exec (.wr32 k b col slot) s = .next u ∧
      ({ t.chip.chan k with cells := (s.chip.chan k).cells, banks := (s.chip.chan k).banks } : Chan) = s.chip.chan k ∧
      (∀ j, j < 32 → mget (t.chip.chan k).cells (s.chip.lineAddr k b.toNat r.toNat (col.toNat + 1) + j) =
        (s.chip.slotBefore k (slot.toNat + 1)).extractLsb' (8 * j) 8) ∧
      ∀ j, j < s.chip.lineAddr k b.toNat r.toNat (col.toNat + 1) ∨
          s.chip.lineAddr k b.toNat r.toNat (col.toNat + 1) + 32 ≤ j →
        mget (t.chip.chan k).cells j = mget (u.chip.chan k).cells j := by
  obtain ⟨hstep, hchan, -, hsame, -⟩ := s.chip.planWrite_spec k b.toNat col.toNat hr slot.toNat
  let d := s.chip.planWrite k b.toNat col.toNat slot.toNat
  have hr1 : (d.bank k b.toNat).row = some r := by rw [hsame]; exact hr
  obtain ⟨hstep1, hchan1, hcells1, -, -⟩ := d.planWrite_spec k b.toNat (col.toNat + 1) hr1 (slot.toNat + 1)
  have hslot : d.slotBefore k (slot.toNat + 1) = s.chip.slotBefore k (slot.toNat + 1) := by
    have hold : (d.chan k).wbufOld = (s.chip.chan k).wbufOld := (congrArg Chan.wbufOld hchan :)
    have hbuf : (d.chan k).wbuf = (s.chip.chan k).wbuf := (congrArg Chan.wbuf hchan :)
    rw [Chip.slotBefore, Chip.slotBefore, hold, hbuf, hstep.now]
  rw [hslot, hstep.lineAddr] at hcells1
  obtain ⟨hin, hout⟩ := mget_mwrite_line (d.chan k).cells (s.chip.lineAddr k b.toNat r.toNat (col.toNat + 1))
    (s.chip.slotBefore k (slot.toNat + 1))
  refine ⟨_, _, wr64_row s k hrun htr hem hdbg b col slot, (hstep.trans hstep1).only,
    wr32_row s k hrun htr hem hdbg b col slot, ?_, ?_, ?_⟩
  · exact (congrArg (fun x : Chan => ({ x with cells := (s.chip.chan k).cells, banks := (s.chip.chan k).banks } : Chan))
      hchan1).trans hchan
  · dsimp only; rw [hcells1]; exact hin
  · dsimp only; rw [hcells1]; exact hout

end

/-- Settles O46. -/
theorem dramPlanned : Obligations.DramPlanned := by
  unfold Obligations.DramPlanned
  intro s k b row col slot n line rank rate mask len hot x bank closed place q
  refine ⟨fun hrun => plan_of_stopped hrun b row col slot n line rank rate mask len hot, fun hrun htr hemerg => ⟨?_, ?_⟩,
    fun hrun htr hem hdbg => ⟨?_, pre_spec s k hrun htr hem hdbg b, prea_spec s k hrun htr hem hdbg rank,
      refresh_spec s k (refpb_row s k hrun htr hem hdbg b),
      refresh_spec s k (refab_row s k hrun htr hem hdbg rank), ?_,
      mrr4_hot_spec s k hrun htr hem hdbg rank rate, run_planned_of_open hrun htr hem hdbg _ _ _, ?_, fun hnone => ?_,
      fun r hr => ⟨wr32_spec s k hrun htr hem hdbg b col slot hr, wr64_spec s k hrun htr hem hdbg b col slot hr,
        fun hc => ?_, fun hc hc1 => ?_⟩⟩⟩
  · simp only [List.forall_mem_cons, List.not_mem_nil, false_imp_iff, implies_true, and_true]
    refine ⟨?_, ?_, ?_, ?_, ?_⟩ <;> exact run_planned_skipped s k hrun htr hemerg _
  · exact rd32_skipped s k hrun htr hemerg col n line
  · obtain ⟨hstep, hchan, hsame, hcheck, hne⟩ := s.chip.activate_spec k b.toNat row
    exact ⟨_, act_row s k hrun htr hem hdbg b row, hstep.only, hchan, hsame, hcheck, hne⟩
  · have hrow := mrr4_row s k hrun htr hem hdbg rank rate false
    rw [Chip.readMr4_cool] at hrow
    exact ⟨_, hrow, (Chip.ChanStep.onChan s.chip k _).only, s.chip.onChan_same k _⟩
  · obtain ⟨hstep, hchan, hbank⟩ := Chip.openGap_spec hrun htr hem hdbg mask len.toNat
    exact ⟨_, rfl, hstep.only, hchan, hbank⟩
  · have hw32 := wr32_row s k hrun htr hem hdbg b col slot
    have hw64 := wr64_row s k hrun htr hem hdbg b col slot
    have hr32 := rd32_row s k hrun htr hem hdbg b col n line
    rw [Chip.planWrite_of_closed _ _ _ _ hnone] at hw32 hw64
    rw [Chip.planWrite_of_closed _ _ _ _ hnone] at hw64
    refine ⟨hw32, hw64, hr32.trans ?_⟩
    rw [Chip.planReadTo, Chip.planRead, hnone]
    rfl
  · rw [rd32_row s k hrun htr hem hdbg b col n line, Chip.planReadTo_of_clean _ k _ _ hr hc]
    rfl
  · rw [rd64_row s k hrun htr hem hdbg b col n line, Chip.planReadTo_twice _ k _ _ hr hc hc1]
    rfl

end Sys2Proof.Machine
end

section
/-!
PROOFS. Proofs/DramUnscheduled.lean: what the controller of an LPDDR5X channel does on its own (R355 to R366, R740): refresh, the
arbiter's rounds, withdrawals and the ends of transactions.
-/
namespace Sys2Proof.Machine
open Sys2Proof

section
variable (c : Chip) (k : BitVec 3)

theorem Chip.onChan_congr {f g : Chan → Chan} (h : f (c.chan k) = g (c.chan k)) : c.onChan k f = c.onChan k g := by
  simp only [Chip.onChan, h]

/-! ### Classes of the arbiter -/

theorem Chip.onClass_chan (cl : Nat) (f : ArbClass → ArbClass) : (c.onClass k cl f).chan k =
    { c.chan k with classes := tput ArbClass.init (c.chan k).classes cl (f (c.arbClass k cl)) } := Chip.onChan_same ..

theorem Chip.onClass_same (cl : Nat) (f : ArbClass → ArbClass) : (c.onClass k cl f).arbClass k cl = f (c.arbClass k cl) := by
  rw [Chip.arbClass, Chip.onClass_chan]
  exact tget_tput_same ..

theorem Chip.onClass_ne {cl j : Nat} (h : j ≠ cl) (f : ArbClass → ArbClass) :
    (c.onClass k cl f).arbClass k j = c.arbClass k j := by
  rw [Chip.arbClass, Chip.onClass_chan]
  exact tget_tput_ne _ _ _ h

theorem Chip.ChanStep.onClass (cl : Nat) (f : ArbClass → ArbClass) : Chip.ChanStep k c (c.onClass k cl f) := .onChan c k _

/-! ### Refresh (R355 to R357, R740) -/

theorem Chip.accrue_spec (htr : c.trained k = true) (hpos : 0 < c.trefi k) (hat : (c.chan k).trefiAt ≤ c.now) :
    Chip.ChanStep k c (c.accrue k) ∧ (c.accrue k).debtOf k 0 = max (-128) (min 128 (c.debtOf k 0 + 16 * (c.derateNow k : Int))) ∧
      ((c.accrue k).chan k).trefiAt = c.now + c.trefi k ∧
      ({ (c.accrue k).chan k with debt := (c.chan k).debt, trefiAt := (c.chan k).trefiAt } : Chan) = c.chan k := by
  let d : Int := 16 * (c.derateNow k : Int)
  obtain ⟨hchan, hdebt, -⟩ := c.addDebt_spec k 0 d
  obtain ⟨hchan1, -, hdebt1⟩ := (c.addDebt k 0 d).addDebt_spec k 1 d
  have hcond : (c.trained k && 0 < c.trefi k && (c.chan k).trefiAt ≤ c.now) = true := by simp [htr, hpos, hat]
  unfold Chip.accrue
  rw [if_pos hcond]
  dsimp only
  split
  case isTrue htwo =>
    refine ⟨(Chip.ChanStep.addDebt c k 0 d).trans ((Chip.ChanStep.addDebt _ k 1 d).trans (.onChan _ k _)), ?_, ?_, ?_⟩
    · rw [Chip.debtOf, Chip.onChan_same]; exact (hdebt1 0 (by decide)).trans hdebt
    · rw [Chip.onChan_same]; rfl
    · rw [Chip.onChan_same]
      have h := congrArg (fun x : Chan => ({ x with debt := (c.chan k).debt } : Chan)) hchan1
      exact (congrArg (fun x : Chan => ({ x with trefiAt := (c.chan k).trefiAt } : Chan)) (h.trans hchan) :)
  case isFalse htwo =>
    refine ⟨(Chip.ChanStep.addDebt c k 0 d).trans (.onChan _ k _), ?_, ?_, ?_⟩
    · rw [Chip.debtOf, Chip.onChan_same]; exact hdebt
    · rw [Chip.onChan_same]; rfl
    · rw [Chip.onChan_same]
      exact (congrArg (fun x : Chan => ({ x with trefiAt := (c.chan k).trefiAt } : Chan)) hchan :)

/-- A check buffer that goes back changes check areas and its bank alone. -/
theorem Chip.storeCheck_spec (b : Nat) : Chip.ChanStep k c (c.storeCheck k b) ∧
    ({ (c.storeCheck k b).chan k with banks := (c.chan k).banks, ecc := (c.chan k).ecc } : Chan) = c.chan k := by
  by_cases h : (c.bank k b).dirty = false ∨ (c.bank k b).row = none
  · rw [Chip.storeCheck_of_clean c k b h]
    exact ⟨.refl k c, rfl⟩
  · obtain ⟨hd, hr⟩ := not_or.mp h
    obtain ⟨r, hr⟩ := Option.ne_none_iff_exists'.mp hr
    rw [Chip.storeCheck_of_dirty c k b (Bool.eq_true_of_not_eq_false hd) hr]
    refine ⟨(Chip.ChanStep.onChan c k _).trans (.onBank _ k b _), ?_⟩
    rw [Chip.onBank_chan, Chip.onChan_same]

theorem Chip.foldl_storeCheck_spec (l : List Nat) (c : Chip) :
    Chip.ChanStep k c (l.foldl (fun c b => c.storeCheck k b) c) ∧
      ({ (l.foldl (fun c b => c.storeCheck k b) c).chan k with banks := (c.chan k).banks, ecc := (c.chan k).ecc } : Chan) =
        c.chan k := by
  induction l generalizing c with
  | nil => exact ⟨.refl k c, rfl⟩
  | cons b l ih =>
    obtain ⟨hstep, hchan⟩ := c.storeCheck_spec k b
    obtain ⟨hstep1, hchan1⟩ := ih (c.storeCheck k b)
    refine ⟨hstep.trans hstep1, ?_⟩
    have h := congrArg (fun x : Chan => ({ x with banks := (c.chan k).banks, ecc := (c.chan k).ecc } : Chan)) hchan1
    exact (h :).trans hchan

/-- With no transaction under way none goes back: the queues are only written anew. -/
theorem Chip.abortTxns_of_quiet (h : (c.chan k).inFlight = []) (p : Nat → Bool) :
    Chip.ChanStep k c (c.abortTxns k p) ∧
      ({ (c.abortTxns k p).chan k with classes := (c.chan k).classes } : Chan) = c.chan k := by
  unfold Chip.abortTxns
  simp only [h, List.filter_nil, List.map_nil, List.foldl_nil]
  refine ⟨.onChan c k _, ?_⟩
  rw [Chip.onChan_same]
  simp only [h, List.filter_nil]
  rw [← h]

/-- What an emergency refresh takes before its window opens: the debt, the check buffers that go back. -/
def Chip.emergencyTaken (rank : Nat) : Chip :=
  ((Chip.rankBanks rank).foldl (fun c b => c.storeCheck k b) (c.addDebt k rank (-16))).abortTxns k fun b => Chip.rankOf b = rank

theorem Chip.emergencyTaken_spec (rank : Nat) (hquiet : (c.chan k).inFlight = []) :
    Chip.ChanStep k c (c.emergencyTaken k rank) ∧
      (c.emergencyTaken k rank).debtOf k rank = max (-128) (min 128 (c.debtOf k rank - 16)) ∧
      ((c.emergencyTaken k rank).chan k).emergCnt = (c.chan k).emergCnt := by
  obtain ⟨hchan, hdebt, -⟩ := c.addDebt_spec k rank (-16)
  obtain ⟨hstep1, hchan1⟩ := Chip.foldl_storeCheck_spec k (Chip.rankBanks rank) (c.addDebt k rank (-16))
  unfold Chip.emergencyTaken
  generalize (Chip.rankBanks rank).foldl (fun c b => c.storeCheck k b) (c.addDebt k rank (-16)) = d at hstep1 hchan1 ⊢
  have hflight : (d.chan k).inFlight = [] := by
    have h1 : (d.chan k).inFlight = ((c.addDebt k rank (-16)).chan k).inFlight := (congrArg Chan.inFlight hchan1 :)
    have h0 : ((c.addDebt k rank (-16)).chan k).inFlight = (c.chan k).inFlight := (congrArg Chan.inFlight hchan :)
    rw [h1, h0, hquiet]
  obtain ⟨hstep2, hchan2⟩ := d.abortTxns_of_quiet k hflight fun b => Chip.rankOf b = rank
  generalize d.abortTxns k (fun b => Chip.rankOf b = rank) = e at hstep2 hchan2 ⊢
  refine ⟨(Chip.ChanStep.addDebt c k rank _).trans (hstep1.trans hstep2), ?_, ?_⟩
  · have h2 : e.debtOf k rank = d.debtOf k rank := (congrArg (fun x : Chan => tget 0 x.debt rank) hchan2 :)
    have h1 : d.debtOf k rank = (c.addDebt k rank (-16)).debtOf k rank := (congrArg (fun x : Chan => tget 0 x.debt rank) hchan1 :)
    rw [h2, h1, hdebt]
    rfl
  · have h2 : (e.chan k).emergCnt = (d.chan k).emergCnt := (congrArg Chan.emergCnt hchan2 :)
    have h1 : (d.chan k).emergCnt = ((c.addDebt k rank (-16)).chan k).emergCnt := (congrArg Chan.emergCnt hchan1 :)
    rw [h2, h1]
    exact (congrArg Chan.emergCnt hchan :)

theorem Chip.ChanStep.agenda {d : Chip} (h : Chip.ChanStep k c d) : d.agenda = c.agenda := (congrArg Chip.agenda (h.frame []) :)

theorem Chip.ChanStep.emergLen {d : Chip} (h : Chip.ChanStep k c d) : d.emergLen k = c.emergLen k :=
  (congrArg (fun c : Chip => c.emergLen k) (h.frame []) :)

/-- A channel in which the emergency window of a rank opens (R357). -/
def Chan.inWindow (rank upto : Nat) (x : Chan) : Chan :=
  { x with
    emergCnt := satInc x.emergCnt, emergUntil := tput 0 x.emergUntil rank upto, emergSkip := tput 0 x.emergSkip rank 0 }

/-- An emergency refresh at its debt (R356): the rank pays 16, and its window opens. -/
theorem Chip.emergency_of_debt (rank : Bool) (hrun : c.alm.running = true) (htr : c.trained k = true)
    (hu : tget 0 (c.chan k).emergUntil (b1 rank) = 0) (hdebt : 128 ≤ c.debtOf k (b1 rank)) :
    let d := c.emergencyTaken k (b1 rank)
    c.emergency k (b1 rank) = (d.onChan k (Chan.inWindow (b1 rank) (d.now + d.emergLen k))).postAt (d.now + d.emergLen k)
      (.emergencyRefresh k rank) := by
  have hlive : (c.planLive k && 128 ≤ c.debtOf k (b1 rank)) = true := by simp [Chip.planLive, hrun, htr, hdebt]
  have hrank : decide (b1 rank = 1) = rank := by cases rank <;> rfl
  unfold Chip.emergency
  dsimp only
  rw [hu, if_neg (show ¬((0 ≠ 0 && c.now < 0) = true) by simp), if_neg (show ¬(0 ≠ 0) by simp), if_pos hlive, Chip.beginEmergency, hrank]
  rfl

/-- A stopped rank refreshes itself at debt 16 (R740). -/
theorem Chip.refreshStopped_spec (rank : Nat) (hrun : c.alm.running = false) (htr : c.trained k = true)
    (hlo : 16 ≤ c.debtOf k rank) (hhi : c.debtOf k rank ≤ 128) (hbusy : c.rankBusy k rank = false) :
    Chip.ChanStep k c (c.refreshStopped k rank) ∧ (c.refreshStopped k rank).debtOf k rank = c.debtOf k rank - 16 ∧
      ∀ b, b ∈ Chip.rankBanks rank → ((c.refreshStopped k rank).bank k b).row = none := by
  have hcond : (!c.alm.running && c.trained k && 16 ≤ c.debtOf k rank && !(c.rankBusy k rank)) = true := by
    simp [hrun, htr, hlo, hbusy]
  obtain ⟨-, hdebt, -⟩ := c.addDebt_spec k rank (-16)
  obtain ⟨hstep, hchan, hbank, -⟩ := Chip.foldl_precharge_spec k (Chip.rankBanks rank) (c.addDebt k rank (-16))
  unfold Chip.refreshStopped
  rw [if_pos hcond]
  generalize (Chip.rankBanks rank).foldl (fun c b => c.precharge k b) (c.addDebt k rank (-16)) = d at hstep hchan hbank ⊢
  refine ⟨(Chip.ChanStep.addDebt c k rank _).trans hstep, ?_, fun b hb => ?_⟩
  · have h : d.debtOf k rank = (c.addDebt k rank (-16)).debtOf k rank := (congrArg (fun x : Chan => tget 0 x.debt rank) hchan :)
    rw [h, hdebt]
    omega
  · rw [hbank, if_pos hb]
    rfl

/-! ### The arbiter (R363 to R365) -/

/-- The head of a class is granted: its bank is held and its end posted (R362). -/
theorem Chip.grantHead_spec {cl : Nat} {t : Txn} {rest : List Txn} (hq : (c.arbClass k cl).queue = t :: rest) :
    ∃ d : Chip, c.grantHead k cl = { d with agenda := c.agenda ++ [(c.now + c.txnLen k, .transactionComplete k)] } ∧
      Chip.ChanStep k c d ∧ (d.arbClass k cl).queue = rest ∧
      (d.chan k).inFlight = (c.chan k).inFlight ++ [(c.now + c.txnLen k, t)] ∧ (d.chan k).lastGrant = some c.now ∧
      (d.bank k (c.bankOfAddr k t.addr)).busyUntil = c.now + c.txnLen k ∧ ∀ j, j ≠ cl → d.arbClass k j = c.arbClass k j := by
  let f : ArbClass → ArbClass := fun a =>
    if c.ageMode k cl then { a with queue := rest, age := 0 } else { a with queue := rest, n := 0, backUntil := 0 }
  let c1 := c.onClass k cl f
  let c2 := c1.onBank k (c.bankOfAddr k t.addr) fun b => { b with busyUntil := c.now + c.txnLen k }
  let d := c2.onChan k fun x => { x with inFlight := x.inFlight ++ [(c.now + c.txnLen k, t)], lastGrant := some c.now }
  have heq : c.grantHead k cl = { d with agenda := c.agenda ++ [(c.now + c.txnLen k, .transactionComplete k)] } := by
    unfold Chip.grantHead
    rw [hq]
    rfl
  have hchan : d.chan k = { c2.chan k with
      inFlight := (c2.chan k).inFlight ++ [(c.now + c.txnLen k, t)], lastGrant := some c.now } := Chip.onChan_same ..
  have hchan2 : c2.chan k = { c1.chan k with
      banks := tput Bank.init (c1.chan k).banks (c.bankOfAddr k t.addr)
        { c1.bank k (c.bankOfAddr k t.addr) with busyUntil := c.now + c.txnLen k } } := Chip.onBank_chan ..
  have hchan1 : c1.chan k = _ := Chip.onClass_chan c k cl f
  have hclass (j : Nat) : d.arbClass k j = c1.arbClass k j := by
    rw [Chip.arbClass, hchan, hchan2]; rfl
  refine ⟨d, heq, (Chip.ChanStep.onClass c k cl f).trans ((Chip.ChanStep.onBank _ k _ _).trans (.onChan _ k _)), ?_, ?_, ?_, ?_,
    fun j hj => ?_⟩
  · rw [hclass, Chip.onClass_same]
    dsimp only [f]
    split <;> rfl
  · rw [hchan, hchan2, hchan1]
  · rw [hchan]
  · rw [Chip.bank, hchan, hchan2]
    dsimp only
    rw [tget_tput_same]
  · rw [hclass, Chip.onClass_ne c k hj]

/-- With no other head eligible the round is the winner's alone. -/
theorem Chip.arbRound_of_alone {cl : Nat} (hwin : c.arbWinner k = some cl)
    (halone : ∀ j, j < 4 → j ≠ cl → c.eligible k j = false) : c.arbRound k = c.grantHead k cl := by
  have hno : ((List.range 4).filter fun j => j ≠ cl && c.eligible k j) = [] := by
    refine List.filter_eq_nil_iff.mpr fun j hj h => ?_
    have hj4 := List.mem_range.mp hj
    by_cases hjc : j = cl
    · simp [hjc] at h
    · simp [halone j hj4 hjc] at h
  unfold Chip.arbRound
  rw [hwin]
  dsimp only
  rw [hno]
  rfl

/-- A request withdrawn is answered POISON (R365). -/
theorem Chip.withdrawHead_spec {cl : Nat} {t : Txn} {rest : List Txn} (hq : (c.arbClass k cl).queue = t :: rest)
    (hread : t.pkt.type = tReadReq) :
    ∃ d : Chip, c.withdrawHead k cl = d.send (eidChannel k) (poisonResponse t.pkt) ∧ Chip.ChanStep k c d ∧
      (d.arbClass k cl).queue = rest ∧ (c.arbWinner k = some cl → (d.chan k).dead = some c.now) := by
  unfold Chip.withdrawHead
  rw [hq]
  dsimp only
  rw [if_pos hread]
  have hclass : ((c.onClass k cl fun a => { a with queue := rest }).arbClass k cl).queue = rest := by rw [Chip.onClass_same]
  split
  case isTrue hwin =>
    refine ⟨_, rfl, (Chip.ChanStep.onClass c k cl _).trans (.onChan _ k _), ?_, fun _ => ?_⟩
    · rw [Chip.arbClass, Chip.onChan_same]; exact hclass
    · rw [Chip.onChan_same]; rfl
  case isFalse hwin => exact ⟨_, rfl, .onClass c k cl _, hclass, fun h => absurd h (by simpa using hwin)⟩

/-! ### Ends of transactions (R343, R365, R376) -/

/-- One transaction is under way and its time is over. -/
theorem Chip.endTxns_of_one {u : Nat} {t : Txn} (h : (c.chan k).inFlight = [(u, t)]) (hu : u ≤ c.now) (hdebug : t.debug = false) :
    c.endTxns k = (c.onChan k fun x => { x with inFlight := [] }).doTxn k t := by
  have hover : ¬ c.now < u := by omega
  have hset : (c.onChan k fun x => { x with inFlight := x.inFlight.filter fun t => c.now < t.1 }) =
      c.onChan k fun x => { x with inFlight := [] } := by
    refine Chip.onChan_congr c k ?_
    rw [h]
    simp [hover]
  unfold Chip.endTxns
  dsimp only
  rw [hset, h]
  simp [hu, Chip.endTxn, hdebug]

/-- A channel with no transaction under way. -/
def Chan.idle (x : Chan) : Chan := { x with inFlight := [] }

/-- A finished read of a line without an error is answered with it. -/
theorem Chip.endTxns_of_read {u : Nat} {t : Txn} (h : (c.chan k).inFlight = [(u, t)]) (hu : u ≤ c.now) (hdebug : t.debug = false)
    (hread : t.pkt.type = tReadReq) (hclean : tget Ecc.clean (c.chan k).ecc (t.addr / 32) = .clean) :
    c.endTxns k = (c.onChan k Chan.idle).send (eidChannel k)
      (response t.pkt (pktLen t.pkt)
        (lineOf (((lineBytes (mline (c.chan k).cells (t.addr / 32 * 32))).drop (t.addr % 32)).take (pktLen t.pkt)))
        (t.pkt.flags &&& 0b00100)) (c.rspExtra k) := by
  have hchan : (c.onChan k Chan.idle).chan k = (c.chan k).idle := Chip.onChan_same ..
  have hline : (c.onChan k Chan.idle).readLine k t.addr =
      (some (mline (c.chan k).cells (t.addr / 32 * 32)), c.onChan k Chan.idle) := by
    have hecc : tget Ecc.clean ((c.onChan k Chan.idle).chan k).ecc (t.addr / 32) = .clean := by rw [hchan]; exact hclean
    rw [Chip.readLine, hecc]
    unfold Chip.readChecked
    rw [hchan]
    rfl
  have heq : c.endTxns k = (c.onChan k Chan.idle).doTxn k t := c.endTxns_of_one k h hu hdebug
  rw [heq, Chip.doTxn, if_pos hread, Chip.chanAnswer, hline]
  rfl

/-- A channel in which the line at a is l, with a right check word. -/
def Chan.withLine (a : Nat) (l : Line) (x : Chan) : Chan :=
  { x with cells := mwrite x.cells (a / 32 * 32) (lineBytes l), ecc := tput Ecc.clean x.ecc (a / 32) .clean }

/-- A finished write of a line is in memory. -/
theorem Chip.endTxns_of_write {u : Nat} {t : Txn} (h : (c.chan k).inFlight = [(u, t)]) (hu : u ≤ c.now) (hdebug : t.debug = false)
    (hwrite : t.pkt.type = tDataWr) (hlen : t.pkt.len = 3) :
    c.endTxns k = (c.onChan k Chan.idle).onChan k (Chan.withLine t.addr t.pkt.payload) := by
  have hread : t.pkt.type ≠ tReadReq := by rw [hwrite]; decide
  have hnotify : t.pkt.type ≠ tDataWrNotify := by rw [hwrite]; decide
  have h32 : pktLen t.pkt = 32 := by rw [pktLen, hlen]; rfl
  have heq : c.endTxns k = (c.onChan k Chan.idle).doTxn k t := c.endTxns_of_one k h hu hdebug
  rw [heq, Chip.doTxn, if_neg hread]
  dsimp only
  rw [if_neg hnotify, Chip.writeBytes, if_pos h32]
  rfl

end

/-- A packet that leaves a channel's endpoint after that channel has changed. -/
theorem keepsBut_sent {s : State} {k : BitVec 3} {d : Chip} (h : Chip.ChanStep k s.chip d) (e : Eid) (p : Packet) (delay : Nat) :
    keepsBut (fun c => { c with chans := s.chip.chans, fab := s.chip.fab }) s { s with chip := d.send e p delay } := by
  refine ⟨rfl, ?_⟩
  dsimp only
  rw [Chip.send_eq]
  exact (congrArg (fun c : Chip => { c with fab := s.chip.fab }) (h.frame s.chip.chans) :)

theorem Chip.send_chan (c : Chip) (e : Eid) (p : Packet) (delay : Nat) (m : BitVec 3) : (c.send e p delay).chan m = c.chan m := by
  rw [Chip.send_eq]; rfl

/-- A row to come that is posted after a channel has changed. -/
theorem keepsBut_posted {s : State} {k : BitVec 3} {d : Chip} (h : Chip.ChanStep k s.chip d) (a : List (Nat × Instr)) :
    keepsBut (fun c => { c with chans := s.chip.chans, agenda := s.chip.agenda }) s { s with chip := { d with agenda := a } } :=
  ⟨rfl, (congrArg (fun c : Chip => { c with agenda := s.chip.agenda }) (h.frame s.chip.chans) :)⟩

/-! ### O47 -/

theorem emergencyRefresh_spec (s : State) (k : BitVec 3) (rank : Bool) (hrun : s.chip.alm.running = true)
    (htr : s.chip.trained k = true) (hu : tget 0 (s.chip.chan k).emergUntil (b1 rank) = 0)
    (hdebt : 128 ≤ s.chip.debtOf k (b1 rank)) (hquiet : (s.chip.chan k).inFlight = []) :
    ∃ t, exec (.emergencyRefresh k rank) s = .next t ∧
      keepsBut (fun c => { c with chans := s.chip.chans, agenda := s.chip.agenda }) s t ∧
      t.chip.debtOf k (b1 rank) = max (-128) (min 128 (s.chip.debtOf k (b1 rank) - 16)) ∧
      (t.chip.chan k).emergCnt = satInc (s.chip.chan k).emergCnt ∧
      tget 0 (t.chip.chan k).emergUntil (b1 rank) = s.chip.now + s.chip.emergLen k ∧
      t.chip.agenda = s.chip.agenda ++ [(s.chip.now + s.chip.emergLen k, .emergencyRefresh k rank)] := by
  have hrow : exec (.emergencyRefresh k rank) s = .next { s with chip := s.chip.emergency k (b1 rank) } := rfl
  obtain ⟨hstep, hpaid, hcnt⟩ := s.chip.emergencyTaken_spec k (b1 rank) hquiet
  have heq := s.chip.emergency_of_debt k rank hrun htr hu hdebt
  dsimp only at heq
  rw [heq, hstep.now, hstep.emergLen] at hrow
  generalize s.chip.emergencyTaken k (b1 rank) = d at hstep hpaid hcnt hrow
  have hchan (upto : Nat) : (d.onChan k (Chan.inWindow (b1 rank) upto)).chan k = (d.chan k).inWindow (b1 rank) upto :=
    Chip.onChan_same ..
  refine ⟨_, hrow, keepsBut_posted (hstep.trans (.onChan d k _)) _, ?_, ?_, ?_, ?_⟩
  · exact (congrArg (fun x : Chan => tget 0 x.debt (b1 rank)) (hchan _) :).trans hpaid
  · exact (congrArg Chan.emergCnt (hchan _) :).trans (congrArg satInc hcnt)
  · exact (congrArg (fun x : Chan => tget 0 x.emergUntil (b1 rank)) (hchan _) :).trans (tget_tput_same ..)
  · exact congrArg (· ++ [(s.chip.now + s.chip.emergLen k, Instr.emergencyRefresh k rank)]) hstep.agenda

/-- Settles O47. -/
theorem dramUnscheduled : Obligations.DramUnscheduled := by
  unfold Obligations.DramUnscheduled
  intro s k rank cl t0 ts x
  refine ⟨fun htr hpos hat => ?_, fun hrun htr hu hdebt hquiet => emergencyRefresh_spec s k rank hrun htr hu hdebt hquiet,
    fun hrun htr hlo hhi hbusy => ?_, fun hwin halone hq => ?_, fun hwin => ?_, fun hback => ?_, fun hq hread => ?_,
    fun u h hu hdebug hread hclean => ?_, fun u h hu hdebug hwrite hlen => ?_⟩
  · obtain ⟨hstep, hdebt, hat1, hchan⟩ := s.chip.accrue_spec k htr hpos hat
    exact ⟨_, rfl, hstep.only, hdebt, hat1, hchan⟩
  · obtain ⟨hstep, hdebt, hrows⟩ := s.chip.refreshStopped_spec k (b1 rank) hrun htr hlo hhi hbusy
    exact ⟨_, rfl, hstep.only, hdebt, hrows⟩
  · obtain ⟨d, heq, hstep, hqueue, hflight, hlast, hbusy, hother⟩ := s.chip.grantHead_spec k hq
    have hrow : exec (.arbiterGrant k) s = .next { s with chip := s.chip.arbRound k } := rfl
    rw [s.chip.arbRound_of_alone k hwin halone, heq] at hrow
    exact ⟨_, hrow, keepsBut_posted hstep _, hqueue, hflight, hlast, hbusy, rfl, hother⟩
  · have hround : s.chip.arbRound k = s.chip := by rw [Chip.arbRound, hwin]
    exact congrArg (fun c : Chip => Host.Outcome.next { s with chip := c }) hround
  · have hrow : exec (.backoffExpiry k cl) s = .next { s with
        chip := s.chip.onClass k cl.toNat fun a => { a with backUntil := 0 } } := by
      simp only [exec_backoffExpiry, execBackoffExpiry, State.run_eq, if_pos hback]
    exact ⟨_, hrow, (Chip.ChanStep.onClass s.chip k _ _).only, s.chip.onClass_same k _ _,
      fun j hj => s.chip.onClass_ne k hj _⟩
  · obtain ⟨d, heq, hstep, hqueue, hdead⟩ := s.chip.withdrawHead_spec k hq hread
    have hrow : exec (.withdraw k cl) s = .next { s with chip := s.chip.withdrawHead k cl.toNat } := rfl
    rw [heq] at hrow
    refine ⟨_, hrow, keepsBut_sent hstep _ _ _, ?_, hstep.send_fab .., fun hwin => ?_⟩
    · dsimp only; rw [Chip.arbClass, Chip.send_chan]; exact hqueue
    · dsimp only; rw [Chip.send_chan]; exact hdead hwin
  · have hrow : exec (.transactionComplete k) s = .next { s with chip := s.chip.endTxns k } := rfl
    have hstep : Chip.ChanStep k s.chip (s.chip.onChan k Chan.idle) := .onChan ..
    rw [s.chip.endTxns_of_read k h hu hdebug hread hclean] at hrow
    refine ⟨_, hrow, keepsBut_sent hstep _ _ _, ?_, fun m hm => ?_, hstep.send_fab ..⟩
    · dsimp only; rw [Chip.send_chan]; exact s.chip.onChan_same k _
    · dsimp only; rw [Chip.send_chan]; exact hstep.other m hm
  · have hrow : exec (.transactionComplete k) s = .next { s with chip := s.chip.endTxns k } := rfl
    have hchan : ((s.chip.onChan k Chan.idle).onChan k (Chan.withLine t0.addr t0.pkt.payload)).chan k =
        x.idle.withLine t0.addr t0.pkt.payload := by rw [Chip.onChan_same, Chip.onChan_same]
    rw [s.chip.endTxns_of_write k h hu hdebug hwrite hlen] at hrow
    obtain ⟨hin, hout⟩ := mget_mwrite_line x.cells (t0.addr / 32 * 32) t0.pkt.payload
    refine ⟨_, hrow, ((Chip.ChanStep.onChan s.chip k _).trans (.onChan _ k _)).only, ?_, ?_, ?_⟩
    · dsimp only; rw [hchan]; rfl
    · dsimp only; rw [hchan]; exact hin
    · dsimp only; rw [hchan]; exact hout

end Sys2Proof.Machine
end

section
/-!
PROOFS. Proofs/TmeRows.lean: a Tensor Move Engine's descriptor and its Skive engine (R368 to R373, R392 to R403).
-/
namespace Sys2Proof.Machine
open Sys2Proof

/-! ### What a step of a TME changes -/

/-- From c to d TME k alone has changed. -/
structure Chip.TmeStep (k : BitVec 4) (c d : Chip) : Prop where
  frame : ∀ l, ({ d with tmes := l } : Chip) = { c with tmes := l }
  other : ∀ m, m ≠ k → d.tme m = c.tme m

section
variable {k : BitVec 4} {b c d : Chip}

theorem Chip.TmeStep.trans (h : Chip.TmeStep k b c) (g : Chip.TmeStep k c d) : Chip.TmeStep k b d :=
  ⟨fun l => (g.frame l).trans (h.frame l), fun m hm => (g.other m hm).trans (h.other m hm)⟩

theorem Chip.TmeStep.onTme (c : Chip) (k : BitVec 4) (f : Tme → Tme) : Chip.TmeStep k c (c.onTme k f) :=
  ⟨fun _ => rfl, fun _ hm => c.onTme_ne f hm⟩

theorem Chip.TmeStep.only {s : State} (h : Chip.TmeStep k s.chip d) : onlyTme k s { s with chip := d } :=
  ⟨⟨rfl, h.frame s.chip.tmes⟩, h.other⟩

/-- A packet that is sent reads nothing of the TMEs. -/
theorem Chip.send_tmes (c : Chip) (l : Table Tme) (e : Eid) (p : Packet) (delay : Nat) :
    ({ c with tmes := l } : Chip).send e p delay = { c.send e p delay with tmes := l } := by
  unfold Chip.send
  split <;> rfl

theorem Chip.TmeStep.send_fab (h : Chip.TmeStep k c d) (e : Eid) (p : Packet) (delay : Nat) :
    (d.send e p delay).fab = (c.send e p delay).fab := by
  have hd := d.send_tmes [] e p delay
  have hc := c.send_tmes [] e p delay
  rw [h.frame []] at hd
  exact (congrArg Chip.fab (hd.symm.trans hc) :)

end

/-! ### What logging a fault leaves of the fabric -/

section
variable (c : Chip) {e : Eid} (he : e ≠ eidFault)

theorem Chip.vector_endp (v : Nat) (e : Eid) : (c.vector v).endp e = c.endp e := by
  rw [Chip.vector_eq]; rfl

theorem Chip.drivePin_endp (e : Eid) : c.drivePin.endp e = c.endp e := by
  unfold Chip.drivePin
  split <;> rfl

theorem Chip.trigger_endp (l : Latch) (lead : Nat) (e : Eid) : (c.trigger l lead).endp e = c.endp e := by
  unfold Chip.trigger
  extract_lets t shared soon d d'
  have hd : d.endp e = c.endp e := by
    dsimp only [d]
    split
    · exact c.drivePin_endp e
    · rfl
  split
  · rfl
  · split
    · exact hd
    · exact hd

/-- A packet that one endpoint sends leaves the others as they are. -/
theorem Chip.send_endp_ne {e f : Eid} (hne : e ≠ f) (p : Packet) (delay : Nat) : (c.send f p delay).endp e = c.endp e := by
  unfold Chip.send
  split
  · exact c.onEndp_ne _ hne
  · exact (Chip.onEndp_ne _ _ hne).trans (c.onEndp_ne _ hne)

include he

theorem Chip.newEntry_endp (x : FltEntry) : (c.newEntry x).endp e = c.endp e := by
  unfold Chip.newEntry
  extract_lets k d d'
  have hd : d.endp e = c.endp e := c.vector_endp 1 e
  have hd' : d'.endp e = c.endp e := by
    dsimp only [d']
    split
    · rw [Chip.send_endp_ne _ he, hd]
    · exact hd
  split
  · rw [Chip.trigger_endp, hd']
  · exact hd'

/-- A fault that is logged leaves every endpoint but the fault unit's as it is. -/
theorem Chip.logFault_endp (code : BitVec 16) (source : Eid) (unit detail : Nat) (region : Option (BitVec 6)) :
    (c.logFault code source unit detail region).endp e = c.endp e := by
  unfold Chip.logFault Chip.takeFault
  extract_lets
  split
  · rfl
  · split
    · exact Chip.newEntry_endp _ he _
    · split
      · exact Chip.newEntry_endp _ he _
      · rfl

end

theorem faultParts_logFault_tmes (b c : Chip) (l : Table Tme) (code : BitVec 16) (source : Eid) (unit detail : Nat)
    (region : Option (BitVec 6)) :
    faultParts b { c.logFault code source unit detail region with tmes := l } = faultParts b { c with tmes := l } :=
  congrArg (fun c : Chip => { c with tmes := l }) (faultParts_logFault b c code source unit detail region)

theorem eidTme_ne_fault (k : BitVec 4) : eidTme k ≠ eidFault := by
  intro h
  have hk : (0x108 + k.toNat) % 2 ^ 9 = 0x134 := congrArg BitVec.toNat h
  omega

/-! ### A descriptor starts and ends (R369, R371) -/

section
variable (c : Chip) (k : BitVec 4)

/-- The job of a descriptor that starts. -/
def Chip.tmeJobOf (q : BitVec 5) (d : Desc) : TmeJob :=
  { slot := q, desc := d
    total := if Tmd.skived d then Tmd.count0 d / 32 * Tmd.count1 d * Tmd.count2 d / 8
      else Tmd.count0 d / 32 * Tmd.count1 d * Tmd.count2 d
    issued := 0, block := 0
    need := if Tmd.enc d then 8 else 1
    stopped := c.tmeCheck k d ≠ 0, status := c.tmeCheck k d, buf := [], outl := [] }

theorem Chip.tmeStart_of_waiting (hon : c.clusterOn k = true) (hjob : (c.tme k).job = none) {q : BitVec 5} {d : Desc}
    {rest : List (BitVec 5 × Desc)} (hq : (c.tme k).queue = (q, d) :: rest) :
    c.tmeStart k = c.onTme k fun x => { x with queue := rest, job := some (c.tmeJobOf k q d) } := by
  unfold Chip.tmeStart
  dsimp only
  rw [hjob, hq]
  dsimp only
  rw [hon]
  rfl

theorem Chip.tmeStart_of_idle (h : c.clusterOn k = false ∨ (c.tme k).job ≠ none ∨ (c.tme k).queue = []) : c.tmeStart k = c := by
  unfold Chip.tmeStart
  dsimp only
  split
  next q d rest hjob hq =>
    obtain hon | hbusy | hempty := h
    · rw [hon]; rfl
    · exact absurd hjob hbusy
    · rw [hempty] at hq; cases hq
  next => rfl

theorem Chip.tmeEnd_of_unfinished (h : c.tmeFinished k = false) : c.tmeEnd k = c := by
  unfold Chip.tmeEnd
  split
  · rfl
  · rw [h]; rfl

/-- The packet that fastens a buckle. -/
def fastenPacket (n : Nat) : Packet := packet 0xFFFF tBuckleOp 3 eidBuckle 4 0 (BitVec.ofNat 16 (n % 4096)) 0

theorem Chip.tmeFasten_of_off {n : Nat} (h : n < 2 ^ 15) : c.tmeFasten k n = c := by
  rw [Chip.tmeFasten, if_neg (by omega)]

theorem Chip.tmeFasten_of_on {n : Nat} (hn : n < 2 ^ 16) (h : 2 ^ 15 ≤ n) :
    c.tmeFasten k n = c.send (eidTme k) (fastenPacket n) := by
  rw [Chip.tmeFasten, if_pos (by omega)]
  rfl

theorem dNum_two_lt (d : Desc) (i : Nat) : dNum d i 2 < 2 ^ 16 := Nat.mod_lt _ (by decide)

/-- A TME whose descriptor is gone, and one that has counted it. -/
def Tme.freed (x : Tme) : Tme := { x with job := none }
def Tme.counted (x : Tme) : Tme := { x with done := satInc x.done }
def Tme.failed (j : TmeJob) (x : Tme) : Tme := { x with errSlot := j.slot, errStatus := j.status }

section
variable {j : TmeJob} (hfin : c.tmeFinished k = true) (hjob : (c.tme k).job = some j)
include hfin hjob

theorem Chip.tmeEnd_of_done (hstop : j.stopped = false) : c.tmeEnd k =
    ((c.onTme k Tme.freed).tmeFasten k (dNum j.desc 2 2)).onTme k Tme.counted := by
  unfold Chip.tmeEnd
  rw [hjob]
  dsimp only
  rw [hfin, hstop]
  rfl

theorem Chip.tmeEnd_of_stopped (hstop : j.stopped = true) : c.tmeEnd k =
    ((((c.onTme k Tme.freed).tmeFasten k (dNum j.desc 36 2)).onTme k Tme.counted).onTme k (Tme.failed j)).logFault 0x2008
      (eidTme k) k.toNat (j.status.toNat + 256 * j.slot.toNat) := by
  unfold Chip.tmeEnd
  rw [hjob]
  dsimp only
  rw [hfin, hstop]
  rfl

end

/-! ### The Skive engine (R392, R398 to R403) -/

/-- A TME's counters change, and its job. -/
theorem Chip.onJob_tme {f : Tme → Tme} (g : TmeJob → TmeJob) {j : TmeJob} (hf : (f (c.tme k)).job = some j) :
    ((c.onTme k f).onJob k g).tme k = { f (c.tme k) with job := some (g j) } := by
  rw [Chip.onJob, Chip.onTme_same, Chip.onTme_same, hf, Option.map_some]

/-- The encoded form of a block's codes, and whether it is raw; a table that is gone codes the block raw. -/
def Chip.blockMade (tid : Nat) (codes : List Byte) : List Byte × Bool :=
  match c.skvBody k tid with
  | some b => Skv.encode (Skv.table b) tid codes
  | none => (Skv.header 256 true tid ++ codes, true)

/-- A TME that has encoded one more block. -/
def Tme.encoded (made : List Byte × Bool) (x : Tme) : Tme :=
  { x with
    blkEnc := satInc x.blkEnc, blkRaw := if made.2 then satInc x.blkRaw else x.blkRaw
    bytesOut := satAdd x.bytesOut made.1.length }

/-- A job whose block is done with, its lines to be written. -/
def TmeJob.next (out : List (Nat × Nat × Line)) (j : TmeJob) : TmeJob :=
  { j with block := j.block + 1, issued := 0, need := if Tmd.enc j.desc then 8 else 1, buf := [], outl := j.outl ++ out }

section
variable {j : TmeJob} (hjob : (c.tme k).job = some j) (hstop : j.stopped = false)
include hjob hstop

theorem Chip.skvEncode_of_block (henc : Tmd.enc j.desc = true) (hbuf : j.buf.length = 8) :
    let made := c.blockMade k (Tmd.tableId j.desc) (Chip.blockBytes { j with need := 8 })
    c.skvEncode k = (c.onTme k (Tme.encoded made)).onJob k (TmeJob.next (Chip.blockOut j true (c.now + 9) made.1)) := by
  have hcond : (j.stopped || !(Tmd.enc j.desc) || j.buf.length ≠ 8) = false := by simp [hstop, henc, hbuf]
  unfold Chip.skvEncode
  rw [hjob]
  dsimp only
  rw [hcond]
  rfl

theorem Chip.skvDecode_of_block (hdec : Tmd.dec j.desc = true) (hbuf : j.buf.length = j.need) :
    c.skvDecode k =
      match Skv.decode ((c.skvBody k (Skv.hdrTable (numAt (Chip.blockBytes j) 0 2))).map Skv.table) (Chip.blockBytes j) with
      | .ok qs => (c.onTme k fun x => { x with blkDec := satInc x.blkDec }).onJob k
          (TmeJob.next (Chip.blockOut j false (c.now + 5) qs))
      | .error e => (c.onTme k fun x => { x with
          decErr := satInc x.decErr, errTable := BitVec.ofNat 4 (Skv.hdrTable (numAt (Chip.blockBytes j) 0 2))
          errCause := e }).tmeStop k 4 := by
  have hcond : (j.stopped || !(Tmd.dec j.desc) || j.buf.length ≠ j.need) = false := by simp [hstop, hdec, hbuf]
  unfold Chip.skvDecode
  rw [hjob]
  dsimp only
  rw [hcond]
  rfl

end

end

/-- What fastening a buckle may change. -/
theorem Chip.tmeFasten_eq (c : Chip) (k : BitVec 4) (n : Nat) :
    c.tmeFasten k n = { c with fab := (c.tmeFasten k n).fab } := by
  unfold Chip.tmeFasten
  split
  · exact Chip.send_eq ..
  · rfl

theorem Chip.endp_of_fab {c d : Chip} (h : d.fab = c.fab) (e : Eid) : d.endp e = c.endp e := by
  rw [Chip.endp, Chip.endp, h]

/-! ### O48 -/

section
variable (s : State) (k : BitVec 4) (j : TmeJob) (hfin : s.chip.tmeFinished k = true) (hjob : (s.chip.tme k).job = some j)
include hfin hjob

theorem tmeComplete_spec (hstop : j.stopped = false) :
    (dNum j.desc 2 2 < 2 ^ 15 →
      ∃ t, exec (.tmeComplete k) s = .next t ∧ onlyTme k s t ∧
        t.chip.tme k = { s.chip.tme k with job := none, done := satInc (s.chip.tme k).done }) ∧
    (2 ^ 15 ≤ dNum j.desc 2 2 →
      ∃ t, exec (.tmeComplete k) s = .next t ∧
        keepsBut (fun c => { c with tmes := s.chip.tmes, fab := s.chip.fab }) s t ∧
        t.chip.tme k = { s.chip.tme k with job := none, done := satInc (s.chip.tme k).done } ∧
        t.chip.fab = (s.chip.send (eidTme k) (fastenPacket (dNum j.desc 2 2))).fab) := by
  have hrow : exec (.tmeComplete k) s = .next { s with chip := s.chip.tmeEnd k } := rfl
  have hstep : Chip.TmeStep k s.chip (s.chip.onTme k Tme.freed) := .onTme ..
  rw [s.chip.tmeEnd_of_done k hfin hjob hstop] at hrow
  refine ⟨fun hoff => ?_, fun hon => ?_⟩
  · rw [Chip.tmeFasten_of_off _ k hoff] at hrow
    refine ⟨_, hrow, (hstep.trans (.onTme _ k _)).only, ?_⟩
    dsimp only
    rw [Chip.onTme_same, Chip.onTme_same]
    rfl
  · rw [Chip.tmeFasten_of_on _ k (dNum_two_lt _ _) hon, Chip.send_eq] at hrow
    have hfab := hstep.send_fab (eidTme k) (fastenPacket (dNum j.desc 2 2)) 0
    generalize ((s.chip.onTme k Tme.freed).send (eidTme k) (fastenPacket (dNum j.desc 2 2)) 0).fab = f at hrow hfab
    refine ⟨_, hrow, ⟨rfl, rfl⟩, ?_, hfab⟩
    dsimp only
    rw [Chip.onTme_same]
    exact congrArg Tme.counted (s.chip.onTme_same k Tme.freed)

theorem tmeComplete_stopped (hstop : j.stopped = true) :
    ∃ t, exec (.tmeComplete k) s = .next t ∧ keepsBut (fun c => faultParts s.chip { c with tmes := s.chip.tmes }) s t ∧
      t.chip.tme k = { s.chip.tme k with
        job := none, done := satInc (s.chip.tme k).done, errSlot := j.slot, errStatus := j.status } ∧
      tget 0 t.chip.flt.counts 2 = satInc (tget 0 s.chip.flt.counts 2) ∧
      (2 ^ 15 ≤ dNum j.desc 36 2 →
        (t.chip.endp (eidTme k)).outq =
          ((s.chip.send (eidTme k) (fastenPacket (dNum j.desc 36 2))).endp (eidTme k)).outq) := by
  have hrow : exec (.tmeComplete k) s = .next { s with chip := s.chip.tmeEnd k } := rfl
  have hstep : Chip.TmeStep k s.chip (s.chip.onTme k Tme.freed) := .onTme ..
  rw [s.chip.tmeEnd_of_stopped k hfin hjob hstop] at hrow
  have hfas := Chip.tmeFasten_eq (s.chip.onTme k Tme.freed) k (dNum j.desc 36 2)
  have hfab : 2 ^ 15 ≤ dNum j.desc 36 2 → ((s.chip.onTme k Tme.freed).tmeFasten k (dNum j.desc 36 2)).fab =
      (s.chip.send (eidTme k) (fastenPacket (dNum j.desc 36 2))).fab := fun hon => by
    rw [Chip.tmeFasten_of_on _ k (dNum_two_lt _ _) hon]
    exact hstep.send_fab ..
  rw [hfas] at hrow
  generalize ((s.chip.onTme k Tme.freed).tmeFasten k (dNum j.desc 36 2)).fab = f at hrow hfab
  refine ⟨_, hrow, ⟨rfl, ?_⟩, ?_, ?_, fun hon => ?_⟩
  · exact faultParts_logFault_tmes ..
  · dsimp only
    rw [Chip.tme, Chip.logFault_tmes, ← Chip.tme, Chip.onTme_same, Chip.onTme_same]
    exact congrArg (fun x : Tme => x.counted.failed j) (s.chip.onTme_same k Tme.freed)
  · exact Chip.logFault_count _ 0x2008 _ _ _ _
  · dsimp only
    rw [Chip.logFault_endp _ (eidTme_ne_fault k)]
    exact congrArg Endp.outq (Chip.endp_of_fab (hfab hon) _)

end

/-- Settles O48. -/
theorem tmeRows : Obligations.TmeRows := by
  unfold Obligations.TmeRows
  intro s k j q d rest x
  refine ⟨fun hon hjob hq => ?_, fun h => ?_, fun hjob => ⟨?_, ?_⟩, fun hfin => ?_, fun hfin hjob hstop => tmeComplete_spec s k j hfin hjob hstop,
    fun hfin hjob hstop => tmeComplete_stopped s k j hfin hjob hstop, fun hjob hstop henc hbuf => ?_, fun hjob hstop hdec hbuf => ⟨fun qs hqs => ?_, fun e he => ?_⟩⟩
  · have hrow : exec (.tmeDescriptorStart k) s = .next { s with chip := s.chip.tmeStart k } := rfl
    rw [s.chip.tmeStart_of_waiting k hon hjob hq] at hrow
    exact ⟨_, s.chip.tmeJobOf k q d, hrow, (Chip.TmeStep.onTme s.chip k _).only, s.chip.onTme_same k _, rfl, rfl, rfl, rfl,
      decide_eq_true_iff⟩
  · exact congrArg (fun c : Chip => Host.Outcome.next { s with chip := c }) (s.chip.tmeStart_of_idle k h)
  · have hrow : s.chip.skvEncode k = s.chip := by rw [Chip.skvEncode, hjob]
    exact congrArg (fun c : Chip => Host.Outcome.next { s with chip := c }) hrow
  · have hrow : s.chip.skvDecode k = s.chip := by rw [Chip.skvDecode, hjob]
    exact congrArg (fun c : Chip => Host.Outcome.next { s with chip := c }) hrow
  · exact congrArg (fun c : Chip => Host.Outcome.next { s with chip := c }) (s.chip.tmeEnd_of_unfinished k hfin)
  · intro codes made
    have hrow : exec (.skiveEncode k) s = .next { s with chip := s.chip.skvEncode k } := rfl
    have heq := s.chip.skvEncode_of_block k hjob hstop henc hbuf
    dsimp only at heq
    rw [heq] at hrow
    have htme : ((s.chip.onTme k (Tme.encoded made)).onJob k (TmeJob.next (Chip.blockOut j true (s.chip.now + 9) made.1))).tme k =
        { x.encoded made with job := some (j.next (Chip.blockOut j true (s.chip.now + 9) made.1)) } :=
      s.chip.onJob_tme k _ hjob
    refine ⟨_, _, hrow, ((Chip.TmeStep.onTme s.chip k _).trans (.onTme _ k _)).only, congrArg Tme.job htme, rfl, rfl, rfl, rfl,
      congrArg Tme.blkEnc htme, congrArg Tme.blkRaw htme, congrArg Tme.bytesOut htme⟩
  · have hrow : exec (.skiveDecode k) s = .next { s with chip := s.chip.skvDecode k } := rfl
    rw [s.chip.skvDecode_of_block k hjob hstop hdec hbuf, hqs] at hrow
    dsimp only at hrow
    let f : Tme → Tme := fun x => { x with blkDec := satInc x.blkDec }
    have htme : ((s.chip.onTme k f).onJob k (TmeJob.next (Chip.blockOut j false (s.chip.now + 5) qs))).tme k =
        { f x with job := some (j.next (Chip.blockOut j false (s.chip.now + 5) qs)) } :=
      s.chip.onJob_tme k _ hjob
    exact ⟨_, _, hrow, ((Chip.TmeStep.onTme s.chip k _).trans (.onTme _ k _)).only, congrArg Tme.job htme, rfl, hstop,
      congrArg Tme.blkDec htme, rfl⟩
  · have hrow : exec (.skiveDecode k) s = .next { s with chip := s.chip.skvDecode k } := rfl
    rw [s.chip.skvDecode_of_block k hjob hstop hdec hbuf, he] at hrow
    dsimp only at hrow
    let f : Tme → Tme := fun x => { x with
      decErr := satInc x.decErr, errTable := BitVec.ofNat 4 (Skv.hdrTable (numAt (Chip.blockBytes j) 0 2)), errCause := e }
    have htme : ((s.chip.onTme k f).tmeStop k 4).tme k =
        { f x with job := some { j with stopped := true, status := 4, outl := [] } } := by
      rw [Chip.tmeStop, Chip.onJob_tme s.chip k _ (f := f) hjob, hstop]
      rfl
    exact ⟨_, _, hrow, ((Chip.TmeStep.onTme s.chip k _).trans (.onTme _ k _)).only, congrArg Tme.job htme, rfl, rfl, rfl,
      congrArg Tme.errTable htme, congrArg Tme.decErr htme, congrArg Tme.errCause htme⟩

end Sys2Proof.Machine
end

section
/-!
PROOFS. Proofs/KvOperations.lean: the descriptor operations of a KV walker (R426 to R454): an operation that fails leaves its
descriptor, what takes effect on the arrival cycle, and the result that leaves its cost later.
-/
namespace Sys2Proof.Machine
open Sys2Proof

/-! ### An operation that fails leaves the descriptor (R436) -/

namespace Kv

theorem flag_or (a b : Byte) : flag (a ||| b) 7 = (flag a 7 || flag b 7) := BitVec.getLsbD_or

/-- A page that is created raises no failure. -/
theorem addPage_status {b : List Byte} {o o' : KvOut × List (Option Page)} {q : Nat} (h : addPage b o q = some o') :
    flag o'.1.status 7 = flag o.1.status 7 := by
  obtain ⟨o, made⟩ := o
  unfold addPage at h
  dsimp only at h
  split at h
  · cases h
    exact (flag_or _ _).trans (Bool.or_false _)
  · obtain ⟨room, hroom, rfl⟩ := Option.map_eq_some_iff.mp h
    dsimp only
    split at hroom
    · cases hroom; rfl
    · split at hroom
      · cases hroom
      · cases hroom
        exact (flag_or _ _).trans (Bool.or_false _)

theorem foldl_addPage_status {b : List Byte} (qs : List Nat) {o o' : KvOut × List (Option Page)}
    (h : qs.foldl (fun o q => o.bind fun o => addPage b o q) (some o) = some o') : flag o'.1.status 7 = flag o.1.status 7 := by
  induction qs generalizing o with
  | nil => cases h; rfl
  | cons q qs ih =>
    rw [List.foldl_cons, Option.bind_some] at h
    cases hq : addPage b o q with
    | none =>
      rw [hq] at h
      have hnone : qs.foldl (fun o q => o.bind fun o => addPage b o q) none = none := by
        clear h hq ih
        induction qs with
        | nil => rfl
        | cons q qs ih => exact ih
      rw [hnone] at h
      cases h
    | some o₁ =>
      rw [hq] at h
      rw [ih h, addPage_status hq]

/-- If the operation failed, it left descriptor d. -/
def KeptIfFailed (d : KvDesc) (o : KvOut) : Prop := flag o.status 7 = true → o.d = d

theorem KeptIfFailed.of_fail (d : KvDesc) (status : Byte) : KeptIfFailed d (fail d status) := fun _ => rfl

theorem KeptIfFailed.of_status {d : KvDesc} {o : KvOut} (h : flag o.status 7 = false) : KeptIfFailed d o :=
  fun hf => absurd hf (by rw [h]; exact Bool.false_ne_true)

theorem KeptIfFailed.of_done {d : KvDesc} {o : KvOut} (status : Byte) (hs : o.status = status) (h : flag status 7 = false) :
    KeptIfFailed d o := .of_status (hs ▸ h)

theorem KeptIfFailed.of_ite {d : KvDesc} {o o' : KvOut} {p : Prop} [Decidable p] (h : KeptIfFailed d o) (h' : KeptIfFailed d o') :
    KeptIfFailed d (if p then o else o') := by
  split
  · exact h
  · exact h'

variable (b : List Byte) (d : KvDesc)

theorem appendDirect_kept (n : Nat) : KeptIfFailed d (appendDirect b d n) := by
  unfold appendDirect
  extract_lets len ps first last at_ news
  split
  · exact fun _ => rfl
  next o made hfold =>
    have ho : flag o.status 7 = false :=
      (foldl_addPage_status (o := ({ status := 0, d := d }, [])) (o' := (o, made)) news hfold).trans
        (show flag (0 : Byte) 7 = false by decide)
    refine .of_status ?_
    dsimp only
    split
    · exact (flag_or _ _).trans (by rw [ho]; rfl)
    · exact ho

theorem appendStaged_kept (n : Nat) : KeptIfFailed d (appendStaged b d n) := by
  unfold appendStaged
  extract_lets ps st len q0 news
  split
  · exact .of_fail d _
  · split
    · exact .of_done 0 rfl (by decide)
    · split
      · exact fun _ => rfl
      next o made hfold =>
        have ho : flag o.status 7 = false :=
          (foldl_addPage_status (o := ({ status := flagFlush, d := d }, [])) (o' := (o, made)) news hfold).trans
            (show flag flagFlush 7 = false by decide)
        exact .of_status ho

theorem append_kept (n : Nat) : KeptIfFailed d (append b d n) := by
  unfold append
  split
  · exact .of_fail d _
  · split
    · exact appendDirect_kept b d n
    · exact appendStaged_kept b d n

theorem evict_kept : KeptIfFailed d (evict b d) := by
  unfold evict
  split
  · exact .of_fail d _
  · exact .of_done flagRemoved rfl (by decide)

theorem truncate_kept (len : Nat) : KeptIfFailed d (truncate b d len) := by
  unfold truncate
  extract_lets old st gone ks d'
  split
  · exact .of_fail d _
  · split
    · exact .of_done 0 rfl (by decide)
    · by_cases hks : ks.isEmpty
      · exact .of_done 0 (if_pos hks) (by decide)
      · exact .of_done flagRemoved (if_neg hks) (by decide)

theorem pin_kept (k : Nat) (set_ : Bool) : KeptIfFailed d (pin b d k set_) := by
  unfold pin
  split
  · exact .of_fail d _
  · split
    · exact .of_fail d _
    · exact .of_done 0 rfl (by decide)

theorem spill_kept (k places : Nat) (desc : BitVec 8) (day : BitVec 64) : KeptIfFailed d (spill b d k places desc day) := by
  unfold spill
  split
  · exact .of_fail d _
  · exact .of_ite (.of_fail d _) (.of_ite (.of_fail d _) (.of_ite (.of_fail d _) (.of_ite (.of_fail d _)
      (.of_done 0 rfl (by decide)))))

theorem fetch_kept (home places : Nat) (desc : BitVec 8) (day : BitVec 64) : KeptIfFailed d (fetch b d home places desc day) := by
  unfold fetch
  split
  · exact .of_fail d _
  · split
    · exact .of_fail d _
    · refine .of_ite (.of_fail d _) (.of_ite (.of_fail d _) (.of_ite (.of_fail d _) ?_))
      split
      · exact .of_fail d _
      · by_cases hdrop : dropClass b
        · exact .of_done flagRecompute (if_pos hdrop) (by decide)
        · exact .of_done 0 (if_neg hdrop) (by decide)

end Kv

/-! ### What a step of a walker changes -/

/-- From c to d walker w alone has changed. -/
structure Chip.WalkStep (w : BitVec 4) (c d : Chip) : Prop where
  frame : ∀ l, ({ d with kvw := l } : Chip) = { c with kvw := l }
  other : ∀ m, m ≠ w → d.walker m = c.walker m

section
variable {w : BitVec 4} {b c d : Chip}

theorem Chip.WalkStep.refl (w : BitVec 4) (c : Chip) : Chip.WalkStep w c c := ⟨fun _ => rfl, fun _ _ => rfl⟩

theorem Chip.WalkStep.trans (h : Chip.WalkStep w b c) (g : Chip.WalkStep w c d) : Chip.WalkStep w b d :=
  ⟨fun l => (g.frame l).trans (h.frame l), fun m hm => (g.other m hm).trans (h.other m hm)⟩

theorem Chip.WalkStep.onWalker (c : Chip) (w : BitVec 4) (f : Walker → Walker) : Chip.WalkStep w c (c.onWalker w f) :=
  ⟨fun _ => rfl, fun _ hm => c.onWalker_ne f hm⟩

theorem Chip.WalkStep.only {s : State} (h : Chip.WalkStep w s.chip d) : onlyWalker w s { s with chip := d } :=
  ⟨⟨rfl, h.frame s.chip.kvw⟩, h.other⟩

theorem Chip.WalkStep.now (h : Chip.WalkStep w c d) : d.now = c.now := (congrArg Chip.now (h.frame []) :)
theorem Chip.WalkStep.alm (h : Chip.WalkStep w c d) : d.alm = c.alm := (congrArg Chip.alm (h.frame []) :)
theorem Chip.WalkStep.agenda (h : Chip.WalkStep w c d) : d.agenda = c.agenda := (congrArg Chip.agenda (h.frame []) :)
theorem Chip.WalkStep.flt (h : Chip.WalkStep w c d) : d.flt = c.flt := (congrArg Chip.flt (h.frame []) :)

theorem Chip.WalkStep.lts (h : Chip.WalkStep w c d) : d.lts = c.lts := by rw [Chip.lts, Chip.lts, h.alm]

end

/-- The events of an operation, as they wait for the Vigil. -/
def kvEvents (l : Lts) (desc : BitVec 16) (es : List (Byte × Word)) : List KvEvent := es.map fun e => ⟨l, desc, e.1, e.2⟩

theorem Chip.WalkStep.kvEvent (c : Chip) (w : BitVec 4) (desc : BitVec 16) (event : Byte) (entry : Word) :
    Chip.WalkStep w c (c.kvEvent w desc event entry) := by
  unfold Chip.kvEvent
  exact .onWalker c w _

theorem Chip.foldl_kvEvent_spec (w : BitVec 4) (desc : BitVec 16) (es : List (Byte × Word)) (c : Chip) :
    let d := es.foldl (fun c e => c.kvEvent w desc e.1 e.2) c
    Chip.WalkStep w c d ∧
      d.walker w = { c.walker w with events := (c.walker w).events ++ kvEvents c.lts desc es } := by
  induction es generalizing c with
  | nil => exact ⟨.refl w c, by simp [kvEvents]⟩
  | cons e es ih =>
    have hstep : Chip.WalkStep w c (c.kvEvent w desc e.1 e.2) := Chip.WalkStep.kvEvent ..
    have hwalk : (c.kvEvent w desc e.1 e.2).walker w =
        { c.walker w with events := (c.walker w).events ++ [⟨c.lts, desc, e.1, e.2⟩] } := Chip.onWalker_same ..
    obtain ⟨hstep1, hwalk1⟩ := ih (c.kvEvent w desc e.1 e.2)
    refine ⟨hstep.trans hstep1, ?_⟩
    rw [List.foldl_cons, hwalk1, hwalk, hstep.lts]
    dsimp only
    rw [List.append_assoc]
    rfl

/-! ### What takes effect on the arrival cycle (R426, R445) -/

/-- What an operation leaves, with the pressure that follows one that did not fail. -/
def Chip.kvPressed (c : Chip) (w : BitVec 4) (b : List Byte) (d : Nat) (o : Kv.KvOut) : Kv.KvOut :=
  if flag o.status 7 then o else Kv.pressure b o (c.kvPlaces w) (BitVec.ofNat 8 d) c.alm.dayCount

theorem Chip.kvApply_spec (c : Chip) (w : BitVec 4) (b : List Byte) (d : Nat) (o : Kv.KvOut) :
    let o' := c.kvPressed w b d o
    (c.kvApply w b d o).1 = o' ∧ Chip.WalkStep w c (c.kvApply w b d o).2 ∧
      (c.kvApply w b d o).2.walker w = { c.walker w with
        descs := tput KvDesc.init (c.walker w).descs d o'.d, moves := (c.walker w).moves ++ o'.moves
        events := (c.walker w).events ++ kvEvents c.lts (BitVec.ofNat 16 d) o'.events } := by
  intro o'
  let c1 := c.onDesc w d fun _ => o'.d
  let c2 := c1.onWalker w fun x => { x with moves := x.moves ++ o'.moves }
  have heq : c.kvApply w b d o = (o', o'.events.foldl (fun c e => c.kvEvent w (BitVec.ofNat 16 d) e.1 e.2) c2) := rfl
  have hstep : Chip.WalkStep w c c2 := (Chip.WalkStep.onWalker c w _).trans (.onWalker c1 w _)
  have h1 : c1.walker w = { c.walker w with descs := tput KvDesc.init (c.walker w).descs d o'.d } := Chip.onWalker_same ..
  have h2 : c2.walker w = { c1.walker w with moves := (c1.walker w).moves ++ o'.moves } := Chip.onWalker_same ..
  obtain ⟨hevents, hwalk⟩ := Chip.foldl_kvEvent_spec w (BitVec.ofNat 16 d) o'.events c2
  refine ⟨rfl, hstep.trans hevents, ?_⟩
  rw [heq]
  refine hwalk.trans ?_
  rw [h2, h1, hstep.lts]

/-! ### The result (R426, R427, R429) -/

/-- The engines of an operation's kind that are busy, and the cycle on which one is free for it. -/
def Walker.busyOf (x : Walker) (now : Nat) (p : Packet) : List Nat :=
  (if p.vc = 0 then x.plannedBusy else x.unschedBusy).filter fun u => now < u
def kvStart (now : Nat) (busy : List Nat) : Nat := if busy.length < 4 then now else busy.foldl min (busy.headD now)

/-- What a result's operation leaves: counted, its answer on its way from the engine on, and logged if it was planned and found
all four engines busy. -/
def kvAnswered (s : State) (w : BitVec 4) (p : Packet) (cost : Nat) (bs : List Byte) (t : State) : Prop :=
  let y := s.chip.walker w
  let busy := y.busyOf s.chip.now p
  let start := kvStart s.chip.now busy
  (t.chip.walker w).ops = satInc y.ops ∧
    (∃ q, (t.chip.walker w).results = y.results ++ [(start + cost, q)] ∧ q = Chip.kvReply p bs ∧ q.dchip = p.schip ∧
      q.deid = p.seid ∧ (p.vc ≠ 0 → q.vc = 2 ∧ q.aux = p.aux) ∧ (p.vc = 0 → q.vc = 0 ∧ q.type = tDataWr)) ∧
    (∀ m, m ≠ w → t.chip.walker m = s.chip.walker m) ∧
    (∀ e, e ≠ (p.payload.extractLsb' 16 16).toNat → t.chip.kvDesc w e = s.chip.kvDesc w e) ∧
    (busy.length < 4 ∨ p.vc ≠ 0 →
      keepsBut (fun c => { c with kvw := s.chip.kvw, agenda := s.chip.agenda }) s t ∧
      (t.chip.walker w).planLate = y.planLate ∧ t.chip.agenda = s.chip.agenda ++ [(start + cost, .kvResult w)]) ∧
    (4 ≤ busy.length → p.vc = 0 →
      keepsBut (fun c => faultParts s.chip { c with kvw := s.chip.kvw }) s t ∧
      (t.chip.walker w).planLate = satInc y.planLate ∧ (start + cost, .kvResult w) ∈ t.chip.agenda ∧
      tget 0 t.chip.flt.counts 3 = satInc (tget 0 s.chip.flt.counts 3))

/-- The reply to an operation goes where it came from: a planned one's as a plain VC0 write, another's as a response. -/
theorem kvReply_fields (p : Packet) (bs : List Byte) :
    (Chip.kvReply p bs).dchip = p.schip ∧ (Chip.kvReply p bs).deid = p.seid ∧
      (p.vc ≠ 0 → (Chip.kvReply p bs).vc = 2 ∧ (Chip.kvReply p bs).aux = p.aux) ∧
      (p.vc = 0 → (Chip.kvReply p bs).vc = 0 ∧ (Chip.kvReply p bs).type = tDataWr) := by
  unfold Chip.kvReply
  split
  case isTrue h => exact ⟨rfl, rfl, fun hne => absurd h hne, fun _ => ⟨rfl, rfl⟩⟩
  case isFalse h => exact ⟨rfl, rfl, fun _ => ⟨rfl, rfl⟩, fun he => absurd he h⟩

/-- A walker one of whose engines is taken until a cycle. -/
def Walker.engaged (p : Packet) (engines : List Nat) (late : Prop) [Decidable late] (x : Walker) : Walker :=
  if p.vc = 0 then { x with plannedBusy := engines, planLate := if late then satInc x.planLate else x.planLate }
  else { x with unschedBusy := engines }

/-- A walker with one more result on its way. -/
def Walker.answering (leave : Nat) (q : Packet) (x : Walker) : Walker :=
  { x with ops := satInc x.ops, results := x.results ++ [(leave, q)] }

section
variable (c : Chip) (w : BitVec 4) (p : Packet) (cost : Nat) (bs : List Byte)

/-- The engines that are busy once this operation has taken one. -/
def Chip.kvEngines : List Nat :=
  let busy := (c.walker w).busyOf c.now p
  (if 4 ≤ busy.length then busy.erase (busy.foldl min (busy.headD c.now)) else busy) ++ [kvStart c.now busy + cost]

theorem kvStart_eq (now : Nat) (busy : List Nat) :
    (if 4 ≤ busy.length then busy.foldl min (busy.headD now) else now) = kvStart now busy := by
  unfold kvStart
  by_cases h : busy.length < 4
  · rw [if_pos h, if_neg (by omega)]
  · rw [if_neg h, if_pos (by omega)]

/-- The operation's walker, once its engine is taken. -/
def Chip.kvEngaged : Chip :=
  c.onWalker w (Walker.engaged p (c.kvEngines w p cost) (4 ≤ ((c.walker w).busyOf c.now p).length))

/-- The operation is a planned one that finds all four engines busy. -/
def Chip.kvLate : Bool := p.vc = 0 && 4 ≤ ((c.walker w).busyOf c.now p).length

theorem Chip.kvEngine_eq : c.kvEngine w p cost =
    (kvStart c.now ((c.walker w).busyOf c.now p) + cost,
      if c.kvLate w p then
        (c.kvEngaged w p cost).logFault 0x3003 (eidWalker w) w.toNat ((lineByte p.payload 0).toNat + Chip.kvDescNo p * 2 ^ 16)
      else c.kvEngaged w p cost) := by
  unfold Chip.kvEngine
  extract_lets x busy late first from_ leave engines d
  have hleave : leave = kvStart c.now ((c.walker w).busyOf c.now p) + cost :=
    congrArg (· + cost) (kvStart_eq c.now ((c.walker w).busyOf c.now p))
  have hd : d = c.kvEngaged w p cost := by
    unfold Chip.kvEngaged Chip.kvEngines
    dsimp only
    rw [← hleave]
    rfl
  rw [hd, hleave]
  by_cases hlate : c.kvLate w p = true
  · rw [if_pos hlate]
    exact if_pos hlate
  · rw [if_neg hlate]
    exact if_neg hlate

theorem Chip.kvAnswer_of_ontime (h : c.kvLate w p = false) : c.kvAnswer w p cost bs =
    ((c.kvEngaged w p cost).onWalker w (Walker.answering (kvStart c.now ((c.walker w).busyOf c.now p) + cost)
      (Chip.kvReply p bs))).postAt (kvStart c.now ((c.walker w).busyOf c.now p) + cost) (.kvResult w) := by
  unfold Chip.kvAnswer
  rw [Chip.kvEngine_eq, h]
  rfl

theorem Chip.kvAnswer_of_late (h : c.kvLate w p = true) : c.kvAnswer w p cost bs =
    (((c.kvEngaged w p cost).logFault 0x3003 (eidWalker w) w.toNat
      ((lineByte p.payload 0).toNat + Chip.kvDescNo p * 2 ^ 16)).onWalker w
        (Walker.answering (kvStart c.now ((c.walker w).busyOf c.now p) + cost) (Chip.kvReply p bs))).postAt
          (kvStart c.now ((c.walker w).busyOf c.now p) + cost) (.kvResult w) := by
  unfold Chip.kvAnswer
  rw [Chip.kvEngine_eq, h]
  rfl

/-- The walker that answers: one engine is taken, one more result is on its way. -/
theorem Chip.kvAnswer_walker : (c.kvAnswer w p cost bs).walker w =
    ((c.walker w).engaged p (c.kvEngines w p cost) (4 ≤ ((c.walker w).busyOf c.now p).length)).answering
      (kvStart c.now ((c.walker w).busyOf c.now p) + cost) (Chip.kvReply p bs) := by
  have hengaged : (c.kvEngaged w p cost).walker w = _ := Chip.onWalker_same ..
  cases h : c.kvLate w p with
  | false =>
    rw [Chip.kvAnswer_of_ontime c w p cost bs h]
    exact (Chip.onWalker_same ..).trans (congrArg _ hengaged)
  | true =>
    rw [Chip.kvAnswer_of_late c w p cost bs h]
    refine (Chip.onWalker_same ..).trans (congrArg _ (Eq.trans ?_ hengaged))
    rw [Chip.walker, Chip.logFault_kvw, ← Chip.walker]

theorem Chip.kvAnswer_other {m : BitVec 4} (hm : m ≠ w) : (c.kvAnswer w p cost bs).walker m = c.walker m := by
  have hengaged : (c.kvEngaged w p cost).walker m = c.walker m := Chip.onWalker_ne _ _ hm
  cases h : c.kvLate w p with
  | false =>
    rw [Chip.kvAnswer_of_ontime c w p cost bs h]
    exact (Chip.onWalker_ne _ _ hm).trans hengaged
  | true =>
    rw [Chip.kvAnswer_of_late c w p cost bs h]
    refine (Chip.onWalker_ne _ _ hm).trans (Eq.trans ?_ hengaged)
    rw [Chip.walker, Chip.logFault_kvw, ← Chip.walker]

end

/-- The parts of a walker that the taking effect of an operation does not touch are those of x. -/
def Walker.restsAs (x y : Walker) : Prop :=
  ({ y with descs := x.descs, lab := x.lab, labHits := x.labHits, moves := x.moves, events := x.events } : Walker) = x

section
variable {s : State} {w : BitVec 4} {p : Packet} {d : Chip}

theorem Walker.engaged_planLate (x : Walker) (p : Packet) (engines : List Nat) (late : Prop) [Decidable late] :
    (x.engaged p engines late).planLate = if p.vc = 0 ∧ late then satInc x.planLate else x.planLate := by
  unfold Walker.engaged
  by_cases hvc : p.vc = 0
  · rw [if_pos hvc]
    exact if_congr (by simp [hvc]) rfl rfl
  · rw [if_neg hvc, if_neg fun h => hvc h.1]

/-- What an answer leaves of its walker. -/
theorem Walker.answering_rest (x : Walker) (p : Packet) (engines : List Nat) (late : Prop) [Decidable late] (leave : Nat)
    (q : Packet) :
    ({ (x.engaged p engines late).answering leave q with
        plannedBusy := x.plannedBusy, unschedBusy := x.unschedBusy, planLate := x.planLate, ops := x.ops
        results := x.results } : Walker) = x := by
  unfold Walker.answering Walker.engaged
  split <;> rfl

theorem Walker.answering_counts (x : Walker) (p : Packet) (engines : List Nat) (late : Prop) [Decidable late] (leave : Nat)
    (q : Packet) :
    ((x.engaged p engines late).answering leave q).ops = satInc x.ops ∧
      ((x.engaged p engines late).answering leave q).results = x.results ++ [(leave, q)] := by
  unfold Walker.answering Walker.engaged
  split <;> exact ⟨rfl, rfl⟩

theorem Chip.kvAnswer_rest (c : Chip) (w : BitVec 4) (p : Packet) (cost : Nat) (bs : List Byte) :
    ({ (c.kvAnswer w p cost bs).walker w with
        plannedBusy := (c.walker w).plannedBusy, unschedBusy := (c.walker w).unschedBusy, planLate := (c.walker w).planLate
        ops := (c.walker w).ops, results := (c.walker w).results } : Walker) = c.walker w := by
  rw [Chip.kvAnswer_walker]
  exact Walker.answering_rest ..

theorem faultParts_answering (b c : Chip) (l : Table Walker) (code : BitVec 16) (source : Eid) (unit detail : Nat)
    (region : Option (BitVec 6)) (w : BitVec 4) (f : Walker → Walker) (n : Nat) (i : Instr) :
    faultParts b { ((c.logFault code source unit detail region).onWalker w f).postAt n i with kvw := l } =
      faultParts b { c with kvw := l } :=
  (congrArg (fun c : Chip => { c with kvw := l }) (faultParts_logFault b c code source unit detail region) :)

/-- An operation that has taken effect is answered. -/
theorem kvAnswered_of_step (hstep : Chip.WalkStep w s.chip d) (hrest : (s.chip.walker w).restsAs (d.walker w))
    (hdesc : ∀ e, e ≠ (p.payload.extractLsb' 16 16).toNat → d.kvDesc w e = s.chip.kvDesc w e) (cost : Nat) (bs : List Byte) :
    kvAnswered s w p cost bs { s with chip := d.kvAnswer w p cost bs } := by
  have hops : (d.walker w).ops = (s.chip.walker w).ops := (congrArg Walker.ops hrest :)
  have hresults : (d.walker w).results = (s.chip.walker w).results := (congrArg Walker.results hrest :)
  have hlate : (d.walker w).planLate = (s.chip.walker w).planLate := (congrArg Walker.planLate hrest :)
  have hbusy : (d.walker w).busyOf d.now p = (s.chip.walker w).busyOf s.chip.now p := by
    have hp : (d.walker w).plannedBusy = (s.chip.walker w).plannedBusy := (congrArg Walker.plannedBusy hrest :)
    have hu : (d.walker w).unschedBusy = (s.chip.walker w).unschedBusy := (congrArg Walker.unschedBusy hrest :)
    rw [Walker.busyOf, Walker.busyOf, hp, hu, hstep.now]
  have hwalk := d.kvAnswer_walker w p cost bs
  rw [hbusy, hstep.now] at hwalk
  have hpost (a : Chip) (n : Nat) : (n, Instr.kvResult w) ∈ (a.postAt n (.kvResult w)).agenda :=
    List.mem_append_right _ List.mem_cons_self
  obtain ⟨hdchip, hdeid, hresp, hplan⟩ := kvReply_fields p bs
  refine ⟨?_, ⟨_, ?_, rfl, hdchip, hdeid, hresp, hplan⟩, fun m hm => (d.kvAnswer_other w p cost bs hm).trans (hstep.other m hm),
    fun e he => ?_, fun h => ?_, fun h4 hvc => ?_⟩
  · dsimp only
    rw [hwalk, ← hops]
    exact (Walker.answering_counts ..).1
  · dsimp only
    rw [hwalk, ← hresults]
    exact (Walker.answering_counts ..).2
  · have hdescs : ((d.kvAnswer w p cost bs).walker w).descs = (d.walker w).descs := (congrArg Walker.descs (d.kvAnswer_rest w p cost bs) :)
    rw [← hdesc e he, Chip.kvDesc, Chip.kvDesc, hdescs]
  · have hnot : ¬(p.vc = 0 ∧ 4 ≤ ((s.chip.walker w).busyOf s.chip.now p).length) := by
      rintro ⟨hvc, h4⟩
      exact h.elim (by omega) fun hne => hne hvc
    have hon : d.kvLate w p = false := by
      rw [Chip.kvLate, hbusy, ← Bool.decide_and]
      exact decide_eq_false hnot
    have heq := d.kvAnswer_of_ontime w p cost bs hon
    have hframe : Chip.WalkStep w s.chip ((d.kvEngaged w p cost).onWalker w
        (Walker.answering (kvStart d.now ((d.walker w).busyOf d.now p) + cost) (Chip.kvReply p bs))) :=
      hstep.trans ((Chip.WalkStep.onWalker d w _).trans (.onWalker _ w _))
    refine ⟨⟨rfl, ?_⟩, ?_, ?_⟩
    · dsimp only
      rw [heq]
      exact (congrArg (fun c : Chip => { c with agenda := s.chip.agenda }) (hframe.frame s.chip.kvw) :)
    · dsimp only
      rw [hwalk, ← hlate]
      exact (Walker.engaged_planLate ..).trans (if_neg hnot)
    · dsimp only
      rw [heq, hbusy, hstep.now]
      exact congrArg (· ++ [_]) hstep.agenda
  · have hyes : p.vc = 0 ∧ 4 ≤ ((s.chip.walker w).busyOf s.chip.now p).length := ⟨hvc, h4⟩
    have hon : d.kvLate w p = true := by
      rw [Chip.kvLate, hbusy, ← Bool.decide_and]
      exact decide_eq_true hyes
    have heq := d.kvAnswer_of_late w p cost bs hon
    have hengaged : Chip.WalkStep w s.chip (d.kvEngaged w p cost) := hstep.trans (.onWalker d w _)
    refine ⟨⟨rfl, ?_⟩, ?_, ?_, ?_⟩
    · dsimp only
      rw [heq]
      exact (faultParts_answering ..).trans (congrArg (faultParts s.chip) (hengaged.frame s.chip.kvw) :)
    · dsimp only
      rw [hwalk, ← hlate]
      exact (Walker.engaged_planLate ..).trans (if_pos hyes)
    · dsimp only
      rw [heq, hbusy, hstep.now]
      exact hpost _ _
    · dsimp only
      rw [heq, ← hengaged.flt]
      exact Chip.logFault_count (d.kvEngaged w p cost) 0x3003 _ _ _ _

end

/-! ### The operations (R432 to R436) -/

section
variable (c : Chip) (w : BitVec 4) (p : Packet)

/-- The number of the descriptor that a request names. -/
def kvNo (p : Packet) : BitVec 16 := p.payload.extractLsb' 16 16

theorem Chip.kvLook_rest (ls : List Nat) : (c.walker w).restsAs ((c.kvLook w ls).walker w) ∧
    ((c.kvLook w ls).walker w).descs = (c.walker w).descs ∧ ((c.kvLook w ls).walker w).moves = (c.walker w).moves ∧
      ((c.kvLook w ls).walker w).events = (c.walker w).events := by
  have hwalk : (c.kvLook w ls).walker w = _ := Chip.onWalker_same ..
  rw [hwalk]
  exact ⟨rfl, rfl, rfl, rfl⟩

/-- An operation that its descriptor lets through: the lines it looks at, what it leaves, and its answer. -/
theorem Chip.kvOp_of_open {r : Rec} (hcls : c.kvClassOf w (kvNo p).toNat = some r)
    (hopen : (c.kvDesc w (kvNo p).toNat).isOpen = true) (hd : (kvNo p).toNat < 256) (cost : Nat) (withBp : Bool)
    (uses : KvDesc → List Nat) (f : List Byte → KvDesc → Kv.KvOut) :
    ∃ ls, c.kvOp w p cost withBp uses f =
      let x := c.kvDesc w (kvNo p).toNat
      let oc := (c.kvLook w ls).kvApply w r.body (kvNo p).toNat (f r.body x)
      oc.2.kvAnswer w p (cost + if withBp then Kv.bp r.body else 0)
        (Kv.responseBytes (lineByte p.payload 0) (kvNo p).toNat oc.1 (oc.2.kvMode r.body x)) := by
  have hno : Chip.kvDescNo p = (kvNo p).toNat := rfl
  unfold Chip.kvOp
  dsimp only
  rw [hno, hcls]
  dsimp only
  rw [if_neg (by simp [hopen, hd])]
  exact ⟨_, rfl⟩

theorem Chip.kvOp_of_closed {r : Rec} (hcls : c.kvClassOf w (kvNo p).toNat = some r)
    (hclosed : (c.kvDesc w (kvNo p).toNat).isOpen = false ∨ 256 ≤ (kvNo p).toNat) (cost : Nat) (withBp : Bool)
    (uses : KvDesc → List Nat) (f : List Byte → KvDesc → Kv.KvOut) :
    c.kvOp w p cost withBp uses f = c.kvRefuse w p (cost + if withBp then Kv.bp r.body else 0) Kv.stBadDesc := by
  have hno : Chip.kvDescNo p = (kvNo p).toNat := rfl
  unfold Chip.kvOp
  dsimp only
  rw [hno, hcls]
  dsimp only
  rw [if_pos (by simpa using hclosed)]

theorem Chip.kvOp_of_none (hcls : c.kvClassOf w (kvNo p).toNat = none) (cost : Nat) (withBp : Bool)
    (uses : KvDesc → List Nat) (f : List Byte → KvDesc → Kv.KvOut) :
    c.kvOp w p cost withBp uses f = c.kvRefuse w p cost Kv.stBadDesc := by
  have hno : Chip.kvDescNo p = (kvNo p).toNat := rfl
  unfold Chip.kvOp
  dsimp only
  rw [hno, hcls]

theorem Chip.kvResolve_of_closed {r : Rec} (hcls : c.kvClassOf w (kvNo p).toNat = some r)
    (hclosed : (c.kvDesc w (kvNo p).toNat).isOpen = false ∨ 256 ≤ (kvNo p).toNat) :
    c.kvResolve w p = c.kvRefuse w p 24 Kv.stBadDesc := by
  have hno : Chip.kvDescNo p = (kvNo p).toNat := rfl
  unfold Chip.kvResolve
  dsimp only
  rw [hno, hcls]
  dsimp only
  rw [if_pos (by simpa using hclosed)]

theorem Chip.kvResolve_of_none (hcls : c.kvClassOf w (kvNo p).toNat = none) :
    c.kvResolve w p = c.kvRefuse w p 24 Kv.stBadDesc := by
  have hno : Chip.kvDescNo p = (kvNo p).toNat := rfl
  unfold Chip.kvResolve
  dsimp only
  rw [hno, hcls]

/-- The bytes that a RESOLVE of an open descriptor answers with (R435). -/
def kvResolved (b : List Byte) (x : KvDesc) (p : Packet) : List Byte :=
  let shown := ((List.range 4).map fun i => Chip.kvArg0 p + i).map fun i => Kv.shown x.pages[i]?
  if Chip.kvArg1 p % 2 = 1 then Kv.descBytes b x
  else shown.flatMap (fun e => leBytes 4 e.1.toNat) ++ shown.flatMap fun e => leBytes 4 e.2.toNat

theorem Chip.kvResolve_of_open {r : Rec} (hcls : c.kvClassOf w (kvNo p).toNat = some r)
    (hopen : (c.kvDesc w (kvNo p).toNat).isOpen = true) (hd : (kvNo p).toNat < 256) :
    ∃ ls, c.kvResolve w p =
      let x := c.kvDesc w (kvNo p).toNat
      ((c.kvLook w ls).kvApply w r.body (kvNo p).toNat { status := 0, d := x }).2.kvAnswer w p 24 (kvResolved r.body x p) := by
  have hno : Chip.kvDescNo p = (kvNo p).toNat := rfl
  unfold Chip.kvResolve
  dsimp only
  rw [hno, hcls]
  dsimp only
  rw [if_neg (by simp [hopen, hd])]
  exact ⟨_, rfl⟩

end

/-! ### O50 -/

section
variable (s : State) (w : BitVec 4) (p : Packet)

/-- What an operation leaves once it has taken effect and is answered, pressure included. -/
theorem kvGiven (ls : List Nat) (b : List Byte) {o : Kv.KvOut}
    (hkept : Kv.KeptIfFailed (s.chip.kvDesc w (kvNo p).toNat) o) (cost : Nat) (bs : List Byte) :
    let oc := (s.chip.kvLook w ls).kvApply w b (kvNo p).toNat o
    let o' := s.chip.kvPressed w b (kvNo p).toNat o
    let t : State := { s with chip := oc.2.kvAnswer w p cost bs }
    oc.1 = o' ∧ oc.2.alm = s.chip.alm ∧ kvAnswered s w p cost bs t ∧ t.chip.kvDesc w (kvNo p).toNat = o'.d ∧
      (flag o.status 7 = true → t.chip.kvDesc w (kvNo p).toNat = s.chip.kvDesc w (kvNo p).toNat) ∧
      (t.chip.walker w).moves = (s.chip.walker w).moves ++ o'.moves ∧
      (t.chip.walker w).events = (s.chip.walker w).events ++ o'.events.map fun e => ⟨s.chip.lts, kvNo p, e.1, e.2⟩ := by
  intro oc o' t
  obtain ⟨hlook, hldescs, hlmoves, hlevents⟩ := s.chip.kvLook_rest w ls
  have hlstep : Chip.WalkStep w s.chip (s.chip.kvLook w ls) := .onWalker ..
  obtain ⟨hout, hastep, hwalk⟩ := (s.chip.kvLook w ls).kvApply_spec w b (kvNo p).toNat o
  have hpressed : (s.chip.kvLook w ls).kvPressed w b (kvNo p).toNat o = o' := by
    rw [Chip.kvPressed, Chip.kvPlaces, hlmoves]
    rfl
  rw [hpressed] at hout hwalk
  rw [hldescs, hlmoves, hlevents, hlstep.lts, BitVec.ofNat_toNat, BitVec.setWidth_eq] at hwalk
  have hrest : (s.chip.walker w).restsAs (oc.2.walker w) := by
    rw [hwalk]
    exact hlook
  have hdesc (e : Nat) : oc.2.kvDesc w e = if e = (kvNo p).toNat then o'.d else s.chip.kvDesc w e := by
    rw [Chip.kvDesc, hwalk]
    exact tget_tput ..
  have hans : kvAnswered s w p cost bs t := kvAnswered_of_step (hlstep.trans hastep) hrest
    (fun e he => (hdesc e).trans (if_neg he)) cost bs
  have hafter := oc.2.kvAnswer_rest w p cost bs
  have hgiven : t.chip.kvDesc w (kvNo p).toNat = o'.d := by
    have h : (t.chip.walker w).descs = (oc.2.walker w).descs := (congrArg Walker.descs hafter :)
    rw [Chip.kvDesc, h, ← Chip.kvDesc, hdesc, if_pos rfl]
  refine ⟨hout, (hlstep.trans hastep).alm, hans, hgiven, fun hfail => ?_, ?_, ?_⟩
  · have hsame : o' = o := if_pos hfail
    rw [hgiven, hsame, hkept hfail]
  · exact (congrArg Walker.moves hafter :).trans (congrArg Walker.moves hwalk :)
  · exact (congrArg Walker.events hafter :).trans (congrArg Walker.events hwalk :)

/-- An operation that is refused changes no descriptor, and shows it. -/
theorem kvRefused (cost : Nat) (status : Byte) :
    ∃ bs, kvAnswered s w p cost bs { s with chip := s.chip.kvRefuse w p cost status } ∧ bs.getD 0 0 = status ∧
      (s.chip.kvRefuse w p cost status).kvDesc w (kvNo p).toNat = s.chip.kvDesc w (kvNo p).toNat ∧
      ∀ r, s.chip.kvClassOf w (kvNo p).toNat = some r →
        bs = Kv.responseBytes (p.payload.extractLsb' 0 8) (kvNo p).toNat
          { status := status, d := s.chip.kvDesc w (kvNo p).toNat }
          (s.chip.kvMode r.body (s.chip.kvDesc w (kvNo p).toNat)) := by
  unfold Chip.kvRefuse
  extract_lets d x shown
  have hdescs (bs : List Byte) := (congrArg Walker.descs (s.chip.kvAnswer_rest w p cost bs) :)
  refine ⟨_, kvAnswered_of_step (.refl w s.chip) rfl (fun _ _ => rfl) cost _, rfl, ?_, fun r hr => ?_⟩
  · rw [Chip.kvDesc, Chip.kvDesc]
    exact congrArg (fun t => tget KvDesc.init t (kvNo p).toNat) (hdescs _)
  · have hshown : shown = (s.chip.kvDesc w (kvNo p).toNat, s.chip.kvMode r.body (s.chip.kvDesc w (kvNo p).toNat)) := by
      have hr' : s.chip.kvClassOf w d = some r := hr
      dsimp only [shown]
      rw [hr']
      rfl
    rw [hshown]
    rfl

/-- Operation i of an open descriptor of a class gives what o says, with the bytes that bs makes of it. -/
def kvGives (b : List Byte) (i : Instr) (cost : Nat) (o : Kv.KvOut) (bs : Kv.KvOut → List Byte) : Prop :=
  let o' := if flag o.status 7 then o
    else Kv.pressure b o (s.chip.kvPlaces w) ((kvNo p).setWidth 8) s.chip.alm.dayCount
  ∃ t, exec i s = .next t ∧ kvAnswered s w p cost (bs o') t ∧ t.chip.kvDesc w (kvNo p).toNat = o'.d ∧
    (flag o.status 7 = true → t.chip.kvDesc w (kvNo p).toNat = s.chip.kvDesc w (kvNo p).toNat) ∧
    (t.chip.walker w).moves = (s.chip.walker w).moves ++ o'.moves ∧
    (t.chip.walker w).events = (s.chip.walker w).events ++ o'.events.map fun e => ⟨s.chip.lts, kvNo p, e.1, e.2⟩

theorem kvGives_of_row {ls : List Nat} {b : List Byte} {i : Instr} {cost : Nat} {o : Kv.KvOut} {bs : Kv.KvOut → List Byte}
    (hkept : Kv.KeptIfFailed (s.chip.kvDesc w (kvNo p).toNat) o)
    (hrow : exec i s = .next { s with
      chip := ((s.chip.kvLook w ls).kvApply w b (kvNo p).toNat o).2.kvAnswer w p cost
        (bs ((s.chip.kvLook w ls).kvApply w b (kvNo p).toNat o).1) }) : kvGives s w p b i cost o bs := by
  obtain ⟨hout, -, hans, hdesc, hfail, hmoves, hevents⟩ := kvGiven s w p ls b hkept cost
    (bs ((s.chip.kvLook w ls).kvApply w b (kvNo p).toNat o).1)
  have hpressed : s.chip.kvPressed w b (kvNo p).toNat o =
      if flag o.status 7 then o else Kv.pressure b o (s.chip.kvPlaces w) ((kvNo p).setWidth 8) s.chip.alm.dayCount := by
    rw [Chip.kvPressed, BitVec.ofNat_toNat]
  rw [hpressed] at hout hdesc hmoves hevents
  refine ⟨_, hrow, ?_, hdesc, hfail, hmoves, hevents⟩
  rw [hout] at hans
  exact hout ▸ hans

section
variable {r : Rec} (hcls : s.chip.kvClassOf w (kvNo p).toNat = some r)
include hcls

section
variable (hopen : (s.chip.kvDesc w (kvNo p).toNat).isOpen = true) (hd : (kvNo p).toNat < 256)
include hopen hd

/-- An operation with a Table 6 response. -/
theorem kvGives_of_op {i : Instr} {cost : Nat} {withBp : Bool} {uses : KvDesc → List Nat} {f : List Byte → KvDesc → Kv.KvOut}
    (hrow : exec i s = .next { s with chip := s.chip.kvOp w p cost withBp uses f })
    (hkept : Kv.KeptIfFailed (s.chip.kvDesc w (kvNo p).toNat) (f r.body (s.chip.kvDesc w (kvNo p).toNat))) :
    kvGives s w p r.body i (cost + if withBp then Kv.bp r.body else 0) (f r.body (s.chip.kvDesc w (kvNo p).toNat)) fun o =>
      Kv.responseBytes (p.payload.extractLsb' 0 8) (kvNo p).toNat o
        (s.chip.kvMode r.body (s.chip.kvDesc w (kvNo p).toNat)) := by
  obtain ⟨ls, heq⟩ := s.chip.kvOp_of_open w p hcls hopen hd cost withBp uses f
  obtain ⟨-, halm, -⟩ := kvGiven s w p ls r.body hkept 0 []
  dsimp only at heq
  rw [heq, Chip.kvMode, halm] at hrow
  exact kvGives_of_row s w p hkept hrow

/-- RESOLVE (R435). -/
theorem kvGives_resolve : kvGives s w p r.body (.resolve w p) 24 { status := 0, d := s.chip.kvDesc w (kvNo p).toNat }
    fun _ => kvResolved r.body (s.chip.kvDesc w (kvNo p).toNat) p := by
  obtain ⟨ls, heq⟩ := s.chip.kvResolve_of_open w p hcls hopen hd
  have hrow : exec (.resolve w p) s = .next { s with chip := s.chip.kvResolve w p } := rfl
  rw [heq] at hrow
  exact kvGives_of_row s w p (fun _ => rfl) hrow

end

end

/-- A row that is refused. -/
theorem kvRefused_of_row {i : Instr} {cost : Nat} {status : Byte}
    (hrow : exec i s = .next { s with chip := s.chip.kvRefuse w p cost status }) :
    ∃ bs, (∃ t, exec i s = .next t ∧ kvAnswered s w p cost bs t ∧ bs.getD 0 0 = status ∧
        t.chip.kvDesc w (kvNo p).toNat = s.chip.kvDesc w (kvNo p).toNat) ∧
      ∀ r, s.chip.kvClassOf w (kvNo p).toNat = some r →
        bs = Kv.responseBytes (p.payload.extractLsb' 0 8) (kvNo p).toNat
          { status := status, d := s.chip.kvDesc w (kvNo p).toNat }
          (s.chip.kvMode r.body (s.chip.kvDesc w (kvNo p).toNat)) := by
  obtain ⟨bs, hans, hstatus, hdesc, hbs⟩ := kvRefused s w p cost status
  exact ⟨bs, ⟨_, hrow, hans, hstatus, hdesc⟩, hbs⟩

end

/-- The low bit of ARG1. -/
theorem kvArg1_odd (p : Packet) : (Chip.kvArg1 p % 2 = 1) ↔ p.payload.getLsbD 64 = true := by
  have h : (p.payload.extractLsb' 64 32).getLsbD 0 = p.payload.getLsbD 64 := by simp
  rw [← h, ← BitVec.testBit_toNat, Nat.testBit_zero, decide_eq_true_iff]
  rfl

/-- The bytes of RESOLVE, by the field and the place that the request names. -/
theorem kvResolved_eq (b : List Byte) (x : KvDesc) (p : Packet) : kvResolved b x p =
    let shown := (List.range 4).map fun i => Kv.shown x.pages[(p.payload.extractLsb' 32 32).toNat + i]?
    if p.payload.getLsbD 64 then Kv.descBytes b x
    else (shown.flatMap fun e => leBytes 4 e.1.toNat) ++ shown.flatMap fun e => leBytes 4 e.2.toNat := by
  unfold kvResolved
  rw [List.map_map]
  exact if_congr (kvArg1_odd p) rfl rfl

/-- Settles O50. -/
theorem kvOperations : Obligations.KvOperations := by
  unfold Obligations.KvOperations
  intro s w p d op arg0 x y busy start rows answered refused
  refine ⟨fun r hcls hopen hd => ?_, fun r hcls hclosed => ?_, fun hcls => ?_, ?_, fun r hcls => ?_⟩
  · intro b gives table6 shown
    have hodd : decide (Chip.kvArg1 p % 2 = 1) = p.payload.getLsbD 64 := by
      rw [Bool.eq_iff_iff, decide_eq_true_iff, kvArg1_odd]
    have happend := kvGives_of_op s w p hcls hopen hd (i := .append w p) rfl (Kv.append_kept _ _ _)
    have hevict := kvGives_of_op s w p hcls hopen hd (i := .evict w p) rfl (Kv.evict_kept _ _)
    have htruncate := kvGives_of_op s w p hcls hopen hd (i := .truncate w p) rfl (Kv.truncate_kept _ _ _)
    have hpin := kvGives_of_op s w p hcls hopen hd (i := .pin w p) rfl (Kv.pin_kept _ _ _ _)
    have hspill := kvGives_of_op s w p hcls hopen hd (i := .spill w p) rfl (Kv.spill_kept _ _ _ _ _ _)
    have hfetch := kvGives_of_op s w p hcls hopen hd (i := .fetch w p) rfl (Kv.fetch_kept _ _ _ _ _ _)
    have hresolve := kvGives_resolve s w p hcls hopen hd
    rw [hodd] at hpin
    rw [show Chip.kvDescNo p = (kvNo p).toNat from rfl, BitVec.ofNat_toNat] at hspill hfetch
    rw [kvResolved_eq] at hresolve
    exact ⟨happend, hevict, htruncate, hpin, hspill, hfetch, hresolve⟩
  · have hrow {i : Instr} {cost : Nat} (h : exec i s = .next { s with chip := s.chip.kvRefuse w p cost Kv.stBadDesc }) :
        refused i cost 0x82 (Kv.responseBytes op d.toNat { status := 0x82, d := x } (s.chip.kvMode r.body x)) := by
      obtain ⟨bs, href, hbs⟩ := kvRefused_of_row s w p h
      exact hbs r hcls ▸ href
    have hop {i : Instr} {cost : Nat} {withBp : Bool} {uses : KvDesc → List Nat} {f : List Byte → KvDesc → Kv.KvOut}
        (h : exec i s = .next { s with chip := s.chip.kvOp w p cost withBp uses f }) :
        exec i s = .next { s with chip := s.chip.kvRefuse w p (cost + if withBp then Kv.bp r.body else 0) Kv.stBadDesc } := by
      rw [h, s.chip.kvOp_of_closed w p hcls hclosed]
    simp only [rows, List.forall_mem_cons, List.not_mem_nil, false_imp_iff, implies_true, and_true]
    refine ⟨hrow (hop (withBp := true) rfl), hrow (hop (withBp := true) rfl), hrow (hop (withBp := false) rfl),
      hrow (hop (withBp := false) rfl), hrow (hop (withBp := false) rfl), hrow (hop (withBp := true) rfl), hrow ?_⟩
    exact congrArg (fun c : Chip => Host.Outcome.next { s with chip := c }) (s.chip.kvResolve_of_closed w p hcls hclosed)
  · have hrow {i : Instr} {cost : Nat} (h : exec i s = .next { s with chip := s.chip.kvRefuse w p cost Kv.stBadDesc }) :
        ∃ bs, refused i cost 0x82 bs := by
      obtain ⟨bs, href, -⟩ := kvRefused_of_row s w p h
      exact ⟨bs, href⟩
    have hop {i : Instr} {cost : Nat} {withBp : Bool} {uses : KvDesc → List Nat} {f : List Byte → KvDesc → Kv.KvOut}
        (h : exec i s = .next { s with chip := s.chip.kvOp w p cost withBp uses f }) :
        exec i s = .next { s with chip := s.chip.kvRefuse w p cost Kv.stBadDesc } := by
      rw [h, s.chip.kvOp_of_none w p hcls]
    simp only [rows, List.forall_mem_cons, List.not_mem_nil, false_imp_iff, implies_true, and_true]
    refine ⟨hrow (hop rfl), hrow (hop rfl), hrow (hop rfl), hrow (hop rfl), hrow (hop rfl), hrow (hop rfl), hrow ?_⟩
    exact congrArg (fun c : Chip => Host.Outcome.next { s with chip := c }) (s.chip.kvResolve_of_none w p hcls)
  · obtain ⟨bs, href, -⟩ := kvRefused_of_row s w p (i := .badOp w p) rfl
    exact ⟨bs, href⟩
  · obtain ⟨bs, href, hbs⟩ := kvRefused_of_row s w p (i := .badOp w p) rfl
    exact hbs r hcls ▸ href

end Sys2Proof.Machine
end

section
/-!
PROOFS. Proofs/KvMoves.lean: a walker's results, its page moves, late fetches, and the chip ring (R426, R453 to R462).
-/
namespace Sys2Proof.Machine
open Sys2Proof

section
variable {w : BitVec 4} {c d : Chip}

/-- A packet that is sent reads nothing of the walkers. -/
theorem Chip.send_kvw (c : Chip) (l : Table Walker) (e : Eid) (p : Packet) (delay : Nat) :
    ({ c with kvw := l } : Chip).send e p delay = { c.send e p delay with kvw := l } := by
  unfold Chip.send
  split <;> rfl

theorem Chip.WalkStep.send_fab (h : Chip.WalkStep w c d) (e : Eid) (p : Packet) (delay : Nat) :
    (d.send e p delay).fab = (c.send e p delay).fab := by
  have hd := d.send_kvw [] e p delay
  have hc := c.send_kvw [] e p delay
  rw [h.frame []] at hd
  exact (congrArg Chip.fab (hd.symm.trans hc) :)

/-- The packet of a notice. -/
def noticeTo (w : BitVec 4) (r : Rec) (d0 : BitVec 48) (chip : BitVec 16) : Packet :=
  packet chip tDataWr 1 (eidWalker w) 8 0x200000 0 (lineOf (leBytes 2 r.target.toNat ++ leBytes 6 d0.toNat))

theorem Chip.tellRing_queued (c : Chip) (w : BitVec 4) (r : Rec) (d0 : BitVec 48) : c.tellRing w r d0 =
    (c.onEndp (eidWalker w) fun x => { x with queue := x.queue ++ [noticeTo w r d0 (Kv.prevChip r.body)] }).onEndp (eidWalker w)
      fun x => { x with queue := x.queue ++ [noticeTo w r d0 (Kv.nextChip r.body)] } := rfl

theorem Chip.tellRing_kvw (c : Chip) (l : Table Walker) (w : BitVec 4) (r : Rec) (d0 : BitVec 48) :
    ({ c with kvw := l } : Chip).tellRing w r d0 = { c.tellRing w r d0 with kvw := l } := by
  rw [Chip.tellRing_queued, Chip.tellRing_queued]
  rfl

/-- Telling the neighbours changes the fabric alone, by what the walkers do not hold. -/
theorem Chip.tellRing_eq (c : Chip) (w : BitVec 4) (r : Rec) (d0 : BitVec 48) :
    c.tellRing w r d0 = { c with fab := (c.tellRing w r d0).fab } := by
  rw [Chip.tellRing_queued]
  rfl

theorem Chip.WalkStep.tellRing_fab (h : Chip.WalkStep w c d) (r : Rec) (d0 : BitVec 48) :
    (d.tellRing w r d0).fab = (c.tellRing w r d0).fab := by
  have hd := d.tellRing_kvw [] w r d0
  have hc := c.tellRing_kvw [] w r d0
  rw [h.frame []] at hd
  exact (congrArg Chip.fab (hd.symm.trans hc) :)

end

/-- After a walker has changed, the fabric may too. -/
theorem keepsBut_walkFab {s : State} {w : BitVec 4} {d : Chip} (h : Chip.WalkStep w s.chip d) (f : Fab) :
    keepsBut (fun c => { c with kvw := s.chip.kvw, fab := s.chip.fab }) s { s with chip := { d with fab := f } } :=
  ⟨rfl, (congrArg (fun c : Chip => { c with fab := s.chip.fab }) (h.frame s.chip.kvw) :)⟩

section
variable (c : Chip) (w : BitVec 4)

/-! ### Results (R426, R433) -/

theorem Chip.kvResults_of_one {u : Nat} {q : Packet} (h : (c.walker w).results = [(u, q)]) (hu : u ≤ c.now) :
    c.kvResults w = (c.onWalker w fun x => { x with results := [] }).send (eidWalker w) q := by
  have hset : (c.onWalker w fun x => { x with results := x.results.filter fun r => c.now < r.1 }) =
      c.onWalker w fun x => { x with results := [] } := by
    have hover : ¬c.now < u := by omega
    simp only [Chip.onWalker, h]
    simp [hover]
  unfold Chip.kvResults
  dsimp only
  rw [hset, h]
  simp [hu]

/-! ### Page moves (R453 to R456) -/

section
variable {m : Move} {ms : List Move} (hmoves : (c.walker w).moves = m :: ms) (hstart : m.started = true)
include hmoves hstart

theorem Chip.kvRunning_of_started : c.kvRunning w = some m := by
  rw [Chip.kvRunning, hmoves]
  exact if_pos hstart

end

/-- The head move leaves: the walker's queue and its response slots change. -/
theorem Chip.kvMovePop_spec : ∃ f, c.kvMovePop w = { c.onWalker w fun x => { x with moves := x.moves.tail } with fab := f } :=
  ⟨_, rfl⟩

/-- The entry of a page at its new place: in its SRAM frame, or at its HOME. -/
def Page.moved (m : Move) (g : Page) : Page :=
  if m.toSram then { g with loc := Kv.locSram, frame := BitVec.ofNat 20 m.frame }
  else { g with loc := Kv.locLpddr, frame := g.home.setWidth 20 }

/-- A page that no longer has a copy. -/
def Page.absent (g : Page) : Page := { g with loc := Kv.locAbsent, frame := 0xFFFFF }

theorem Kv.setPage_at {d : KvDesc} {k : Nat} {g : Page} (h : d.pages[k]? = some g) (f : Page → Page) :
    (Kv.setPage d k f).pages[k]? = some (f g) := by
  rw [Kv.setPage_pages, List.getElem?_modify, h]
  simp

section
variable {m : Move} {ms : List Move} (hmoves : (c.walker w).moves = m :: ms) (hstart : m.started = true) {k : Nat} {g : Page}
  (hentry : Chip.moveEntry (c.kvDesc w m.desc.toNat) m = some k) (hpage : (c.kvDesc w m.desc.toNat).pages[k]? = some g)
include hmoves hstart hentry hpage

/-- The head move is over: its page lies at its new place (R454). -/
theorem Chip.kvMoveEnd_spec (hwritten : c.kvMoveWritten w = true) :
    ∃ d f, c.kvMoveEnd w = { d with fab := f } ∧ Chip.WalkStep w c d ∧ (d.walker w).moves = ms ∧
      (d.walker w).movesDone = satInc (c.walker w).movesDone ∧
      (d.kvDesc w m.desc.toNat).pages[k]? = some (g.moved m) := by
  let F : KvDesc → KvDesc := fun d =>
    if m.toSram then Kv.setPage d k fun p => { p with loc := Kv.locSram, frame := BitVec.ofNat 20 m.frame }
    else Kv.setPage { d with usedFrames := d.usedFrames.erase m.frame } k fun p =>
      { p with loc := Kv.locLpddr, frame := p.home.setWidth 20 }
  let c1 := c.onWalker w fun x => { x with moves := x.moves.tail }
  let c2 := c1.onWalker w fun x => { x with movesDone := satInc x.movesDone }
  obtain ⟨f, hpop⟩ := c.kvMovePop_spec w
  have heq : c.kvMoveEnd w = { c2.onDesc w m.desc.toNat F with fab := f } := by
    unfold Chip.kvMoveEnd
    rw [if_pos hwritten, c.kvRunning_of_started w hmoves hstart]
    dsimp only
    rw [hentry, hpop]
    rfl
  have h1 : c1.walker w = { c.walker w with moves := (c.walker w).moves.tail } := Chip.onWalker_same ..
  have h2 : c2.walker w = { c1.walker w with movesDone := satInc (c1.walker w).movesDone } := Chip.onWalker_same ..
  have h3 : (c2.onDesc w m.desc.toNat F).walker w = { c2.walker w with
      descs := tput KvDesc.init (c2.walker w).descs m.desc.toNat (F (tget KvDesc.init (c2.walker w).descs m.desc.toNat)) } :=
    Chip.onWalker_same ..
  refine ⟨_, f, heq, (Chip.WalkStep.onWalker c w _).trans ((Chip.WalkStep.onWalker c1 w _).trans (.onWalker c2 w _)), ?_, ?_, ?_⟩
  · rw [h3, h2, h1, hmoves]; rfl
  · rw [h3, h2, h1]
  · have hdesc : c2.kvDesc w m.desc.toNat = c.kvDesc w m.desc.toNat := by rw [Chip.kvDesc, h2, h1]; rfl
    rw [Chip.kvDesc_onDesc, hdesc]
    dsimp only [F, Page.moved]
    split
    · exact Kv.setPage_at hpage _
    · exact Kv.setPage_at
        (d := { c.kvDesc w m.desc.toNat with usedFrames := (c.kvDesc w m.desc.toNat).usedFrames.erase m.frame }) hpage _

/-- The head move failed: its page is ABSENT, which an event says (R455). -/
theorem Chip.kvMoveFail_spec (hfailed : m.failed = true) :
    ∃ d f e, c.kvMoveFail w = { d with fab := f } ∧ Chip.WalkStep w c d ∧ (d.walker w).moves = ms ∧
      (d.kvDesc w m.desc.toNat).pages[k]? = some g.absent ∧ (d.walker w).events = (c.walker w).events ++ [e] ∧ e.event = 6 ∧
      e.desc = m.desc.setWidth 16 ∧ e.lts = c.lts := by
  let F : KvDesc → KvDesc := fun d => Kv.setPage { d with usedFrames := d.usedFrames.erase m.frame } k Page.absent
  let c1 := c.onWalker w fun x => { x with moves := x.moves.tail }
  let c2 := c1.onDesc w m.desc.toNat F
  let e : KvEvent := ⟨c.lts, m.desc.setWidth 16, 6, (Kv.shown (c2.kvDesc w m.desc.toNat).pages[k]?).1⟩
  obtain ⟨f, hpop⟩ := c.kvMovePop_spec w
  have hbad : c.kvMoveBad w = true := by rw [Chip.kvMoveBad, c.kvRunning_of_started w hmoves hstart]; exact hfailed
  have heq : c.kvMoveFail w = { c2.onWalker w fun x => { x with events := x.events ++ [e] } with fab := f } := by
    unfold Chip.kvMoveFail
    rw [if_pos hbad, c.kvRunning_of_started w hmoves hstart]
    dsimp only
    rw [hentry, hpop]
    rfl
  have h1 : c1.walker w = { c.walker w with moves := (c.walker w).moves.tail } := Chip.onWalker_same ..
  have h2 : c2.walker w = { c1.walker w with
      descs := tput KvDesc.init (c1.walker w).descs m.desc.toNat (F (tget KvDesc.init (c1.walker w).descs m.desc.toNat)) } :=
    Chip.onWalker_same ..
  have h3 : (c2.onWalker w fun x => { x with events := x.events ++ [e] }).walker w =
      { c2.walker w with events := (c2.walker w).events ++ [e] } := Chip.onWalker_same ..
  refine ⟨_, f, e, heq, (Chip.WalkStep.onWalker c w _).trans ((Chip.WalkStep.onWalker c1 w _).trans (.onWalker c2 w _)), ?_, ?_, ?_,
    rfl, rfl, rfl⟩
  · rw [h3, h2, h1, hmoves]; rfl
  · have hdesc : c1.kvDesc w m.desc.toNat = c.kvDesc w m.desc.toNat := by rw [Chip.kvDesc, h1]; rfl
    rw [Chip.kvDesc, h3]
    refine (congrArg (fun d : KvDesc => d.pages[k]?) (Chip.kvDesc_onDesc c1 w m.desc.toNat F)).trans ?_
    rw [hdesc]
    exact Kv.setPage_at
      (d := { c.kvDesc w m.desc.toNat with usedFrames := (c.kvDesc w m.desc.toNat).usedFrames.erase m.frame }) hpage _
  · rw [h3, h2, h1]

end

/-- A fetch of the day before is late on the day's last cycle (R456). -/
theorem Chip.kvFetchLate_of_one {m : Move} (hrun : c.alm.running = true) (hend : c.alm.dayEnded = true)
    (hmoves : (c.walker w).moves = [m]) (hsram : m.toSram = true) (hday : m.day.toNat + 1 = c.alm.dayCount.toNat) :
    ∃ entry, c.kvFetchLate w = c.kvEvent w (m.desc.setWidth 16) 5 entry := by
  have hlate : c.lateFetches w = [m] := by
    rw [Chip.lateFetches, hmoves]
    simp [hsram, hday]
  unfold Chip.kvFetchLate
  rw [if_pos (by rw [hrun, hend]; rfl), hlate]
  exact ⟨_, rfl⟩

theorem Chip.kvFetchLate_of_none (h : (c.alm.running = false ∨ c.alm.dayEnded = false) ∨ (c.walker w).moves = []) :
    c.kvFetchLate w = c := by
  unfold Chip.kvFetchLate
  obtain (hrun | hend) | hmoves := h
  · rw [hrun]; rfl
  · rw [hend, Bool.and_false]; rfl
  · rw [Chip.lateFetches, hmoves]
    split <;> rfl

/-! ### The chip ring (R460 to R462) -/

section
variable {r : Rec}

theorem Chip.badRings_of_none (h : ∀ r ∈ c.ringClasses w, c.ringDegraded r.body = false) : c.badRings w = [] :=
  List.filter_eq_nil_iff.mpr fun r hr => by rw [h r hr]; exact Bool.false_ne_true

theorem Chip.badRings_of_one (h : c.ringClasses w = [r]) (hdeg : c.ringDegraded r.body = true) : c.badRings w = [r] := by
  rw [Chip.badRings, h]
  exact List.filter_cons_of_pos hdeg

/-- The walker that forgets the classes whose links are well again. -/
def Chip.kvStillBad : Chip :=
  c.onWalker w fun x => { x with degraded := x.degraded.filter fun k => (c.badRings w).any fun r => r.target = k.1 }

theorem Chip.kvStillBad_walker : (c.kvStillBad w).walker w = { c.walker w with
    degraded := (c.walker w).degraded.filter fun k => (c.badRings w).any fun r => r.target = k.1 } := Chip.onWalker_same ..

/-- What the walker does about a class with a degraded link (R460). -/
def Chip.kvTell (today : BitVec 48) (c : Chip) (r : Rec) : Chip :=
  let put (d0 : BitVec 48) : Chip := c.onWalker w fun x => { x with
    degraded := (x.degraded.filter fun k => k.1 ≠ r.target) ++ [(r.target, d0, today)] }
  match (c.walker w).degraded.find? fun k => k.1 = r.target with
  | some k => if k.2.2 = today then c else (put k.2.1).tellRing w r k.2.1
  | none =>
    let c := put today
    let earlier := match c.heldNotice w r.target with | some h => decide (today.toNat < h.toNat) | none => true
    (if earlier then c.keepNotice w r.target today else c).tellRing w r today

theorem Chip.kvResend_of_none (h : c.badRings w = []) :
    c.kvResend w = c.kvStillBad w ∧ (c.kvStillBad w).walker w = { c.walker w with degraded := [] } := by
  refine ⟨?_, ?_⟩
  · have heq : c.kvResend w = ((c.kvStillBad w).badRings w).foldl (fun d r => d.kvTell w c.today48 r) (c.kvStillBad w) := rfl
    have hbad : (c.kvStillBad w).badRings w = [] := h
    rw [heq, hbad]
    rfl
  · rw [Chip.kvStillBad_walker, h]
    simp

theorem Chip.kvResend_of_one (h : c.badRings w = [r]) : c.kvResend w = (c.kvStillBad w).kvTell w c.today48 r := by
  have heq : c.kvResend w = ((c.kvStillBad w).badRings w).foldl (fun d r => d.kvTell w c.today48 r) (c.kvStillBad w) := rfl
  have hbad : (c.kvStillBad w).badRings w = [r] := h
  rw [heq, hbad]
  rfl

/-- A link that degrades is told on the day of its detection, which the walker holds. -/
theorem Chip.kvResend_of_new (h : c.badRings w = [r]) (hnew : (c.walker w).degraded = [])
    (hheld : c.heldNotice w r.target = none) :
    ∃ d, c.kvResend w = d.tellRing w r c.today48 ∧ Chip.WalkStep w c d ∧
      (d.walker w).degraded = [(r.target, c.today48, c.today48)] ∧ d.heldNotice w r.target = some c.today48 := by
  let c1 := c.kvStillBad w
  let c2 := c1.onWalker w fun x => { x with
    degraded := (x.degraded.filter fun k => k.1 ≠ r.target) ++ [(r.target, c.today48, c.today48)] }
  have h1 : c1.walker w = c.walker w := by
    have hfilter := c.kvStillBad_walker w
    rw [hnew] at hfilter
    refine hfilter.trans ?_
    rw [List.filter_nil, ← hnew]
  have h2 : c2.walker w = { c1.walker w with
      degraded := ((c1.walker w).degraded.filter fun k => k.1 ≠ r.target) ++ [(r.target, c.today48, c.today48)] } :=
    Chip.onWalker_same ..
  have hheld2 : c2.heldNotice w r.target = none := by rw [Chip.heldNotice, h2, h1]; exact hheld
  have heq : c.kvResend w = (c2.keepNotice w r.target c.today48).tellRing w r c.today48 := by
    rw [Chip.kvResend_of_one c w h, Chip.kvTell, h1, hnew]
    dsimp only [List.find?_nil]
    rw [hheld2]
    rfl
  refine ⟨_, heq, (Chip.WalkStep.onWalker c w _).trans ((Chip.WalkStep.onWalker c1 w _).trans (.onWalker c2 w _)), ?_,
    Chip.heldNotice_keepNotice ..⟩
  have h3 : (c2.keepNotice w r.target c.today48).walker w = { c2.walker w with
      notices := ((c2.walker w).notices.filter fun n => n.1 ≠ r.target) ++ [(r.target, c.today48)] } := Chip.onWalker_same ..
  rw [h3, h2, h1, hnew]
  rfl

section
variable {d0 d1 : BitVec 48} (h : c.badRings w = [r]) (hold : (c.walker w).degraded = [(r.target, d0, d1)])
include h hold

theorem Chip.kvStillBad_of_held : (c.kvStillBad w).walker w = c.walker w := by
  have hfilter := c.kvStillBad_walker w
  rw [hold, h] at hfilter
  refine hfilter.trans ?_
  rw [List.filter_cons_of_pos (by simp), List.filter_nil, ← hold]

/-- A link that was told of today is not told of again. -/
theorem Chip.kvResend_of_told (htold : d1 = c.today48) : c.kvResend w = c.kvStillBad w := by
  rw [Chip.kvResend_of_one c w h, Chip.kvTell, Chip.kvStillBad_of_held c w h hold, hold]
  simp [htold]

/-- A link that stays degraded is told of once a day, with the day of its detection. -/
theorem Chip.kvResend_of_held (htold : d1 ≠ c.today48) :
    ∃ d, c.kvResend w = d.tellRing w r d0 ∧ Chip.WalkStep w c d ∧
      d.walker w = { c.walker w with degraded := [(r.target, d0, c.today48)] } := by
  let c1 := c.kvStillBad w
  have h1 : c1.walker w = c.walker w := Chip.kvStillBad_of_held c w h hold
  let c2 := c1.onWalker w fun x => { x with
    degraded := (x.degraded.filter fun k => k.1 ≠ r.target) ++ [(r.target, d0, c.today48)] }
  have h2 : c2.walker w = { c1.walker w with
      degraded := ((c1.walker w).degraded.filter fun k => k.1 ≠ r.target) ++ [(r.target, d0, c.today48)] } :=
    Chip.onWalker_same ..
  refine ⟨c2, ?_, (Chip.WalkStep.onWalker c w _).trans (.onWalker c1 w _), ?_⟩
  · rw [Chip.kvResend_of_one c w h, Chip.kvTell, h1, hold]
    simp [htold, c2, c1]
  · rw [h2, h1, hold]
    simp

end

/-! ### The switch to retrieval (R462) -/

/-- The descriptors of a class fall back from a day on. -/
def Chip.fallFrom (day : BitVec 64) (first n : Nat) (c : Chip) : Chip :=
  (List.range n).foldl (fun c j => c.onDesc w (first + j) fun x => { x with fallFrom := some day }) c

theorem Chip.foldl_fallFrom (first : Nat) (l : List Nat) (c : Chip) :
    l.foldl (fun c j => c.onDesc w (first + j) fun x => { x with fallFrom := some (c.alm.dayCount + 1) }) c =
      l.foldl (fun d j => d.onDesc w (first + j) fun x => { x with fallFrom := some (c.alm.dayCount + 1) }) c := by
  induction l generalizing c with
  | nil => rfl
  | cons j l ih => exact ih (c.onDesc w (first + j) fun x => { x with fallFrom := some (c.alm.dayCount + 1) })

theorem Chip.fallFrom_spec (day : BitVec 64) (first n : Nat) :
    Chip.WalkStep w c (c.fallFrom w day first n) ∧
      ((c.fallFrom w day first n).walker w).events = (c.walker w).events ∧
      ∀ j, j < n → ((c.fallFrom w day first n).kvDesc w (first + j)).fallFrom = some day := by
  induction n with
  | zero => exact ⟨.refl w c, rfl, fun j hj => absurd hj (by omega)⟩
  | succ n ih =>
    obtain ⟨hstep, hevents, hfall⟩ := ih
    have heq : c.fallFrom w day first (n + 1) =
        (c.fallFrom w day first n).onDesc w (first + n) fun x => { x with fallFrom := some day } := by
      rw [Chip.fallFrom, List.range_succ, List.foldl_append]
      rfl
    have hwalk : ((c.fallFrom w day first n).onDesc w (first + n) fun x => { x with fallFrom := some day }).walker w = _ :=
      Chip.onWalker_same ..
    rw [heq]
    refine ⟨hstep.trans (.onWalker _ w _), ?_, fun j hj => ?_⟩
    · rw [hwalk]; exact hevents
    · by_cases hjn : j = n
      · rw [hjn, Chip.kvDesc_onDesc]
      · rw [Chip.kvDesc, hwalk]
        dsimp only
        rw [tget_tput_ne _ _ _ (by omega : first + j ≠ first + n)]
        exact hfall j (by omega)

theorem Chip.kvSwitch_of_none (h : ∀ r ∈ c.ringClasses w, c.switchesNow w r = false) : c.kvSwitch w = c := by
  have hnone : (c.ringClasses w).filter (c.switchesNow w) = [] :=
    List.filter_eq_nil_iff.mpr fun r hr => by rw [h r hr]; exact Bool.false_ne_true
  rw [Chip.kvSwitch, hnone]
  rfl

theorem Chip.kvSwitch_of_one (h : c.ringClasses w = [r]) (hnow : c.switchesNow w r = true) :
    ∃ desc entry, c.kvSwitch w =
      { c.fallFrom w (c.alm.dayCount + 1) (Kv.descFirst r.body) (Kv.descCount r.body) with
        free := (c.fallFrom w (c.alm.dayCount + 1) (Kv.descFirst r.body) (Kv.descCount r.body)).free + 1 + 1 }.kvEvent w desc 8
        entry := by
  have hone : (c.ringClasses w).filter (c.switchesNow w) = [r] := by
    rw [h]
    exact List.filter_cons_of_pos hnow
  rw [Chip.kvSwitch, hone, List.foldl_cons, List.foldl_nil, Chip.foldl_fallFrom]
  exact ⟨_, _, rfl⟩

end

end

/-! ### O51 -/

section
variable (s : State) (w : BitVec 4)

/-- The rows of a move that is over (R454, R455). -/
theorem moveEnds {m : Move} {ms : List Move} {k : Nat} {g : Page} (hmoves : (s.chip.walker w).moves = m :: ms)
    (hstart : m.started = true) (hentry : Chip.moveEntry (s.chip.kvDesc w m.desc.toNat) m = some k)
    (hpage : (s.chip.kvDesc w m.desc.toNat).pages[k]? = some g) :
    (s.chip.kvMoveWritten w = true →
      ∃ t, exec (.moveComplete w) s = .next t ∧ keepsBut (fun c => { c with kvw := s.chip.kvw, fab := s.chip.fab }) s t ∧
        (t.chip.walker w).moves = ms ∧ (t.chip.walker w).movesDone = satInc (s.chip.walker w).movesDone ∧
        (t.chip.kvDesc w m.desc.toNat).pages[k]? = some (g.moved m)) ∧
    (m.failed = true →
      ∃ t, exec (.moveFail w) s = .next t ∧ keepsBut (fun c => { c with kvw := s.chip.kvw, fab := s.chip.fab }) s t ∧
        (t.chip.walker w).moves = ms ∧ (t.chip.kvDesc w m.desc.toNat).pages[k]? = some g.absent ∧
        ∃ e, (t.chip.walker w).events = (s.chip.walker w).events ++ [e] ∧ e.event = 6 ∧ e.desc = m.desc.setWidth 16 ∧
          e.lts = s.chip.lts) := by
  refine ⟨fun hwritten => ?_, fun hfailed => ?_⟩
  · obtain ⟨d, f, heq, hstep, hms, hdone, hat⟩ := s.chip.kvMoveEnd_spec w hmoves hstart hentry hpage hwritten
    have hrow : exec (.moveComplete w) s = .next { s with chip := s.chip.kvMoveEnd w } := rfl
    rw [heq] at hrow
    exact ⟨_, hrow, keepsBut_walkFab hstep f, hms, hdone, hat⟩
  · obtain ⟨d, f, e, heq, hstep, hms, hat, hevents, hsix, hdesc, hlts⟩ :=
      s.chip.kvMoveFail_spec w hmoves hstart hentry hpage hfailed
    have hrow : exec (.moveFail w) s = .next { s with chip := s.chip.kvMoveFail w } := rfl
    rw [heq] at hrow
    exact ⟨_, hrow, keepsBut_walkFab hstep f, hms, hat, e, hevents, hsix, hdesc, hlts⟩

/-- The rows of a chip ring one of whose links is degraded (R460). -/
theorem ringTold {r : Rec} (hring : s.chip.ringClasses w = [r]) (hdeg : s.chip.ringDegraded r.body = true) :
    ((s.chip.walker w).degraded = [] → s.chip.heldNotice w r.target = none →
      ∃ t, exec (.noticeResend w) s = .next t ∧ keepsBut (fun c => { c with kvw := s.chip.kvw, fab := s.chip.fab }) s t ∧
        (t.chip.walker w).degraded = [(r.target, s.chip.today48, s.chip.today48)] ∧
        t.chip.heldNotice w r.target = some s.chip.today48 ∧ t.chip.fab = (s.chip.tellRing w r s.chip.today48).fab) ∧
    ∀ d0 d1, (s.chip.walker w).degraded = [(r.target, d0, d1)] →
      (d1 = s.chip.today48 → ∃ t, exec (.noticeResend w) s = .next t ∧ onlyWalker w s t ∧ t.chip.walker w = s.chip.walker w) ∧
      (d1 ≠ s.chip.today48 →
        ∃ t, exec (.noticeResend w) s = .next t ∧ keepsBut (fun c => { c with kvw := s.chip.kvw, fab := s.chip.fab }) s t ∧
          t.chip.walker w = { s.chip.walker w with degraded := [(r.target, d0, s.chip.today48)] } ∧
          t.chip.fab = (s.chip.tellRing w r d0).fab) := by
  have hbad := s.chip.badRings_of_one w hring hdeg
  have hrow : exec (.noticeResend w) s = .next { s with chip := s.chip.kvResend w } := rfl
  refine ⟨fun hnew hheld => ?_, fun d0 d1 hold => ⟨fun htold => ?_, fun htold => ?_⟩⟩
  · obtain ⟨d, heq, hstep, hdegraded, hkept⟩ := s.chip.kvResend_of_new w hbad hnew hheld
    have hfab := hstep.tellRing_fab r s.chip.today48
    rw [heq, Chip.tellRing_eq] at hrow
    exact ⟨_, hrow, keepsBut_walkFab hstep _, hdegraded, hkept, hfab⟩
  · rw [s.chip.kvResend_of_told w hbad hold htold] at hrow
    exact ⟨_, hrow, (Chip.WalkStep.onWalker s.chip w _).only, s.chip.kvStillBad_of_held w hbad hold⟩
  · obtain ⟨d, heq, hstep, hwalk⟩ := s.chip.kvResend_of_held w hbad hold htold
    have hfab := hstep.tellRing_fab r d0
    rw [heq, Chip.tellRing_eq] at hrow
    exact ⟨_, hrow, keepsBut_walkFab hstep _, hwalk, hfab⟩

end

/-- Settles O51. -/
theorem kvMoves : Obligations.KvMoves := by
  unfold Obligations.KvMoves
  intro s w u q m ms k g x d
  refine ⟨fun h hu => ?_, fun hmoves => ?_, fun hmoves hstart hentry hpage => moveEnds s w hmoves hstart hentry hpage,
    fun hmoves => ?_, fun hrun hend hmoves hsram hday => ?_, fun hstop => ?_, fun hwell => ?_,
    fun r hring hdeg => ringTold s w hring hdeg, fun hnone => ?_, fun r hring hnow => ?_⟩
  · have hrow : exec (.kvResult w) s = .next { s with chip := s.chip.kvResults w } := rfl
    have hstep : Chip.WalkStep w s.chip (s.chip.onWalker w fun x => { x with results := [] }) := .onWalker ..
    have hfab := hstep.send_fab (eidWalker w) q 0
    have hwalk : (s.chip.onWalker w fun x => { x with results := [] }).walker w = _ := Chip.onWalker_same ..
    rw [s.chip.kvResults_of_one w h hu, Chip.send_eq] at hrow
    exact ⟨_, hrow, keepsBut_walkFab hstep _, hwalk, hfab⟩
  · have hrow : exec (.moveStart w) s = .next { s with chip := s.chip.kvMoveStart w } := rfl
    have hwalk : (s.chip.kvMoveStart w).walker w = _ := Chip.onWalker_same ..
    refine ⟨_, hrow, (Chip.WalkStep.onWalker s.chip w _).only, hwalk.trans ?_⟩
    dsimp only
    rw [hmoves]
  · have hrunning : s.chip.kvRunning w = none := by rw [Chip.kvRunning, hmoves]
    have hend : s.chip.kvMoveEnd w = s.chip := by
      rw [Chip.kvMoveEnd, Chip.kvMoveWritten, hrunning]
      rfl
    have hfail : s.chip.kvMoveFail w = s.chip := by
      rw [Chip.kvMoveFail, Chip.kvMoveBad, hrunning]
      rfl
    simp only [List.forall_mem_cons, List.not_mem_nil, false_imp_iff, implies_true, and_true]
    have hsame {c : Chip} (h : c = s.chip) : (Host.Outcome.next { s with chip := c } : Host.Outcome State Fault Refusal) = .next s := by
      rw [h]
    exact ⟨hsame hend, hsame hfail, hsame (s.chip.kvFetchLate_of_none w (.inr hmoves))⟩
  · obtain ⟨entry, heq⟩ := s.chip.kvFetchLate_of_one w hrun hend hmoves hsram hday
    have hrow : exec (.fetchLate w) s = .next { s with chip := s.chip.kvFetchLate w } := rfl
    rw [heq] at hrow
    exact ⟨_, hrow, (Chip.WalkStep.kvEvent s.chip w _ _ _).only, _, Chip.onWalker_same .., rfl, rfl⟩
  · exact congrArg (fun c : Chip => Host.Outcome.next { s with chip := c }) (s.chip.kvFetchLate_of_none w (.inl hstop))
  · obtain ⟨heq, hwalk⟩ := s.chip.kvResend_of_none w (s.chip.badRings_of_none w hwell)
    have hrow : exec (.noticeResend w) s = .next { s with chip := s.chip.kvResend w } := rfl
    rw [heq] at hrow
    exact ⟨_, hrow, (Chip.WalkStep.onWalker s.chip w _).only, hwalk⟩
  · exact congrArg (fun c : Chip => Host.Outcome.next { s with chip := c }) (s.chip.kvSwitch_of_none w hnone)
  · obtain ⟨desc, entry, heq⟩ := s.chip.kvSwitch_of_one w hring hnow
    obtain ⟨hstep, hevents, hfall⟩ := s.chip.fallFrom_spec w (s.chip.alm.dayCount + 1) (Kv.descFirst r.body)
      (Kv.descCount r.body)
    have hrow : exec (.modeSwitch w) s = .next { s with chip := s.chip.kvSwitch w } := rfl
    rw [heq] at hrow
    generalize s.chip.fallFrom w (s.chip.alm.dayCount + 1) (Kv.descFirst r.body) (Kv.descCount r.body) = c
      at hstep hevents hfall hrow
    have hwalk : ({ c with free := c.free + 1 + 1 }.kvEvent w desc 8 entry).walker w = _ := Chip.onWalker_same ..
    refine ⟨_, (⟨c.lts, desc, 8, entry⟩ : KvEvent), hrow, ⟨rfl, ?_⟩, fun j hj => ?_, ?_, rfl⟩
    · exact (congrArg (fun c : Chip => { c with free := s.chip.free }) (hstep.frame s.chip.kvw) :)
    · dsimp only
      rw [Chip.kvDesc, hwalk]
      exact hfall j hj
    · dsimp only
      rw [hwalk, ← hevents]
      rfl

end Sys2Proof.Machine
end

section
/-!
PROOFS. Proofs/VoiceRows.lean: sessions and host streams on their days, and the blocks of an I2S port (11_voices).
-/
namespace Sys2Proof.Machine
open Sys2Proof

/-! ### Numbers in a list of bytes -/

theorem leNat_leBytes_mod (n v : Nat) : leNat (leBytes n v) = v % 256 ^ n := by
  induction n generalizing v with
  | zero => simp [leBytes, leNat, Nat.mod_one]
  | succ n ih =>
    rw [leBytes, leNat, ih, BitVec.toNat_ofNat, show 256 ^ (n + 1) = 256 * 256 ^ n from Nat.pow_succ']
    exact (Nat.mod_mul (x := v) (a := 256)).symm

/-- The number that n bytes after others hold. -/
theorem numAt_at (a : List Byte) {k : Nat} (hk : a.length = k) (n v : Nat) (rest : List Byte) :
    numAt (a ++ (leBytes n v ++ rest)) k n = v % 256 ^ n := by
  have hlen : (leBytes n v).length = n := Skv.leBytes_length n v
  rw [numAt, bytesAt, List.drop_left' hk, List.take_left' hlen, hlen, Nat.sub_self]
  exact (congrArg leNat (List.append_nil _)).trans (leNat_leBytes_mod n v)

/-- SEQ, BAD_DESC and DROPS of the bytes that Lornorix writes to a descriptor (R502). -/
theorem backBytes_fields (seq lts : Nat) (gen : BitVec 16) (flags : Byte) (badDesc : Bool) (peak drops : Nat) :
    (Chip.backBytes seq lts gen flags badDesc peak drops).length = 20 ∧
      numAt (Chip.backBytes seq lts gen flags badDesc peak drops) 0 4 = seq % 2 ^ 32 ∧
      numAt (Chip.backBytes seq lts gen flags badDesc peak drops) 15 1 = b1 badDesc ∧
      numAt (Chip.backBytes seq lts gen flags badDesc peak drops) 18 2 = drops % 2 ^ 16 := by
  unfold Chip.backBytes
  refine ⟨by simp, ?_, ?_, ?_⟩
  · have h := numAt_at [] (k := 0) rfl 4 seq (leBytes 8 lts ++ leBytes 2 gen.toNat ++ [flags, BitVec.ofNat 8 (b1 badDesc)] ++
      leBytes 2 peak ++ leBytes 2 drops)
    rw [show 256 ^ 4 = 2 ^ 32 from rfl] at h
    simpa only [List.nil_append, List.append_assoc] using h
  · have h := numAt_at (k := 15) (leBytes 4 seq ++ leBytes 8 lts ++ leBytes 2 gen.toNat ++ [flags]) (by simp) 1 (b1 badDesc)
      (leBytes 2 peak ++ leBytes 2 drops)
    have hb : b1 badDesc % 256 ^ 1 = b1 badDesc := by cases badDesc <;> rfl
    rw [hb] at h
    simpa only [List.append_assoc, List.cons_append, List.nil_append, leBytes] using h
  · have h := numAt_at (k := 18) (leBytes 4 seq ++ leBytes 8 lts ++ leBytes 2 gen.toNat ++
      [flags, BitVec.ofNat 8 (b1 badDesc)] ++ leBytes 2 peak) (by simp) 2 drops []
    rw [show 256 ^ 2 = 2 ^ 16 from rfl] at h
    simpa only [List.append_assoc, List.append_nil] using h

/-! ### Packets of a block (R482) -/

section
variable (c : Chip) (e : Eid) (tile line : Nat) (header : Line) (body : List Line)

/-- One line of a block, as the packet that takes it to its place. -/
def blockLine (tile line : Nat) (l : Line) (at_ : Nat) : Packet :=
  packet 0xFFFF tDataWr 0 (BitVec.ofNat 9 tile) 32 (BitVec.ofNat 24 ((line + at_) * 32)) 0 l

theorem Chip.sendBlock_eq : c.sendBlock e tile line header body =
    { c with fab := (c.sendBlock e tile line header body).fab } := by
  let d := (body.zipIdx).foldl (fun c l => c.send e (blockLine tile line l.1 (l.2 + 1)) l.2) c
  have hbody : d = { c with fab := d.fab } := by
    have hsame (f : Fab) : ({ d with fab := f } : Chip) = { c with fab := f } :=
      foldl_keeps (fun c : Chip => { c with fab := f }) (fun y l => by rw [Chip.send_eq]) _ c
    exact hsame d.fab
  have heq : c.sendBlock e tile line header body = d.send e (blockLine tile line header 0) body.length := rfl
  rw [heq]
  refine (Chip.send_eq ..).trans ?_
  exact congrArg (fun c : Chip => { c with fab := (d.send e (blockLine tile line header 0) body.length).fab }) hbody

theorem Chip.sendBlock_length : ((c.sendBlock e tile line header body).endp e).outq.length =
    (c.endp e).outq.length + (body.length + 1) := by
  have hone (c : Chip) (l : Line) (at_ delay : Nat) :
      ((c.send e (blockLine tile line l at_) delay).endp e).outq.length = (c.endp e).outq.length + 1 := by
    rw [Chip.send_outq (show (0 : BitVec 2) ≠ 1 by decide), List.length_append]
    rfl
  have hbody (ls : List (Line × Nat)) (c : Chip) :
      ((ls.foldl (fun c l => c.send e (blockLine tile line l.1 (l.2 + 1)) l.2) c).endp e).outq.length =
        (c.endp e).outq.length + ls.length := by
    induction ls generalizing c with
    | nil => rfl
    | cons l ls ih => rw [List.foldl_cons, ih, hone, List.length_cons]; omega
  refine (hone _ header 0 body.length).trans ?_
  refine (congrArg (· + 1) (hbody body.zipIdx c)).trans ?_
  rw [List.length_zipIdx]
  omega

theorem bodyLines_length (es : List (BitVec 4)) (codes : List Byte) :
    (bodyLines es codes).length = (codes.length + 31) / 32 + 1 := by
  rw [bodyLines, List.length_cons, List.length_map, List.length_range]

end

theorem mread_mwrite (m : List Host.Cell) (a : Nat) (bs : List Byte) : mread (mwrite m a bs) a bs.length = bs := by
  refine List.ext_getElem (mread_length ..) fun k h h' => ?_
  rw [← List.getD_eq_getElem _ 0 h, ← List.getD_eq_getElem _ 0 h', mread_getD _ _ _ _ h', mget_mwrite_in bs m a k h']

/-- What a fetch brings: the descriptor's index, whether it is one of this rate, and its PCM. -/
def fetchedFrom (m : List Host.Cell) (x : Stream) (e : List Byte) : Fetched :=
  let d := mread m (x.base.toNat + 64 * (x.fetchIx.toNat % 2 ^ x.size.toNat)) 64
  let n := Pcm.bytes (numAt e 3 1)
  ⟨x.fetchIx, numAt d 8 2 = n, if numAt d 8 2 = n then Pcm.ofBytes (mread m (numAt d 0 8) n) else []⟩

theorem fetchedFrom_spec (m : List Host.Cell) (x : Stream) (e : List Byte) :
    let d := mread m (x.base.toNat + 64 * (x.fetchIx.toNat % 2 ^ x.size.toNat)) 64
    (fetchedFrom m x e).index = x.fetchIx ∧ ((fetchedFrom m x e).ok = true ↔ numAt d 8 2 = Pcm.bytes (numAt e 3 1)) ∧
      ((fetchedFrom m x e).ok = true →
        (fetchedFrom m x e).pcm = Pcm.ofBytes (mread m (numAt d 0 8) (Pcm.bytes (numAt e 3 1)))) :=
  ⟨rfl, decide_eq_true_iff, fun hok => if_pos (of_decide_eq_true hok)⟩

/-! ### Sessions (R491 to R497, R593) -/

section
variable (c : Chip) (i : BitVec 10)

/-- A stream that starts on a day. -/
def Stream.started (day : BitVec 64) (x : Stream) : Stream := { x with startDay := some day, hist := [], taken := none }

/-- What starting streams leaves: the others' registers, the sessions. -/
theorem Chip.foldl_startStream (l : List (BitVec 12)) (c : Chip) :
    (∀ z, ({ l.foldl (fun c s => c.startStream s) c with sfe := z } : Chip) = { c with sfe := z }) ∧
      (l.foldl (fun c s => c.startStream s) c).sfe.sessions = c.sfe.sessions ∧
      ∀ q, (l.foldl (fun c s => c.startStream s) c).stream q =
        if q ∈ l then (c.stream q).started c.alm.dayCount else c.stream q := by
  refine ⟨fun z => foldl_keeps (fun c : Chip => ({ c with sfe := z } : Chip)) (by intros; rfl) l c,
    foldl_keeps (fun c : Chip => c.sfe.sessions) (by intros; rfl) l c, fun q => ?_⟩
  induction l generalizing c with
  | nil => exact (if_neg List.not_mem_nil).symm
  | cons r l ih =>
    rw [List.foldl_cons, ih]
    have halm : (c.startStream r).alm = c.alm := rfl
    rw [halm]
    by_cases hq : q = r
    · subst hq
      have hone : (c.startStream q).stream q = (c.stream q).started c.alm.dayCount := Chip.onStream_same ..
      rw [hone, if_pos List.mem_cons_self]
      split <;> rfl
    · have hone : (c.startStream r).stream q = c.stream q := Chip.onStream_ne _ _ hq
      rw [hone]
      exact if_congr (by simp [hq]) rfl rfl

/-- A session whose bind day has come. -/
theorem Chip.bindSession_of_due (hrun : c.alm.running = true) (hcycle : c.alm.cycle = 0) (hstate : (c.session i).state = 1)
    (hday : (c.session i).bindDay = c.today32) :
    c.bindSession i =
      let d := c.onSession i fun x => { x with state := 2 }
      match c.sesClass (c.session i).cls with
      | none => d
      | some b =>
        (Chip.sesStreams b i.toNat).foldl (fun c s => c.startStream s)
          ((c.sesDescs b i.toNat).foldl
            (fun c d => c.kvOpen d.1 d.2.1 (BitVec.ofNat 16 d.2.2.1) (BitVec.ofNat 16 (i.toNat + d.2.2.2 * 2 ^ 15))) d) := by
  have hset : (c.onSession i fun x => { x with state := if x.state = 1 then 2 else x.state }) =
      c.onSession i fun x => { x with state := 2 } := by
    simp only [Chip.onSession, hstate]
    rfl
  have hcond : (c.alm.running && c.alm.cycle = 0 &&
      ((c.session i).state = 1 || ((c.session i).state = 3 && (c.session i).closeDay ≠ c.today32)) &&
      (c.session i).bindDay = c.today32) = true := by simp [hrun, hcycle, hstate, hday]
  unfold Chip.bindSession
  dsimp only
  rw [if_pos hcond, hset]
  rfl

/-- Descriptors that open for a session change their walkers alone. -/
theorem Chip.foldl_kvOpen_frame (l : List (BitVec 4 × Nat × Nat × Nat)) (c : Chip) (z : Table Walker) :
    ({ l.foldl (fun c d => c.kvOpen d.1 d.2.1 (BitVec.ofNat 16 d.2.2.1)
        (BitVec.ofNat 16 (i.toNat + d.2.2.2 * 2 ^ 15))) c with kvw := z } : Chip) = { c with kvw := z } :=
  foldl_keeps (fun c : Chip => ({ c with kvw := z } : Chip)) (by intros; rfl) l c

theorem Chip.dropMoves_eq (w : BitVec 4) (d : Nat) : ∃ f, c.dropMoves w d =
    { c.onWalker w fun x => { x with moves := x.moves.filter fun m => m.desc.toNat ≠ d } with fab := f } := by
  unfold Chip.dropMoves
  extract_lets x mine c1
  by_cases hmine : mine = true
  · rw [if_pos hmine]
    exact ⟨_, rfl⟩
  · rw [if_neg hmine]
    exact ⟨c.fab, rfl⟩

/-- Closing a descriptor changes its walker and the fabric. -/
theorem Chip.kvClose_frame (w : BitVec 4) (d : Nat) (z : Table Walker) (f : Fab) :
    ({ c.kvClose w d with kvw := z, fab := f } : Chip) = { c with kvw := z, fab := f } := by
  obtain ⟨g, hdrop⟩ := c.dropMoves_eq w d
  have hframe : ({ c.dropMoves w d with kvw := z, fab := f } : Chip) = { c with kvw := z, fab := f } := by
    rw [hdrop]
    rfl
  exact hframe

/-- A session that stops changes the front ends, its walkers and the fabric. -/
theorem Chip.stopSession_frame (y : Sfe) (z : Table Walker) (f : Fab) :
    ({ c.stopSession i with sfe := y, kvw := z, fab := f } : Chip) = { c with sfe := y, kvw := z, fab := f } := by
  unfold Chip.stopSession
  split
  · rfl
  next b hb =>
    let d := (Chip.sesStreams b i.toNat).foldl (fun c s => c.stopStream s) c
    have hstreams : ({ d with sfe := y } : Chip) = { c with sfe := y } :=
      foldl_keeps (fun c : Chip => ({ c with sfe := y } : Chip)) (by intros; rfl) _ c
    have hdescs : ({ (d.sesDescs b i.toNat).foldl (fun c d => c.kvClose d.1 d.2.1) d with kvw := z, fab := f } : Chip) =
        { d with kvw := z, fab := f } :=
      foldl_keeps (fun c : Chip => ({ c with kvw := z, fab := f } : Chip)) (fun y a => y.kvClose_frame a.1 a.2.1 z f) _ d
    exact (congrArg (fun c : Chip => ({ c with sfe := y } : Chip)) hdescs).trans
      (congrArg (fun c : Chip => ({ c with kvw := z, fab := f } : Chip)) hstreams)

/-- A session that is free. -/
theorem Chip.freeSession_spec (y : Sfe) (z : Table Walker) (f : Fab) :
    ({ c.freeSession i with sfe := y, kvw := z, fab := f } : Chip) = { c with sfe := y, kvw := z, fab := f } ∧
      (c.freeSession i).session i = Session.init ∧ i ∉ (c.freeSession i).sfe.holdq := by
  refine ⟨c.stopSession_frame i y z f, ?_, ?_⟩
  · exact (Chip.onSession_same (c.stopSession i) i fun _ => { Session.init with ended := false } :)
  · simp [Chip.freeSession]

end

/-! ### Host streams (R482, R484, R503 to R506) -/

theorem Chip.blockDays_pos (c : Chip) (len : Nat) : 0 < c.blockDays len := Nat.lt_of_lt_of_le Nat.one_pos (le_max_left _ _)

/-- The day of a block's place: k days in it, of blocks of bd days. -/
theorem lastDay_of_block {bd n : Nat} (h : 0 < bd) : (bd * n + (bd - 1)) % bd + 1 = bd ∧ (bd * n + (bd - 1)) / bd = n := by
  have hlt : bd - 1 < bd := by omega
  rw [Nat.mul_add_mod, Nat.mod_eq_of_lt hlt, Nat.mul_add_div h, Nat.div_eq_of_lt hlt]
  omega

section
variable (c : Chip) (k : BitVec 12) {e : List Byte} {g : BitVec 6} (hplan : c.streamPlan k = some (e, g))
include hplan

theorem Chip.fetchBlock_of_due (hdue : c.fetchDue k = true) : c.fetchBlock k = c.onStream k fun x =>
    { x with fetchIx := x.fetchIx + 1, ahead := x.ahead ++ [fetchedFrom c.hostMem (c.stream k) e] } := by
  unfold Chip.fetchBlock
  rw [if_pos hdue, hplan]
  rfl

section
variable {n : Nat} (hout : Chip.isOutput e = false)
  (hsince : c.sinceStart (c.stream k).startDay = some (c.blockDays 160 * n)) (hrun : c.alm.running = true)
  (hcycle : c.alm.cycle = numAt e 12 4)
include hout hsince hrun hcycle

/-- With nothing fetched the input block is silent, and counted (R504). -/
theorem Chip.deliverStream_of_empty (hahead : (c.stream k).ahead = []) :
    ∃ tile line header, c.deliverStream k =
      (c.onStream k fun x => { x with missed := satInc x.missed }).sendBlock (eidSfe (k.toNat / 1024)) tile line header
        (bodyLines (List.replicate 5 8) (List.replicate (32 * 5) 128)) := by
  have hcond : (Chip.isOutput e || !c.alm.running || c.blockDays 160 * n % c.blockDays 160 ≠ 0 ||
      c.alm.cycle ≠ numAt e 12 4) = false := by simp [hout, hrun, hcycle]
  unfold Chip.deliverStream
  rw [hplan, hsince]
  dsimp only
  rw [if_neg (by rw [hcond]; exact Bool.false_ne_true), hahead]
  exact ⟨_, _, _, rfl⟩

/-- A fetched block is delivered, and its descriptor goes back (R503). -/
theorem Chip.deliverStream_of_fetched {f : Fetched} {fs : List Fetched} (hahead : (c.stream k).ahead = f :: fs) :
    ∃ tile line header body h bs, c.deliverStream k =
      ((c.onStream k fun x => { x with ahead := fs }).sendBlock (eidSfe (k.toNat / 1024)) tile line header body).onStream k h ∧
      (∀ x, (h x).ahead = x.ahead ∧ (h x).missed = x.missed ∧ (h x).backs = x.backs ++ [(f.index, bs)]) ∧
      numAt bs 0 4 = n % 2 ^ 32 ∧ numAt bs 15 1 = if f.ok then 0 else 1 := by
  have hcond : (Chip.isOutput e || !c.alm.running || c.blockDays 160 * n % c.blockDays 160 ≠ 0 ||
      c.alm.cycle ≠ numAt e 12 4) = false := by simp [hout, hrun, hcycle]
  have hn : c.blockDays 160 * n / c.blockDays 160 = n := Nat.mul_div_cancel_left n (c.blockDays_pos 160)
  unfold Chip.deliverStream
  rw [hplan, hsince]
  dsimp only
  rw [if_neg (by rw [hcond]; exact Bool.false_ne_true), hahead]
  dsimp only
  rw [hn]
  cases hok : f.ok with
  | false =>
    obtain ⟨-, hseq, hbad, -⟩ := backBytes_fields n (c.alm.dayCount.toNat * 2 ^ 22) c.alm.gen
      (flagSub ||| if c.genComing (c.blockDays 160) then flagMixed else 0) true 0 0
    rw [if_pos (by rfl)]
    exact ⟨_, _, _, _, _, _, rfl, fun _ => ⟨rfl, rfl, rfl⟩, hseq, hbad⟩
  | true =>
    rw [if_neg (by decide)]
    generalize Pcm.toInternal _ _ _ = converted
    obtain ⟨y, h⟩ := converted
    dsimp only
    generalize Pcm.encode _ _ = encoded
    obtain ⟨codes, es, clamped⟩ := encoded
    dsimp only
    generalize Pcm.peak _ = pk
    generalize Pcm.count _ + Pcm.count y + clamped = sats
    obtain ⟨-, hseq, hbad, -⟩ := backBytes_fields n (c.alm.dayCount.toNat * 2 ^ 22) c.alm.gen
      ((if c.genComing (c.blockDays 160) then flagMixed else 0) ||| if 0 < sats then flagSat else 0) false pk 0
    exact ⟨_, _, _, _, _, _, rfl, fun _ => ⟨rfl, rfl, rfl⟩, hseq, hbad⟩

end

/-- The output block of a stream is taken, silent and counted where its SEQ is not due (R484). -/
theorem Chip.takeStream_of_due {n : Nat} (hout : Chip.isOutput e = true)
    (hsince : c.sinceStart (c.stream k).startDay = some (c.blockDays 160 * n + (c.blockDays 160 - 1)))
    (hvigil : c.vigilAt 0 = true) :
    ∃ blk, c.takeStream k = c.onStream k fun x => { x with
      taken := some blk
      outUnder := if numAt (mread c.sfe.egress (256 * k.toNat) 256) 8 4 = n then x.outUnder else satInc x.outUnder } := by
  obtain ⟨hmod, hdiv⟩ := lastDay_of_block (n := n) (c.blockDays_pos 160)
  have hcond : (!Chip.isOutput e || !c.vigilAt 0 ||
      (c.blockDays 160 * n + (c.blockDays 160 - 1)) % c.blockDays 160 + 1 ≠ c.blockDays 160) = false := by
    rw [hmod, hout, hvigil]
    simp
  unfold Chip.takeStream
  rw [hplan, hsince]
  dsimp only
  rw [if_neg (by rw [hcond]; exact Bool.false_ne_true), hdiv]
  exact ⟨_, rfl⟩

section
variable {blk : Block} (htaken : (c.stream k).taken = some blk) (hvigil : c.vigilAt 16 = true)
include htaken hvigil

/-- A stream whose block has been converted. -/
def Stream.converted (h : List Int) (sats : Nat) (x : Stream) : Stream :=
  { x with taken := none, hist := h, sat := satAdd x.sat sats }

/-- With no posted descriptor the block is dropped (R506). -/
theorem Chip.writeStream_of_none (hempty : (c.stream k).prod = (c.stream k).cons) :
    ∃ h sats, c.writeStream k = (c.onStream k (Stream.converted h sats)).onStream k fun x =>
      { x with missed := satInc x.missed, drops := satInc x.drops } := by
  unfold Chip.writeStream
  rw [hplan, htaken]
  dsimp only
  rw [if_neg (by rw [hvigil]; decide)]
  generalize c.outPcm (c.stream k) _ _ _ blk = converted
  obtain ⟨z, h, sats⟩ := converted
  dsimp only
  have hstream : (c.onStream k fun x => { x with taken := none, hist := h, sat := satAdd x.sat sats }).stream k =
      (c.stream k).converted h sats := Chip.onStream_same ..
  rw [hstream, if_pos (by simp [Stream.converted, hempty])]
  exact ⟨h, sats, rfl⟩

/-- The block is written to the next posted descriptor (R502, R506). -/
theorem Chip.writeStream_of_posted (hposted : (c.stream k).prod ≠ (c.stream k).cons) (hlo : 4 ≤ (c.stream k).size.toNat)
    (hhi : (c.stream k).size.toNat ≤ 12) :
    let x := c.stream k
    let at_ := x.base.toNat + 64 * (x.cons.toNat % 2 ^ x.size.toNat)
    ∃ h sats m lts gen flags badDesc peak w, c.writeStream k =
      { (c.onStream k (Stream.converted h sats)).onStream k fun x => { x with cons := x.cons + 1, drops := 0 } with
        hostMem := mwrite m (at_ + 12) (Chip.backBytes blk.n lts gen flags badDesc peak x.drops.toNat)
        sfe := { ((c.onStream k (Stream.converted h sats)).onStream k fun x => { x with cons := x.cons + 1, drops := 0 }).sfe with
          wrote := w } } ∧
      (numAt (mread c.hostMem at_ 64) 8 2 ≠ Pcm.bytes (numAt e 3 1) → m = c.hostMem) := by
  unfold Chip.writeStream
  rw [hplan, htaken]
  dsimp only
  rw [if_neg (by rw [hvigil]; decide)]
  generalize c.outPcm (c.stream k) _ _ _ blk = converted
  obtain ⟨z, h, sats⟩ := converted
  dsimp only
  have hstream : (c.onStream k fun x => { x with taken := none, hist := h, sat := satAdd x.sat sats }).stream k =
      (c.stream k).converted h sats := Chip.onStream_same ..
  have hring : (!(ringLog (c.stream k).size.toNat 4 12) || (c.stream k).prod = (c.stream k).cons) = false := by
    simp [ringLog, hlo, hhi, hposted]
  rw [hstream, if_neg (by rw [← Bool.not_eq_true] at hring; exact hring)]
  generalize hgot : numAt (mread (c.onStream k fun x =>
    { x with taken := none, hist := h, sat := satAdd x.sat sats }).hostMem _ 64) 8 2 = got
  by_cases hd : got = Pcm.bytes (numAt e 3 1)
  · rw [if_pos hd]
    exact ⟨h, sats, mwrite c.hostMem _ _, _, _, _, _, _, _, rfl, fun hne => absurd (hgot.trans hd) hne⟩
  · rw [if_neg hd]
    exact ⟨h, sats, c.hostMem, _, _, _, _, _, _, rfl, fun _ => rfl⟩

end

end

/-! ### I2S ports (R482, R484, R523) -/

section
variable (c : Chip) (p : Fin 8) {b : List Byte} {g : BitVec 6} (hcfg : c.audCfg p = some (b, g)) {n : Nat}
include hcfg

theorem Chip.deliverPort_of_whole {fs : List (Int × Int)} {fl : Byte} (hin : Chip.inEn b = true)
    (hsince : c.sinceStart (c.audPort p).startDay = some (c.blockDays 64 * (n + 1))) (hwhole : (c.audPort p).whole = some (fs, fl))
    (hrun : c.alm.running = true) (hcycle : c.alm.cycle = numAt b 16 4) :
    ∃ tile line header es codes, c.deliverPort p =
      (c.sendBlock eidAudio tile line header (bodyLines es codes)).onAud p fun x => { x with
        whole := none, levelSeq := BitVec.ofNat 16 n
        levelPeak := BitVec.ofNat 16 (Pcm.peak (fs.flatMap fun f => [f.1, f.2])) } := by
  have hpos := c.blockDays_pos 64
  have hk : c.blockDays 64 * (n + 1) ≠ 0 := by positivity
  have hcond : (!Chip.inEn b || !c.alm.running || c.blockDays 64 * (n + 1) % c.blockDays 64 ≠ 0 ||
      c.blockDays 64 * (n + 1) = 0 || c.alm.cycle ≠ numAt b 16 4) = false := by simp [hin, hrun, hcycle, hpos.ne']
  have hn : c.blockDays 64 * (n + 1) / c.blockDays 64 - 1 = n := by rw [Nat.mul_div_cancel_left _ hpos, Nat.add_sub_cancel]
  unfold Chip.deliverPort
  rw [hcfg, hsince, hwhole]
  dsimp only
  rw [if_neg (by rw [hcond]; exact Bool.false_ne_true), hn]
  generalize Pcm.encode _ _ = encoded
  obtain ⟨codes, es, clamped⟩ := encoded
  exact ⟨_, _, _, es, codes, rfl⟩

theorem Chip.takePort_of_due (hout : Chip.outEn b = true)
    (hsince : c.sinceStart (c.audPort p).startDay = some (c.blockDays 64 * n + (c.blockDays 64 - 1)))
    (hvigil : c.vigilAt 0 = true) :
    ∃ blk : Block, blk.n = n ∧ c.takePort p = c.onAud p fun x => { x with
      taken := some blk
      underrun := x.underrun || !decide (numAt (mread c.aud.egress (256 * p.val) 256) 8 4 = n)
      underCnt := if numAt (mread c.aud.egress (256 * p.val) 256) 8 4 = n then x.underCnt else satInc x.underCnt } := by
  obtain ⟨hmod, hdiv⟩ := lastDay_of_block (n := n) (c.blockDays_pos 64)
  have hcond : (!Chip.outEn b || !c.vigilAt 0 ||
      (c.blockDays 64 * n + (c.blockDays 64 - 1)) % c.blockDays 64 + 1 ≠ c.blockDays 64) = false := by
    rw [hmod, hout, hvigil]
    simp
  unfold Chip.takePort
  rw [hcfg, hsince]
  dsimp only
  rw [if_neg (by rw [hcond]; exact Bool.false_ne_true), hdiv]
  refine ⟨_, ?_, rfl⟩
  dsimp only
  split
  next h => exact h
  next => rfl

end

/-! ### O52 -/

section
variable (s : State) (i : BitVec 10)

/-- SESSION_BIND on the bind day (R491). -/
theorem sessionBind_spec (hrun : s.chip.alm.running = true) (hcycle : s.chip.alm.cycle = 0)
    (hstate : (s.chip.session i).state = 1) (hday : (s.chip.session i).bindDay = s.chip.today32) :
    (s.chip.sesClass (s.chip.session i).cls = none →
      ∃ t, exec (.sessionBind i) s = .next t ∧ keepsBut (fun c => { c with sfe := s.chip.sfe }) s t ∧
        t.chip.session i = { s.chip.session i with state := 2 } ∧ ∀ j, j ≠ i → t.chip.session j = s.chip.session j) ∧
    ∀ b, s.chip.sesClass (s.chip.session i).cls = some b →
      ∃ t, exec (.sessionBind i) s = .next t ∧ keepsBut (fun c => { c with sfe := s.chip.sfe, kvw := s.chip.kvw }) s t ∧
        t.chip.session i = { s.chip.session i with state := 2 } ∧
        ∀ q ∈ Chip.sesStreams b i.toNat, (t.chip.stream q).startDay = some s.chip.alm.dayCount ∧
          (t.chip.stream q).drops = (s.chip.stream q).drops := by
  have hrow : exec (.sessionBind i) s = .next { s with chip := s.chip.bindSession i } := rfl
  have hdue := s.chip.bindSession_of_due i hrun hcycle hstate hday
  refine ⟨fun hcls => ?_, fun b hcls => ?_⟩
  · rw [hcls] at hdue
    dsimp only at hdue
    rw [hdue] at hrow
    exact ⟨_, hrow, ⟨rfl, rfl⟩, s.chip.onSession_same i _, fun j hj => s.chip.onSession_ne _ hj⟩
  · rw [hcls] at hdue
    dsimp only at hdue
    rw [hdue] at hrow
    have hbound : (s.chip.onSession i fun x => { x with state := 2 }).session i = { s.chip.session i with state := 2 } :=
      s.chip.onSession_same i _
    have hopen := Chip.foldl_kvOpen_frame i (s.chip.sesDescs b i.toNat) (s.chip.onSession i fun x => { x with state := 2 })
    generalize (s.chip.sesDescs b i.toNat).foldl (fun c d => c.kvOpen d.1 d.2.1 (BitVec.ofNat 16 d.2.2.1)
      (BitVec.ofNat 16 (i.toNat + d.2.2.2 * 2 ^ 15))) (s.chip.onSession i fun x => { x with state := 2 }) = d at hrow hopen
    have hsfe : d.sfe = (s.chip.onSession i fun x => { x with state := 2 }).sfe := (congrArg Chip.sfe (hopen []) :)
    have halm : d.alm = s.chip.alm := (congrArg Chip.alm (hopen []) :)
    obtain ⟨hframe, hsessions, hstreams⟩ := Chip.foldl_startStream (Chip.sesStreams b i.toNat) d
    refine ⟨_, hrow, ⟨rfl, ?_⟩, ?_, fun q hq => ?_⟩
    · have h := congrArg (fun c : Chip => ({ c with kvw := s.chip.kvw } : Chip)) (hframe s.chip.sfe)
      exact (h :).trans (congrArg (fun c : Chip => ({ c with sfe := s.chip.sfe } : Chip)) (hopen s.chip.kvw) :)
    · dsimp only
      rw [Chip.session, hsessions, hsfe, ← Chip.session, hbound]
    · dsimp only
      have hold : d.stream q = s.chip.stream q := by rw [Chip.stream, hsfe]; rfl
      rw [hstreams, if_pos hq, hold, halm]
      exact ⟨rfl, rfl⟩

/-- SESSION_CLOSE_DAY on the close day (R494, R495). -/
theorem sessionCloseDay_spec (hrun : s.chip.alm.running = true) (hcycle : s.chip.alm.cycle = 0)
    (hstate : (s.chip.session i).state = 3) (hday : (s.chip.session i).closeDay = s.chip.today32) :
    ∃ t, exec (.sessionCloseDay i) s = .next t ∧
      keepsBut (fun c => { c with sfe := s.chip.sfe, kvw := s.chip.kvw, fab := s.chip.fab }) s t ∧
      t.chip.session i = Session.init ∧ i ∉ t.chip.sfe.holdq := by
  have hclose : s.chip.closeSession i = s.chip.freeSession i := if_pos (by simp [hrun, hcycle, hstate, hday])
  have hrow : exec (.sessionCloseDay i) s = .next { s with chip := s.chip.closeSession i } := rfl
  obtain ⟨hframe, hfree, hgone⟩ := s.chip.freeSession_spec i s.chip.sfe s.chip.kvw s.chip.fab
  rw [hclose] at hrow
  exact ⟨_, hrow, ⟨rfl, hframe⟩, hfree, hgone⟩

end

section
variable (s : State) (k : BitVec 12) {e : List Byte} {g : BitVec 6} (hplan : s.chip.streamPlan k = some (e, g))
include hplan

section
variable {n : Nat} (hout : Chip.isOutput e = false)
  (hsince : s.chip.sinceStart (s.chip.stream k).startDay = some (s.chip.blockDays 160 * n)) (hrun : s.chip.alm.running = true)
  (hcycle : s.chip.alm.cycle = numAt e 12 4)
include hout hsince hrun hcycle

/-- INPUT_BLOCK_DELIVERY of a stream with nothing fetched (R504). -/
theorem streamDelivery_empty (hahead : (s.chip.stream k).ahead = []) :
    ∃ t, exec (.inputBlockDelivery (.stream k)) s = .next t ∧
      keepsBut (fun c => { c with sfe := s.chip.sfe, fab := s.chip.fab }) s t ∧
      t.chip.stream k = { s.chip.stream k with missed := satInc (s.chip.stream k).missed } ∧
      (t.chip.endp (eidSfe (k.toNat / 1024))).outq.length = (s.chip.endp (eidSfe (k.toNat / 1024))).outq.length + 7 := by
  obtain ⟨tile, line, header, heq⟩ := s.chip.deliverStream_of_empty k hplan hout hsince hrun hcycle hahead
  have hrow : exec (.inputBlockDelivery (.stream k)) s = .next { s with chip := s.chip.deliverStream k } := rfl
  have hstream := s.chip.onStream_same k fun x => { x with missed := satInc x.missed }
  have hbody : (bodyLines (List.replicate 5 8) (List.replicate (32 * 5) 128)).length = 6 := by
    rw [bodyLines_length, List.length_replicate]
  generalize bodyLines (List.replicate 5 8) (List.replicate (32 * 5) 128) = body at heq hbody
  rw [heq] at hrow
  refine ⟨_, hrow, ⟨rfl, ?_⟩, ?_, ?_⟩
  · dsimp only
    rw [Chip.sendBlock_eq]
    rfl
  · dsimp only
    rw [Chip.sendBlock_eq]
    exact hstream
  · dsimp only
    rw [Chip.sendBlock_length, hbody]
    rfl

/-- INPUT_BLOCK_DELIVERY of a stream with a block fetched (R503). -/
theorem streamDelivery_fetched {f : Fetched} {fs : List Fetched} (hahead : (s.chip.stream k).ahead = f :: fs) :
    ∃ t bs, exec (.inputBlockDelivery (.stream k)) s = .next t ∧
      keepsBut (fun c => { c with sfe := s.chip.sfe, fab := s.chip.fab }) s t ∧
      (t.chip.stream k).ahead = fs ∧ (t.chip.stream k).missed = (s.chip.stream k).missed ∧
      (t.chip.stream k).backs = (s.chip.stream k).backs ++ [(f.index, bs)] ∧ numAt bs 0 4 = n % 2 ^ 32 ∧
      numAt bs 15 1 = (if f.ok then 0 else 1) := by
  obtain ⟨tile, line, header, body, h, bs, heq, hh, hseq, hbad⟩ :=
    s.chip.deliverStream_of_fetched k hplan hout hsince hrun hcycle hahead
  have hrow : exec (.inputBlockDelivery (.stream k)) s = .next { s with chip := s.chip.deliverStream k } := rfl
  let c := s.chip.onStream k fun x => { x with ahead := fs }
  have hc : c.stream k = { s.chip.stream k with ahead := fs } := Chip.onStream_same ..
  rw [heq, Chip.sendBlock_eq] at hrow
  generalize (c.sendBlock (eidSfe (k.toNat / 1024)) tile line header body).fab = fab at hrow
  have hstream : ({ c with fab := fab }.onStream k h).stream k = h (c.stream k) := Chip.onStream_same ..
  obtain ⟨ha, hm, hb⟩ := hh (c.stream k)
  refine ⟨_, bs, hrow, ⟨rfl, rfl⟩, ?_, ?_, ?_, hseq, hbad⟩
  · exact (congrArg Stream.ahead hstream).trans (ha.trans (congrArg Stream.ahead hc))
  · exact (congrArg Stream.missed hstream).trans (hm.trans (congrArg Stream.missed hc :))
  · exact (congrArg Stream.backs hstream).trans (hb.trans (congrArg (fun x : Stream => x.backs ++ [(f.index, bs)]) hc :))

end

section
variable {blk : Block} (htaken : (s.chip.stream k).taken = some blk) (hvigil : s.chip.vigilAt 16 = true)
include htaken hvigil

/-- OUTPUT_BLOCK_WRITE with no posted descriptor (R506). -/
theorem blockWrite_none (hempty : (s.chip.stream k).prod = (s.chip.stream k).cons) :
    ∃ t, exec (.outputBlockWrite k) s = .next t ∧ keepsBut (fun c => { c with sfe := s.chip.sfe }) s t ∧
      (t.chip.stream k).taken = none ∧ (t.chip.stream k).missed = satInc (s.chip.stream k).missed ∧
      (t.chip.stream k).drops = satInc (s.chip.stream k).drops ∧ (t.chip.stream k).cons = (s.chip.stream k).cons := by
  obtain ⟨h, sats, heq⟩ := s.chip.writeStream_of_none k hplan htaken hvigil hempty
  have hrow : exec (.outputBlockWrite k) s = .next { s with chip := s.chip.writeStream k } := rfl
  rw [heq] at hrow
  refine ⟨_, hrow, ⟨rfl, rfl⟩, ?_⟩
  dsimp only
  rw [Chip.onStream_same, Chip.onStream_same]
  exact ⟨rfl, rfl, rfl, rfl⟩

/-- OUTPUT_BLOCK_WRITE to a posted descriptor (R502, R506). -/
theorem blockWrite_posted (hposted : (s.chip.stream k).prod ≠ (s.chip.stream k).cons) (hlo : 4 ≤ (s.chip.stream k).size.toNat)
    (hhi : (s.chip.stream k).size.toNat ≤ 12) :
    let y := s.chip.stream k
    let at_ := y.base.toNat + 64 * (y.cons.toNat % 2 ^ y.size.toNat)
    ∃ t bs, exec (.outputBlockWrite k) s = .next t ∧
      keepsBut (fun c => { c with sfe := s.chip.sfe, hostMem := s.chip.hostMem }) s t ∧
      (t.chip.stream k).taken = none ∧ (t.chip.stream k).missed = y.missed ∧ (t.chip.stream k).drops = 0 ∧
      (t.chip.stream k).cons = y.cons + 1 ∧ mread t.chip.hostMem (at_ + 12) 20 = bs ∧
      numAt bs 0 4 = blk.n % 2 ^ 32 ∧ numAt bs 18 2 = y.drops.toNat % 2 ^ 16 ∧
      (numAt (mread s.chip.hostMem at_ 64) 8 2 ≠ Pcm.bytes (numAt e 3 1) →
        ∀ a, a < at_ + 12 ∨ at_ + 32 ≤ a → mget t.chip.hostMem a = mget s.chip.hostMem a) := by
  intro y at_
  obtain ⟨h, sats, m, lts, gen, flags, badDesc, peak, w, heq, hm⟩ :=
    s.chip.writeStream_of_posted k hplan htaken hvigil hposted hlo hhi
  obtain ⟨hlen, hseq, -, hdrops⟩ := backBytes_fields blk.n lts gen flags badDesc peak y.drops.toNat
  have hrow : exec (.outputBlockWrite k) s = .next { s with chip := s.chip.writeStream k } := rfl
  rw [heq] at hrow
  have hstream : ((s.chip.onStream k (Stream.converted h sats)).onStream k fun x =>
      { x with cons := x.cons + 1, drops := 0 }).stream k = { y.converted h sats with cons := y.cons + 1, drops := 0 } := by
    rw [Chip.onStream_same, Chip.onStream_same]
    rfl
  generalize Chip.backBytes blk.n lts gen flags badDesc peak y.drops.toNat = bs at hlen hseq hdrops hrow
  refine ⟨_, bs, hrow, ⟨rfl, rfl⟩, (congrArg Stream.taken hstream :), (congrArg Stream.missed hstream :),
    (congrArg Stream.drops hstream :), (congrArg Stream.cons hstream :), ?_, hseq, hdrops, fun hne a ha => ?_⟩
  · dsimp only
    exact hlen ▸ mread_mwrite m _ bs
  · dsimp only
    rw [mget_mwrite_out _ _ _ _ (by rw [hlen]; omega), hm hne]

end

/-- OUTPUT_BLOCK_TAKE of a stream (R484). -/
theorem streamTake_spec {n : Nat} (hout : Chip.isOutput e = true)
    (hsince : s.chip.sinceStart (s.chip.stream k).startDay = some (s.chip.blockDays 160 * n + (s.chip.blockDays 160 - 1)))
    (hvigil : s.chip.vigilAt 0 = true) :
    ∃ t, exec (.outputBlockTake (.stream k)) s = .next t ∧ keepsBut (fun c => { c with sfe := s.chip.sfe }) s t ∧
      (t.chip.stream k).taken.isSome = true ∧
      (numAt (mread s.chip.sfe.egress (256 * k.toNat) 256) 8 4 = n →
        (t.chip.stream k).outUnder = (s.chip.stream k).outUnder) ∧
      (numAt (mread s.chip.sfe.egress (256 * k.toNat) 256) 8 4 ≠ n →
        (t.chip.stream k).outUnder = satInc (s.chip.stream k).outUnder) := by
  obtain ⟨blk, heq⟩ := s.chip.takeStream_of_due k hplan hout hsince hvigil
  have hrow : exec (.outputBlockTake (.stream k)) s = .next { s with chip := s.chip.takeStream k } := rfl
  generalize numAt (mread s.chip.sfe.egress (256 * k.toNat) 256) 8 4 = got at heq
  have hstream := congrArg (Chip.stream · k) heq
  rw [Chip.onStream_same] at hstream
  have htaken := (congrArg Stream.taken hstream :)
  have hunder := (congrArg Stream.outUnder hstream :)
  refine ⟨_, hrow, ⟨rfl, by dsimp only; rw [heq]; rfl⟩, Option.isSome_iff_exists.mpr ⟨blk, htaken⟩,
    fun hdue => hunder.trans (if_pos hdue), fun hdue => hunder.trans (if_neg hdue)⟩

/-- STREAM_DESCRIPTOR_FETCH of a due block (R503). -/
theorem streamFetch_due (hdue : s.chip.fetchDue k = true) :
    let y := s.chip.stream k
    let d := mread s.chip.hostMem (y.base.toNat + 64 * (y.fetchIx.toNat % 2 ^ y.size.toNat)) 64
    ∃ t f, exec (.streamDescriptorFetch k) s = .next t ∧ keepsBut (fun c => { c with sfe := s.chip.sfe }) s t ∧
      t.chip.stream k = { y with fetchIx := y.fetchIx + 1, ahead := y.ahead ++ [f] } ∧ f.index = y.fetchIx ∧
      (f.ok = true ↔ numAt d 8 2 = Pcm.bytes (numAt e 3 1)) ∧
      (f.ok = true → f.pcm = Pcm.ofBytes (mread s.chip.hostMem (numAt d 0 8) (Pcm.bytes (numAt e 3 1)))) := by
  intro y d
  obtain ⟨hindex, hok, hpcm⟩ := fetchedFrom_spec s.chip.hostMem y e
  have heq := s.chip.fetchBlock_of_due k hplan hdue
  have hrow : exec (.streamDescriptorFetch k) s = .next { s with chip := s.chip.fetchBlock k } := rfl
  generalize fetchedFrom s.chip.hostMem y e = f at hindex hok hpcm heq
  rw [heq] at hrow
  exact ⟨_, f, hrow, ⟨rfl, rfl⟩, Chip.onStream_same .., hindex, hok, hpcm⟩

end

section
variable (s : State) (p : Fin 8) {b : List Byte} {g : BitVec 6} (hcfg : s.chip.audCfg p = some (b, g)) {n : Nat}
include hcfg

/-- INPUT_BLOCK_DELIVERY of an I2S port with a whole block (R482, R523). -/
theorem portDelivery_spec {fs : List (Int × Int)} {fl : Byte} (hin : Chip.inEn b = true)
    (hsince : s.chip.sinceStart (s.chip.audPort p).startDay = some (s.chip.blockDays 64 * (n + 1)))
    (hwhole : (s.chip.audPort p).whole = some (fs, fl)) (hrun : s.chip.alm.running = true)
    (hcycle : s.chip.alm.cycle = numAt b 16 4) :
    ∃ t, exec (.inputBlockDelivery (.i2s p)) s = .next t ∧
      keepsBut (fun c => { c with aud := s.chip.aud, fab := s.chip.fab }) s t ∧
      t.chip.audPort p = { s.chip.audPort p with
        whole := none, levelSeq := BitVec.ofNat 16 n
        levelPeak := BitVec.ofNat 16 (Pcm.peak (fs.flatMap fun f => [f.1, f.2])) } ∧
      (s.chip.endp eidAudio).outq.length + 2 ≤ (t.chip.endp eidAudio).outq.length := by
  obtain ⟨tile, line, header, es, codes, heq⟩ := s.chip.deliverPort_of_whole p hcfg hin hsince hwhole hrun hcycle
  have hrow : exec (.inputBlockDelivery (.i2s p)) s = .next { s with chip := s.chip.deliverPort p } := rfl
  have hlen := s.chip.sendBlock_length eidAudio tile line header (bodyLines es codes)
  rw [bodyLines_length] at hlen
  rw [heq, Chip.sendBlock_eq] at hrow
  generalize (s.chip.sendBlock eidAudio tile line header (bodyLines es codes)) = d at hrow hlen
  refine ⟨_, hrow, ⟨rfl, rfl⟩, Chip.onAud_same .., ?_⟩
  have hout : (({ s.chip with fab := d.fab } : Chip).endp eidAudio) = d.endp eidAudio := Chip.endp_of_fab rfl _
  have hle : (s.chip.endp eidAudio).outq.length + 2 ≤ (({ s.chip with fab := d.fab } : Chip).endp eidAudio).outq.length := by
    rw [hout, hlen]
    omega
  exact hle

/-- OUTPUT_BLOCK_TAKE of an I2S port (R484). -/
theorem portTake_spec (hout : Chip.outEn b = true)
    (hsince : s.chip.sinceStart (s.chip.audPort p).startDay = some (s.chip.blockDays 64 * n + (s.chip.blockDays 64 - 1)))
    (hvigil : s.chip.vigilAt 0 = true) :
    let due : Bool := decide (numAt (mread s.chip.aud.egress (256 * p.val) 256) 8 4 = n)
    let port := s.chip.audPort p
    ∃ t k, exec (.outputBlockTake (.i2s p)) s = .next t ∧ onlyAud p s t ∧
      t.chip.audPort p = { port with
        taken := some k, underrun := port.underrun || !due
        underCnt := if due then port.underCnt else satInc port.underCnt } ∧ k.n = n := by
  intro due port
  obtain ⟨blk, hn, heq⟩ := s.chip.takePort_of_due p hcfg hout hsince hvigil
  have hrow : exec (.outputBlockTake (.i2s p)) s = .next { s with chip := s.chip.takePort p } := rfl
  rw [heq] at hrow
  refine ⟨_, blk, hrow, ⟨⟨rfl, rfl⟩, fun m hm => s.chip.onAud_ne _ hm⟩, (s.chip.onAud_same p _).trans ?_, hn⟩
  rw [show (if due = true then port.underCnt else satInc port.underCnt) =
    if numAt (mread s.chip.aud.egress (256 * p.val) 256) 8 4 = n then port.underCnt else satInc port.underCnt from
    if_congr decide_eq_true_iff rfl rfl]

end

/-- Settles O52. -/
theorem voiceRows : Obligations.VoiceRows := by
  unfold Obligations.VoiceRows
  intro s i is k e g blk n p x y today port
  refine ⟨fun hrun hcycle => ⟨fun hstate hday hcls => (sessionBind_spec s i hrun hcycle hstate hday).1 hcls,
      fun b hstate hday hcls => (sessionBind_spec s i hrun hcycle hstate hday).2 b hcls,
      fun hstate hday => sessionCloseDay_spec s i hrun hcycle hstate hday⟩,
    fun hheld hroom => ?_, fun hdue hplan => ?_, fun hdue => ?_,
    fun hplan hout hsince hrun hcycle hahead => streamDelivery_empty s k hplan hout hsince hrun hcycle hahead,
    fun f fs hplan hout hsince hrun hcycle hahead => streamDelivery_fetched s k hplan hout hsince hrun hcycle hahead,
    fun b fs fl hcfg hin hsince hwhole hrun hcycle => ?_, fun b hcfg hout hsince hvigil => ?_,
    fun hplan hout hsince hvigil => ?_, fun hplan htaken hvigil hempty => blockWrite_none s k hplan htaken hvigil hempty,
    fun hplan htaken hvigil hposted hlo hhi => blockWrite_posted s k hplan htaken hvigil hposted hlo hhi⟩
  · have hstart : s.chip.startHeld = ({ s.chip with sfe := { s.chip.sfe with holdq := is } } : Chip).startAdapt i := by
      rw [Chip.startHeld, hheld]
      exact if_pos hroom
    have hrow : exec .heldAdaptStart s = .next { s with chip := s.chip.startHeld } := rfl
    rw [hstart] at hrow
    exact ⟨_, hrow, ⟨rfl, rfl⟩, rfl, Chip.onSession_same ..⟩
  · exact streamFetch_due s k hplan hdue
  · have hnone : s.chip.fetchBlock k = s.chip := by rw [Chip.fetchBlock, hdue]; rfl
    exact congrArg (fun c : Chip => Host.Outcome.next { s with chip := c }) hnone
  · exact portDelivery_spec s p hcfg hin hsince hwhole hrun hcycle
  · exact portTake_spec s p hcfg hout hsince hvigil
  · exact streamTake_spec s k hplan hout hsince hvigil

end Sys2Proof.Machine
end

section
/-!
PROOFS. Proofs/I2sRows.lean: an I2S port that starts, moves frames and stops.
-/

namespace Sys2Proof.Machine
open Sys2Proof

/-! ### What the rows of a port can change -/

/-- Port p apart, c and d differ in their outputs and in the rows to come alone. -/
structure Chip.PortStep (p : Fin 8) (c d : Chip) : Prop where
  frame : { d with aud := { d.aud with ports := c.aud.ports }, out := c.out, agenda := c.agenda } = c
  other : ∀ q, q ≠ p → d.audPort q = c.audPort q

namespace Chip.PortStep
variable {p : Fin 8} {c d e : Chip}

theorem trans (h : Chip.PortStep p c d) (h' : Chip.PortStep p d e) : Chip.PortStep p c e where
  frame := (congrArg (fun x : Chip => { x with
    aud := { x.aud with ports := c.aud.ports }, out := c.out, agenda := c.agenda }) h'.frame :).trans h.frame
  other q hq := (h'.other q hq).trans (h.other q hq)

theorem onAud (c : Chip) (f : AudPort → AudPort) : Chip.PortStep p c (c.onAud p f) := ⟨rfl, fun _ hq => c.onAud_ne f hq⟩

theorem emit (c : Chip) (o : Out) : Chip.PortStep p c (c.emit o) := ⟨rfl, fun _ _ => rfl⟩

theorem post (c : Chip) (n : Nat) (i : Instr) : Chip.PortStep p c (c.post n i) := ⟨rfl, fun _ _ => rfl⟩

end Chip.PortStep

/-! ### A port starts (R517, R518, R520) -/

/-- A port as it starts (R517, R520, log 37). -/
def AudPort.started (x : AudPort) (now tracked : Nat) (day : BitVec 64) : AudPort :=
  { x with
    running := true, phase := 0, lastBit := false, startDay := some (day + 1), frames := 0, part := 0, frameAt := now
    frameLen := 0, startAt := now, coming := [], tracked := tracked, fifoIn := List.replicate 16 (0, 0)
    fifoOut := List.replicate 16 (0, 0), histIn := [], histOut := [], cur := [], curFlags := 0, whole := none, taken := none
    play := none }

section
variable (c : Chip) (p : Fin 8) {b : List Byte} {g : BitVec 6} (hcfg : c.audCfg p = some (b, g))
include hcfg

theorem Chip.startPort_eq : c.startPort p =
    c.onAud p fun x => x.started c.now (c.nominalRatio b) c.alm.dayCount := by
  unfold Chip.startPort
  rw [hcfg]
  rfl

end

/-- A port that the armed start takes runs. -/
def Chip.startArmed (c : Chip) (p : Fin 8) : Chip := (c.onAud p fun x => { x with run := true }).startPort p

theorem Chip.startArmed_frame (c : Chip) (p : Fin 8) (z : Table AudPort) :
    ({ c.startArmed p with aud := { (c.startArmed p).aud with ports := z } } : Chip) =
      { c with aud := { c.aud with ports := z } } := by
  unfold Chip.startArmed Chip.startPort
  split <;> rfl

theorem Chip.startArmed_audCfg (c : Chip) (p q : Fin 8) : (c.startArmed p).audCfg q = c.audCfg q := by
  have h := congrArg (fun c : Chip => c.audCfg q) (c.startArmed_frame p [])
  exact h

theorem Chip.startArmed_ne (c : Chip) {p q : Fin 8} (hne : q ≠ p) : (c.startArmed p).audPort q = c.audPort q := by
  unfold Chip.startArmed Chip.startPort
  split
  · exact c.onAud_ne _ hne
  · exact (Chip.onAud_ne _ _ hne).trans (c.onAud_ne _ hne)

theorem Chip.startArmed_same (c : Chip) (p : Fin 8) {b : List Byte} {g : BitVec 6} (hcfg : c.audCfg p = some (b, g)) :
    ((c.startArmed p).audPort p).run = true ∧ ((c.startArmed p).audPort p).running = true := by
  have hstart : c.startArmed p = (c.onAud p fun x => { x with run := true }).onAud p fun x =>
      x.started c.now (c.nominalRatio b) c.alm.dayCount :=
    Chip.startPort_eq (c.onAud p fun x => { x with run := true }) p hcfg
  rw [hstart, Chip.onAud_same, Chip.onAud_same]
  exact ⟨rfl, rfl⟩

/-- Ports that start together. -/
theorem Chip.foldl_startArmed (l : List (Fin 8)) (c : Chip) :
    (∀ q, q ∉ l → (l.foldl Chip.startArmed c).audPort q = c.audPort q) ∧
      ∀ p b g, p ∈ l → c.audCfg p = some (b, g) →
        ((l.foldl Chip.startArmed c).audPort p).run = true ∧ ((l.foldl Chip.startArmed c).audPort p).running = true := by
  induction l generalizing c with
  | nil => exact ⟨fun _ _ => rfl, fun _ _ _ hp => absurd hp List.not_mem_nil⟩
  | cons r l ih =>
    obtain ⟨hother, hstarted⟩ := ih (c.startArmed r)
    refine ⟨fun q hq => ?_, fun p b g hp hcfg => ?_⟩
    · rw [List.mem_cons, not_or] at hq
      exact (hother q hq.2).trans (c.startArmed_ne hq.1)
    · by_cases hmem : p ∈ l
      · exact hstarted p b g hmem ((c.startArmed_audCfg r p).trans hcfg)
      · obtain rfl : p = r := (List.mem_cons.mp hp).resolve_right hmem
        rw [List.foldl_cons, hother p hmem]
        exact c.startArmed_same p hcfg

/-- I2S_ARMED_START on its cycle. -/
theorem Chip.armedStart_of_due (c : Chip) (harmed : c.aud.armed = true) (hrun : c.alm.running = true)
    (hlts : c.lts = c.aud.startAt) :
    let d := ((List.finRange 8).filter fun p => flag c.aud.latched p.val && c.audOn p).foldl Chip.startArmed c
    c.armedStart = { d with aud := { d.aud with armed := false } } :=
  if_pos (by simp [harmed, hrun, hlts])

/-! ### Frames (R508, R513, R515) -/

/-- A port that has taken a frame in (R513). -/
def AudPort.framed (b : List Byte) (now : Nat) (left right : Word) (x : AudPort) : AudPort :=
  { x with
    frames := x.frames + 1, frameAt := now, frameLen := now - x.frameAt
    coming :=
      if Chip.inEn b then
        x.coming ++ [(now + 40, (Chip.slotSample (Chip.i2sWidth b) left, Chip.slotSample (Chip.i2sWidth b) right))]
      else x.coming }

/-- The port, once the frame that goes out has left its FIFO (R515). -/
def AudPort.drained (b : List Byte) (y : AudPort) : AudPort :=
  if Chip.outEn b then (if y.fifoOut = [] then Chip.gapOut y else { y with fifoOut := y.fifoOut.tail }) else y

theorem AudPort.drained_line (b : List Byte) (y : AudPort) :
    (y.drained b).div = y.div ∧ (y.drained b).frac = y.frac ∧ (y.drained b).phase = y.phase ∧
      (y.drained b).lastBit = y.lastBit := by
  unfold AudPort.drained
  split
  · split <;> exact ⟨rfl, rfl, rfl, rfl⟩
  · exact ⟨rfl, rfl, rfl, rfl⟩

/-- The oldest frame of the output FIFO goes out, a zero frame where it is empty (R515). -/
def Chip.sendNext (c : Chip) (p : Fin 8) (b : List Byte) : Chip :=
  if Chip.outEn b then
    match (c.audPort p).fifoOut with
    | f :: rest => (c.onAud p fun x => { x with fifoOut := rest }).sendI2s p f
    | [] => (c.onAud p Chip.gapOut).sendI2s p (0, 0)
  else c.sendI2s p (0, 0)

theorem Chip.sendNext_eq (c : Chip) (p : Fin 8) (b : List Byte) :
    ∃ d, Chip.PortStep p c d ∧ d.audPort p = (c.audPort p).drained b ∧ d.out = c.out ∧ d.agenda = c.agenda ∧
      c.sendNext p b = d.sendI2s p (if Chip.outEn b then (c.audPort p).fifoOut.headD (0, 0) else (0, 0)) := by
  unfold Chip.sendNext AudPort.drained
  by_cases hout : Chip.outEn b = true
  · rw [if_pos hout, if_pos hout, if_pos hout]
    cases hfifo : (c.audPort p).fifoOut with
    | nil => exact ⟨_, .onAud c Chip.gapOut, c.onAud_same p _, rfl, rfl, rfl⟩
    | cons f rest =>
      exact ⟨_, .onAud c fun x => { x with fifoOut := rest }, c.onAud_same p _, rfl, rfl, rfl⟩
  · rw [if_neg hout, if_neg hout, if_neg hout]
    exact ⟨c, ⟨rfl, fun _ _ => rfl⟩, rfl, rfl, rfl, rfl⟩

section
variable (c : Chip) (p : Fin 8) {b : List Byte} {g : BitVec 6} (hcfg : c.audCfg p = some (b, g))
include hcfg

/-- A port whose accumulator has moved on, with the last bit that it sent (R507, R511). -/
def AudPort.sent (phase : BitVec 24) (lastBit : Bool) (x : AudPort) : AudPort := { x with phase := phase, lastBit := lastBit }

/-- A frame on the pins: the port's accumulator, and its bits among the outputs. -/
theorem Chip.sendI2s_spec (f : Int × Int) :
    let x := c.audPort p
    let w := Chip.i2sWidth b
    Chip.PortStep p c (c.sendI2s p f) ∧
      (c.sendI2s p f).audPort p =
        x.sent (BitVec.ofNat 24 (x.phase.toNat + 64 * x.frac.toNat)) ((Chip.slotWord w f.2).testBit 0) ∧
      (c.sendI2s p f).out = c.out ++ [.i2s p (Chip.frameBits x.div.toNat x.frac.toNat x.phase.toNat x.lastBit
        (Chip.slotWord w f.1) (Chip.slotWord w f.2))] ∧
      (c.sendI2s p f).agenda = c.agenda := by
  unfold Chip.sendI2s
  rw [hcfg]
  have hport := c.onAud_same p (AudPort.sent (BitVec.ofNat 24 ((c.audPort p).phase.toNat + 64 * (c.audPort p).frac.toNat))
    ((Chip.slotWord (Chip.i2sWidth b) f.2).testBit 0))
  exact ⟨(Chip.PortStep.onAud c _).trans (Chip.PortStep.emit _ _), hport, rfl, rfl⟩

/-- I2S_FRAME of a running port. -/
theorem Chip.i2sFrame_of_running (left right : Word) (hrun : (c.audPort p).running = true) :
    let e := (c.onAud p (AudPort.framed b c.now left right)).sendNext p b
    c.i2sFrame p left right = if (c.audPort p).run then e else e.post 1 (.i2sPortStop p) := by
  unfold Chip.i2sFrame
  rw [hcfg]
  dsimp only
  rw [if_neg (by rw [hrun]; decide)]
  rfl

theorem Chip.i2sFrame_spec (left right : Word) (hrun : (c.audPort p).running = true) :
    let x := c.audPort p
    let w := Chip.i2sWidth b
    let f := if Chip.outEn b then x.fifoOut.headD (0, 0) else (0, 0)
    let d := c.i2sFrame p left right
    Chip.PortStep p c d ∧
      d.audPort p = ((x.framed b c.now left right).drained b).sent (BitVec.ofNat 24 (x.phase.toNat + 64 * x.frac.toNat))
        ((Chip.slotWord w f.2).testBit 0) ∧
      d.out = c.out ++ [.i2s p (Chip.frameBits x.div.toNat x.frac.toNat x.phase.toNat x.lastBit
        (Chip.slotWord w f.1) (Chip.slotWord w f.2))] ∧
      d.agenda = c.agenda ++ (if x.run then [] else [(c.now + 1, .i2sPortStop p)]) := by
  intro x w f d
  have hsame : (c.onAud p (AudPort.framed b c.now left right)).audPort p = x.framed b c.now left right := c.onAud_same p _
  obtain ⟨e, hstep, hport, hout, hagenda, hsend⟩ :=
    (c.onAud p (AudPort.framed b c.now left right)).sendNext_eq p b
  rw [hsame] at hport hsend
  have hall : Chip.PortStep p c e := (Chip.PortStep.onAud c _).trans hstep
  have hcfg' : e.audCfg p = some (b, g) := by
    have h := congrArg (fun c : Chip => c.audCfg p) hall.frame
    exact (h :).trans hcfg
  obtain ⟨hdiv, hfrac, hphase, hlast⟩ := (x.framed b c.now left right).drained_line b
  obtain ⟨hsent, hsentPort, hsentOut, hsentAgenda⟩ := e.sendI2s_spec p hcfg' f
  rw [hport, hfrac, hphase] at hsentPort
  rw [hport, hdiv, hfrac, hphase, hlast, hout] at hsentOut
  rw [hagenda] at hsentAgenda
  have hgo : d = if x.run then e.sendI2s p f else (e.sendI2s p f).post 1 (.i2sPortStop p) := by
    have h := c.i2sFrame_of_running p hcfg left right hrun
    rw [hsend] at h
    exact h
  rw [hgo]
  by_cases hx : x.run = true
  · rw [if_pos hx, if_pos hx]
    exact ⟨hall.trans hsent, hsentPort, hsentOut, hsentAgenda.trans (List.append_nil _).symm⟩
  · rw [if_neg hx, if_neg hx]
    have hnow : (e.sendI2s p f).now = c.now := (congrArg Chip.now (hall.trans hsent).frame :)
    refine ⟨(hall.trans hsent).trans (.post _ _ _), hsentPort, hsentOut, ?_⟩
    rw [Chip.post, hsentAgenda, hnow]
    rfl

end

/-! ### O53 -/

/-- Frames that reach the ASRC: the one that waits, at its cycle (R513, R515). -/
theorem Chip.audComing_single (c : Chip) (p : Fin 8) {u : Nat} {f : Int × Int} (hcoming : (c.audPort p).coming = [(u, f)])
    (hu : u ≤ c.now) : (c.audComing p).audPort p =
      if (c.audPort p).fifoIn.length < 32 then { c.audPort p with coming := [], fifoIn := (c.audPort p).fifoIn ++ [f] }
      else Chip.gapIn { c.audPort p with coming := [] } := by
  have hdue : (c.audPort p).coming.filter (fun f => f.1 ≤ c.now) = [(u, f)] := by rw [hcoming]; simp [hu]
  have hrest : (c.audPort p).coming.filter (fun f => c.now < f.1) = [] := by rw [hcoming]; simp [hu]
  unfold Chip.audComing
  rw [hdue]
  refine (c.onAud_same p _).trans ?_
  rw [hrest]
  rfl

/-- Settles O53. -/
theorem i2sRows : Obligations.I2sRows := by
  unfold Obligations.I2sRows
  intro s p b g left right x hcfg hon
  have hstop : exec (.i2sPortStop p) s = .next { s with chip := s.chip.portStop p } := rfl
  have hsame {i : Instr} {f : Chip → Chip} (hrow : exec i s = .next { s with chip := f s.chip }) (h : f s.chip = s.chip) :
      exec i s = .next s := hrow.trans (congrArg (fun c : Chip => Host.Outcome.next { s with chip := c }) h)
  refine ⟨fun halm hrun hidle => ?_, fun hrun => ?_, fun harmed halm hlts hlatched => ?_, fun harmed => ?_,
    fun hrun hstopped => ?_, fun hidle => ⟨?_, ?_⟩, fun u f hcoming hu => s.chip.audComing_single p hcoming hu,
    fun hrun => ?_⟩
  · have hrow : exec (.i2sPortStart p) s = .next { s with chip := s.chip.portStart p } := rfl
    have hgo : s.chip.portStart p = s.chip.startPort p := if_pos (by simp [x] at hrun hidle; simp [halm, hrun, hidle, hon])
    have hport := s.chip.onAud_same p fun x => x.started s.chip.now (s.chip.nominalRatio b) s.chip.alm.dayCount
    rw [hgo, s.chip.startPort_eq p hcfg] at hrow
    exact ⟨_, hrow, ⟨⟨rfl, rfl⟩, fun m hm => s.chip.onAud_ne _ hm⟩, (congrArg AudPort.running hport :),
      (congrArg AudPort.startDay hport :), (congrArg AudPort.fifoIn hport :), (congrArg AudPort.fifoOut hport :),
      (congrArg AudPort.gain hport :)⟩
  · exact hsame (f := fun c => c.portStart p) rfl (if_neg (by simp [x] at hrun; simp [hrun]))
  · let l := (List.finRange 8).filter fun p => flag s.chip.aud.latched p.val && s.chip.audOn p
    obtain ⟨hother, hstarted⟩ := s.chip.foldl_startArmed l
    have hone (c : Chip) (p : Fin 8) : ({ c.startArmed p with aud := s.chip.aud } : Chip) = { c with aud := s.chip.aud } :=
      (congrArg (fun d : Chip => ({ d with aud := s.chip.aud } : Chip)) (c.startArmed_frame p []) :)
    have hframe : ({ l.foldl Chip.startArmed s.chip with aud := s.chip.aud } : Chip) = s.chip :=
      foldl_keeps (fun c : Chip => ({ c with aud := s.chip.aud } : Chip)) hone l s.chip
    have hrow : exec .i2sArmedStart s = .next { s with chip := s.chip.armedStart } := rfl
    rw [s.chip.armedStart_of_due harmed halm hlts] at hrow
    change exec .i2sArmedStart s = .next { s with chip :=
      { l.foldl Chip.startArmed s.chip with aud := { (l.foldl Chip.startArmed s.chip).aud with armed := false } } } at hrow
    have hp : p ∈ l := by simp [l, flag, hlatched, hon]
    obtain ⟨hp1, hp2⟩ := hstarted p b g hp hcfg
    refine ⟨_, hrow, ⟨rfl, hframe⟩, rfl, hp1, hp2, fun q hq => hother q ?_⟩
    simp only [l, List.mem_filter, flag, Bool.and_eq_true, not_and]
    exact fun _ hlq => absurd (hlq.symm.trans hq) (by decide)
  · exact hsame (f := Chip.armedStart) rfl (if_neg (by simp [harmed]))
  · have hgo : s.chip.portStop p = s.chip.onAud p fun x => { x with
        running := false, startDay := none, coming := [], fifoIn := [], fifoOut := [], play := none, taken := none
        whole := none, cur := [] } := if_pos (by simp [x] at hrun hstopped; simp [hrun, hstopped])
    have hport := congrArg (fun c : Chip => c.audPort p) hgo
    rw [Chip.onAud_same] at hport
    rw [hgo] at hstop hport
    exact ⟨_, hstop, ⟨⟨rfl, rfl⟩, fun m hm => s.chip.onAud_ne _ hm⟩, (congrArg AudPort.running hport :),
      (congrArg AudPort.fifoIn hport :), (congrArg AudPort.fifoOut hport :), (congrArg AudPort.gain hport :)⟩
  · refine hsame (f := fun c => c.i2sFrame p left right) rfl ?_
    unfold Chip.i2sFrame
    rw [hcfg]
    exact if_pos (by simp [x] at hidle; simp [hidle])
  · exact hsame (f := fun c => c.portStop p) rfl (if_neg (by simp [x] at hidle; simp [hidle]))
  · intro w f bits y z
    obtain ⟨hstep, hport, hout, hagenda⟩ := s.chip.i2sFrame_spec p hcfg left right hrun
    have hrow : exec (.i2sFrame p left right) s = .next { s with chip := s.chip.i2sFrame p left right } := rfl
    exact ⟨_, hrow, ⟨rfl, hstep.frame⟩, hstep.other, hport, hout, hagenda⟩

end Sys2Proof.Machine
end

section
/-!
PROOFS. Proofs/FronthaulFrames.lean: frames that end at a fronthaul port, and those that leave its FIFO (12_fronthaul).
-/

namespace Sys2Proof.Machine
open Sys2Proof

/-! ### What the rows of a port can change -/

/-- Port q apart, c and d differ in the rows to come alone. -/
structure Chip.FhStep (q : Fin 2) (c d : Chip) : Prop where
  frame : { d with fhe := { d.fhe with ports := c.fhe.ports }, agenda := c.agenda } = c
  other : ∀ m, m ≠ q → d.fhPort m = c.fhPort m

namespace Chip.FhStep
variable {q : Fin 2} {c d e : Chip}

theorem refl (c : Chip) : Chip.FhStep q c c := ⟨rfl, fun _ _ => rfl⟩

theorem trans (h : Chip.FhStep q c d) (h' : Chip.FhStep q d e) : Chip.FhStep q c e where
  frame := (congrArg (fun x : Chip => { x with
    fhe := { x.fhe with ports := c.fhe.ports }, agenda := c.agenda }) h'.frame :).trans h.frame
  other m hm := (h'.other m hm).trans (h.other m hm)

theorem onFh (c : Chip) (f : FhPort → FhPort) : Chip.FhStep q c (c.onFh q f) := ⟨rfl, fun _ hm => c.onFh_ne f hm⟩

theorem postAt (c : Chip) (n : Nat) (i : Instr) : Chip.FhStep q c (c.postAt n i) := ⟨rfl, fun _ _ => rfl⟩

/-- With the rows to come as they were, nothing but the port differs. -/
theorem only {s : State} {d : Chip} (h : Chip.FhStep q s.chip d) (hagenda : d.agenda = s.chip.agenda) :
    onlyFh q s { s with chip := d } := by
  refine ⟨⟨rfl, ?_⟩, h.other⟩
  have hframe := h.frame
  rw [← hagenda] at hframe
  exact hframe

theorem now (h : Chip.FhStep q c d) : d.now = c.now := (congrArg Chip.now h.frame :)

theorem alm (h : Chip.FhStep q c d) : d.alm = c.alm := (congrArg Chip.alm h.frame :)

theorem hns (h : Chip.FhStep q c d) : d.hns = c.hns := (congrArg Chip.hns h.frame :)

end Chip.FhStep

/-! ### Counters (R563 Table 7) -/

/-- A port with one event more in counter i. -/
def FhPort.counted (i : Nat) (x : FhPort) : FhPort :=
  { x with counters := tput 0 x.counters i (satInc (tget 0 x.counters i)) }

theorem Chip.fhCount_one (c : Chip) (q : Fin 2) (i : Nat) : c.fhCount q i = c.onFh q (FhPort.counted i) := rfl

/-- t is s but for one event more in counter i of port q, and its FIFO. -/
def fhCounted (s : State) (q : Fin 2) (t : State) (i : Nat) : Prop :=
  onlyFh q s t ∧
    { t.chip.fhPort q with counters := (s.chip.fhPort q).counters, fifo := (s.chip.fhPort q).fifo } = s.chip.fhPort q ∧
    tget 0 (t.chip.fhPort q).counters i = satInc (tget 0 (s.chip.fhPort q).counters i) ∧
    ∀ j, j ≠ i → tget 0 (t.chip.fhPort q).counters j = tget 0 (s.chip.fhPort q).counters j

section
variable (s : State) (q : Fin 2) (i : Nat)

theorem fhCounted_fhCount : fhCounted s q { s with chip := s.chip.fhCount q i } i := by
  have hport := s.chip.onFh_same q (FhPort.counted i)
  refine ⟨⟨⟨rfl, rfl⟩, fun m hm => s.chip.onFh_ne _ hm⟩, ?_⟩
  rw [Chip.fhCount_one]
  dsimp only
  rw [hport]
  exact ⟨rfl, tget_tput_same .., fun j hj => tget_tput_ne _ _ _ hj⟩

/-- The oldest frame has left the FIFO, and counts. -/
theorem fhCounted_taken (rest : List (List Byte × Lts × Nat)) :
    let d := (s.chip.onFh q fun p => { p with fifo := rest }).fhCount q i
    fhCounted s q { s with chip := d } i ∧ (d.fhPort q).fifo = rest := by
  intro d
  have hport : d.fhPort q = FhPort.counted i { s.chip.fhPort q with fifo := rest } :=
    (Chip.onFh_same _ q (FhPort.counted i)).trans (congrArg (FhPort.counted i) (s.chip.onFh_same q _))
  have hstep : Chip.FhStep q s.chip d := (Chip.FhStep.onFh s.chip _).trans (.onFh _ _)
  refine ⟨⟨hstep.only rfl, ?_⟩, (congrArg FhPort.fifo hport :)⟩
  dsimp only
  rw [hport]
  exact ⟨rfl, tget_tput_same .., fun j hj => tget_tput_ne _ _ _ hj⟩

end

/-! ### A frame ends at a port (R532 to R534) -/

section
variable (s : State) (q : Fin 2) (f : List Byte) (fcsOk : Bool)

/-- The record that a frame is judged by (R562). -/
def Chip.fhPlan (c : Chip) (q : Fin 2) (f : List Byte) : Option Rec :=
  if Fh.etherType f = 0xAEFE ∧ Fh.msgType f = 0 ∧ c.alm.running = true then
    (c.fhRecFor q (c.fhTarget q (Fh.msgPayload f) c.lts)).filter fun r => Fh.enabled r.body
  else c.fhRec q

theorem Chip.fhFrame_none (c : Chip) (hplan : c.fhPlan q f = none) : c.fhFrame q f fcsOk = c := by
  unfold Chip.fhPlan at hplan
  unfold Chip.fhFrame
  simp only [Bool.and_eq_true, decide_eq_true_eq, and_assoc]
  rw [hplan]

section
variable (c : Chip) {r : Rec} (hplan : c.fhPlan q f = some r)
include hplan

theorem Chip.fhFrame_judged {i : Nat} (hjudge : Fh.judge r.body f fcsOk = some i) :
    c.fhFrame q f fcsOk = if i = 9 then c.post 0 (.macControl q) else c.fhCount q i := by
  unfold Chip.fhPlan at hplan
  unfold Chip.fhFrame
  simp only [Bool.and_eq_true, decide_eq_true_eq, and_assoc]
  rw [hplan]
  dsimp only
  rw [hjudge]
  split
  next h => rw [if_pos (Option.some.inj h)]
  next k hk h =>
    obtain rfl := Option.some.inj h
    rw [if_neg fun h9 => hk h9]
  next h => exact absurd h (by simp)

theorem Chip.fhFrame_passed (hjudge : Fh.judge r.body f fcsOk = none) :
    c.fhFrame q f fcsOk =
      if 262144 < ((c.fhPort q).fifo.map fun x => x.1.length).sum + f.length then c.fhCount q 8
      else (c.onFh q fun p => { p with fifo := p.fifo ++ [(f, c.lts, c.now)] }).post 0
        (if Fh.msgType f = 5 then .delayMeasurementRequest q else .iqData q) := by
  unfold Chip.fhPlan at hplan
  unfold Chip.fhFrame
  simp only [Bool.and_eq_true, decide_eq_true_eq, and_assoc]
  rw [hplan]
  dsimp only
  rw [hjudge]

end

/-- FH_FRAME by the record that judges it (R532 to R534). -/
theorem fhFrame_spec :
    (s.chip.fhPlan q f = none → exec (.fhFrame q f fcsOk) s = .next s) ∧
      ∀ r, s.chip.fhPlan q f = some r →
        (∀ i, Fh.judge r.body f fcsOk = some i → i ≠ 9 →
          ∃ t, exec (.fhFrame q f fcsOk) s = .next t ∧ fhCounted s q t i) ∧
        (Fh.judge r.body f fcsOk = some 9 →
          exec (.fhFrame q f fcsOk) s =
            .next { s with chip := { s.chip with agenda := s.chip.agenda ++ [(s.chip.now, .macControl q)] } }) ∧
        (Fh.judge r.body f fcsOk = none → 262144 < ((s.chip.fhPort q).fifo.map fun y => y.1.length).sum + f.length →
          ∃ t, exec (.fhFrame q f fcsOk) s = .next t ∧ fhCounted s q t 8) ∧
        (Fh.judge r.body f fcsOk = none → ((s.chip.fhPort q).fifo.map fun y => y.1.length).sum + f.length ≤ 262144 →
          ∃ t, exec (.fhFrame q f fcsOk) s = .next t ∧
            keepsBut (fun c => { c with fhe := { c.fhe with ports := s.chip.fhe.ports }, agenda := s.chip.agenda }) s t ∧
            t.chip.fhPort q = { s.chip.fhPort q with fifo := (s.chip.fhPort q).fifo ++ [(f, s.chip.lts, s.chip.now)] } ∧
            t.chip.agenda = s.chip.agenda ++
              [(s.chip.now, if Fh.msgType f = 5 then .delayMeasurementRequest q else .iqData q)]) := by
  have hrow : exec (.fhFrame q f fcsOk) s = .next { s with chip := s.chip.fhFrame q f fcsOk } := rfl
  refine ⟨fun hplan => ?_, fun r hplan => ⟨fun i hjudge hne => ?_, fun hjudge => ?_, fun hjudge hfull => ?_,
    fun hjudge hroom => ?_⟩⟩
  · rw [hrow, s.chip.fhFrame_none q f fcsOk hplan]
  · rw [s.chip.fhFrame_judged q f fcsOk hplan hjudge, if_neg hne] at hrow
    exact ⟨_, hrow, fhCounted_fhCount s q i⟩
  · rw [s.chip.fhFrame_judged q f fcsOk hplan hjudge, if_pos rfl] at hrow
    exact hrow
  · rw [s.chip.fhFrame_passed q f fcsOk hplan hjudge, if_pos hfull] at hrow
    exact ⟨_, hrow, fhCounted_fhCount s q 8⟩
  · rw [s.chip.fhFrame_passed q f fcsOk hplan hjudge, if_neg (Nat.not_lt.mpr hroom)] at hrow
    have hport := s.chip.onFh_same q fun p => { p with fifo := p.fifo ++ [(f, s.chip.lts, s.chip.now)] }
    exact ⟨_, hrow, ⟨rfl, rfl⟩, hport, rfl⟩

end

/-! ### The oldest frame leaves the FIFO (R535 to R547, R554) -/

section
variable (c : Chip) (q : Fin 2) {f : List Byte} {lts : Lts} {at_ : Nat} (hfifo : (c.fhPort q).fifo = [(f, lts, at_)])
  (hheader : Fh.headerOk f = true)
include hfifo hheader

theorem Chip.fhHead_of_one {delay : Bool} (take : Chip → List Byte → Lts → Nat → Chip) (h : (Fh.msgType f = 5) = (delay = true)) :
    c.fhHead q delay take = take (c.onFh q fun p => { p with fifo := [] }) f lts at_ := by
  have htype : decide (Fh.msgType f = 5) = delay := by
    cases delay with
    | false => exact decide_eq_false (by rw [h]; exact Bool.false_ne_true)
    | true => exact decide_eq_true (by rw [h])
  unfold Chip.fhHead
  rw [hfifo]
  dsimp only
  rw [if_neg (not_not.mpr htype), if_neg (by rw [hheader]; decide)]

end

section
variable (c : Chip) (q : Fin 2) {r : Rec} (hrec : c.fhRec q = some r) (hnew : c.fhNew q = none)
include hrec

theorem Chip.fhSps_of_rec : c.fhSps q = some (2 ^ Fh.spsLog2 r.body) := by
  rw [Chip.fhSps, hrec]
  rfl

include hnew

theorem Chip.fhRecFor_of_rec (t : Int) : (c.fhRecFor q t).filter (fun r => Fh.enabled r.body) = some r := by
  have hon : Fh.enabled r.body = true := (Option.filter_eq_some_iff.mp hrec).2
  rw [Chip.fhRecFor, hnew]
  dsimp only
  rw [hrec, Option.filter_some, if_pos hon]

theorem Chip.fhIq_of_bad {p : List Byte} (lts : Lts) (at_ : Nat) (hbad : Fh.iqOk (2 ^ Fh.spsLog2 r.body) p = false) :
    c.fhIq q p lts at_ = c.fhCount q 6 := by
  unfold Chip.fhIq
  have hjudge : (if decide (fldNat lts 0 22 = 0x3FFFFF) = true then c.fhRec q
      else (c.fhRecFor q (c.fhTarget q p lts)).filter fun r => Fh.enabled r.body) = some r := by
    rw [c.fhRecFor_of_rec q hrec hnew, hrec, ite_self]
  dsimp only
  rw [hjudge, c.fhSps_of_rec q hrec]
  dsimp only
  rw [if_pos (by rw [hbad]; decide)]

/-- A message of the almanac's days, for an antenna of the plan (R544). -/
theorem Chip.fhIq_of_entry {p e : List Byte} (lts : Lts) (at_ : Nat) (hok : Fh.iqOk (2 ^ Fh.spsLog2 r.body) p = true)
    (hrun : fldNat lts 0 22 ≠ 0x3FFFFF) (hentry : Chip.fhEntry r.body p = some e) :
    let d := c.fhDay lts
    let t := c.fhTarget q p lts
    let x : Int := if t = d then fldNat lts 0 22 else (fldNat lts 0 22 : Int) - c.alm.dayLen.toNat
    let near := t = d ∨ t = d + 1
    c.fhIq q p lts at_ =
      if near ∧ -(Fh.earlyWin r.body : Int) ≤ x ∧ x ≤ Fh.lateWin r.body then
        c.fhAccept q r.body e p (BitVec.ofInt 64 t) at_
      else if (d : Int) + 2 ≤ t ∨ (near ∧ x < -(Fh.earlyWin r.body : Int)) then c.fhCount q 1
      else c.fhCount q 2 := by
  unfold Chip.fhIq
  have hjudge : (if decide (fldNat lts 0 22 = 0x3FFFFF) = true then c.fhRec q
      else (c.fhRecFor q (c.fhTarget q p lts)).filter fun r => Fh.enabled r.body) = some r := by
    rw [c.fhRecFor_of_rec q hrec hnew, hrec, ite_self]
  dsimp only
  rw [hjudge, c.fhSps_of_rec q hrec]
  dsimp only
  rw [if_neg (by rw [hok]; decide), hentry, decide_eq_false hrun]

end

/-! ### A type 0 message in its window (R544 to R550) -/

section
variable (c : Chip) (q : Fin 2)

/-- c and d have the counter of accepted messages and the FIFO of port q alike. -/
structure Chip.FhPlaced (q : Fin 2) (c d : Chip) : Prop where
  step : Chip.FhStep q c d
  ok : tget 0 (d.fhPort q).counters 0 = tget 0 (c.fhPort q).counters 0
  fifo : (d.fhPort q).fifo = (c.fhPort q).fifo

namespace Chip.FhPlaced
variable {q : Fin 2} {c d e : Chip}

theorem trans (h : Chip.FhPlaced q c d) (h' : Chip.FhPlaced q d e) : Chip.FhPlaced q c e :=
  ⟨h.step.trans h'.step, h'.ok.trans h.ok, h'.fifo.trans h.fifo⟩

theorem refl (c : Chip) : Chip.FhPlaced q c c := ⟨.refl c, rfl, rfl⟩

/-- A change of the port that keeps both. -/
theorem onFh (c : Chip) {f : FhPort → FhPort} (hok : tget 0 (f (c.fhPort q)).counters 0 = tget 0 (c.fhPort q).counters 0)
    (hfifo : (f (c.fhPort q)).fifo = (c.fhPort q).fifo) : Chip.FhPlaced q c (c.onFh q f) where
  step := .onFh c f
  ok := by rw [Chip.onFh_same]; exact hok
  fifo := by rw [Chip.onFh_same]; exact hfifo

theorem fhCount (c : Chip) {k : Nat} (hk : k ≠ 0) (n : Nat) : Chip.FhPlaced q c (c.fhCount q k n) :=
  .onFh c (tget_tput_ne _ _ _ hk.symm) rfl

theorem fhQueue (c : Chip) (ls : List FhLine) : Chip.FhPlaced q c (c.fhQueue q ls) := .onFh c rfl rfl

theorem putRec (c : Chip) (x : SymRec) : Chip.FhPlaced q c (c.putRec q x) := .onFh c rfl rfl

theorem fhSection (c : Chip) (e : List Byte) (day : BitVec 64) (symbol due : Nat) (x : Fh.Sec) :
    Chip.FhPlaced q c (c.fhSection q e day symbol due x) := by
  unfold Chip.fhSection
  split
  · exact .fhCount c (by decide) 1
  · dsimp only
    split
    · exact .fhCount c (by decide) 1
    · have hclamped : Chip.FhPlaced q c (if 0 < (Fh.secGroups e x).2 then c.fhCount q 11 (Fh.secGroups e x).2 else c) := by
        split
        · exact .fhCount c (by decide) _
        · exact .refl c
      split
      · exact ((hclamped.trans (.fhQueue _ _)).trans (.fhQueue _ _)).trans (.putRec _ _)
      · exact (hclamped.trans (.fhQueue _ _)).trans (.putRec _ _)

theorem foldl (f : Chip → Fh.Sec → Chip) (h : ∀ c x, Chip.FhPlaced q c (f c x)) (l : List Fh.Sec) (c : Chip) :
    Chip.FhPlaced q c (l.foldl f c) := by
  induction l generalizing c with
  | nil => exact .refl c
  | cons x l ih => exact (h c x).trans (ih _)

end Chip.FhPlaced

/-- A section whose record has nothing yet and is not whole by it (R549, R550). -/
theorem Chip.fhSection_lines (e : List Byte) (day : BitVec 64) (symbol due : Nat) {x : Fh.Sec} (hvalues : x.values.isSome = true)
    (hplaced : Fh.placed e x = true) (hrecs : (c.fhPort q).recs = []) (hopen : (Fh.secGroups e x).1.length ≠ Fh.groups e) :
    ((c.fhSection q e day symbol due x).fhPort q).lines =
      (c.fhPort q).lines ++ Fh.groupLines e day.toNat symbol due (Fh.secGroups e x).1 := by
  have hrec : c.symRec q e day symbol = ⟨e, day, symbol, [], false, false, false, 0⟩ := by rw [Chip.symRec, hrecs]; rfl
  unfold Chip.fhSection
  rw [if_neg (by simp [hplaced, Option.isSome_iff_ne_none.mp hvalues]), hrec]
  generalize Fh.secGroups e x = groups at hopen
  obtain ⟨gs, clamped⟩ := groups
  dsimp only
  have hfresh : (false || gs.any fun g => ([] : List (Nat × BitVec 4 × List Byte)).any fun h => h.1 = g.1) = false := by simp
  have hlines (p : Prop) [Decidable p] :
      ((if p then c.fhCount q 11 clamped else c).fhPort q).lines = (c.fhPort q).lines := by
    split
    · rw [Chip.fhCount, Chip.onFh_same]
    · rfl
  rw [if_neg (by rw [hfresh]; exact Bool.false_ne_true), List.nil_append, if_neg hopen, Chip.putRec, Chip.onFh_same, Chip.fhQueue, Chip.onFh_same]
  exact congrArg (· ++ _) (hlines _)

/-- The first message of a day on TICK_SYM ticks (R546). -/
def Chip.fhTicked (c : Chip) (q : Fin 2) (b p : List Byte) (day : BitVec 64) (at_ : Nat) : Chip :=
  if Fh.symbolId p = Fh.tickSym b && !((c.fhPort q).ticked.contains day) then
    (c.onFh q fun x => { x with ticked := (x.ticked.filter fun d => c.alm.dayCount.toNat ≤ d.toNat + 1) ++ [day] }).fhTick q b at_
  else c

theorem Chip.fhTicked_spec (b p : List Byte) (day : BitVec 64) (at_ : Nat) :
    let d := c.fhTicked q b p day at_
    Chip.FhPlaced q c d ∧ (d.fhPort q).recs = (c.fhPort q).recs ∧ (d.fhPort q).lines = (c.fhPort q).lines := by
  unfold Chip.fhTicked
  split
  · let f : FhPort → FhPort := fun x =>
      { x with ticked := (x.ticked.filter fun d => c.alm.dayCount.toNat ≤ d.toNat + 1) ++ [day] }
    have hport : ((c.onFh q f).fhTick q b at_).fhPort q = f (c.fhPort q) := c.onFh_same q f
    have hstep : Chip.FhStep q c ((c.onFh q f).fhTick q b at_) := (Chip.FhStep.onFh c f).trans (.postAt _ _ _)
    exact ⟨⟨hstep, by rw [hport], by rw [hport]⟩, by rw [hport], by rw [hport]⟩
  · exact ⟨.refl c, rfl, rfl⟩

/-- A message in its window counts, and its sections are placed (R544, R546). -/
theorem Chip.fhAccept_eq (b e p : List Byte) (day : BitVec 64) (at_ : Nat) : c.fhAccept q b e p day at_ =
    (Fh.sections (Fh.staticComp b) p.length (p.drop 8)).foldl
      (fun c x => c.fhSection q e day (Fh.symbolId p) (at_ + 120) x) ((c.fhCount q 0).fhTicked q b p day at_) := rfl

theorem Chip.fhAccept_spec (b e p : List Byte) (day : BitVec 64) (at_ : Nat) :
    let d := c.fhAccept q b e p day at_
    Chip.FhStep q c d ∧ tget 0 (d.fhPort q).counters 0 = satInc (tget 0 (c.fhPort q).counters 0) ∧
      (d.fhPort q).fifo = (c.fhPort q).fifo ∧
      ∀ sec, Fh.sections (Fh.staticComp b) p.length (p.drop 8) = [sec] → sec.values.isSome = true → Fh.placed e sec = true →
        (c.fhPort q).recs = [] → (Fh.secGroups e sec).1.length ≠ Fh.groups e →
        (d.fhPort q).lines = (c.fhPort q).lines ++
          Fh.groupLines e day.toNat (Fh.symbolId p) (at_ + 120) (Fh.secGroups e sec).1 := by
  rw [Chip.fhAccept_eq]
  have hport : (c.fhCount q 0).fhPort q = FhPort.counted 0 (c.fhPort q) := c.onFh_same q _
  obtain ⟨hticked, hrecs, hlines⟩ := (c.fhCount q 0).fhTicked_spec q b p day at_
  have hfold := hticked.trans (.foldl _ (fun c x => .fhSection c e day (Fh.symbolId p) (at_ + 120) x)
    (Fh.sections (Fh.staticComp b) p.length (p.drop 8)) _)
  refine ⟨(Chip.FhStep.onFh c (FhPort.counted 0)).trans hfold.step, ?_, ?_, fun sec hsecs hvalues hplaced hnone hopen => ?_⟩
  · rw [hfold.ok, hport]
    exact tget_tput_same ..
  · rw [hfold.fifo, hport]
    rfl
  · rw [hsecs, List.foldl_cons, List.foldl_nil,
      Chip.fhSection_lines _ q e day _ _ hvalues hplaced (by rw [hrecs, hport]; exact hnone) hopen, hlines, hport]
    rfl

end

section
variable (s : State) (q : Fin 2) {r : Rec} (hrec : s.chip.fhRec q = some r) {f : List Byte} {lts : Lts} {at_ : Nat}
  (hfifo : (s.chip.fhPort q).fifo = [(f, lts, at_)]) (hheader : Fh.headerOk f = true)
include hfifo hheader

/-- IQ_DATA of a frame of no IQ type (R535). -/
theorem iqData_other (h0 : Fh.msgType f ≠ 0) (h5 : Fh.msgType f ≠ 5) :
    ∃ t, exec (.iqData q) s = .next t ∧ fhCounted s q t 5 ∧ (t.chip.fhPort q).fifo = [] := by
  have hrow : exec (.iqData q) s = .next { s with chip := s.chip.fhIqHead q } := rfl
  rw [Chip.fhIqHead, s.chip.fhHead_of_one q hfifo hheader _ (by simp [h5])] at hrow
  rw [if_neg h0] at hrow
  obtain ⟨hcounted, hrest⟩ := fhCounted_taken s q 5 []
  exact ⟨_, hrow, hcounted, hrest⟩

/-- IQ_DATA of a type 0 message, once its frame has left the FIFO. -/
theorem iqData_iq (h0 : Fh.msgType f = 0) : exec (.iqData q) s =
    .next { s with chip := (s.chip.onFh q fun p => { p with fifo := [] }).fhIq q (Fh.msgPayload f) lts at_ } := by
  have hrow : exec (.iqData q) s = .next { s with chip := s.chip.fhIqHead q } := rfl
  rw [Chip.fhIqHead, s.chip.fhHead_of_one q hfifo hheader _ (by simp [h0])] at hrow
  rw [if_pos h0] at hrow
  exact hrow

include hrec

theorem iqData_bad (h0 : Fh.msgType f = 0) (hnew : s.chip.fhNew q = none)
    (hbad : Fh.iqOk (2 ^ Fh.spsLog2 r.body) (Fh.msgPayload f) = false) :
    ∃ t, exec (.iqData q) s = .next t ∧ fhCounted s q t 6 ∧ (t.chip.fhPort q).fifo = [] := by
  have hrow := iqData_iq s q hfifo hheader h0
  rw [Chip.fhIq_of_bad (s.chip.onFh q fun p => { p with fifo := [] }) q hrec hnew lts at_ hbad] at hrow
  obtain ⟨hcounted, hrest⟩ := fhCounted_taken s q 6 []
  exact ⟨_, hrow, hcounted, hrest⟩

/-- IQ_DATA by the window of its target day (R544). -/
theorem iqData_window {e : List Byte} (h0 : Fh.msgType f = 0) (hnew : s.chip.fhNew q = none)
    (hok : Fh.iqOk (2 ^ Fh.spsLog2 r.body) (Fh.msgPayload f) = true) (hrun : lts.extractLsb' 0 22 ≠ 0x3FFFFF)
    (hentry : Chip.fhEntry r.body (Fh.msgPayload f) = some e) :
    let d : Int := s.chip.fhDay lts
    let t0 := s.chip.fhTarget q (Fh.msgPayload f) lts
    let at0 : Int := (lts.extractLsb' 0 22).toNat
    let secs := Fh.sections (Fh.staticComp r.body) (Fh.msgPayload f).length ((Fh.msgPayload f).drop 8)
    let x := s.chip.fhPort q
    (t0 < d ∨ (t0 = d ∧ (Fh.lateWin r.body : Int) < at0) → ∃ t, exec (.iqData q) s = .next t ∧ fhCounted s q t 2) ∧
    (d + 2 ≤ t0 ∨ (t0 = d + 1 ∧ at0 - s.chip.alm.dayLen.toNat < -(Fh.earlyWin r.body : Int)) →
      ∃ t, exec (.iqData q) s = .next t ∧ fhCounted s q t 1) ∧
    ((t0 = d ∧ at0 ≤ (Fh.lateWin r.body : Int)) ∨
        (t0 = d + 1 ∧ -(Fh.earlyWin r.body : Int) ≤ at0 - s.chip.alm.dayLen.toNat ∧
          at0 - s.chip.alm.dayLen.toNat ≤ (Fh.lateWin r.body : Int)) →
      ∃ t, exec (.iqData q) s = .next t ∧
        keepsBut (fun c => { c with fhe := { c.fhe with ports := s.chip.fhe.ports }, agenda := s.chip.agenda }) s t ∧
        tget 0 (t.chip.fhPort q).counters 0 = satInc (tget 0 x.counters 0) ∧ (t.chip.fhPort q).fifo = [] ∧
        (∀ sec, secs = [sec] → sec.values.isSome = true → Fh.placed e sec = true → x.recs = [] →
          (Fh.secGroups e sec).1.length ≠ Fh.groups e →
          (t.chip.fhPort q).lines = x.lines ++
            Fh.groupLines e (BitVec.ofInt 64 t0).toNat (Fh.symbolId (Fh.msgPayload f)) (at_ + 120)
              (Fh.secGroups e sec).1)) := by
  intro d t0 at0 secs x
  let c := s.chip.onFh q fun p => { p with fifo := [] }
  have hport : c.fhPort q = { x with fifo := [] } := s.chip.onFh_same q _
  have htarget : c.fhTarget q (Fh.msgPayload f) lts = t0 := by
    rw [Chip.fhTarget, hport]
    rfl
  have hne : fldNat lts 0 22 ≠ 0x3FFFFF := fun h => hrun (BitVec.eq_of_toNat_eq h)
  have hrow := iqData_iq s q hfifo hheader h0
  have hiq := c.fhIq_of_entry q hrec hnew lts at_ hok hne hentry
  dsimp only at hiq
  rw [htarget] at hiq
  change exec (.iqData q) s = .next { s with chip := c.fhIq q (Fh.msgPayload f) lts at_ } at hrow
  change c.fhIq q (Fh.msgPayload f) lts at_ =
    if (t0 = d ∨ t0 = d + 1) ∧ -(Fh.earlyWin r.body : Int) ≤ (if t0 = d then at0 else at0 - s.chip.alm.dayLen.toNat) ∧
      (if t0 = d then at0 else at0 - s.chip.alm.dayLen.toNat) ≤ Fh.lateWin r.body then
      c.fhAccept q r.body e (Fh.msgPayload f) (BitVec.ofInt 64 t0) at_
    else if d + 2 ≤ t0 ∨ ((t0 = d ∨ t0 = d + 1) ∧
      (if t0 = d then at0 else at0 - s.chip.alm.dayLen.toNat) < -(Fh.earlyWin r.body : Int)) then c.fhCount q 1
    else c.fhCount q 2 at hiq
  have hat : 0 ≤ at0 := Int.natCast_nonneg _
  have hearly : 0 ≤ (Fh.earlyWin r.body : Int) := Int.natCast_nonneg _
  rw [hiq] at hrow
  refine ⟨fun hlate => ?_, fun hsoon => ?_, fun hwindow => ?_⟩
  · rw [if_neg (by split <;> omega), if_neg (by split <;> omega)] at hrow
    exact ⟨_, hrow, (fhCounted_taken s q 2 []).1⟩
  · rw [if_neg (by split <;> omega), if_pos (by split <;> omega)] at hrow
    exact ⟨_, hrow, (fhCounted_taken s q 1 []).1⟩
  · rw [if_pos (by split <;> omega)] at hrow
    obtain ⟨hstep, hcount, hrest, hlines⟩ := c.fhAccept_spec q r.body e (Fh.msgPayload f) (BitVec.ofInt 64 t0) at_
    rw [hport] at hcount hrest hlines
    exact ⟨_, hrow, ⟨rfl, ((Chip.FhStep.onFh s.chip _).trans hstep).frame⟩, hcount, hrest, hlines⟩

end

section
variable (s : State) (q : Fin 2) {r : Rec} (hrec : s.chip.fhRec q = some r) {f : List Byte} {lts : Lts} {at_ : Nat}
  (hfifo : (s.chip.fhPort q).fifo = [(f, lts, at_)]) (hheader : Fh.headerOk f = true) (h5 : Fh.msgType f = 5)
include hrec hfifo hheader h5

/-- A delay request as its reply will need it (R554). -/
def Fh.delayReq (f : List Byte) (lts : Lts) : DelayReq :=
  ⟨BitVec.ofNat 48 (Fh.beAt f 6 6), Fh.tagged f, BitVec.ofNat 16 (Fh.beAt f 14 2), (Fh.msgPayload f).getD 0 0, lts⟩

/-- DELAY_MEASUREMENT_REQUEST: a request that is to be answered (R554). -/
theorem delayRequest_taken (hon : Fh.dlyEn r.body = true) (hrun : lts.extractLsb' 0 22 ≠ 0x3FFFFF)
    (hlen : 2 ≤ (Fh.msgPayload f).length) (hreq : Fh.beAt (Fh.msgPayload f) 1 1 = 0) :
    ∃ t y, exec (.delayMeasurementRequest q) s = .next t ∧
      keepsBut (fun c => { c with fhe := { c.fhe with ports := s.chip.fhe.ports }, agenda := s.chip.agenda }) s t ∧
      (t.chip.fhPort q).replies = (s.chip.fhPort q).replies ++ [y] ∧ y.lts = lts ∧ y.measId = (Fh.msgPayload f).getD 0 0 ∧
      tget 0 (t.chip.fhPort q).counters 10 = satInc (tget 0 (s.chip.fhPort q).counters 10) ∧ (t.chip.fhPort q).fifo = [] ∧
      t.chip.agenda = s.chip.agenda ++ [(at_ + 2048, .delayMeasurementReply q)] := by
  let c := s.chip.onFh q fun p => { p with fifo := [] }
  have hne : fldNat lts 0 22 ≠ 0x3FFFFF := fun h => hrun (BitVec.eq_of_toNat_eq h)
  have hrow : exec (.delayMeasurementRequest q) s = .next { s with chip := s.chip.fhDelayHead q } := rfl
  have hrec' : c.fhRec q = some r := hrec
  have hcond : (!Fh.dlyEn r.body || fldNat lts 0 22 = 0x3FFFFF || (Fh.msgPayload f).length < 2 ||
      Fh.beAt (Fh.msgPayload f) 1 1 ≠ 0) = false := by simp [hon, hne, hreq]; exact hlen
  let y := Fh.delayReq f lts
  have hgo : s.chip.fhDelayHead q =
      ((c.fhCount q 10).onFh q fun x => { x with replies := x.replies ++ [y] }).postAt (at_ + 2048)
        (.delayMeasurementReply q) := by
    rw [Chip.fhDelayHead, s.chip.fhHead_of_one q hfifo hheader _ (by simp [h5])]
    dsimp only
    rw [hrec']
    dsimp only
    rw [if_neg (by rw [hcond]; exact Bool.false_ne_true)]
    rfl
  have hport : ((c.fhCount q 10).onFh q fun x => { x with replies := x.replies ++ [y] }).fhPort q =
      { FhPort.counted 10 { s.chip.fhPort q with fifo := [] } with replies := (s.chip.fhPort q).replies ++ [y] } := by
    rw [Chip.onFh_same, Chip.fhCount_one, Chip.onFh_same, Chip.onFh_same]
    rfl
  have hstep : Chip.FhStep q s.chip ((c.fhCount q 10).onFh q fun x => { x with replies := x.replies ++ [y] }) :=
    ((Chip.FhStep.onFh s.chip _).trans (.onFh _ _)).trans (.onFh _ _)
  have hlast := hstep.trans (.postAt _ (at_ + 2048) (.delayMeasurementReply q))
  have hagenda : ((c.fhCount q 10).onFh q fun x => { x with replies := x.replies ++ [y] }).agenda = s.chip.agenda := rfl
  rw [hgo] at hrow
  generalize ((c.fhCount q 10).onFh q fun x => { x with replies := x.replies ++ [y] }) = d at hrow hport hlast hagenda
  refine ⟨_, y, hrow, ⟨rfl, hlast.frame⟩, (congrArg FhPort.replies hport :), rfl, rfl, ?_, (congrArg FhPort.fifo hport :), ?_⟩
  · have hcount := (congrArg FhPort.counters hport :)
    exact (congrArg (fun x => tget 0 x 10) hcount).trans (tget_tput_same ..)
  · exact congrArg (· ++ _) hagenda

/-- All else is dropped (R535, R554). -/
theorem delayRequest_dropped (hbad : Fh.dlyEn r.body = false ∨ lts.extractLsb' 0 22 = 0x3FFFFF ∨
    (Fh.msgPayload f).length < 2 ∨ Fh.beAt (Fh.msgPayload f) 1 1 ≠ 0) :
    ∃ t, exec (.delayMeasurementRequest q) s = .next t ∧ fhCounted s q t 5 ∧ (t.chip.fhPort q).fifo = [] := by
  let c := s.chip.onFh q fun p => { p with fifo := [] }
  have hrow : exec (.delayMeasurementRequest q) s = .next { s with chip := s.chip.fhDelayHead q } := rfl
  have hrec' : c.fhRec q = some r := hrec
  have hcond : (!Fh.dlyEn r.body || fldNat lts 0 22 = 0x3FFFFF || (Fh.msgPayload f).length < 2 ||
      Fh.beAt (Fh.msgPayload f) 1 1 ≠ 0) = true := by
    have hend (h : lts.extractLsb' 0 22 = 0x3FFFFF) : fldNat lts 0 22 = 0x3FFFFF := congrArg BitVec.toNat h
    rcases hbad with h | h | h | h
    · simp [h]
    · simp [hend h]
    · simp [h]
    · simp [h]
  rw [Chip.fhDelayHead, s.chip.fhHead_of_one q hfifo hheader _ (by simp [h5])] at hrow
  dsimp only at hrow
  rw [hrec'] at hrow
  dsimp only at hrow
  rw [if_pos hcond] at hrow
  obtain ⟨hcounted, hrest⟩ := fhCounted_taken s q 5 []
  exact ⟨_, hrow, hcounted, hrest⟩

end

end Sys2Proof.Machine
end

section
/-!
PROOFS. Proofs/FronthaulRows.lean: symbol records, delay replies, output copies and the link of a fronthaul port
(12_fronthaul).
-/

namespace Sys2Proof.Machine
open Sys2Proof

/-! ### The line that goes next (R552) -/

/-- The choice between two lines that can go. -/
def FhLine.pick (best : Option FhLine) (l : FhLine) : Option FhLine :=
  match best with
  | none => some l
  | some b => if l.day < b.day ∨ (l.day = b.day ∧ l.due < b.due) then some l else some b

theorem Chip.nextLine_eq (c : Chip) (q : Fin 2) :
    c.nextLine q = ((c.fhPort q).lines.filter fun l => l.due ≤ c.now).foldl FhLine.pick none := rfl

/-- The line chosen is one of them, and none is of an earlier day. -/
theorem foldl_pick {b l : FhLine} (ls : List FhLine) (h : ls.foldl FhLine.pick (some b) = some l) :
    (l = b ∨ l ∈ ls) ∧ l.day ≤ b.day ∧ ∀ m ∈ ls, l.day ≤ m.day := by
  induction ls generalizing b with
  | nil =>
    obtain rfl := Option.some.inj h
    exact ⟨.inl rfl, le_rfl, fun m hm => absurd hm List.not_mem_nil⟩
  | cons a ls ih =>
    rw [List.foldl_cons, FhLine.pick] at h
    split at h
    next hearlier =>
      obtain ⟨hmem, hday, hall⟩ := ih h
      refine ⟨.inr (List.mem_cons.mpr hmem), by omega, fun m hm => ?_⟩
      rcases List.mem_cons.mp hm with rfl | hm
      · exact hday
      · exact hall m hm
    next hlater =>
      obtain ⟨hmem, hday, hall⟩ := ih h
      refine ⟨hmem.imp_right (List.mem_cons_of_mem _), hday, fun m hm => ?_⟩
      rcases List.mem_cons.mp hm with rfl | hm
      · omega
      · exact hall m hm

theorem Chip.nextLine_spec (c : Chip) (q : Fin 2) {l : FhLine} (h : c.nextLine q = some l) :
    l ∈ (c.fhPort q).lines ∧ l.due ≤ c.now ∧ ∀ m ∈ (c.fhPort q).lines, m.due ≤ c.now → l.day ≤ m.day := by
  rw [Chip.nextLine_eq] at h
  cases hready : (c.fhPort q).lines.filter fun l => l.due ≤ c.now with
  | nil =>
    rw [hready] at h
    exact absurd h (by simp)
  | cons a ls =>
    rw [hready] at h
    obtain ⟨hmem, hday, hall⟩ := foldl_pick ls h
    have hl : l ∈ (c.fhPort q).lines.filter fun l => l.due ≤ c.now := by rw [hready]; exact List.mem_cons.mpr hmem
    rw [List.mem_filter, decide_eq_true_eq] at hl
    refine ⟨hl.1, hl.2, fun m hm hdue => ?_⟩
    have hmem : m ∈ a :: ls := by
      rw [← hready]
      exact List.mem_filter.mpr ⟨hm, decide_eq_true hdue⟩
    rcases List.mem_cons.mp hmem with rfl | hm
    · exact hday
    · exact hall m hm

theorem Chip.nextLine_none (c : Chip) (q : Fin 2) (h : ∀ m ∈ (c.fhPort q).lines, c.now < m.due) : c.nextLine q = none := by
  rw [Chip.nextLine_eq, List.filter_eq_nil_iff.mpr fun m hm => by simpa using h m hm]
  rfl

/-- GROUP_WRITE: the line goes as VC2 (R550, R552). -/
theorem groupWrite_spec (s : State) (q : Fin 2) {l : FhLine} (h : s.chip.nextLine q = some l) :
    ∃ t, exec (.groupWrite q) s = .next t ∧
      keepsBut (fun c => { c with fhe := { c.fhe with ports := s.chip.fhe.ports }, fab := s.chip.fab }) s t ∧
      t.chip.fhPort q = { s.chip.fhPort q with lines := (s.chip.fhPort q).lines.erase l } ∧
      t.chip.fab = (s.chip.send (eidFronthaul q)
        (packet 0xFFFF (if l.notify.isSome then tDataWrNotify else tDataWr) 2 (tileEid l.tile) 32
          (BitVec.ofNat 24 (32 * l.line.toNat)) (l.notify.getD 0) l.data)).fab := by
  have hgo : s.chip.fhWriteLine q = (s.chip.send (eidFronthaul q)
      (packet 0xFFFF (if l.notify.isSome then tDataWrNotify else tDataWr) 2 (tileEid l.tile) 32
        (BitVec.ofNat 24 (32 * l.line.toNat)) (l.notify.getD 0) l.data)).onFh q fun p => { p with lines := p.lines.erase l } := by
    unfold Chip.fhWriteLine
    rw [h]
    dsimp only
    cases l.notify <;> rfl
  have hrow : exec (.groupWrite q) s = .next { s with chip := s.chip.fhWriteLine q } := rfl
  generalize packet 0xFFFF (if l.notify.isSome then tDataWrNotify else tDataWr) 2 (tileEid l.tile) 32
    (BitVec.ofNat 24 (32 * l.line.toNat)) (l.notify.getD 0) l.data = p at hgo
  rw [hgo, Chip.send_eq] at hrow
  generalize (s.chip.send (eidFronthaul q) p).fab = fab at hrow
  have hport := Chip.onFh_same { s.chip with fab := fab } q fun p => { p with lines := p.lines.erase l }
  exact ⟨_, hrow, ⟨rfl, rfl⟩, hport, rfl⟩

/-! ### A day's records close (R551) -/

/-- The key of a symbol record. -/
def SymRec.keyed (e : List Byte) (day : BitVec 64) (symbol : Nat) (x : SymRec) : Bool :=
  x.ent = e && x.day = day && x.symbol = symbol

section
variable (c : Chip) (q : Fin 2)

theorem Chip.symRec_eq (e : List Byte) (day : BitVec 64) (symbol : Nat) : c.symRec q e day symbol =
    ((c.fhPort q).recs.find? (SymRec.keyed e day symbol)).getD ⟨e, day, symbol, [], false, false, false, 0⟩ := by
  unfold Chip.symRec
  change (match (c.fhPort q).recs.find? (SymRec.keyed e day symbol) with | some x => x | none => _) = _
  cases (c.fhPort q).recs.find? (SymRec.keyed e day symbol) <;> rfl

theorem Chip.symRec_key (e : List Byte) (day : BitVec 64) (symbol : Nat) :
    (c.symRec q e day symbol).ent = e ∧ (c.symRec q e day symbol).day = day ∧ (c.symRec q e day symbol).symbol = symbol := by
  rw [Chip.symRec_eq]
  cases h : (c.fhPort q).recs.find? (SymRec.keyed e day symbol) with
  | none => exact ⟨rfl, rfl, rfl⟩
  | some x =>
    have hkey := List.find?_some h
    simp only [SymRec.keyed, Bool.and_eq_true, decide_eq_true_eq, and_assoc] at hkey
    exact hkey

theorem SymRec.keyed_iff {e : List Byte} {day : BitVec 64} {symbol : Nat} {x : SymRec} :
    x.keyed e day symbol = true ↔ x.ent = e ∧ x.day = day ∧ x.symbol = symbol := by
  simp only [SymRec.keyed, Bool.and_eq_true, decide_eq_true_eq, and_assoc]

theorem Chip.symRec_congr {c d : Chip} (h : (d.fhPort q).recs = (c.fhPort q).recs) (e : List Byte) (day : BitVec 64)
    (symbol : Nat) : d.symRec q e day symbol = c.symRec q e day symbol := by
  rw [Chip.symRec_eq, Chip.symRec_eq, h]

theorem Chip.putRec_recs (x : SymRec) : ((c.putRec q x).fhPort q).recs =
    ((c.fhPort q).recs.filter fun y => !(y.keyed x.ent x.day x.symbol)) ++ [x] :=
  congrArg FhPort.recs (c.onFh_same q _)

theorem Chip.symRec_putRec_same (x : SymRec) : (c.putRec q x).symRec q x.ent x.day x.symbol = x := by
  have hx : x.keyed x.ent x.day x.symbol = true := SymRec.keyed_iff.mpr ⟨rfl, rfl, rfl⟩
  rw [Chip.symRec_eq, Chip.putRec_recs, List.find?_append, List.find?_filter, List.find?_eq_none.mpr (by simp),
    Option.none_or, List.find?_cons_of_pos hx]
  rfl

theorem Chip.symRec_putRec_ne (x : SymRec) {e : List Byte} {day : BitVec 64} {symbol : Nat}
    (hne : ¬ x.keyed e day symbol = true) : (c.putRec q x).symRec q e day symbol = c.symRec q e day symbol := by
  have hkeys : (fun y : SymRec => decide ((!y.keyed x.ent x.day x.symbol) = true ∧ y.keyed e day symbol = true)) =
      SymRec.keyed e day symbol := by
    funext y
    cases hy : y.keyed e day symbol with
    | false => simp
    | true =>
      have hother : y.keyed x.ent x.day x.symbol = false := by
        rw [← Bool.not_eq_true, SymRec.keyed_iff]
        rintro ⟨he, hd, hs⟩
        obtain ⟨he', hd', hs'⟩ := SymRec.keyed_iff.mp hy
        exact hne (SymRec.keyed_iff.mpr ⟨he ▸ he', hd ▸ hd', hs ▸ hs'⟩)
      simp [hother]
  rw [Chip.symRec_eq, Chip.symRec_eq, Chip.putRec_recs, List.find?_append, List.find?_filter, hkeys,
    List.find?_cons_of_neg hne, List.find?_nil, Option.or_none]

end

/-- A record as its day closes it (R551). -/
def SymRec.closedIncomplete (r : SymRec) : Prop := r.closed = true ∧ r.incomplete = true

/-- A record that is open is filled, and its lines wait (R551, R552). -/
theorem Chip.closeRec_of_open (c : Chip) (q : Fin 2) (e : List Byte) (day : BitVec 64) (symbol : Nat)
    (h : ¬ (c.symRec q e day symbol).closed = true) :
    ∃ ls ls' r, c.closeRec q e day symbol = (((c.fhCount q 12).fhQueue q ls).fhQueue q ls').putRec q r ∧
      r.keyed e day symbol = true ∧ r.closedIncomplete := by
  unfold Chip.closeRec
  dsimp only
  rw [if_neg h]
  exact ⟨_, _, _, rfl, SymRec.keyed_iff.mpr (c.symRec_key q e day symbol), rfl, rfl⟩

/-- What closing one record of a day does to the records. -/
theorem Chip.closeRec_spec (c : Chip) (q : Fin 2) (e : List Byte) (day : BitVec 64) (symbol : Nat) :
    let d := c.closeRec q e day symbol
    Chip.FhStep q c d ∧ d.agenda = c.agenda ∧ (d.symRec q e day symbol).closed = true ∧
      ∀ e' symbol', d.symRec q e' day symbol' = c.symRec q e' day symbol' ∨
        (d.symRec q e' day symbol').closedIncomplete := by
  by_cases hclosed : (c.symRec q e day symbol).closed = true
  · have hsame : c.closeRec q e day symbol = c := if_pos hclosed
    rw [hsame]
    exact ⟨.refl c, rfl, hclosed, fun _ _ => .inl rfl⟩
  · obtain ⟨ls, ls', r, heq, hkey, hdone⟩ := c.closeRec_of_open q e day symbol hclosed
    have hrecs : ((((c.fhCount q 12).fhQueue q ls).fhQueue q ls').fhPort q).recs = (c.fhPort q).recs := by
      rw [Chip.fhQueue, Chip.onFh_same, Chip.fhQueue, Chip.onFh_same, Chip.fhCount_one, Chip.onFh_same]
      rfl
    have hstep : Chip.FhStep q c (((c.fhCount q 12).fhQueue q ls).fhQueue q ls') :=
      ((Chip.FhStep.onFh c _).trans (.onFh _ _)).trans (.onFh _ _)
    have hagenda : (((c.fhCount q 12).fhQueue q ls).fhQueue q ls').agenda = c.agenda := rfl
    rw [heq]
    generalize ((c.fhCount q 12).fhQueue q ls).fhQueue q ls' = d at hrecs hstep hagenda
    have hput : ∀ e' symbol', r.keyed e' day symbol' = true → (d.putRec q r).symRec q e' day symbol' = r := by
      intro e' symbol' hkey'
      obtain ⟨rfl, rfl, rfl⟩ := SymRec.keyed_iff.mp hkey'
      exact d.symRec_putRec_same q r
    refine ⟨hstep.trans (.onFh d _), hagenda, (congrArg SymRec.closed (hput e symbol hkey)).trans hdone.1, fun e' symbol' => ?_⟩
    by_cases hkey' : r.keyed e' day symbol' = true
    · exact .inr (by rw [hput e' symbol' hkey']; exact hdone)
    · exact .inl ((d.symRec_putRec_ne q r hkey').trans (Chip.symRec_congr q hrecs e' day symbol'))

/-- Records of a day close one after the other: each is then closed, INCOMPLETE unless it was closed before. -/
structure Chip.Closing (q : Fin 2) (day : BitVec 64) (done : List Byte → Nat → Prop) (c d : Chip) : Prop where
  step : Chip.FhStep q c d
  agenda : d.agenda = c.agenda
  closed : ∀ e symbol, done e symbol → (d.symRec q e day symbol).closed = true
  kept : ∀ e symbol, d.symRec q e day symbol = c.symRec q e day symbol ∨ (d.symRec q e day symbol).closedIncomplete

namespace Chip.Closing
variable {q : Fin 2} {day : BitVec 64} {done done' : List Byte → Nat → Prop} {c d e : Chip}

theorem trans (h : Chip.Closing q day done c d) (h' : Chip.Closing q day done' d e) :
    Chip.Closing q day (fun x y => done x y ∨ done' x y) c e where
  step := h.step.trans h'.step
  agenda := h'.agenda.trans h.agenda
  closed x y := by
    rintro (hdone | hdone)
    · rcases h'.kept x y with hsame | hclosed
      · rw [hsame]
        exact h.closed x y hdone
      · exact hclosed.1
    · exact h'.closed x y hdone
  kept x y := by
    rcases h'.kept x y with hsame | hclosed
    · rw [hsame]
      exact h.kept x y
    · exact .inr hclosed

theorem mono (h : Chip.Closing q day done c d) (hless : ∀ x y, done' x y → done x y) : Chip.Closing q day done' c d :=
  ⟨h.step, h.agenda, fun x y hxy => h.closed x y (hless x y hxy), h.kept⟩

theorem closeRec (c : Chip) (x : List Byte) (y : Nat) :
    Chip.Closing q day (fun x' y' => x' = x ∧ y' = y) c (c.closeRec q x day y) := by
  obtain ⟨hstep, hagenda, hclosed, hkept⟩ := c.closeRec_spec q x day y
  exact ⟨hstep, hagenda, fun x' y' ⟨hx, hy⟩ => by rw [hx, hy]; exact hclosed, hkept⟩

/-- A fold of steps each of which closes its own. -/
theorem foldl {α : Type} {f : Chip → α → Chip} {own : α → List Byte → Nat → Prop}
    (h : ∀ c a, Chip.Closing q day (own a) c (f c a)) (l : List α) (c : Chip) :
    Chip.Closing q day (fun x y => ∃ a ∈ l, own a x y) c (l.foldl f c) := by
  induction l generalizing c with
  | nil => exact ⟨.refl c, rfl, fun _ _ ⟨_, ha, _⟩ => absurd ha List.not_mem_nil, fun _ _ => .inl rfl⟩
  | cons a l ih =>
    refine ((h c a).trans (ih (f c a))).mono fun x y hxy => ?_
    obtain ⟨b, hb, hown⟩ := hxy
    rcases List.mem_cons.mp hb with rfl | hb
    · exact .inl hown
    · exact .inr ⟨b, hb, hown⟩

end Chip.Closing

section
variable (s : State) (q : Fin 2) {r : Rec} (hrec : s.chip.fhRecFor q s.chip.alm.dayCount.toNat = some r)
include hrec

/-- RECORD_CLOSE on its cycle (R551). -/
theorem recordClose_due (hrun : s.chip.alm.running = true) (hon : Fh.enabled r.body = true)
    (hcycle : s.chip.alm.cycle = Fh.lateWin r.body + 1) :
    ∃ t, exec (.recordClose q) s = .next t ∧ onlyFh q s t ∧
      (Fh.entryCount r.body = 0 → t.chip.fhPort q = { s.chip.fhPort q with
        recs := (s.chip.fhPort q).recs.filter fun y => s.chip.alm.dayCount.toNat < y.day.toNat + 2 }) ∧
      ∀ e ∈ Fh.entries r.body, ∀ sym, sym < 14 →
        (t.chip.symRec q e s.chip.alm.dayCount sym).closed = true ∧
        ((s.chip.symRec q e s.chip.alm.dayCount sym).closed = false →
          (t.chip.symRec q e s.chip.alm.dayCount sym).incomplete = true) := by
  let day := s.chip.alm.dayCount
  let c := s.chip.onFh q fun p => { p with recs := p.recs.filter fun x => day.toNat < x.day.toNat + 2 }
  let d := (Fh.entries r.body).foldl (fun c e => (List.range 14).foldl (fun c y => c.closeRec q e day y) c) c
  have hgo : s.chip.fhClose q = d := by
    unfold Chip.fhClose
    rw [hrec]
    exact if_pos (by simp [hrun, hon, hcycle])
  have hrow : exec (.recordClose q) s = .next { s with chip := s.chip.fhClose q } := rfl
  have hfold : Chip.Closing q day (fun x y => ∃ e ∈ Fh.entries r.body, ∃ z ∈ List.range 14, x = e ∧ y = z) c d :=
    .foldl (fun c e => .foldl (fun c y => .closeRec c e y) (List.range 14) c) (Fh.entries r.body) c
  have hrecs : (c.fhPort q).recs = (s.chip.fhPort q).recs.filter fun x => day.toNat < x.day.toNat + 2 :=
    congrArg FhPort.recs (s.chip.onFh_same q _)
  have hold (e : List Byte) (sym : Nat) : c.symRec q e day sym = s.chip.symRec q e day sym := by
    have hkeys : (fun y : SymRec => decide (decide (day.toNat < y.day.toNat + 2) = true ∧ y.keyed e day sym = true)) =
        SymRec.keyed e day sym := by
      funext y
      cases hy : y.keyed e day sym with
      | false => simp
      | true => simp [(SymRec.keyed_iff.mp hy).2.1]
    rw [Chip.symRec_eq, Chip.symRec_eq, hrecs, List.find?_filter, hkeys]
  rw [hgo] at hrow
  refine ⟨_, hrow, ((Chip.FhStep.onFh s.chip _).trans hfold.step).only hfold.agenda, fun hzero => ?_, fun e he sym hsym => ⟨?_, ?_⟩⟩
  · have hnone : Fh.entries r.body = [] := by rw [Fh.entries, hzero]; rfl
    have hd : d = c := by simp only [d, hnone, List.foldl_nil]
    rw [hd]
    exact s.chip.onFh_same q _
  · exact hfold.closed e sym ⟨e, he, sym, List.mem_range.mpr hsym, rfl, rfl⟩
  · intro hopen
    rcases hfold.kept e sym with hsame | hdone
    · have hclosed := hfold.closed e sym ⟨e, he, sym, List.mem_range.mpr hsym, rfl, rfl⟩
      rw [hsame, hold, hopen] at hclosed
      exact absurd hclosed Bool.false_ne_true
    · exact hdone.2

theorem recordClose_idle (h : s.chip.alm.running = false ∨ Fh.enabled r.body = false ∨
    s.chip.alm.cycle ≠ Fh.lateWin r.body + 1) : exec (.recordClose q) s = .next s := by
  have hcond : (s.chip.alm.running && Fh.enabled r.body && s.chip.alm.cycle = Fh.lateWin r.body + 1) = false := by
    rcases h with h | h | h <;> simp [h]
  have hsame : s.chip.fhClose q = s.chip := by
    unfold Chip.fhClose
    rw [hrec]
    exact if_neg (by rw [hcond]; exact Bool.false_ne_true)
  exact congrArg (fun c : Chip => Host.Outcome.next { s with chip := c }) hsame

end

/-! ### Output copies (R556 to R559) -/

section
variable (s : State) (k : BitVec 3)

section
variable {q : Fin 2} {g : BitVec 6} {o : List Byte} (hout : s.chip.fhOutput k = some (q, g, o))
  (hvigil : s.chip.vigilAt 16 = true)
include hout hvigil

/-- FH_OUTPUT_COPY with no posted descriptor (R559). -/
theorem outputCopy_dropped (hempty : (s.chip.fhRing k).prod = (s.chip.fhRing k).cons) :
    ∃ t, exec (.fhOutputCopy k) s = .next t ∧ fhCounted s q t 13 := by
  have hgo : s.chip.fhCopyStart k = s.chip.fhCount q 13 := by
    unfold Chip.fhCopyStart
    rw [hout]
    dsimp only
    rw [if_neg (by rw [hvigil]; decide), if_pos (by simp [hempty])]
  have hrow : exec (.fhOutputCopy k) s = .next { s with chip := s.chip.fhCopyStart k } := rfl
  rw [hgo] at hrow
  exact ⟨_, hrow, fhCounted_fhCount s q 13⟩

/-- FH_OUTPUT_COPY to a posted descriptor (R558). -/
theorem outputCopy_begins (hposted : (s.chip.fhRing k).prod ≠ (s.chip.fhRing k).cons) (hlo : 4 ≤ (s.chip.fhRing k).size.toNat)
    (hhi : (s.chip.fhRing k).size.toNat ≤ 12) (hfree : (s.chip.fhRing k).copying = none)
    (hlines : Chip.fhPayload o s.chip.alm.dayCount.toNat ≠ [])
    (hcap : numAt (mread s.chip.hostMem (s.chip.fhDescAt k) 12) 8 4 ≠ 0) :
    ∃ t, exec (.fhOutputCopy k) s = .next t ∧ keepsBut (fun c => { c with fhe := s.chip.fhe }) s t ∧
      t.chip.fhRing k = { s.chip.fhRing k with
        copying := some ⟨s.chip.alm.dayCount, q, s.chip.alm.gen, s.chip.badOn g s.chip.alm.dayCount,
          s.chip.fhMask q (k.toNat / 2) s.chip.alm.dayCount, Chip.fhPayload o s.chip.alm.dayCount.toNat, 0, 0⟩ } := by
  let x : FhCopy := ⟨s.chip.alm.dayCount, q, s.chip.alm.gen, s.chip.badOn g s.chip.alm.dayCount,
    s.chip.fhMask q (k.toNat / 2) s.chip.alm.dayCount, Chip.fhPayload o s.chip.alm.dayCount.toNat, 0, 0⟩
  let c := s.chip.onRing k fun y => { y with copying := some x }
  have hring : c.fhRing k = { s.chip.fhRing k with copying := some x } := s.chip.onRing_same k _
  have hat : c.fhDescAt k = s.chip.fhDescAt k := by rw [Chip.fhDescAt, hring]; rfl
  have hpos : 0 < c.fhBytes k x := by
    have hlen : 0 < x.lines.length := List.length_pos_of_ne_nil hlines
    have hmem : c.hostMem = s.chip.hostMem := rfl
    rw [Chip.fhBytes, hat, hmem]
    omega
  have hcheck : c.fhCopyCheck k = c := by
    unfold Chip.fhCopyCheck
    rw [hring]
    have hcame : x.came = 0 := rfl
    dsimp only
    rw [if_neg (by omega)]
  have hready : (!(Chip.ringLog (s.chip.fhRing k).size.toNat 4 12) || (s.chip.fhRing k).prod = (s.chip.fhRing k).cons ||
      (s.chip.fhRing k).copying.isSome) = false := by simp [Chip.ringLog, hlo, hhi, hposted, hfree]
  have hgo : s.chip.fhCopyStart k = c := by
    unfold Chip.fhCopyStart
    rw [hout]
    dsimp only
    rw [if_neg (by rw [hvigil]; decide), if_neg (by rw [hready]; exact Bool.false_ne_true)]
    exact hcheck
  have hrow : exec (.fhOutputCopy k) s = .next { s with chip := s.chip.fhCopyStart k } := rfl
  rw [hgo] at hrow
  exact ⟨_, hrow, ⟨rfl, rfl⟩, hring⟩

end

theorem outputCopy_idle (hvigil : s.chip.vigilAt 16 = false) : exec (.fhOutputCopy k) s = .next s := by
  have hsame : s.chip.fhCopyStart k = s.chip := by
    unfold Chip.fhCopyStart
    split
    · rfl
    · exact if_pos (by rw [hvigil]; decide)
  exact congrArg (fun c : Chip => Host.Outcome.next { s with chip := c }) hsame

theorem outLate_idle (h : (s.chip.fhRing k).copying = none ∨ s.chip.vigilAt 0 = false) : exec (.fhOutLate k) s = .next s := by
  have hsame : s.chip.fhStopLate k = s.chip := by
    unfold Chip.fhStopLate
    split
    · rfl
    next y hy =>
      have hvigil := h.resolve_left (by rw [hy]; exact Option.some_ne_none y)
      exact if_pos (by simp [hvigil])
  exact congrArg (fun c : Chip => Host.Outcome.next { s with chip := c }) hsame

/-- A descriptor goes back to the host, and its ring goes on. -/
def Chip.handBack (c : Chip) (k : BitVec 3) (a : Nat) (bs : List Byte) : Chip :=
  let d := (c.hostWrite a bs).onRing k fun y => { y with cons := y.cons + 1, copying := none }
  { d with fhe := { d.fhe with wrote := true } }

theorem Chip.handBack_ring (c : Chip) (a : Nat) (bs : List Byte) : (c.handBack k a bs).fhRing k =
    { c.fhRing k with cons := (c.fhRing k).cons + 1, copying := none } :=
  (c.hostWrite a bs).onRing_same k fun y => { y with cons := y.cons + 1, copying := none }

theorem Chip.fhCopyEnd_eq (c : Chip) (x : FhCopy) (bytes : Nat) (trunc : Bool) :
    ∃ a bs, c.fhCopyEnd k x bytes trunc = c.handBack k a bs := ⟨_, _, rfl⟩

/-- FH_OUT_LATE of a copy of a day before (R559). -/
theorem outLate_stops {y : FhCopy} (hcopy : (s.chip.fhRing k).copying = some y) (hvigil : s.chip.vigilAt 0 = true)
    (hday : y.day.toNat < s.chip.alm.dayCount.toNat) :
    ∃ t, exec (.fhOutLate k) s = .next t ∧ keepsBut (fun c => faultParts s.chip { c with fhe := s.chip.fhe }) s t ∧
      t.chip.fhRing k = { s.chip.fhRing k with cons := (s.chip.fhRing k).cons + 1, copying := none } ∧
      tget 0 t.chip.flt.counts 3 = satInc (tget 0 s.chip.flt.counts 3) := by
  have hgo : ∃ (d : Chip) (e : Eid) (n : Nat), s.chip.fhStopLate k = d.logFault 0x3004 e k.toNat n ∧
      faultParts s.chip { d with fhe := s.chip.fhe } = s.chip ∧ d.flt = s.chip.flt ∧
      d.fhRing k = { s.chip.fhRing k with cons := (s.chip.fhRing k).cons + 1, copying := none } := by
    unfold Chip.fhStopLate
    rw [hcopy]
    dsimp only
    have hcond : (!s.chip.vigilAt 0 || s.chip.alm.dayCount.toNat ≤ y.day.toNat) = false := by simp [hvigil, hday]
    rw [if_neg (by simpa using hcond)]
    have hfab (e : Eid) (f : Endp → Endp) : s.chip.onEndp e f = { s.chip with fab := (s.chip.onEndp e f).fab } := rfl
    rw [hfab]
    generalize (s.chip.onEndp (eidFronthaul y.port) _).fab = fab
    generalize min (Chip.fhBytes _ k y) (32 * y.came) = n
    obtain ⟨a, bs, hend⟩ := Chip.fhCopyEnd_eq k { s.chip with fab := fab } y n true
    rw [hend]
    exact ⟨_, _, n, rfl, rfl, rfl, Chip.handBack_ring k { s.chip with fab := fab } a bs⟩
  obtain ⟨d, e, n, hgo, hframe, hflt, hring⟩ := hgo
  have hrow : exec (.fhOutLate k) s = .next { s with chip := s.chip.fhStopLate k } := rfl
  rw [hgo] at hrow
  refine ⟨_, hrow, ⟨rfl, ?_⟩, ?_, ?_⟩
  · dsimp only
    rw [Chip.logFault_eq]
    exact hframe
  · dsimp only
    rw [Chip.fhRing, Chip.logFault_fhe]
    exact hring
  · have hcount := d.logFault_count 0x3004 e k.toNat n none
    rw [hflt] at hcount
    exact hcount

end

/-! ### O54 -/

section
variable (s : State) (q : Fin 2)

/-- MAC_CONTROL and FH_LINK_UP of a port that no plan enables. -/
theorem fhRows_disabled (hnone : s.chip.fhRec q = none) : ∀ i ∈ [Instr.macControl q, .fhLinkUp q], exec i s = .next s := by
  have hoff (f : Chip → Chip) : (if (s.chip.fhRec q).isSome then f s.chip else s.chip) = s.chip :=
    if_neg (by rw [hnone]; decide)
  intro i hi
  simp only [List.mem_cons, List.not_mem_nil, or_false] at hi
  rcases hi with rfl | rfl
  · exact congrArg (fun c : Chip => Host.Outcome.next { s with chip := c }) (hoff fun c => c.fhCount q 9)
  · exact congrArg (fun c : Chip => Host.Outcome.next { s with chip := c })
      (hoff fun c => c.onFh q fun p => { p with linkUp := true })

section
variable {r : Rec} (hrec : s.chip.fhRec q = some r)
include hrec

theorem macControl_spec : ∃ t, exec (.macControl q) s = .next t ∧ fhCounted s q t 9 := by
  have hrow : exec (.macControl q) s = .next { s with chip := if (s.chip.fhRec q).isSome then s.chip.fhCount q 9 else s.chip } :=
    rfl
  rw [if_pos (by rw [hrec]; rfl)] at hrow
  exact ⟨_, hrow, fhCounted_fhCount s q 9⟩

theorem fhLinkUp_spec : ∃ t, exec (.fhLinkUp q) s = .next t ∧ onlyFh q s t ∧
    t.chip.fhPort q = { s.chip.fhPort q with linkUp := true } := by
  have hrow : exec (.fhLinkUp q) s =
      .next { s with chip := if (s.chip.fhRec q).isSome then s.chip.onFh q fun p => { p with linkUp := true } else s.chip } :=
    rfl
  rw [if_pos (by rw [hrec]; rfl)] at hrow
  exact ⟨_, hrow, (Chip.FhStep.onFh s.chip _).only rfl, s.chip.onFh_same q _⟩

/-- DELAY_MEASUREMENT_REPLY: the oldest reply goes (R554, R555). -/
theorem delayReply_spec {y : DelayReq} {ys : List DelayReq} (hreplies : (s.chip.fhPort q).replies = y :: ys) :
    ∃ t, exec (.delayMeasurementReply q) s = .next t ∧
      keepsBut (fun c => { c with fhe := { c.fhe with ports := s.chip.fhe.ports }, out := s.chip.out }) s t ∧
      t.chip.fhPort q = { s.chip.fhPort q with replies := ys } ∧
      t.chip.out = s.chip.out ++ [.ethernet q
        (Fh.reply r.body y s.chip.fhe.tsS.toNat s.chip.fhe.tsNs.toNat s.chip.alm.dayLen.toNat)] := by
  have hgo : s.chip.fhReply q = (s.chip.onFh q fun x => { x with replies := ys }).emit
      (.ethernet q (Fh.reply r.body y s.chip.fhe.tsS.toNat s.chip.fhe.tsNs.toNat s.chip.alm.dayLen.toNat)) := by
    unfold Chip.fhReply
    rw [hreplies, hrec]
  have hrow : exec (.delayMeasurementReply q) s = .next { s with chip := s.chip.fhReply q } := rfl
  generalize Fh.reply r.body y s.chip.fhe.tsS.toNat s.chip.fhe.tsNs.toNat s.chip.alm.dayLen.toNat = bytes at hgo
  rw [hgo] at hrow
  have hport := s.chip.onFh_same q fun x => { x with replies := ys }
  exact ⟨_, hrow, ⟨rfl, rfl⟩, hport, rfl⟩

end

/-- FH_LINK_DOWN (R563). -/
theorem fhLinkDown_spec (hup : (s.chip.fhPort q).linkUp = true) :
    ∃ t, exec (.fhLinkDown q) s = .next t ∧
      keepsBut (fun c => faultParts s.chip { c with fhe := { c.fhe with ports := s.chip.fhe.ports } }) s t ∧
      t.chip.fhPort q = { s.chip.fhPort q with linkUp := false } ∧
      tget 0 t.chip.flt.counts 4 = satInc (tget 0 s.chip.flt.counts 4) := by
  let c := s.chip.onFh q fun p => { p with linkUp := false }
  let d := c.logFault 0x4006 (eidFronthaul q) q.val 0
  have hrow : exec (.fhLinkDown q) s = .next { s with chip := if (s.chip.fhPort q).linkUp then d else s.chip } := rfl
  have hport : c.fhPort q = { s.chip.fhPort q with linkUp := false } := s.chip.onFh_same q _
  rw [if_pos hup] at hrow
  refine ⟨_, hrow, ⟨rfl, ?_⟩, ?_, c.logFault_count 0x4006 (eidFronthaul q) q.val 0 none⟩
  · have hframe : faultParts d c = d := (Chip.logFault_eq ..).symm
    dsimp only
    rw [← hframe]
    rfl
  · have hfhe : d.fhe = c.fhe := Chip.logFault_fhe ..
    dsimp only
    rw [Chip.fhPort, hfhe]
    exact hport

theorem fhLinkDown_idle (hdown : (s.chip.fhPort q).linkUp = false) : exec (.fhLinkDown q) s = .next s := by
  have hsame (c : Chip) : (if (s.chip.fhPort q).linkUp then c else s.chip) = s.chip := if_neg (by rw [hdown]; decide)
  exact congrArg (fun c : Chip => Host.Outcome.next { s with chip := c }) (hsame _)

end

/-- Settles O54. -/
theorem fronthaulRows : Obligations.FronthaulRows := by
  unfold Obligations.FronthaulRows
  intro s q f fcsOk r l lts at_ k x counted plan
  refine ⟨(fhFrame_spec s q f fcsOk).1, (fhFrame_spec s q f fcsOk).2, fhRows_disabled s q, fun hrec => ⟨macControl_spec s q hrec,
    fun hfifo hheader => ⟨iqData_other s q hfifo hheader, iqData_bad s q hrec hfifo hheader,
      delayRequest_taken s q hrec hfifo hheader, delayRequest_dropped s q hrec hfifo hheader,
      fun e h0 hnew hok hrun hentry => iqData_window s q hrec hfifo hheader h0 hnew hok hrun hentry⟩,
    fun y ys hreplies => delayReply_spec s q hrec hreplies, fhLinkUp_spec s q hrec⟩, fun hnone => ?_, s.chip.nextLine_none q,
    fun hnext => ?_, fun hrec => ⟨recordClose_due s q hrec, recordClose_idle s q hrec⟩,
    fun g o hout hvigil hempty => outputCopy_dropped s k hout hvigil hempty,
    fun g o hout hvigil hposted hlo hhi hfree hlines hcap =>
      outputCopy_begins s k hout hvigil hposted hlo hhi hfree hlines hcap,
    outputCopy_idle s k, outLate_idle s k, fun y hcopy hvigil hday => outLate_stops s k hcopy hvigil hday,
    fhLinkDown_spec s q, fhLinkDown_idle s q⟩
  · have hsame : s.chip.fhWriteLine q = s.chip := by
      unfold Chip.fhWriteLine
      rw [hnone]
    exact congrArg (fun c : Chip => Host.Outcome.next { s with chip := c }) hsame
  · obtain ⟨hmem, hdue, hfirst⟩ := s.chip.nextLine_spec q hnext
    exact ⟨hmem, hdue, hfirst, groupWrite_spec s q hnext⟩

end Sys2Proof.Machine
end

section
/-!
PROOFS. Proofs/CensusRows.lean: census triggers, latches, records, the spill and the broadcast (14_census).
-/

namespace Sys2Proof.Machine
open Sys2Proof

/-! ### Triggers (R627 to R629, R635) -/

/-- A first trigger of a source that does not drive the pin, with no latch made or pending. -/
theorem Chip.trigger_of_undriven {c : Chip} (hpend : c.cns.pending = []) (hmade : c.cns.made = []) {l : Latch}
    (hcode : (2 ≤ l.code.toNat && l.code.toNat ≤ 5) = false) :
    c.trigger l = (c.onCns fun k => { k with pending := [{ l with at_ := c.now + 16 }] }).post 16 .censusLatch := by
  simp only [Chip.trigger, hcode, hpend, hmade, List.any_nil, Bool.or_self, Bool.false_and, Bool.false_eq_true, if_false]
  simp only [Chip.onCns, hpend, List.nil_append]

section
variable (s : State)

/-- t is s with one trigger that waits for its latch. -/
def latchDue (s : State) (x : Latch) (t : State) : Prop :=
  t.chip.cns = { s.chip.cns with pending := [{ x with at_ := s.chip.now + 16 }] } ∧
    t.chip.agenda = s.chip.agenda ++ [(s.chip.now + 16, .censusLatch)] ∧
    keepsBut (fun c => { c with cns := s.chip.cns, agenda := s.chip.agenda }) s t

theorem pinEdge_spec (hready : s.chip.ready = true) (hpin : s.chip.cns.pinEn = true) (hown : s.chip.cns.driveUntil ≤ s.chip.now)
    (hpend : s.chip.cns.pending = []) (hmade : s.chip.cns.made = []) :
    ∃ t, exec .censusPinEdge s = .next t ∧ latchDue s ⟨0, 1, 0, 0, 0, none⟩ t := by
  have hcond : (s.chip.ready && s.chip.cns.pinEn && !decide (s.chip.now < s.chip.cns.driveUntil)) = true := by
    simp [hready, hpin, hown]
  have hrow : exec .censusPinEdge s = .next { s with chip := s.chip.trigger ⟨0, 1, 0, 0, 0, none⟩ } := by
    rw [exec_censusPinEdge, execCensusPinEdge, State.run_eq, if_pos hcond]
  rw [Chip.trigger_of_undriven hpend hmade (by decide)] at hrow
  exact ⟨_, hrow, rfl, rfl, rfl, rfl⟩

theorem armedTrigger_spec (a : BitVec 2) (hdue : s.chip.armDue (s.chip.arm a) = some 16) (hstate : (s.chip.arm a).state = 1)
    (hpend : s.chip.cns.pending = []) (hmade : s.chip.cns.made = []) (hdrive : s.chip.cns.drive = false) :
    ∃ t, exec (.censusArmedTrigger a) s = .next t ∧
      latchDue s ⟨0, 3, (s.chip.arm a).target, (s.chip.arm a).origin, 0, none⟩ t := by
  let l : Latch := ⟨0, 3, (s.chip.arm a).target, (s.chip.arm a).origin, 0, none⟩
  have hgo : s.chip.armEdge a = s.chip.trigger l := by
    unfold Chip.armEdge
    dsimp only
    rw [hdue]
    dsimp only
    rw [hstate, hpend]
    change (if (s.chip.trigger l).cns.pending.length = 0 then (s.chip.trigger l).freeArm a else s.chip.trigger l) = _
    rw [Chip.trigger_of_quiet hpend hmade hdrive]
    exact if_neg (Nat.succ_ne_zero 0)
  have hrow : exec (.censusArmedTrigger a) s = .next { s with chip := s.chip.armEdge a } := rfl
  rw [hgo, Chip.trigger_of_quiet hpend hmade hdrive] at hrow
  exact ⟨_, hrow, rfl, rfl, rfl, rfl⟩

end

/-! ### The latch (R626, R628, R631) -/

section
variable (c : Chip) {l : Latch}

/-- No slot is freed where none is armed. -/
theorem Chip.foldl_cenFreed {due : List Latch} (h : ∀ a, (c.arm a).state = 0) (as : List (BitVec 2)) :
    as.foldl (Chip.cenFreed due) c = c := by
  induction as with
  | nil => rfl
  | cons a as ih =>
    have hsame : Chip.cenFreed due c a = c := if_neg (by simp [h a])
    rw [List.foldl_cons, hsame, ih]

/-- The one trigger that waits is taken, and answers no command. -/
theorem Chip.cenTaken_of_one (lts : Lts) (hpend : c.cns.pending = [l]) (hat : l.at_ ≤ c.now) (hanswer : l.answer = none)
    (harms : ∀ a, (c.arm a).state = 0) :
    ∃ made, [l].foldl (Chip.cenAnswered lts) (armSlots.foldl (Chip.cenFreed [l]) (c.cenTaken [l])) =
      c.onCns fun k => { k with pending := [], made := made } := by
  have hrest : c.cns.pending.filter (fun l => c.now < l.at_) = [] := by rw [hpend]; simp [hat]
  have harms' (a : BitVec 2) : ((c.cenTaken [l]).arm a).state = 0 := harms a
  have hsame (d : Chip) : Chip.cenAnswered lts d l = d := by rw [Chip.cenAnswered, hanswer]
  rw [Chip.foldl_cenFreed _ harms', List.foldl_cons, List.foldl_nil, hsame, Chip.cenTaken, Chip.onCns, hrest]
  exact ⟨_, rfl⟩

section
variable (hpend : c.cns.pending = [l]) (hat : l.at_ ≤ c.now) (hanswer : l.answer = none) (harms : ∀ a, (c.arm a).state = 0)
include hpend hat hanswer harms

/-- A latch with no bank free is missed (R631). -/
theorem Chip.cenLatch_missed (hbank : c.nextBank = none) :
    ∃ made, c.cenLatch = c.onCns fun k => { k with missed := satInc k.missed, pending := [], made := made } := by
  have hdue : c.cns.pending.filter (fun l => l.at_ ≤ c.now) = [l] := by rw [hpend]; simp [hat]
  obtain ⟨made, htaken⟩ := (c.onCns fun k => { k with missed := satInc k.missed }).cenTaken_of_one c.lts hpend hat hanswer harms
  unfold Chip.cenLatch
  dsimp only
  rw [hdue]
  dsimp only
  rw [hbank]
  exact ⟨made, htaken⟩

/-- A latch takes the next bank (R630, R631). -/
theorem Chip.cenLatch_taken {b : BitVec 2} (hbank : c.nextBank = some b) :
    ∃ made words, c.cenLatch = (c.onCns fun k => { k with
      seq := k.seq + 1, last := b, pending := [], made := made, banks := tput CBank.init k.banks b.toNat ⟨true, false, words⟩
      }).post 4096 (.censusRecordComplete b) := by
  have hdue : c.cns.pending.filter (fun l => l.at_ ≤ c.now) = [l] := by rw [hpend]; simp [hat]
  have hrecord (driven : Bool) : ∃ words, c.cenRecord l b driven false = (c.onCns fun k => { k with
      seq := k.seq + 1, last := b, banks := tput CBank.init k.banks b.toNat ⟨true, false, words⟩ }).post 4096
      (.censusRecordComplete b) := ⟨_, rfl⟩
  unfold Chip.cenLatch
  dsimp only
  rw [hdue]
  dsimp only
  rw [hbank, List.foldl_nil, List.isEmpty_nil, Bool.not_true]
  dsimp only
  obtain ⟨words, hwords⟩ := hrecord (([l].any fun l => 2 ≤ l.code.toNat) && decide (c.now < c.cns.driveUntil))
  rw [hwords]
  obtain ⟨made, htaken⟩ := ((c.onCns fun k => { k with
    seq := k.seq + 1, last := b, banks := tput CBank.init k.banks b.toNat ⟨true, false, words⟩ }).post 4096
    (.censusRecordComplete b)).cenTaken_of_one c.lts hpend hat hanswer harms
  exact ⟨made, words, htaken⟩

end

end

section
variable (s : State) {l : Latch}

theorem censusLatch_none (h : ∀ x ∈ s.chip.cns.pending, s.chip.now < x.at_) : exec .censusLatch s = .next s := by
  have hdue : s.chip.cns.pending.filter (fun l => l.at_ ≤ s.chip.now) = [] :=
    List.filter_eq_nil_iff.mpr fun x hx => by simpa using h x hx
  have hsame : s.chip.cenLatch = s.chip := by
    unfold Chip.cenLatch
    dsimp only
    rw [hdue]
  exact congrArg (fun c : Chip => Host.Outcome.next { s with chip := c }) hsame

section
variable (hpend : s.chip.cns.pending = [l]) (hat : l.at_ ≤ s.chip.now) (hanswer : l.answer = none)
  (harms : ∀ a, (s.chip.arm a).state = 0)
include hpend hat hanswer harms

theorem censusLatch_missed (hbank : s.chip.nextBank = none) :
    ∃ t, exec .censusLatch s = .next t ∧ keepsBut (fun c => { c with cns := s.chip.cns }) s t ∧
      t.chip.cns.pending = [] ∧ t.chip.cns.missed = satInc s.chip.cns.missed ∧ t.chip.cns.seq = s.chip.cns.seq ∧
      t.chip.cns.banks = s.chip.cns.banks := by
  have hrow : exec .censusLatch s = .next { s with chip := s.chip.cenLatch } := rfl
  obtain ⟨made, hgo⟩ := s.chip.cenLatch_missed hpend hat hanswer harms hbank
  rw [hgo] at hrow
  exact ⟨_, hrow, ⟨rfl, rfl⟩, rfl, rfl, rfl, rfl⟩

theorem censusLatch_taken {b : BitVec 2} (hbank : s.chip.nextBank = some b) :
    ∃ t, exec .censusLatch s = .next t ∧ keepsBut (fun c => { c with cns := s.chip.cns, agenda := s.chip.agenda }) s t ∧
      t.chip.cns.pending = [] ∧ t.chip.cns.missed = s.chip.cns.missed ∧ t.chip.cns.seq = s.chip.cns.seq + 1 ∧
      t.chip.cns.last = b ∧ (t.chip.cnsBank b).full = true ∧ (t.chip.cnsBank b).valid = false ∧
      t.chip.agenda = s.chip.agenda ++ [(s.chip.now + 4096, .censusRecordComplete b)] := by
  have hrow : exec .censusLatch s = .next { s with chip := s.chip.cenLatch } := rfl
  obtain ⟨made, words, hgo⟩ := s.chip.cenLatch_taken hpend hat hanswer harms hbank
  have hput : tget CBank.init (tput CBank.init s.chip.cns.banks b.toNat ⟨true, false, words⟩) b.toNat = ⟨true, false, words⟩ :=
    tget_tput_same ..
  rw [hgo] at hrow
  exact ⟨_, hrow, ⟨rfl, rfl⟩, rfl, rfl, rfl, rfl, (congrArg CBank.full hput :), (congrArg CBank.valid hput :), rfl⟩

end

end

/-! ### Records and the spill (R630, R632, R639, R640) -/

theorem Chip.onCnsBank_same (c : Chip) (b : BitVec 2) (f : CBank → CBank) : (c.onCnsBank b f).cnsBank b = f (c.cnsBank b) :=
  tget_tput_same _ _ _ _

theorem Chip.onCnsBank_ne (c : Chip) {a b : BitVec 2} (f : CBank → CBank) (hne : a ≠ b) :
    (c.onCnsBank b f).cnsBank a = c.cnsBank a := tget_tput_ne _ _ _ fun h => hne (BitVec.eq_of_toNat_eq h)

/-- A record as it is complete (R642). -/
def CBank.completed (x : CBank) : CBank :=
  { x with valid := true, words := tput 0 x.words 5 (tget 0 x.words 5 ||| 0x10000) }

/-- CENSUS_RECORD_COMPLETE with vector 2 masked. -/
theorem recordComplete_spec (s : State) {b : BitVec 2} (hfull : (s.chip.cnsBank b).full = true)
    (hopen : (s.chip.cnsBank b).valid = false) (hmask : flag (tget Chip.msixMasked s.chip.hif.msix 2) 96 = true) :
    ∃ t, exec (.censusRecordComplete b) s = .next t ∧
      keepsBut (fun c => { c with cns := s.chip.cns, hif := s.chip.hif }) s t ∧
      (t.chip.cnsBank b).valid = true ∧ (∀ c, c ≠ b → t.chip.cnsBank c = s.chip.cnsBank c) ∧
      (∀ i, i ≠ 5 → tget 0 (t.chip.cnsBank b).words i = tget 0 (s.chip.cnsBank b).words i) ∧
      t.chip.hif = { s.chip.hif with pba := s.chip.hif.pba ||| 4 } := by
  have hgo : s.chip.cenComplete b = (s.chip.onCnsBank b CBank.completed).onHif fun x => { x with pba := x.pba ||| (1 <<< 2) } := by
    unfold Chip.cenComplete
    dsimp only
    rw [if_pos (by rw [hfull, hopen]; rfl)]
    exact Chip.vector_of_masked (c := s.chip.onCnsBank b CBank.completed) hmask
  have hrow : exec (.censusRecordComplete b) s = .next { s with chip := s.chip.cenComplete b } := rfl
  have hbank := s.chip.onCnsBank_same b CBank.completed
  have hother (c : BitVec 2) (hc : c ≠ b) := s.chip.onCnsBank_ne CBank.completed hc
  rw [hgo] at hrow
  refine ⟨_, hrow, ⟨rfl, rfl⟩, (congrArg CBank.valid hbank :), hother, fun i hi => ?_, rfl⟩
  have hwords := (congrArg CBank.words hbank :)
  exact (congrArg (fun w => tget 0 w i) hwords).trans (tget_tput_ne _ _ _ hi)

section
variable (c : Chip)

/-- A line of the spill: packets of VC1, and the window word. -/
theorem Chip.spillLine_spec (words : Table Word) (start i : Nat) : ∃ win fab, c.spillLine words start i =
    { c with cns := { c.cns with win := win }, fab := fab } ∧
      (c.endp eidCensus).queue.length + 1 ≤ ((c.spillLine words start i).endp eidCensus).queue.length := by
  have hone (c : Chip) (e : Eid) (n : Nat) (a : BitVec 24) (l : Line) :
      ∃ fab, c.send eidCensus (packet 0xFFFF tDataWr 1 e n a 0 l) = { c with fab := fab } ∧
        ((c.send eidCensus (packet 0xFFFF tDataWr 1 e n a 0 l)).endp eidCensus).queue.length =
          (c.endp eidCensus).queue.length + 1 := by
    rw [Chip.send_vc1 rfl]
    refine ⟨_, rfl, ?_⟩
    rw [Chip.onEndp_same, List.length_append]
    rfl
  unfold Chip.spillLine
  dsimp only
  generalize BitVec.ofNat 24 (start + 2048 * (32 * i / 1024) + 32 * i % 1024) = a
  generalize BitVec.ofNat 9 ((start + 2048 * (32 * i / 1024) + 32 * i % 1024) / 2 ^ 24) = w
  generalize lineOf ((List.range 8).flatMap fun j => leBytes 4 (tget 0 words (8 * i + j)).toNat) = l
  by_cases hwin : c.cns.win = some w
  · rw [if_pos hwin]
    obtain ⟨fab, heq, hlen⟩ := hone c (eidChannel c.cns.spillChan) 32 a l
    exact ⟨c.cns.win, fab, heq, hlen.ge⟩
  · rw [if_neg hwin]
    obtain ⟨fab, heq, hlen⟩ := hone (c.onCns fun k => { k with win := some w }) (eidChannel c.cns.spillChan) 4 0xFFFFF0
      (w.setWidth 256)
    generalize (c.onCns fun k => { k with win := some w }).send eidCensus
      (packet 0xFFFF tDataWr 1 (eidChannel c.cns.spillChan) 4 0xFFFFF0 0 (w.setWidth 256)) = d at heq hlen
    obtain ⟨fab', heq', hlen'⟩ := hone d (eidChannel c.cns.spillChan) 32 a l
    have hstart : ((c.onCns fun k => { k with win := some w }).endp eidCensus) = c.endp eidCensus := rfl
    refine ⟨some w, fab', ?_, ?_⟩
    · rw [heq', heq]
      rfl
    · rw [hlen', hlen, hstart]
      omega

/-- Lines of the spill one after the other. -/
theorem Chip.foldl_spillLine (words : Table Word) (start : Nat) (is : List Nat) : ∃ win fab,
    is.foldl (fun c i => c.spillLine words start i) c = { c with cns := { c.cns with win := win }, fab := fab } ∧
      (c.endp eidCensus).queue.length + is.length ≤
        ((is.foldl (fun c i => c.spillLine words start i) c).endp eidCensus).queue.length := by
  induction is generalizing c with
  | nil => exact ⟨c.cns.win, c.fab, rfl, le_rfl⟩
  | cons i is ih =>
    obtain ⟨win, fab, heq, hlen⟩ := c.spillLine_spec words start i
    obtain ⟨win', fab', heq', hlen'⟩ := ih (c.spillLine words start i)
    refine ⟨win', fab', ?_, ?_⟩
    · rw [List.foldl_cons, heq', heq]
    · rw [List.foldl_cons, List.length_cons]
      omega

end

/-- The release mask of one bank. -/
theorem flag_one_shift (b : BitVec 2) : flag (1 <<< b.toNat : BitVec 4) b.toNat = true := by revert b; decide

section
variable (s : State) {b : BitVec 2}

/-- CENSUS_SPILL: the copy of a record starts (R639, R640). -/
theorem spill_starts (hidle : s.chip.cns.spilling = none) (hnext : s.chip.spillNext = some b) :
    ∃ t, exec (.censusSpill b) s = .next t ∧ keepsBut (fun c => { c with cns := s.chip.cns, fab := s.chip.fab }) s t ∧
      t.chip.cns.spilling = some b ∧ t.chip.cns.spillProd = s.chip.cns.spillProd ∧
      (s.chip.endp eidCensus).queue.length + 2048 ≤ (t.chip.endp eidCensus).queue.length := by
  let c := s.chip.onCns fun k => { k with spilling := some b, win := none }
  obtain ⟨win, fab, heq, hlen⟩ := c.foldl_spillLine (s.chip.cnsBank b).words s.chip.spillStart (List.range 2048)
  have hgo : s.chip.cenSpill b =
      (List.range 2048).foldl (fun c i => c.spillLine (s.chip.cnsBank b).words s.chip.spillStart i) c := by
    unfold Chip.cenSpill
    rw [if_neg (by rw [hidle]; simp), if_pos hnext]
  have hrow : exec (.censusSpill b) s = .next { s with chip := s.chip.cenSpill b } := rfl
  rw [List.length_range] at hlen
  generalize (List.range 2048).foldl (fun c i => c.spillLine (s.chip.cnsBank b).words s.chip.spillStart i) c = d at heq hlen hgo
  have hspilling : d.cns.spilling = some b := by rw [heq]; rfl
  have hprod : d.cns.spillProd = s.chip.cns.spillProd := by rw [heq]; rfl
  have hframe : ({ d with cns := s.chip.cns, fab := s.chip.fab } : Chip) = s.chip := by rw [heq]; rfl
  rw [hgo] at hrow
  exact ⟨_, hrow, ⟨rfl, hframe⟩, hspilling, hprod, hlen⟩

/-- CENSUS_SPILL: the copy has ended (R632, R639). -/
theorem spill_ends (hcopy : s.chip.cns.spilling = some b) (hsent : (s.chip.endp eidCensus).queue = []) :
    ∃ t, exec (.censusSpill b) s = .next t ∧ keepsBut (fun c => { c with cns := s.chip.cns }) s t ∧
      t.chip.cns.spilling = none ∧ t.chip.cns.spillProd = s.chip.cns.spillProd + 1 ∧
      ((s.chip.cnsBank b).valid = true → (t.chip.cnsBank b).full = false ∧ (t.chip.cnsBank b).valid = false) := by
  let d := s.chip.cenRelease (1 <<< b.toNat)
  have hgo : s.chip.cenSpill b = d.onCns fun k => { k with spilling := none, spillProd := k.spillProd + 1 } := by
    unfold Chip.cenSpill
    rw [if_pos (by simp [Chip.spillDone, hcopy, hsent])]
  have hrow : exec (.censusSpill b) s = .next { s with chip := s.chip.cenSpill b } := rfl
  have hframe := s.chip.cenRelease_eq (1 <<< b.toNat)
  have hbank := s.chip.cenRelease_bank (1 <<< b.toNat) b
  have hprod : d.cns.spillProd = s.chip.cns.spillProd := (congrArg (fun c : Chip => c.cns.spillProd) hframe :)
  rw [hgo] at hrow
  refine ⟨_, hrow, ⟨rfl, ?_⟩, rfl, congrArg (· + 1) hprod, fun hvalid => ?_⟩
  · exact (congrArg (fun c : Chip => ({ c with cns := s.chip.cns } : Chip)) hframe :)
  · rw [flag_one_shift, CBank.released, hvalid, Bool.and_self, if_pos rfl] at hbank
    exact ⟨(congrArg CBank.full hbank :), (congrArg CBank.valid hbank :)⟩

end

/-! ### The broadcast (R633, R636 to R638) -/

section
variable (s : State) (p : Packet) (link : Option (Fin 6)) (haligned : Chip.addrAligned p = true)
include haligned

theorem censusTrig_row : exec (.censusTrig eidCensus p link) s = .next { s with chip := s.chip.cenArrive p link } := by
  rw [exec_censusTrig, execCensusTrig, State.run_eq, if_pos ⟨rfl, haligned⟩]

theorem censusTrig_ignored (hoff : s.chip.cns.bcastEn = false) : exec (.censusTrig eidCensus p link) s = .next s := by
  have hsame : s.chip.cenArrive p link = s.chip := if_pos (by rw [hoff]; decide)
  rw [censusTrig_row s p link haligned, hsame]

section
variable (hon : s.chip.cns.bcastEn = true)
include hon

theorem censusTrig_known (hknown : s.chip.cenKnown (p.payload.extractLsb' 0 64) (p.payload.extractLsb' 64 16) = true) :
    ∃ t, exec (.censusTrig eidCensus p link) s = .next t ∧ keepsBut (fun c => { c with cns := s.chip.cns }) s t ∧
      t.chip.cns = { s.chip.cns with dup := satInc s.chip.cns.dup } := by
  have hgo : s.chip.cenArrive p link = s.chip.onCns fun k => { k with dup := satInc k.dup } := by
    unfold Chip.cenArrive
    dsimp only
    rw [if_neg (by rw [hon]; decide)]
    exact if_pos hknown
  have hrow := censusTrig_row s p link haligned
  rw [hgo] at hrow
  exact ⟨_, hrow, ⟨rfl, rfl⟩, rfl⟩

theorem censusTrig_armed (hnew : s.chip.cenKnown (p.payload.extractLsb' 0 64) (p.payload.extractLsb' 64 16) = false)
    (hrun : s.chip.alm.running = true) (hahead : 64 ≤ s.chip.cyclesTo (s.chip.localLts (p.payload.extractLsb' 0 64)))
    (hhops : p.aux.extractLsb' 0 8 = 0) (hfree : (s.chip.arm 0).state = 0) :
    ∃ t, exec (.censusTrig eidCensus p link) s = .next t ∧
      keepsBut (fun c => { c with cns := s.chip.cns, agenda := s.chip.agenda }) s t ∧
      t.chip.arm 0 = ⟨2, p.payload.extractLsb' 0 64, p.payload.extractLsb' 64 16⟩ ∧
      t.chip.cns.pending = s.chip.cns.pending := by
  let x : Arm := ⟨2, p.payload.extractLsb' 0 64, p.payload.extractLsb' 64 16⟩
  have hslot : Chip.armSlots.find? (fun a => decide ((s.chip.arm a).state = 0)) = some 0 := by
    rw [Chip.armSlots, List.find?_cons, decide_eq_true hfree]
  have hsoon : ¬ s.chip.cyclesTo (s.chip.localLts (fld p.payload 0 64)) < 16 := by
    have h : ¬ s.chip.cyclesTo (s.chip.localLts (p.payload.extractLsb' 0 64)) < 16 := by omega
    exact h
  have hzero : ¬ 0 < fldNat p.aux 0 8 := by
    have h : fldNat p.aux 0 8 = 0 := congrArg BitVec.toNat hhops
    omega
  have harm : ∃ ag, s.chip.armSlot x = some { s.chip.onArm 0 x with agenda := ag } := by
    rw [Chip.armSlot, hslot, Option.map_some]
    dsimp only
    split
    · exact ⟨_, rfl⟩
    · exact ⟨s.chip.agenda, rfl⟩
  obtain ⟨ag, harm⟩ := harm
  have hgo : s.chip.cenArrive p link = { s.chip.onArm 0 x with agenda := ag } := by
    unfold Chip.cenArrive
    dsimp only
    rw [if_neg (by rw [hon]; decide), if_neg (by rw [← Bool.not_eq_true] at hnew; exact hnew), if_neg hzero,
      if_neg (by rw [hrun]; decide), if_neg hsoon]
    change (match s.chip.armSlot x with | some c => c | none => _) = _
    rw [harm]
  have hrow := censusTrig_row s p link haligned
  rw [hgo] at hrow
  exact ⟨_, hrow, ⟨rfl, rfl⟩, s.chip.onArm_same 0 x, rfl⟩

end

end

/-- Settles O55. -/
theorem censusRows : Obligations.CensusRows := by
  unfold Obligations.CensusRows
  intro s a b l p link k due
  have hsame {i : Instr} {c : Chip} (hrow : exec i s = .next { s with chip := c }) (h : c = s.chip) : exec i s = .next s :=
    hrow.trans (congrArg (fun c : Chip => Host.Outcome.next { s with chip := c }) h)
  refine ⟨fun hready hpin hown hpend hmade => pinEdge_spec s hready hpin hown hpend hmade, fun hpin => ?_, fun hdue => ?_,
    fun hdue hstate hpend hmade hdrive => armedTrigger_spec s a hdue hstate hpend hmade hdrive, censusLatch_none s,
    fun hpend hat hanswer harms => ⟨censusLatch_missed s hpend hat hanswer harms, censusLatch_taken s hpend hat hanswer harms⟩,
    fun hfull hopen hmask => recordComplete_spec s hfull hopen hmask, fun hidle hnext => spill_starts s hidle hnext,
    fun hcopy hsent => spill_ends s hcopy hsent, fun haligned hoff => censusTrig_ignored s p link haligned hoff,
    fun haligned hon hknown => censusTrig_known s p link haligned hon hknown,
    fun haligned hon hnew hrun hahead hhops hfree => censusTrig_armed s p link haligned hon hnew hrun hahead hhops hfree,
    fun hown => ?_, fun hown => ?_⟩
  · refine hsame rfl (if_neg ?_)
    rw [show s.chip.cns.pinEn = false from hpin, Bool.and_false, Bool.false_and]
    exact Bool.false_ne_true
  · have hidle : s.chip.armEdge a = s.chip := by
      unfold Chip.armEdge
      dsimp only
      rw [hdue]
    exact hsame (c := s.chip.armEdge a) rfl hidle
  · have hrow : exec .censusTrigRelease s =
      .next { s with chip := if s.chip.cns.driveUntil ≤ s.chip.now then s.chip.emit (.trigPin true) else s.chip } := rfl
    rw [if_pos hown] at hrow
    exact ⟨_, hrow, rfl, rfl, rfl⟩
  · exact hsame rfl (if_neg (Nat.not_le.mpr hown))

end Sys2Proof.Machine
end

section
/-!
PROOFS. Proofs/ResetRows.lean: the resets and what they keep, the start sequence, the PLLs and the temperature sensors
(15_bringup).
-/

namespace Sys2Proof.Machine
open Sys2Proof

/-! ### What a reset leaves (R673, R674) -/

theorem Chip.storeCheck_frame (c : Chip) (k : BitVec 3) (b : Nat) (l : Table Chan) :
    ({ c.storeCheck k b with chans := l } : Chip) = { c with chans := l } := by
  unfold Chip.storeCheck
  dsimp only
  split
  · rfl
  · split <;> rfl

/-- With nothing under way, the bursts of a reset change the channels alone. -/
theorem Chip.finishBursts_of_idle (c : Chip) (hidle : ∀ kx ∈ c.chans, kx.2.inFlight = []) :
    ∃ chans, c.finishBursts = { c with chans := chans } := by
  have hframe (l : Table Chan) : ∀ (ks : Table Chan) (d : Chip), (∀ kx ∈ ks, kx.2.inFlight = []) →
      ({ ks.foldl (fun c kx =>
        (List.range 32).foldl (fun c b => c.precharge (BitVec.ofNat 3 kx.1) b)
          (kx.2.inFlight.foldl
            (fun c t => if t.2.pkt.type = tReadReq then c
              else c.writeBytes (BitVec.ofNat 3 kx.1) t.2.addr (pktLen t.2.pkt) t.2.pkt.payload)
            ((List.range 32).foldl (fun c b => c.storeCheck (BitVec.ofNat 3 kx.1) b) c))) d with chans := l } : Chip) =
        { d with chans := l } := by
    intro ks
    induction ks with
    | nil => exact fun d _ => rfl
    | cons kx ks ih =>
      intro d hks
      rw [List.foldl_cons, hks kx (List.mem_cons_self ..), List.foldl_nil]
      refine (ih _ fun ky hky => hks ky (List.mem_cons_of_mem _ hky)).trans ?_
      refine (foldl_keeps (fun c : Chip => ({ c with chans := l } : Chip)) (fun c b => (c.precharge_spec _ b).1.frame l) _ _).trans ?_
      exact foldl_keeps (fun c : Chip => ({ c with chans := l } : Chip)) (fun c b => c.storeCheck_frame _ b l) _ _
  exact ⟨c.finishBursts.chans, hframe c.finishBursts.chans c.chans c hidle⟩

theorem Chip.resetAll_por (c : Chip) : ∃ out, c.resetAll .por =
    { Chip.reset with free := c.free, glb := Chip.keptGlb .por c.glb, hostMem := c.hostMem, flash := c.flash, out := out } := by
  have hhold : (c.glb.holdDdr && decide (ResetKind.por ≠ .por)) = false := by simp
  unfold Chip.resetAll
  dsimp only
  rw [hhold, if_neg Bool.false_ne_true, if_pos rfl]
  split
  · exact ⟨_, rfl⟩
  · exact ⟨_, rfl⟩

/-- A warm reset of a chip with nothing under way in its channels. -/
theorem Chip.resetAll_warm (c : Chip) {kind : ResetKind} (hwarm : kind ≠ .por)
    (hidle : c.glb.holdDdr = true → ∀ kx ∈ c.chans, kx.2.inFlight = []) :
    ∃ out chans, c.resetAll kind = { Chip.reset with
      free := c.free, glb := Chip.keptGlb kind c.glb, hostMem := c.hostMem, flash := c.flash, out := out, now := c.now
      alm := { Alm.init with dayCount := c.alm.dayCount }, chans := chans, cns := Chip.keptCns c.cns
      flt := Chip.keptFlt c.flt, hif := Chip.keptHif kind c.hif } := by
  have hbursts : ∃ chans, (if (c.glb.holdDdr && decide (kind ≠ .por)) = true then c.finishBursts else c) =
      { c with chans := chans } := by
    split
    next h => exact c.finishBursts_of_idle (hidle (Bool.and_eq_true_iff.mp h).1)
    next => exact ⟨c.chans, rfl⟩
  obtain ⟨chans, hbursts⟩ := hbursts
  unfold Chip.resetAll
  dsimp only
  rw [hbursts, if_neg hwarm]
  split
  · exact ⟨_, _, rfl⟩
  · exact ⟨_, _, rfl⟩

/-- What every reset leaves of the part, host memory, the almanac, the harness and the tiles. -/
def partKept (s t : State) : Prop :=
  t.chip.glb.stepping = s.chip.glb.stepping ∧ t.chip.glb.secureBoot = s.chip.glb.secureBoot ∧
    t.chip.glb.keyDigest = s.chip.glb.keyDigest ∧ t.chip.flash = s.chip.flash ∧ t.chip.hostMem = s.chip.hostMem ∧
    t.pending = s.pending ∧ t.chip.alm.running = false ∧ t.chip.alm.armed = false ∧ t.chip.hns.loaded = false ∧
    t.chip.hns.sealed = false ∧ ∀ n, t.chip.tile n = Tile.init

/-- What a warm reset keeps (R674). -/
def warmKept (s t : State) : Prop :=
  partKept s t ∧ t.chip.glb.epoch = s.chip.glb.epoch ∧ t.chip.glb.uptime = s.chip.glb.uptime ∧
    t.chip.alm.dayCount = s.chip.alm.dayCount ∧ t.chip.cns.seq = s.chip.cns.seq ∧ t.chip.flt.tail = s.chip.flt.tail ∧
    t.chip.flt.fatal = false

/-- The global block keeps the part's own values, and, but for POR_N, GLB_EPOCH_TAG and GLB_UPTIME (R674 Table 2). -/
theorem Chip.keptGlb_warm {kind : ResetKind} (hwarm : kind ≠ .por) (g : Glb) :
    (Chip.keptGlb kind g).stepping = g.stepping ∧ (Chip.keptGlb kind g).secureBoot = g.secureBoot ∧
      (Chip.keptGlb kind g).keyDigest = g.keyDigest ∧ (Chip.keptGlb kind g).epoch = g.epoch ∧
      (Chip.keptGlb kind g).uptime = g.uptime ∧ (Chip.keptGlb kind g).cause = Chip.causeOf kind ∧
      (Chip.keptGlb kind g).sysRstN = g.sysRstN ∧ (Chip.keptGlb kind g).testEn = g.testEn := by
  cases kind with
  | por => exact absurd rfl hwarm
  | sys => exact ⟨rfl, rfl, rfl, rfl, rfl, rfl, rfl, rfl⟩
  | soft => exact ⟨rfl, rfl, rfl, rfl, rfl, rfl, rfl, rfl⟩
  | flr => exact ⟨rfl, rfl, rfl, rfl, rfl, rfl, rfl, rfl⟩

/-- A fault of class FATAL of this chip sets FATAL (R645). -/
theorem Chip.logFault_fatal (c : Chip) (code : BitVec 16) (source : Eid) (unit detail : Nat) (region : Option (BitVec 6))
    (hclass : Chip.faultClass code = 5) : (c.logFault code source unit detail region).flt.fatal = true :=
  (c.takeFault_counted _).2.trans (by simp [Flt.counted, hclass])

theorem Chip.inReset_eq_false (c : Chip) (h : c.glb.phase ≠ .held) : c.inReset = false := by
  unfold Chip.inReset
  split
  next hheld => exact absurd hheld h
  next => rfl

section
variable (s : State)

/-- A warm reset of a chip whose pins alone have changed, and what then is set in the global block. -/
theorem warmKept_resetAll {c : Chip} {kind : ResetKind} (hwarm : kind ≠ .por) (g : Glb) (hpins : c = { s.chip with glb := g })
    (hg : g.stepping = s.chip.glb.stepping ∧ g.secureBoot = s.chip.glb.secureBoot ∧ g.keyDigest = s.chip.glb.keyDigest ∧
      g.epoch = s.chip.glb.epoch ∧ g.uptime = s.chip.glb.uptime)
    (hidle : g.holdDdr = true → ∀ kx ∈ s.chip.chans, kx.2.inFlight = []) (phase : Phase) (readyAt : Nat) :
    let d := (c.resetAll kind).onGlb fun g => { g with phase := phase, readyAt := readyAt }
    warmKept s { s with chip := d } ∧ d.glb.cause = Chip.causeOf kind ∧ d.glb.sysRstN = g.sysRstN ∧
      d.glb.testEn = g.testEn ∧ (c.resetAll kind).now = s.chip.now := by
  subst hpins
  obtain ⟨out, chans, heq⟩ := ({ s.chip with glb := g } : Chip).resetAll_warm hwarm hidle
  obtain ⟨hstepping, hsecure, hkey, hepoch, huptime, hcause, hsys, htest⟩ := Chip.keptGlb_warm hwarm g
  obtain ⟨gstepping, gsecure, gkey, gepoch, guptime⟩ := hg
  rw [heq]
  exact ⟨⟨⟨hstepping.trans gstepping, hsecure.trans gsecure, hkey.trans gkey, rfl, rfl, rfl, rfl, rfl, rfl, rfl, fun _ => rfl⟩,
    hepoch.trans gepoch, huptime.trans guptime, rfl, rfl, rfl, rfl⟩, hcause, hsys, htest, rfl⟩

/-- A chip that SYS_RST_N or TEST_EN holds. -/
theorem warmKept_hold {c : Chip} (g : Glb) (hpins : c = { s.chip with glb := g })
    (hg : g.stepping = s.chip.glb.stepping ∧ g.secureBoot = s.chip.glb.secureBoot ∧ g.keyDigest = s.chip.glb.keyDigest ∧
      g.epoch = s.chip.glb.epoch ∧ g.uptime = s.chip.glb.uptime)
    (hidle : g.holdDdr = true → ∀ kx ∈ s.chip.chans, kx.2.inFlight = []) :
    warmKept s { s with chip := c.hold .sys } ∧ (c.hold .sys).glb.phase = .held ∧ (c.hold .sys).glb.cause = 1 ∧
      (c.hold .sys).glb.sysRstN = g.sysRstN ∧ (c.hold .sys).glb.testEn = g.testEn := by
  obtain ⟨hkept, hcause, hsys, htest, -⟩ :=
    warmKept_resetAll s (kind := .sys) (by decide) g hpins hg hidle .held (c.resetAll .sys).glb.readyAt
  exact ⟨hkept, rfl, hcause, hsys, htest⟩

theorem porNAssert_spec (hpor : s.chip.glb.porN = true) :
    ∃ t, exec .porNAssert s = .next t ∧ partKept s t ∧ t.chip.glb.phase = .held ∧ t.chip.glb.porN = false ∧
      t.chip.glb.uptime = 0 ∧ t.chip.glb.epoch = 0 ∧ t.chip.glb.cause = 0 ∧ t.chip.flt = Flt.init := by
  have hgo : s.chip.porAssert = (s.chip.onGlb fun g => { g with porN := false }).hold .por := if_pos hpor
  have hrow : exec .porNAssert s = .next { s with chip := s.chip.porAssert } := rfl
  obtain ⟨out, heq⟩ := (s.chip.onGlb fun g => { g with porN := false }).resetAll_por
  rw [hgo, Chip.hold, heq] at hrow
  exact ⟨_, hrow, ⟨rfl, rfl, rfl, rfl, rfl, rfl, rfl, rfl, rfl, rfl, fun _ => rfl⟩, rfl, rfl, rfl, rfl, rfl, rfl⟩

section
variable (hidle : s.chip.glb.holdDdr = true → ∀ kx ∈ s.chip.chans, kx.2.inFlight = []) (hphase : s.chip.glb.phase ≠ .held)
include hidle hphase

theorem sysRstNAssert_spec (hsys : s.chip.glb.sysRstN = true) :
    ∃ t, exec .sysRstNAssert s = .next t ∧ warmKept s t ∧ t.chip.glb.phase = .held ∧ t.chip.glb.sysRstN = false ∧
      t.chip.glb.cause = 1 := by
  let c := s.chip.onGlb fun g => { g with sysRstN := false }
  have hup : c.inReset = false := s.chip.inReset_eq_false hphase
  have hgo : s.chip.sysAssert = c.hold .sys := by
    unfold Chip.sysAssert
    rw [if_pos hsys, Chip.warmPin]
    exact if_neg (by rw [hup]; exact Bool.false_ne_true)
  have hrow : exec .sysRstNAssert s = .next { s with chip := s.chip.sysAssert } := rfl
  obtain ⟨hkept, hheld, hcause, hpin, -⟩ := warmKept_hold s (c := c) c.glb rfl ⟨rfl, rfl, rfl, rfl, rfl⟩ hidle
  rw [hgo] at hrow
  exact ⟨_, hrow, hkept, hheld, hpin, hcause⟩

theorem testEn_spec (htest : s.chip.glb.testEn = false) :
    ∃ t, exec (.testEn true) s = .next t ∧ warmKept s t ∧ t.chip.glb.phase = .held ∧ t.chip.glb.testEn = true := by
  let c := s.chip.onGlb fun g => { g with testEn := true }
  have hup : c.inReset = false := s.chip.inReset_eq_false hphase
  have hgo : s.chip.testPin true = c.hold .sys := by
    unfold Chip.testPin
    rw [htest, if_neg (by decide), if_pos rfl, Chip.warmPin]
    exact if_neg (by rw [hup]; exact Bool.false_ne_true)
  have hrow : exec (.testEn true) s = .next { s with chip := s.chip.testPin true } := rfl
  obtain ⟨hkept, hheld, -, -, hpin⟩ := warmKept_hold s (c := c) c.glb rfl ⟨rfl, rfl, rfl, rfl, rfl⟩ hidle
  rw [hgo] at hrow
  exact ⟨_, hrow, hkept, hheld, hpin⟩

theorem resetSoftBegin_spec {n : Nat} (hsoft : s.chip.glb.softAt = some n) (hdue : n ≤ s.chip.now) :
    ∃ t, exec .resetSoftBegin s = .next t ∧ warmKept s t ∧ t.chip.glb.phase = .starting ∧
      t.chip.glb.readyAt = s.chip.now + 12500 ∧ t.chip.glb.cause = (if s.chip.glb.softFlr then 3 else 2) := by
  let kind : ResetKind := if s.chip.glb.softFlr then .flr else .soft
  have hwarm : kind ≠ .por := by simp only [kind]; split <;> decide
  have hcauseOf : Chip.causeOf kind = if s.chip.glb.softFlr then 3 else 2 := by simp only [kind]; split <;> rfl
  have hgo : s.chip.softBegin = (s.chip.resetAll kind).begin_ 12500 := by
    unfold Chip.softBegin
    rw [hsoft]
    cases hp : s.chip.glb.phase with
    | held => exact absurd hp hphase
    | starting => exact if_pos hdue
    | up => exact if_pos hdue
  have hrow : exec .resetSoftBegin s = .next { s with chip := s.chip.softBegin } := rfl
  obtain ⟨hkept, hcause, -, -, hnow⟩ := warmKept_resetAll s (c := s.chip) hwarm s.chip.glb rfl ⟨rfl, rfl, rfl, rfl, rfl⟩ hidle
    .starting ((s.chip.resetAll kind).now + 12500)
  rw [hgo] at hrow
  exact ⟨_, hrow, hkept, rfl, congrArg (· + 12500) hnow, hcause.trans hcauseOf⟩

end

/-! ### The start sequence (R675, R678) -/

theorem porNRelease_spec (boot : BitVec 2) (hpor : s.chip.glb.porN = false) (hsys : s.chip.glb.sysRstN = true)
    (htest : s.chip.glb.testEn = false) :
    ∃ t, exec (.porNRelease boot) s = .next t ∧ onlyGlb s t ∧ t.chip.glb = { s.chip.glb with
      porN := true, bootSel := boot, phase := .starting, readyAt := s.chip.now + 312500 } := by
  have hgo : s.chip.porRelease boot = s.chip.onGlb fun g => { g with
      porN := true, bootSel := boot, phase := .starting, readyAt := s.chip.now + 312500 } := by
    unfold Chip.porRelease
    rw [if_neg (by rw [hpor]; exact Bool.false_ne_true)]
    simp only [Chip.released, Chip.pinsFree, Chip.onGlb, hsys, htest]
    rfl
  have hrow : exec (.porNRelease boot) s = .next { s with chip := s.chip.porRelease boot } := rfl
  rw [hgo] at hrow
  exact ⟨_, hrow, ⟨rfl, rfl⟩, rfl⟩

theorem sysRstNRelease_spec (boot : BitVec 2) (hsys : s.chip.glb.sysRstN = false) (hpor : s.chip.glb.porN = true)
    (htest : s.chip.glb.testEn = false) :
    ∃ t, exec (.sysRstNRelease boot) s = .next t ∧ onlyGlb s t ∧ t.chip.glb = { s.chip.glb with
      sysRstN := true, bootSel := boot, phase := .starting, readyAt := s.chip.now + 312500 } := by
  have hgo : s.chip.sysRelease boot = s.chip.onGlb fun g => { g with
      sysRstN := true, bootSel := boot, phase := .starting, readyAt := s.chip.now + 312500 } := by
    unfold Chip.sysRelease
    rw [if_neg (by rw [hsys]; exact Bool.false_ne_true)]
    simp only [Chip.released, Chip.pinsFree, Chip.onGlb, hpor, htest]
    rfl
  have hrow : exec (.sysRstNRelease boot) s = .next { s with chip := s.chip.sysRelease boot } := rfl
  rw [hgo] at hrow
  exact ⟨_, hrow, ⟨rfl, rfl⟩, rfl⟩

theorem ready_spec (hstart : s.chip.glb.phase = .starting) :
    (s.chip.glb.readyAt ≤ s.chip.now →
      ∃ t, exec .ready s = .next t ∧ keepsBut (fun c => { c with glb := s.chip.glb, agenda := s.chip.agenda }) s t ∧
        t.chip.glb = { s.chip.glb with phase := .up } ∧ t.chip.agenda = s.chip.agenda ++ [(s.chip.now, .boot)]) ∧
      (s.chip.now < s.chip.glb.readyAt → exec .ready s = .next s) := by
  have hgo : s.chip.becomeReady = if s.chip.glb.readyAt ≤ s.chip.now then
      (s.chip.onGlb fun g => { g with phase := .up }).post 0 .boot else s.chip := by
    unfold Chip.becomeReady
    rw [hstart]
  have hrow : exec .ready s = .next { s with chip := s.chip.becomeReady } := rfl
  rw [hgo] at hrow
  refine ⟨fun hdue => ?_, fun hwait => ?_⟩
  · rw [if_pos hdue] at hrow
    exact ⟨_, hrow, ⟨rfl, rfl⟩, rfl, rfl⟩
  · rw [if_neg (Nat.not_le.mpr hwait)] at hrow
    exact hrow

/-! ### PLLs and temperature (R686 to R689) -/

theorem pllUnlock_spec (k : BitVec 2) (hphase : s.chip.glb.phase ≠ .held)
    (hlocked : s.chip.glb.unlocked.getLsbD k.toNat = false) :
    ∃ t, exec (.pllUnlock k) s = .next t ∧ keepsBut (fun c => faultParts s.chip { c with glb := s.chip.glb }) s t ∧
      t.chip.glb = { s.chip.glb with unlocked := s.chip.glb.unlocked ||| ((1 : BitVec 4) <<< k.toNat) } ∧
      t.chip.flt.fatal = true ∧ tget 0 t.chip.flt.counts 5 = satInc (tget 0 s.chip.flt.counts 5) := by
  let c := s.chip.onGlb fun g => { g with unlocked := g.unlocked ||| ((1 : BitVec 4) <<< k.toNat) }
  let d := c.logFault 0x5001 Config.globalEid k.toNat 0
  have hgo : s.chip.unlockPll k = d := by
    unfold Chip.unlockPll
    rw [s.chip.inReset_eq_false hphase, flag, hlocked]
    rfl
  have hrow : exec (.pllUnlock k) s = .next { s with chip := s.chip.unlockPll k } := rfl
  have hframe : faultParts d c = d := (Chip.logFault_eq ..).symm
  have hglb : d.glb = c.glb := Chip.logFault_glb ..
  have hfatal : d.flt.fatal = true := c.logFault_fatal 0x5001 Config.globalEid k.toNat 0 none rfl
  rw [hgo] at hrow
  refine ⟨_, hrow, ⟨rfl, ?_⟩, hglb, hfatal, c.logFault_count 0x5001 Config.globalEid k.toNat 0 none⟩
  dsimp only
  rw [← hframe]
  rfl

/-- The greatest of some readings, from b on. -/
theorem foldl_max_le_iff (f : Nat → Int) (l : List Nat) (b z : Int) :
    l.foldl (fun m n => max m (f n)) b ≤ z ↔ b ≤ z ∧ ∀ n ∈ l, f n ≤ z := by
  induction l generalizing b with
  | nil => simp
  | cons n l ih => simp [ih, and_assoc]

/-- The hottest of the eight readings. -/
def Chip.hottest (codes : BitVec 128) : Int := (List.range 8).foldl (fun m n => max m (Chip.reading codes n).toInt) (-32768)

theorem Chip.reading_le_hottest (codes : BitVec 128) {n : Nat} (hn : n < 8) :
    (Chip.reading codes n).toInt ≤ Chip.hottest codes :=
  ((foldl_max_le_iff (fun n => (Chip.reading codes n).toInt) (List.range 8) (-32768) (Chip.hottest codes)).mp le_rfl).2 n
    (List.mem_range.mpr hn)

theorem Chip.hottest_le {codes : BitVec 128} {z : Int} (hz : -32768 ≤ z) (h : ∀ n, n < 8 → (Chip.reading codes n).toInt ≤ z) :
    Chip.hottest codes ≤ z :=
  (foldl_max_le_iff (fun n => (Chip.reading codes n).toInt) (List.range 8) (-32768) z).mpr
    ⟨hz, fun n hn => h n (List.mem_range.mp hn)⟩

/-- A sample below the trip of every sensor (R686 to R688). -/
theorem Chip.sample_of_cool (c : Chip) (codes : BitVec 128) (hphase : c.glb.phase ≠ .held)
    (hcool : ∀ n, n < 8 → (Chip.reading codes n).toInt < 460) :
    c.sample codes = c.onGlb fun g => { g with
      temp := (List.range 8).foldl (fun t n => tput 0 t n (Chip.reading codes n)) g.temp
      thermWarn := if 4 * c.glb.derateAt.toNat ≤ Chip.hottest codes then true
        else if Chip.hottest codes ≤ 4 * c.glb.derateAt.toNat - 20 then false else g.thermWarn } := by
  have htrips : (List.range 8).filter (fun n => 460 ≤ (Chip.reading codes n).toInt && (tget 0 c.glb.temp n).toInt < 460) = [] :=
    List.filter_eq_nil_iff.mpr fun n hn => by simp [Int.not_le.mpr (hcool n (List.mem_range.mp hn))]
  unfold Chip.sample
  split
  next h => exact absurd h hphase
  next =>
    dsimp only
    rw [htrips]
    have hsame (t : Bool) : (t || !([] : List Nat).isEmpty) = t := Bool.or_false t
    simp only [hsame, List.foldl_nil]
    rfl

theorem tempSample_spec (codes : BitVec 128) (hphase : s.chip.glb.phase ≠ .held)
    (hcool : ∀ n, n < 8 → (codes.extractLsb' (16 * n) 16).toInt < 460) :
    ∃ t, exec (.tempSample codes) s = .next t ∧ onlyGlb s t ∧
      { t.chip.glb with temp := s.chip.glb.temp, thermWarn := s.chip.glb.thermWarn } = s.chip.glb ∧
      (∀ n, n < 8 → tget 0 t.chip.glb.temp n = codes.extractLsb' (16 * n) 16) ∧
      ((∃ n, n < 8 ∧ (4 * s.chip.glb.derateAt.toNat : Int) ≤ (codes.extractLsb' (16 * n) 16).toInt) →
        t.chip.glb.thermWarn = true) ∧
      ((∀ n, n < 8 → (codes.extractLsb' (16 * n) 16).toInt ≤ (4 * s.chip.glb.derateAt.toNat : Int) - 20) →
        t.chip.glb.thermWarn = false) := by
  have hrow : exec (.tempSample codes) s = .next { s with chip := s.chip.sample codes } := rfl
  rw [s.chip.sample_of_cool codes hphase hcool] at hrow
  refine ⟨_, hrow, ⟨rfl, rfl⟩, rfl, fun n hn => ?_, fun ⟨n, hn, hwarm⟩ => ?_, fun hlow => ?_⟩
  · have htemp := tget_foldl_tput 0 (Chip.reading codes) 0 8 s.chip.glb.temp n
    simp only [Nat.zero_add, Nat.zero_le, true_and, Nat.sub_zero] at htemp
    exact htemp.trans (if_pos hn)
  · exact if_pos (Int.le_trans hwarm (Chip.reading_le_hottest codes hn))
  · have hle : Chip.hottest codes ≤ 4 * s.chip.glb.derateAt.toNat - 20 := Chip.hottest_le (by omega) hlow
    exact (if_neg (by omega)).trans (if_pos hle)

/-- Rows that a chip held in reset does not heed. -/
theorem resetRows_held (k : BitVec 2) (codes : BitVec 128) (hheld : s.chip.glb.phase = .held) :
    ∀ i ∈ [Instr.resetSoftBegin, .ready, .pllUnlock k, .tempSample codes], exec i s = .next s := by
  have hsame {c : Chip} (h : c = s.chip) : Host.Outcome.next { s with chip := c } = (.next s : Host.Outcome State Fault Refusal) :=
    congrArg (fun c : Chip => Host.Outcome.next { s with chip := c }) h
  intro i hi
  simp only [List.mem_cons, List.not_mem_nil, or_false] at hi
  rcases hi with rfl | rfl | rfl | rfl
  · have h : s.chip.softBegin = s.chip := by unfold Chip.softBegin; rw [hheld]
    exact hsame h
  · have h : s.chip.becomeReady = s.chip := by unfold Chip.becomeReady; rw [hheld]
    exact hsame h
  · have h : s.chip.unlockPll k = s.chip := by unfold Chip.unlockPll Chip.inReset; rw [hheld]; rfl
    exact hsame h
  · have h : s.chip.sample codes = s.chip := by unfold Chip.sample; rw [hheld]
    exact hsame h

end

/-- Settles O56. -/
theorem resetRows : Obligations.ResetRows := by
  unfold Obligations.ResetRows
  intro s boot k codes g part idle warm
  exact ⟨porNAssert_spec s, fun hsys hphase hidle => sysRstNAssert_spec s hidle hphase hsys,
    fun htest hphase hidle => testEn_spec s hidle hphase htest,
    fun n hphase hsoft hdue hidle => resetSoftBegin_spec s hidle hphase hsoft hdue, porNRelease_spec s boot,
    sysRstNRelease_spec s boot, ready_spec s, pllUnlock_spec s k, ⟨_, rfl, ⟨rfl, rfl⟩, rfl⟩, tempSample_spec s codes,
    resetRows_held s k codes⟩

end Sys2Proof.Machine
end
